-- ==== Sys2Proof/Word.lean ====
section
/-! DEFINITION. The words of the Aellith (R8, R51, R99) and their plainest arithmetic. -/

namespace Sys2Proof

/-- One byte of memory. -/
abbrev Byte := BitVec 8

/-- A vector or near register of one lane, an accumulator word (R99). -/
abbrev W32 := BitVec 32

/-- A scalar register, an address, an instruction address (R20, R51). -/
abbrev W64 := BitVec 64

/-- One bit for each of the 32 lane positions of a group. -/
abbrev Lanes := BitVec 32

/-- One instruction as fetched, bit 95 first (R54). -/
abbrev Insn := BitVec 96

/-- A sorted list of keys and values that differ from the default value. -/
abbrev Tab (α : Type) := List (Nat × α)

end Sys2Proof
end

