-- ==== Sys2Proof/Syntax.lean ====
section
/-! DEFINITION. The instructions of the Aellith: one constructor per row of the opcode table. The 162 rows of
R67 carry the fields of their formats (R54 to R65); the other rows are steps of the machine or of its surroundings
that have no encoding, and carry what the step is about. -/

namespace Sys2Proof

/-- The header fields that every instruction has: level and guard (R54, R55). -/
structure Hdr where
  lev : BitVec 3
  gd  : BitVec 4
  gn  : Bool
  deriving DecidableEq, Repr

/-- The element types of R56. -/
inductive Ty where
  | none | s8 | u8 | s16 | u16 | s32 | u32 | s64 | u64 | f32 | f64 | t6 | t8 | t16 | sc16
  deriving DecidableEq, Repr

/-- An operand: class and index of R63. -/
inductive Opd where
  | vec (r : BitVec 8)
  | near (r : BitVec 3)
  | scal (l : BitVec 3) (r : BitVec 5)
  | pred (p : BitVec 4)
  | map (m : BitVec 4)
  | acc (a : BitVec 3)
  | buf (b : BitVec 3)
  | pin (q : BitVec 2)
  | spec (x : BitVec 6)
  | none
  | imm
  deriving DecidableEq, Repr

/-- A source operand with its full/empty behaviour bit (R62). -/
structure Src where
  feb : Bool
  o   : Opd
  deriving DecidableEq, Repr

/-- SUB of the conditional transfers (R59). -/
inductive Cc where
  | nz | z
  deriving DecidableEq, Repr

/-- The comparisons of R150, with UN and OD of R158. -/
inductive Cmp where
  | eq | ne | lt | le | gt | ge | un | od
  deriving DecidableEq, Repr

/-- SUB of VOTE (R147). -/
inductive VoteMode where
  | quo | same | cnt | rank | map | lead
  deriving DecidableEq, Repr

/-- The combining operations of VRED and VSCAN (R153) and of CPYR (R302). -/
inductive RedOp where
  | add | min | max | and | or | xor
  deriving DecidableEq, Repr

/-- SUB of VSHFL (R152). -/
inductive ShflMode where
  | pick | rot | mirror | deal | undeal
  deriving DecidableEq, Repr

/-- Kind of an idempotent region (R118, R135); the scopes are ordered grp, band, core (R196). -/
inductive IdemKind where
  | grp | band | core
  deriving DecidableEq, Repr

/-- SUB of SID (R109). -/
inductive SidDim where
  | lin | x | y | z
  deriving DecidableEq, Repr

/-- ORD of format F-M (R60). -/
inductive Ord where
  | weak | acq | rel | ar
  deriving DecidableEq, Repr

/-- AOP of format F-M (R60). -/
inductive Aop where
  | add | min | max | and | or | xor | xchg | cas | incw | decw | fadd
  deriving DecidableEq, Repr

/-- What a host access through the aperture does: a read, a posted write, or an AtomicOp (R392). -/
inductive HostOp where
  | read | write | fetchAdd | swap | cas
  deriving DecidableEq, Repr

/-- SUB of CYCLE (R208). -/
inductive CycSrc where
  | loc | net
  deriving DecidableEq, Repr

/-- SUB of TLBINV (R208). -/
inductive TlbKind where
  | page | space | all
  deriving DecidableEq, Repr

/-- SUB of CLONE (R208). -/
inductive CloneMode where
  | off | cnt | strict
  deriving DecidableEq, Repr

/-- SUB of CPY (R307). -/
inductive CpyDir where
  | g2s | s2g
  deriving DecidableEq, Repr

/-- SUB of CPYM (R307): scratchpad or plane-buffer targets. -/
inductive CpymTo where
  | s | p
  deriving DecidableEq, Repr

/-- An accumulator format (R312, R315, R317). -/
inductive AccFmt where
  | fp32 | fp64 | i32
  deriving DecidableEq, Repr

/-- SUB of FTEST (R349). -/
inductive FtestCond where
  | full | orph
  deriving DecidableEq, Repr

/-- SUB of ARTST (R307). -/
inductive ArtstCond where
  | done | pois
  deriving DecidableEq, Repr

/-- A group (by its key) or a sequencer context (by its key). -/
inductive UnitRef where
  | grp (k : Nat)
  | ctx (k : Nat)
  deriving DecidableEq, Repr, Inhabited

/-- Operands of a two-source instruction of format F-R: D, A, B and IMM27 (R57). -/
structure Op2 where
  d   : Opd
  a   : Src
  b   : Src
  imm : BitVec 27
  deriving DecidableEq, Repr

/-- Operands of a one-source instruction of format F-R: D, A and IMM27 (R57). -/
structure Op1 where
  d   : Opd
  a   : Src
  imm : BitVec 27
  deriving DecidableEq, Repr

/-- Operands of a three-source instruction of format F-R (R57). -/
structure Op3 where
  d   : Opd
  a   : Src
  b   : Src
  c   : Src
  imm : BitVec 27
  deriving DecidableEq, Repr

/-- Operands of a memory instruction: ORD, SCOPE, TY, D, A, B and OFF27 (R60). -/
structure OpM where
  ord : Ord
  sc  : BitVec 3
  t   : Ty
  d   : Opd
  a   : Src
  b   : Src
  off : BitVec 27
  deriving DecidableEq, Repr

/-- Operands of MMA and MMALOOP (R61, R307). -/
structure OpMma where
  t  : Ty
  d  : BitVec 3
  a  : BitVec 4
  b  : BitVec 4
  ks : BitVec 11
  ai : BitVec 8
  bi : BitVec 8
  deriving DecidableEq, Repr

/-- One constructor per row of the opcode table. -/
inductive Instr where
  -- control, level and region (R118)
  | nop (h : Hdr)
  | br (h : Hdr) (cc : Cc) (a : Src) (tgt : BitVec 24)
  | bra (h : Hdr) (cc : Cc) (a : Src) (tgt : BitVec 24)
  | brl (h : Hdr) (cc : Cc) (a : Src) (tgt rcv : BitVec 24)
  | jmpi (h : Hdr) (a : Src)
  | call (h : Hdr) (tgt : BitVec 24)
  | calli (h : Hdr) (a : Src)
  | ret (h : Hdr)
  | loop (h : Hdr) (a : Src) (exit : BitVec 24)
  | endl (h : Hdr)
  | brk (h : Hdr) (cc : Cc) (a : Src) (exit : BitVec 24)
  | cont (h : Hdr) (cc : Cc) (a : Src) (cont : BitVec 24)
  | rjoin (h : Hdr)
  | exit (h : Hdr)
  | yield (h : Hdr)
  | unif (h : Hdr) (a : Src)
  | levsync (h : Hdr)
  | safept (h : Hdr) (entry : BitVec 49)
  | idem (h : Hdr) (kind : IdemKind) (index : BitVec 16)
  | idemx (h : Hdr) (index : BitVec 16)
  | vgrow (h : Hdr) (a : Src) (imm : BitVec 27)
  | vgrowGrant (gk : Nat)
  | vgive (h : Hdr) (a : Src) (imm : BitVec 27)
  -- scalar (R143)
  | smov (h : Hdr) (o : Op1)
  | sldi (h : Hdr) (d : Opd) (imm : BitVec 49)
  | sldih (h : Hdr) (d : Opd) (imm : BitVec 49)
  | sid (h : Hdr) (dim : SidDim) (d : Opd) (x : BitVec 6)
  | sadd (h : Hdr) (o : Op2)
  | ssub (h : Hdr) (o : Op2)
  | smul (h : Hdr) (o : Op2)
  | smulh (h : Hdr) (t : Ty) (o : Op2)
  | sdiv (h : Hdr) (t : Ty) (o : Op2)
  | srem (h : Hdr) (t : Ty) (o : Op2)
  | sand (h : Hdr) (o : Op2)
  | sor (h : Hdr) (o : Op2)
  | sxor (h : Hdr) (o : Op2)
  | sshl (h : Hdr) (o : Op2)
  | sshr (h : Hdr) (o : Op2)
  | ssra (h : Hdr) (o : Op2)
  | scmp (h : Hdr) (cc : Cmp) (t : Ty) (o : Op2)
  | ssel (h : Hdr) (o : Op3)
  | smin (h : Hdr) (t : Ty) (o : Op2)
  | smax (h : Hdr) (t : Ty) (o : Op2)
  | sclz (h : Hdr) (o : Op1)
  -- predicates and votes (R146, R147)
  | pand (h : Hdr) (d a b : BitVec 4)
  | por (h : Hdr) (d a b : BitVec 4)
  | pxor (h : Hdr) (d a b : BitVec 4)
  | pnot (h : Hdr) (d a : BitVec 4)
  | pmov (h : Hdr) (d a : BitVec 4)
  | pset (h : Hdr) (d : BitVec 4) (v : Bool)
  | vote (h : Hdr) (m : VoteMode) (d : Opd) (a : BitVec 4) (t : BitVec 6) (all : Bool)
  -- vector integer (R148)
  | vmov (h : Hdr) (t : Ty) (o : Op1)
  | vldi (h : Hdr) (t : Ty) (d : Opd) (imm : BitVec 49)
  | vadd (h : Hdr) (t : Ty) (sat : Bool) (o : Op2)
  | vsub (h : Hdr) (t : Ty) (sat : Bool) (o : Op2)
  | vmul (h : Hdr) (t : Ty) (o : Op2)
  | vmulh (h : Hdr) (t : Ty) (o : Op2)
  | vmad (h : Hdr) (t : Ty) (sat : Bool) (o : Op3)
  | vabs (h : Hdr) (t : Ty) (sat : Bool) (o : Op1)
  | vmin (h : Hdr) (t : Ty) (o : Op2)
  | vmax (h : Hdr) (t : Ty) (o : Op2)
  | vcmp (h : Hdr) (cc : Cmp) (t : Ty) (o : Op2)
  | vsel (h : Hdr) (t : Ty) (o : Op3)
  | vred (h : Hdr) (op : RedOp) (t : Ty) (o : Op1)
  | vscan (h : Hdr) (op : RedOp) (excl : Bool) (t : Ty) (o : Op1)
  | vand (h : Hdr) (t : Ty) (o : Op2)
  | vor (h : Hdr) (t : Ty) (o : Op2)
  | vxor (h : Hdr) (t : Ty) (o : Op2)
  | vnot (h : Hdr) (t : Ty) (o : Op1)
  | vshl (h : Hdr) (t : Ty) (o : Op2)
  | vshr (h : Hdr) (t : Ty) (o : Op2)
  | vsra (h : Hdr) (t : Ty) (o : Op2)
  | vclz (h : Hdr) (t : Ty) (o : Op1)
  | vpop (h : Hdr) (t : Ty) (o : Op1)
  | vbrev (h : Hdr) (t : Ty) (o : Op1)
  | vbcast (h : Hdr) (t : Ty) (o : Op2)
  | vshfl (h : Hdr) (m : ShflMode) (t : Ty) (o : Op2)
  -- vector float (R155, R160)
  | fadd (h : Hdr) (t : Ty) (o : Op2)
  | fsub (h : Hdr) (t : Ty) (o : Op2)
  | fmul (h : Hdr) (t : Ty) (o : Op2)
  | ffma (h : Hdr) (t : Ty) (o : Op3)
  | fmin (h : Hdr) (t : Ty) (o : Op2)
  | fmax (h : Hdr) (t : Ty) (o : Op2)
  | fabs (h : Hdr) (t : Ty) (o : Op1)
  | fneg (h : Hdr) (t : Ty) (o : Op1)
  | fcmp (h : Hdr) (cc : Cmp) (t : Ty) (o : Op2)
  | fclass (h : Hdr) (t : Ty) (o : Op1)
  | fdiv (h : Hdr) (t : Ty) (o : Op2)
  | fsqrt (h : Hdr) (t : Ty) (o : Op1)
  | frcp (h : Hdr) (t : Ty) (o : Op1)
  | frsq (h : Hdr) (t : Ty) (o : Op1)
  | fexp2 (h : Hdr) (t : Ty) (o : Op1)
  | flog2 (h : Hdr) (t : Ty) (o : Op1)
  | fcvt (h : Hdr) (s t : Ty) (d : Opd) (a : Src)
  | icvt (h : Hdr) (s : Ty) (wrap : Bool) (t : Ty) (d : Opd) (a : Src)
  | frnd (h : Hdr) (t : Ty) (d : Opd) (a : Src)
  | fscl (h : Hdr) (t : Ty) (o : Op2)
  -- memory (R258)
  | ld (h : Hdr) (m : OpM)
  | st (h : Hdr) (m : OpM)
  | ldk (h : Hdr) (m : OpM)
  | lds (h : Hdr) (m : OpM)
  | sts (h : Hdr) (m : OpM)
  | sld (h : Hdr) (m : OpM)
  | sst (h : Hdr) (m : OpM)
  | pref (h : Hdr) (m : OpM)
  | atom (h : Hdr) (op : Aop) (m : OpM)
  | atoms (h : Hdr) (op : Aop) (m : OpM)
  | satom (h : Hdr) (op : Aop) (m : OpM)
  | red (h : Hdr) (op : Aop) (m : OpM)
  | fence (h : Hdr) (ord : Ord) (sc : BitVec 3)
  -- copies and arrival words (R307)
  | cpy (h : Hdr) (dir : CpyDir) (a b : Src) (imm : BitVec 27)
  | cpyp (h : Hdr) (a b : Src) (imm : BitVec 27)
  | cpym (h : Hdr) (tgt : CpymTo) (a b c : Src) (imm : BitVec 27)
  | cpys (h : Hdr) (a b : Src) (imm : BitVec 27)
  | cpyr (h : Hdr) (op : RedOp) (a b : Src) (imm : BitVec 27)
  | arvi (h : Hdr) (off16 : BitVec 14) (n : BitVec 13)
  | arv (h : Hdr) (a : Src) (imm : BitVec 27)
  | arwt (h : Hdr) (d : BitVec 4) (a b : Src) (imm : BitVec 27)
  | artst (h : Hdr) (c : ArtstCond) (d : BitVec 4) (a b : Src) (imm : BitVec 27)
  -- matrix (R307)
  | omap (h : Hdr) (role lines i4 : Bool) (t : Ty) (d : BitVec 4) (buf : BitVec 3) (p : BitVec 6) (w : BitVec 3) (kb : BitVec 5)
  | plst (h : Hdr) (role : Bool) (m : BitVec 4) (off : BitVec 27)
  | mma (h : Hdr) (o : OpMma)
  | mmaloop (h : Hdr) (o : OpMma)
  | mfence (h : Hdr)
  | mwait (h : Hdr) (a : Option (BitVec 3))
  | aclr (h : Hdr) (d : BitVec 3)
  | ascl (h : Hdr) (f : AccFmt) (t : Ty) (d a : BitVec 3) (b c : Src)
  | amovv (h : Hdr) (t : Ty) (d : Opd) (a : BitVec 3) (b : Src) (row : BitVec 6)
  | asts (h : Hdr) (t : Ty) (d : BitVec 3) (off : BitVec 27)
  | alds (h : Hdr) (t : Ty) (d : BitVec 3) (off : BitVec 27)
  | acvt (h : Hdr) (sform : Bool) (f : AccFmt) (wrap : Bool) (t : Ty) (d : Opd) (a : BitVec 3) (b : Src) (row : BitVec 6) (off : BitVec 27)
  -- barriers, tasks, futures, locks (R349)
  | bar (h : Hdr) (j : BitVec 3)
  | bara (h : Hdr) (d : Opd) (j : BitVec 3)
  | barw (h : Hdr) (a : Src) (j : BitVec 3)
  | tspawn (h : Hdr) (a : Src)
  | tself (h : Hdr) (d : Opd)
  | fwrite (h : Hdr) (a b : Src)
  | fwait (h : Hdr) (d : Opd) (a : Src)
  | ftest (h : Hdr) (c : FtestCond) (d : BitVec 4) (a : Src)
  | lock (h : Hdr) (a : Src)
  | trylock (h : Hdr) (d : BitVec 4) (a : Src)
  | unlock (h : Hdr) (a : Src)
  | cntwt (h : Hdr) (a b : Src)
  -- pins and reclaim (R371)
  | pin (h : Hdr) (q : BitVec 2) (a : Src)
  | unpin (h : Hdr) (q : BitVec 2)
  | pinx (h : Hdr) (q : BitVec 2) (a : Src)
  | reclaim (h : Hdr) (d : BitVec 4) (a b : Src)
  | rcdrain (h : Hdr) (d : Opd)
  -- rings (R389)
  | msend (h : Hdr) (d : BitVec 4) (a b : Src) (n8 : BitVec 5) (tag : BitVec 12)
  | rwait (h : Hdr) (d : Opd) (r : BitVec 2)
  | rack (h : Hdr) (a : Src) (r : BitVec 2)
  | rdesc (h : Hdr) (d : BitVec 4) (a : Src) (r : BitVec 2)
  -- system (R208)
  | trap (h : Hdr) (imm : BitVec 32)
  | rft (h : Hdr)
  | ctlrd (h : Hdr) (d : Opd) (cr : BitVec 12)
  | ctlwr (h : Hdr) (a : Src) (cr : BitVec 12)
  | cycle (h : Hdr) (src : CycSrc) (d : Opd)
  | sleepc (h : Hdr) (a : Src) (imm : BitVec 27)
  | evrd (h : Hdr) (d : Opd) (ev : BitVec 8)
  | bkpt (h : Hdr) (imm : BitVec 32)
  | halt (h : Hdr)
  | tlbinv (h : Hdr) (k : TlbKind) (a : Src)
  | clone (h : Hdr) (m : CloneMode)
  -- steps of the sequencers (R23, R24, R33)
  | segmentEmit (ck : Nat)
  | segmentFinish (u : UnitRef)
  | conditionReport (u : UnitRef)
  -- steps of fetch, producers and faults
  | lineFill (u : UnitRef) (va : W64)
  | producerCompletion (n : Nat)
  | faultDelivery (u : UnitRef)
  | handlerTimeLimit (gk : Nat)
  | preemptionRequest (gc b : Nat)
  | preemptionTimeout (gk : Nat)
  | park (gc b : Nat)
  | unitResume (gc b : Nat)
  | replayCompare (core q : Nat) (diff : Lanes)
  | replayMismatch (gk : Nat)
  | regionRestart (gk : Nat)
  | bandKill (gc b : Nat)
  | fatalError
  | walkroundStart (clu : Nat)
  | walkroundAbandon (clu : Nat)
  | walkroundComplete (clu : Nat) (failed : List (Nat × Nat))
  -- steps of the ordering machine and of translation (R235, R243)
  | writeApply (id : Nat)
  | writeDeliver (id : Nat)
  | readPerform (id : Nat)
  | viewRefresh (core pa : Nat)
  | viewEvict (core pa : Nat)
  | accessComplete (id : Nat)
  | cellarEvict (pa : Nat)
  | pageWalk (core gc : Nat) (va : W64)
  | tlbDrop (core : Bool) (n idx : Nat)
  -- steps of the drover and the matrix unit
  | droverStart (core : Nat)
  | sectorComplete (core copy sector : Nat)
  | matrixOpStart (core : Nat)
  | matrixOpComplete (core op : Nat) (mismatch : Bool)
  -- steps of the front end, the search fabric and waits
  | spawnStep (gc b : Nat)
  | dispatch (pick : Nat)
  | taskRetire (gc : Nat)
  | pinSearch (u : UnitRef) (e : Nat)
  | shadowWithdraw (gk q : Nat)
  | sleepExpire (u : UnitRef) (e : Nat)
  -- steps of the network and the peers
  | packetInject (id : Nat)
  | bucketRefill (ep cls : Nat)
  | ringAppend (n : Nat)
  | wayfareRead (w : Nat) (cls : BitVec 2) (addr : BitVec 46) (len tag : Nat)
  | wayfareWrite (w : Nat) (cls : BitVec 2) (addr : BitVec 46) (data : List (BitVec 8))
  | wayfareAtomic (w : Nat) (cls : BitVec 2) (addr : BitVec 46) (op : Aop) (t : Ty) (b c : W64) (tag : Nat)
  | wayfareFenceMarker (w seq : Nat)
  | wayfareAck (w id : Nat)
  | wayfareReadReply (w id : Nat) (data : List (BitVec 8))
  | wayfareRefusal (w id : Nat)
  | flitCrcFailure (w : Nat)
  -- steps of the host
  | hostAccess (op : HostOp) (off : BitVec 36) (data : List (BitVec 8))
  | launchPacket (q : Nat)
  | fencePacket (q : Nat)
  | fencePacketPass (q : Nat)
  | signalPacket (q : Nat)
  | nopPacket (q : Nat)
  | doorbell (q : Nat) (v : W64)
  | qdescWrite (q off : Nat) (v : W64)
  | faultBufferWrite
  | fbcfgWrite (v : W64)
  | fbresolveResume (idx : Nat)
  | fbresolveAbort (idx : Nat)
  | tlbcmdPage (space : BitVec 16) (rest : W64)
  | tlbcmdSpace (space : BitVec 16)
  | tlbcmdAll
  | dbgcmdResumeStopIa (gc b : Nat)
  | dbgcmdResumeNext (gc b : Nat)
  | dbgcmdKill (gc b : Nat)
  | bootcmdReset
  | bootcmdFullStart
  | mcbankClear (b : Nat)
  | islctlAutomatic (i : Nat) (fmax : BitVec 8)
  | islctlHoldOn (i : Nat) (fmax : BitVec 8)
  | islctlGate (i : Nat) (fmax : BitVec 8)
  | islandGated (i : Nat)
  | controlSpaceWrite (off : Nat) (v : W64)
  | powerWindow
  | moduleReset
  | startupStageComplete (ok : Bool) (code : BitVec 8)
  | startupStageTimeout
  | peerLinkTrain (w : Nat) (ok : Bool)
  | mailboxRequest (req : List (BitVec 8))
  | worrenStatus
  | worrenBankRead (b : Nat)
  | worrenBankClear (b : Nat)
  | worrenPowerCap (v : W64)
  | worrenFirmwareChunk (off : Nat) (data : List (BitVec 8))
  | worrenActivate
  | worrenFloorMap (data : List (BitVec 8))
  | worrenExtend (k : Nat) (data : List (BitVec 8))
  | worrenAttest (nonce : List (BitVec 8))
  | worrenStartReset
  | worrenFullStart
  | hostCompletion (id : Nat) (data : List (BitVec 8))
  deriving DecidableEq, Repr

/-- What moves next: the issue of one instruction by a unit (a group names its split-table entry), or a step that
has no encoding. -/
inductive Turn where
  | issue (u : UnitRef) (e : Nat)
  | event (i : Instr)
  deriving DecidableEq, Repr, Inhabited

end Sys2Proof
end

