-- ==== Sys2Proof/Config.lean ====
section
/-! DEFINITION. What the manual leaves open or to each module: free values, the free schedule, and the functions of
units whose inside the manual does not give. Nothing in Lean can evaluate these constants. -/

namespace Sys2Proof.Config

/-- A value the manual leaves undefined (R10), for the n-th time one is taken. Log 6. -/
opaque freeBits : (w : Nat) → Nat → BitVec w

/-- Which agent or event moves in a step whose agenda is empty: the manual fixes no order of agents. Log 1. -/
opaque schedule : Nat → Turn

/-- How many cycles of network time pass in a step: the manual bounds times and fixes none. Log 11. -/
opaque elapsed : Nat → Nat

/-- Which of the channels of its home slice's stack holds the 128-byte line with a number: fixed, and not published (R228). Log 6. -/
opaque channel : Nat → Nat

/-- The 9 Hamming bits and the overall parity bit over a sector's data, POIS and AHASH: the manual gives their number and not their
matrix (R194). Log 15. -/
opaque eccBits : BitVec 256 → Bool → BitVec 5 → BitVec 10

/-- The check of an SLH-DSA-SHAKE-256s signature: 64-byte public key, message, 29,792-byte signature (R406). Log 16. -/
opaque slhVerify : BitVec 512 → List Byte → BitVec 238336 → Bool

/-- The keys under which floor maps and device certificates are signed, and the digest of the firmware key that the boot ROM holds (R205,
R407, R408). Log 16. -/
opaque mapKey : BitVec 512
/-- The identity key of the maker. -/
opaque identityKey : BitVec 512
/-- The digest in the boot ROM. -/
opaque romDigest : BitVec 256

/-- Where a firmware image holds its key, what is signed, the signature and the rollback counter: its layout is not given (R407).
Log 16. -/
opaque imageParts : List Byte → BitVec 512 × List Byte × BitVec 238336 × Nat

/-- Where a device certificate holds what is signed, the signature, SERIAL and the module's public key (R408). Log 16. -/
opaque certParts : List Byte → List Byte × BitVec 238336 × BitVec 64 × BitVec 512

/-- The signature that the attestation unit makes under a private key: key and message to signature (R406, R409). Log 16. -/
opaque slhSign : List Byte → List Byte → BitVec 238336

/-- A pipeline quantity of the module at the n-th reading: power in watts or a temperature (R403 to R405). Log 22. -/
opaque analog : Nat → Nat

end Sys2Proof.Config
end

