-- ==== Sys2Proof/Machine/Forms.lean ====
section
/-! DEFINITION. Which operands each instruction accepts, as far as its encoding alone decides it (R57 to R66, and the
encoding tables of the instruction chapters). What depends on the launch (levels, NSCAL, pins, ownership) is checked at
issue. -/

namespace Sys2Proof.Machine

/-- Bytes of one element of a type (R259); the untyped form of a memory instruction moves 16. -/
def tyBytes : Ty → Nat
  | .none => 16
  | .s8 | .u8 | .t6 | .t8 => 1
  | .s16 | .u16 | .t16 | .sc16 => 2
  | .s32 | .u32 | .f32 => 4
  | .s64 | .u64 | .f64 => 8

/-- 32-bit registers that hold one element of a type: one, a pair or a quad (R63, R259). -/
def tyRegs : Ty → Nat
  | .none => 4
  | .s64 | .u64 | .f64 => 2
  | _ => 1

/-- Element width in bits of a computing instruction: 64 for the 64-bit types, else 32 (R140). -/
def tyW : Ty → Nat
  | .none | .s64 | .u64 | .f64 => 64
  | _ => 32

/-- Signed integer types. -/
def tySigned : Ty → Bool
  | .s8 | .s16 | .s32 | .s64 => true
  | _ => false

/-- The integer types of R56. -/
def tyIsInt : Ty → Bool
  | .s8 | .u8 | .s16 | .u16 | .s32 | .u32 | .s64 | .u64 => true
  | _ => false

/-- The set Int of R148. -/
def tyInt : Ty → Bool
  | .s32 | .u32 | .s64 | .u64 => true
  | _ => false

/-- F32 and F64. -/
def tyFloat : Ty → Bool
  | .f32 | .f64 => true
  | _ => false

/-- The set Bits of R148. -/
def tyBits (t : Ty) : Bool := tyInt t || tyFloat t

/-- S64 and U64 (R143). -/
def tyScal : Ty → Bool
  | .s64 | .u64 => true
  | _ => false

/-- A vector register, or `n` of them that start at a multiple of `n` (R63, R259). -/
def isVec (n : Nat) : Opd → Bool
  | .vec r => r.toNat % n == 0
  | _ => false

/-- A near register, or `n` of them that start at a multiple of `n` (R101). -/
def isNear (n : Nat) : Opd → Bool
  | .near r => r.toNat % n == 0
  | _ => false

/-- A vector or near register, pair or quad. -/
def isVN (n : Nat) (o : Opd) : Bool := isVec n o || isNear n o

/-- An own or ancestor scalar of an instruction at `lev`; at level 0 only an ancestor's (R63, R139, R140). -/
def isAnc (lev : BitVec 3) : Opd → Bool
  | .scal l _ => if lev == 0 then l != 0 else l == 0 || lev.toNat ≤ l.toNat
  | _ => false

/-- A scalar of any level, below the own one too (R119). -/
def isScalAny (lev : BitVec 3) : Opd → Bool
  | .scal l _ => lev != 0 || l != 0
  | _ => false

/-- The executing context's own scalar, as a source (R118 LOOP). -/
def isOwn (lev : BitVec 3) : Opd → Bool
  | .scal l _ => lev != 0 && (l == 0 || l == lev)
  | _ => false

/-- An own-level scalar as a destination (R63). -/
def isOwnD (lev : BitVec 3) : Opd → Bool
  | .scal l _ => lev != 0 && l == 0
  | _ => false

/-- A predicate. -/
def isPred : Opd → Bool
  | .pred _ => true
  | _ => false

/-- An assigned special value (R107). -/
def isSpec : Opd → Bool
  | .spec x => x.toNat ≤ 0x21
  | _ => false

/-- The immediate select. -/
def isImm : Opd → Bool
  | .imm => true
  | _ => false

/-- The none operand, or a field that must be zero. -/
def isNone : Opd → Bool
  | .none => true
  | _ => false

/-- A source field: an accepted operand whose FEB is set only for the vector and scalar classes (R62). -/
def srcOk (p : Opd → Bool) (s : Src) : Bool :=
  p s.o && (!s.feb || match s.o with | .vec _ | .scal _ _ => true | _ => false)

/-- A source of a lane instruction (R140). -/
def laneSrc (n : Nat) (o : Opd) : Bool := isVN n o || isAnc 0 o || isSpec o || isImm o

/-- A source of a vector float instruction (R155). -/
def floatSrc (n : Nat) (o : Opd) : Bool := isVN n o || isAnc 0 o || isImm o

/-- A source of a scalar instruction (R139). -/
def scalSrc (lev : BitVec 3) (o : Opd) : Bool := isAnc lev o || isSpec o || isImm o

/-- A 64-bit operand that a group reads once: a scalar, or at level 0 a pair (R371, R389). -/
def onceSrc (lev : BitVec 3) (o : Opd) : Bool := isAnc lev o || (lev == 0 && isVN 2 o)

/-- A 64-bit destination of R209. -/
def dst64 (lev : BitVec 3) (o : Opd) : Bool := if lev == 0 then isVN 2 o else isOwnD lev o

/-- A 32-bit destination at level 0, an own scalar above (R353, R389). -/
def dst32 (lev : BitVec 3) (o : Opd) : Bool := if lev == 0 then isVN 1 o else isOwnD lev o

/-- An immediate field is zero unless some operand selects it (R64, R65). -/
def immUsed (os : List Opd) (imm : BitVec 27) : Bool := os.any isImm || imm == 0

/-- A condition operand that reads lane data or a scalar of any level (R119). -/
def condSrc (lev : BitVec 3) (o : Opd) : Bool := isPred o || isVec 1 o || isScalAny lev o

/-- Two-source lane form. -/
def lane2 (h : Hdr) (n : Nat) (o : Op2) : Bool :=
  h.lev == 0 && isVN n o.d && srcOk (laneSrc n) o.a && srcOk (laneSrc n) o.b && immUsed [o.a.o, o.b.o] o.imm

/-- One-source lane form. -/
def lane1 (h : Hdr) (n : Nat) (o : Op1) : Bool :=
  h.lev == 0 && isVN n o.d && srcOk (laneSrc n) o.a && immUsed [o.a.o] o.imm

/-- Two-source float form. -/
def float2 (h : Hdr) (t : Ty) (o : Op2) : Bool :=
  h.lev == 0 && tyFloat t && isVN (tyRegs t) o.d && srcOk (floatSrc (tyRegs t)) o.a && srcOk (floatSrc (tyRegs t)) o.b &&
  immUsed [o.a.o, o.b.o] o.imm

/-- One-source float form. -/
def float1 (h : Hdr) (t : Ty) (o : Op1) : Bool :=
  h.lev == 0 && tyFloat t && isVN (tyRegs t) o.d && srcOk (floatSrc (tyRegs t)) o.a && immUsed [o.a.o] o.imm

/-- Two-source scalar form. -/
def scal2 (h : Hdr) (o : Op2) : Bool :=
  h.lev != 0 && isOwnD h.lev o.d && srcOk (scalSrc h.lev) o.a && srcOk (scalSrc h.lev) o.b && immUsed [o.a.o, o.b.o] o.imm

/-- One-source scalar form. -/
def scal1 (h : Hdr) (o : Op1) : Bool :=
  h.lev != 0 && isOwnD h.lev o.d && srcOk (scalSrc h.lev) o.a && immUsed [o.a.o] o.imm

/-- Registers of atomic data: CAS reads two elements (R266). -/
def aopRegs (op : Aop) (t : Ty) : Nat := if op == .cas then 2 * tyRegs t else tyRegs t

/-- Alignment of the first data register of an atomic: CAS of two single registers has none (R266). -/
def aopAlign (op : Aop) (t : Ty) : Nat := if tyRegs t == 1 then 1 else aopRegs op t

/-- The data operand of a lane atomic: an aligned register whose successors exist (R266). -/
def aopData (op : Aop) (t : Ty) : Opd → Bool
  | .vec r => r.toNat % aopAlign op t == 0 && r.toNat + aopRegs op t ≤ 256
  | .near r => r.toNat % aopAlign op t == 0 && r.toNat + aopRegs op t ≤ 8
  | _ => false

/-- The data operand of SATOM: CAS needs a successor (R266). -/
def aopDataS (lev : BitVec 3) (op : Aop) (o : Opd) : Bool :=
  isAnc lev o && match o with | .scal _ r => op != .cas || r != 31 | _ => false

/-- The types that R266 accepts for an operation. -/
def aopTy : Aop → Ty → Bool
  | .add, t | .min, t | .max, t | .and, t | .or, t | .xor, t => tyInt t
  | .xchg, t | .cas, t => tyBits t
  | .incw, t | .decw, t => t == .u32
  | .fadd, t => tyFloat t

/-- A global address operand of a lane instruction (R260). -/
def addrSrc (o : Opd) : Bool := isVN 2 o || isAnc 0 o

/-- A scratchpad offset operand, or a 32-bit index (R260). -/
def offSrc (o : Opd) : Bool := isVN 1 o || isAnc 0 o

/-- LANE, GRP, BAND or LVL: the scopes of the scratchpad rows of R258. -/
def scScr (sc : BitVec 3) : Bool := sc == 0 || sc == 1 || sc == 2 || sc == 7

/-- WEAK or ACQ. -/
def ordLd (o : Ord) : Bool := o == .weak || o == .acq

/-- WEAK or REL. -/
def ordSt (o : Ord) : Bool := o == .weak || o == .rel

/-- A descriptor scalar: four of them exist from it on (R319). -/
def descSrc (lev : BitVec 3) (o : Opd) : Bool :=
  isAnc lev o && match o with | .scal _ r => decide (r.toNat ≤ 28) | _ => false

/-- The arrival-offset operand of a copy (R319). -/
def arvSrc (lev : BitVec 3) (o : Opd) : Bool := isImm o || isAnc lev o || isNone o

/-- An offset or phase operand of an arrival-word instruction (R323). -/
def offOnce (lev : BitVec 3) (o : Opd) : Bool := isImm o || isAnc lev o || (lev == 0 && isVN 1 o)

/-- A copy's operands. -/
def copyOk (h : Hdr) (a b : Src) (imm : BitVec 27) : Bool :=
  srcOk (descSrc h.lev) a && srcOk (arvSrc h.lev) b && immUsed [b.o] imm

/-- An even accumulator where the format is FP64 (R315). -/
def accEven (f64 : Bool) (a : BitVec 3) : Bool := !f64 || a.toNat % 2 == 0

/-- Scale operands of ASCL (R315). -/
def sclSrc (lev : BitVec 3) (o : Opd) : Bool := isNone o || isAnc lev o || (lev == 0 && isVN 1 o)

/-- MMA and MMALOOP accept FP32, FP64 and I32 (R312). -/
def mmaTy : Ty → Bool
  | .none | .f64 | .s32 => true
  | _ => false

/-- The types whose ACVT destination spans four registers (R317). -/
def acvtAlign (t : Ty) : Nat := if tyRegs t == 2 then 4 else 1

/-- Whether an instruction's fields are among those its encoding accepts. -/
def formOk : Instr → Bool
  | .nop _ => true
  | .br h _ a _ => h.lev != 0 && srcOk (condSrc h.lev) a
  | .bra h _ a _ => h.lev != 0 && srcOk (fun o => isPred o || isAnc h.lev o) a
  | .brl h _ a _ _ => h.lev == 0 && srcOk (fun o => isPred o || isVec 1 o) a
  | .jmpi h a => h.lev != 0 && srcOk (isScalAny h.lev) a
  | .call h _ => h.lev != 0
  | .calli h a => h.lev != 0 && srcOk (isScalAny h.lev) a
  | .ret h => h.lev != 0
  | .loop h a _ => srcOk (isOwn h.lev) a
  | .endl h => h.lev != 0
  | .brk h _ a _ => h.lev != 0 && srcOk (condSrc h.lev) a
  | .cont h _ a _ => h.lev != 0 && srcOk (condSrc h.lev) a
  | .rjoin h => h.lev == 0
  | .exit _ => true
  | .yield _ => true
  | .unif h a => h.lev != 0 && srcOk (condSrc h.lev) a
  | .levsync h => h.lev != 0
  | .safept h _ => h.lev == 0
  | .idem h _ _ => h.lev == 0
  | .idemx h _ => h.lev == 0
  | .vgrow h a imm => srcOk (fun o => isImm o || isAnc h.lev o) a && immUsed [a.o] imm
  | .vgive h a imm => srcOk (fun o => isImm o || isAnc h.lev o) a && immUsed [a.o] imm
  | .smov h o => scal1 h o
  | .sldi h d _ => isOwnD h.lev d
  | .sldih h d imm => isOwnD h.lev d && imm.extractLsb' 31 18 == (if imm.getLsbD 31 then BitVec.allOnes 18 else 0)
  | .sid h dim d x => isOwnD h.lev d && decide (x.toNat ≤ 0x21) &&
      (dim == .lin || (decide (8 ≤ x.toNat) && decide (x.toNat ≤ 0x17)))
  | .sadd h o | .ssub h o | .smul h o | .sand h o | .sor h o | .sxor h o | .sshl h o | .sshr h o | .ssra h o => scal2 h o
  | .smulh h t o | .sdiv h t o | .srem h t o | .smin h t o | .smax h t o => tyScal t && scal2 h o
  | .scmp h cc t o => h.lev != 0 && cc != .un && cc != .od && tyScal t && isPred o.d && srcOk (scalSrc h.lev) o.a &&
      srcOk (scalSrc h.lev) o.b && immUsed [o.a.o, o.b.o] o.imm
  | .ssel h o => h.lev != 0 && isOwnD h.lev o.d && srcOk (scalSrc h.lev) o.a && srcOk (scalSrc h.lev) o.b &&
      srcOk isPred o.c && immUsed [o.a.o, o.b.o] o.imm
  | .sclz h o => scal1 h o
  | .pand _ _ _ _ | .por _ _ _ _ | .pxor _ _ _ _ | .pnot _ _ _ | .pmov _ _ _ | .pset _ _ _ => true
  | .vote h m d _ t all => h.lev == 0 &&
      (match m with
       | .quo => isPred d && decide (t.toNat ≤ 32) && (!all || t == 0)
       | .same => isPred d && t == 0 && !all
       | _ => isVN 1 d && t == 0 && !all)
  | .vmov h t o => tyBits t && lane1 h (tyRegs t) o
  | .vldi h t d imm => h.lev == 0 && tyBits t && isVN (tyRegs t) d && (t != .f32 || imm.extractLsb' 32 17 == 0)
  | .vadd h t _ o | .vsub h t _ o => tyInt t && lane2 h (tyRegs t) o
  | .vmul h t o | .vmulh h t o | .vmin h t o | .vmax h t o | .vand h t o | .vor h t o | .vxor h t o | .vshl h t o
  | .vshr h t o | .vsra h t o => tyInt t && lane2 h (tyRegs t) o
  | .vmad h t _ o => h.lev == 0 && tyInt t && isVN (tyRegs t) o.d && srcOk (laneSrc (tyRegs t)) o.a &&
      srcOk (laneSrc (tyRegs t)) o.b && srcOk (laneSrc (tyRegs t)) o.c && immUsed [o.a.o, o.b.o, o.c.o] o.imm
  | .vabs h t _ o => (t == .s32 || t == .s64) && lane1 h (tyRegs t) o
  | .vcmp h cc t o => h.lev == 0 && cc != .un && cc != .od && tyInt t && isPred o.d && srcOk (laneSrc (tyRegs t)) o.a &&
      srcOk (laneSrc (tyRegs t)) o.b && immUsed [o.a.o, o.b.o] o.imm
  | .vsel h t o => h.lev == 0 && tyBits t && isVN (tyRegs t) o.d && srcOk (laneSrc (tyRegs t)) o.a &&
      srcOk (laneSrc (tyRegs t)) o.b && srcOk isPred o.c && immUsed [o.a.o, o.b.o] o.imm
  | .vred h _ t o => tyInt t && lane1 h (tyRegs t) o
  | .vscan h _ _ t o => tyInt t && lane1 h (tyRegs t) o
  | .vnot h t o | .vclz h t o | .vpop h t o | .vbrev h t o => tyInt t && lane1 h (tyRegs t) o
  | .vbcast h t o => h.lev == 0 && tyBits t && isVN (tyRegs t) o.d && srcOk (laneSrc (tyRegs t)) o.a &&
      srcOk (fun x => isImm x || isAnc 0 x) o.b && immUsed [o.a.o, o.b.o] o.imm
  | .vshfl h m t o => h.lev == 0 && tyBits t && isVN (tyRegs t) o.d &&
      srcOk (fun x => isVN (tyRegs t) x || isAnc 0 x || isSpec x) o.a && decide ((o.imm.extractLsb' 24 3).toNat ≤ 5) &&
      (if m == .pick || m == .rot then
         srcOk (fun x => isVN (tyRegs t) x || isAnc 0 x || isImm x) o.b && (isImm o.b.o || o.imm.extractLsb' 0 24 == 0)
       else srcOk isNone o.b && o.imm.extractLsb' 0 24 == 0)
  | .fadd h t o | .fsub h t o | .fmul h t o | .fmin h t o | .fmax h t o | .fdiv h t o => float2 h t o
  | .ffma h t o => h.lev == 0 && tyFloat t && isVN (tyRegs t) o.d && srcOk (floatSrc (tyRegs t)) o.a &&
      srcOk (floatSrc (tyRegs t)) o.b && srcOk (floatSrc (tyRegs t)) o.c && immUsed [o.a.o, o.b.o, o.c.o] o.imm
  | .fabs h t o | .fneg h t o | .fsqrt h t o | .frcp h t o | .frsq h t o | .fexp2 h t o | .flog2 h t o => float1 h t o
  | .fcmp h _ t o => h.lev == 0 && tyFloat t && isPred o.d && srcOk (floatSrc (tyRegs t)) o.a &&
      srcOk (floatSrc (tyRegs t)) o.b && immUsed [o.a.o, o.b.o] o.imm
  | .fclass h t o => h.lev == 0 && tyFloat t && isVN 1 o.d && srcOk (floatSrc (tyRegs t)) o.a && immUsed [o.a.o] o.imm
  | .fcvt h s t d a => h.lev == 0 && s != .none && s != t && (tyFloat t || t == .t6 || t == .t8 || t == .t16 || t == .sc16) &&
      isVN (tyRegs t) d && srcOk (fun o => isVN (tyRegs s) o || isAnc 0 o) a
  | .icvt h s w t d a => h.lev == 0 && s != .none && (w || s != t) && tyIsInt t && isVN (tyRegs t) d &&
      srcOk (fun o => isVN (tyRegs s) o || isAnc 0 o) a
  | .frnd h t d a => h.lev == 0 && tyFloat t && isVN (tyRegs t) d && srcOk (fun o => isVN (tyRegs t) o || isAnc 0 o) a
  | .fscl h t o => h.lev == 0 && tyFloat t && isVN (tyRegs t) o.d && srcOk (fun x => isVN (tyRegs t) x || isAnc 0 x) o.a &&
      srcOk (fun x => isVN 1 x || isAnc 0 x || isImm x) o.b &&
      (if isImm o.b.o then o.imm.extractLsb' 16 11 == 0 else o.imm == 0)
  | .ld h m => h.lev == 0 && ordLd m.ord && isVec (tyRegs m.t) m.d && srcOk addrSrc m.a &&
      srcOk (fun o => offSrc o || isNone o) m.b
  | .st h m => h.lev == 0 && ordSt m.ord && isNone m.d && srcOk addrSrc m.a && srcOk (isVN (tyRegs m.t)) m.b
  | .ldk h m => h.lev == 0 && m.ord == .weak && m.sc == 5 && isVec (tyRegs m.t) m.d && srcOk addrSrc m.a &&
      srcOk (fun o => offSrc o || isNone o) m.b
  | .lds h m => h.lev == 0 && ordLd m.ord && scScr m.sc && isVec (tyRegs m.t) m.d && srcOk offSrc m.a && srcOk isNone m.b
  | .sts h m => h.lev == 0 && ordSt m.ord && scScr m.sc && isNone m.d && srcOk offSrc m.a && srcOk (isVN (tyRegs m.t)) m.b
  | .sld h m => h.lev != 0 && ordLd m.ord && m.t != .none && isOwnD h.lev m.d && srcOk (isAnc h.lev) m.a &&
      srcOk (fun o => isAnc h.lev o || isNone o) m.b
  | .sst h m => h.lev != 0 && ordSt m.ord && m.t != .none && isNone m.d && srcOk (isAnc h.lev) m.a && srcOk (isAnc h.lev) m.b
  | .pref h m => m.ord == .weak && m.t == .none && isNone m.d &&
      (if h.lev == 0 then srcOk addrSrc m.a && srcOk (fun o => offSrc o || isNone o) m.b
       else srcOk (isAnc h.lev) m.a && srcOk (fun o => isAnc h.lev o || isNone o) m.b)
  | .atom h op m => h.lev == 0 && aopTy op m.t && isVec (tyRegs m.t) m.d && srcOk addrSrc m.a && srcOk (aopData op m.t) m.b
  | .atoms h op m => h.lev == 0 && scScr m.sc && aopTy op m.t && isVec (tyRegs m.t) m.d && srcOk offSrc m.a &&
      srcOk (aopData op m.t) m.b
  | .satom h op m => h.lev != 0 && aopTy op m.t && isOwnD h.lev m.d && srcOk (isAnc h.lev) m.a && srcOk (aopDataS h.lev op) m.b
  | .red h op m => h.lev == 0 && ordSt m.ord && op != .xchg && op != .cas && aopTy op m.t && isNone m.d && srcOk addrSrc m.a &&
      srcOk (aopData op m.t) m.b
  | .fence _ ord _ => ord != .weak
  | .cpy h _ a b imm | .cpyp h a b imm | .cpys h a b imm | .cpyr h _ a b imm => copyOk h a b imm
  | .cpym h _ a b c imm => copyOk h a b imm && srcOk (isAnc h.lev) c
  | .arvi _ _ _ => true
  | .arv h a imm => srcOk (offOnce h.lev) a && immUsed [a.o] imm
  | .arwt h _ a b imm => srcOk (offOnce h.lev) a && srcOk (offOnce h.lev) b && immUsed [a.o, b.o] imm
  | .artst h c _ a b imm => srcOk (offOnce h.lev) a &&
      (if c == .done then srcOk (offOnce h.lev) b && immUsed [a.o, b.o] imm else srcOk isNone b && immUsed [a.o] imm)
  | .omap _ _ _ i4 t _ _ _ _ _ =>
      if i4 then t == .s8 || t == .u8
      else match t with | .s8 | .u8 | .f32 | .f64 | .t6 | .t8 | .t16 => true | _ => false
  | .plst _ _ _ _ => true
  | .mma _ o => mmaTy o.t && o.ks == 0 && o.ai == 0 && o.bi == 0
  | .mmaloop _ o => mmaTy o.t
  | .mfence _ | .mwait _ _ | .aclr _ _ => true
  | .ascl h f t d a b c => (t == .none || t == .f64) && accEven (t == .f64) d && accEven (f == .fp64) a &&
      srcOk (sclSrc h.lev) b && srcOk (sclSrc h.lev) c
  | .amovv h t d a b _ => h.lev == 0 && (t == .none || t == .f64) && isVec (if t == .f64 then 4 else 1) d &&
      accEven (t == .f64) a && srcOk (fun o => isAnc 0 o || isNone o) b
  | .asts _ t d _ => (t == .none || t == .f64) && accEven (t == .f64) d
  | .alds _ t d _ => (t == .none || t == .f64) && accEven (t == .f64) d
  | .acvt h sf f w t d a b row off => t != .none && (!w || tyIsInt t) && accEven (f == .fp64) a &&
      (if sf then isNone d && srcOk isNone b && row == 0
       else h.lev == 0 && isVec (acvtAlign t) d && srcOk (fun o => isAnc 0 o || isNone o) b && off == 0)
  | .bar _ _ => true
  | .bara h d _ => dst32 h.lev d
  | .barw h a _ => srcOk (fun o => (h.lev == 0 && isVN 1 o) || isAnc h.lev o) a
  | .tspawn h a => h.lev != 0 && srcOk (isAnc h.lev) a
  | .tself h d => isOwnD h.lev d
  | .fwrite h a b => h.lev != 0 && srcOk (isAnc h.lev) a && srcOk (isAnc h.lev) b
  | .fwait h d a => isOwnD h.lev d && srcOk (isAnc h.lev) a
  | .ftest h _ _ a => h.lev != 0 && srcOk (isAnc h.lev) a
  | .lock h a => h.lev != 0 && srcOk (isAnc h.lev) a
  | .trylock h _ a => h.lev != 0 && srcOk (isAnc h.lev) a
  | .unlock h a => h.lev != 0 && srcOk (isAnc h.lev) a
  | .cntwt h a b => h.lev != 0 && srcOk (isAnc h.lev) a && srcOk (isAnc h.lev) b
  | .pin h _ a => srcOk (onceSrc h.lev) a
  | .unpin _ _ => true
  | .pinx h _ a => srcOk (onceSrc h.lev) a
  | .reclaim h _ a b => h.lev != 0 && srcOk (isAnc h.lev) a && srcOk (fun o => isAnc h.lev o || isNone o) b
  | .rcdrain h d => isOwnD h.lev d
  | .msend h _ a b n8 _ => srcOk (onceSrc h.lev) a &&
      (if n8 == 0 then srcOk isNone b else srcOk (onceSrc h.lev) b)
  | .rwait h d _ => dst32 h.lev d
  | .rack h a _ => srcOk (fun o => onceSrc h.lev o || isNone o) a
  | .rdesc h _ a _ => srcOk (onceSrc h.lev) a
  | .trap _ _ => true
  | .rft h => h.lev == 0
  | .ctlrd h d _ => dst64 h.lev d
  | .ctlwr h a _ => srcOk (fun o => if h.lev == 0 then isVN 2 o else isAnc h.lev o) a
  | .cycle h _ d => dst64 h.lev d
  | .sleepc h a imm => srcOk (fun o => isImm o || isAnc h.lev o) a && immUsed [a.o] imm
  | .evrd h d _ => dst64 h.lev d
  | .bkpt _ _ => true
  | .halt _ => true
  | .tlbinv h k a => h.lev != 0 && (if k == .page then srcOk (isAnc h.lev) a else srcOk isNone a)
  | .clone _ _ => true
  | .vgrowGrant _ | .segmentEmit _ | .segmentFinish _ | .conditionReport _ | .lineFill _ _ | .producerCompletion _
  | .faultDelivery _ | .handlerTimeLimit _ | .preemptionRequest _ _ | .preemptionTimeout _ | .park _ _ | .unitResume _ _
  | .replayCompare _ _ _ | .replayMismatch _ | .regionRestart _ | .bandKill _ _ | .fatalError | .walkroundStart _
  | .walkroundAbandon _ | .walkroundComplete _ _ | .writeApply _ | .writeDeliver _ | .readPerform _ | .viewRefresh _ _
  | .viewEvict _ _ | .accessComplete _ | .cellarEvict _ | .pageWalk _ _ _ | .tlbDrop _ _ _ | .droverStart _
  | .sectorComplete _ _ _ | .matrixOpStart _ | .matrixOpComplete _ _ _ | .spawnStep _ _ | .dispatch _ | .taskRetire _
  | .pinSearch _ _ | .shadowWithdraw _ _ | .sleepExpire _ _ | .packetInject _ | .bucketRefill _ _ | .ringAppend _
  | .wayfareRead _ _ _ _ _ | .wayfareWrite _ _ _ _ | .wayfareAtomic _ _ _ _ _ _ _ _ | .wayfareFenceMarker _ _ | .wayfareAck _ _
  | .wayfareReadReply _ _ _ | .wayfareRefusal _ _ | .flitCrcFailure _ | .hostAccess _ _ _ | .launchPacket _ | .fencePacket _
  | .fencePacketPass _ | .signalPacket _ | .nopPacket _ | .doorbell _ _ | .qdescWrite _ _ _ | .faultBufferWrite
  | .fbcfgWrite _ | .fbresolveResume _ | .fbresolveAbort _ | .tlbcmdPage _ _ | .tlbcmdSpace _ | .tlbcmdAll
  | .dbgcmdResumeStopIa _ _ | .dbgcmdResumeNext _ _ | .dbgcmdKill _ _ | .bootcmdReset | .bootcmdFullStart | .mcbankClear _
  | .islctlAutomatic _ _ | .islctlHoldOn _ _ | .islctlGate _ _ | .islandGated _ | .controlSpaceWrite _ _ | .powerWindow
  | .moduleReset | .startupStageComplete _ _ | .startupStageTimeout | .peerLinkTrain _ _ | .mailboxRequest _ | .worrenStatus
  | .worrenBankRead _ | .worrenBankClear _ | .worrenPowerCap _ | .worrenFirmwareChunk _ _ | .worrenActivate
  | .worrenFloorMap _ | .worrenExtend _ _ | .worrenAttest _ | .worrenStartReset | .worrenFullStart | .hostCompletion _ _ => true

end Sys2Proof.Machine
end

