-- ==== Sys2Proof/WellFormed.lean ====
section
/-! DEFINITION. Well-formed instructions: those whose fields their encodings accept. -/

namespace Sys2Proof

/-- An instruction whose operands its encoding accepts (R62 to R66). Steps with no encoding are well formed. -/
abbrev Instr.wf (i : Instr) : Bool := Machine.formOk i

end Sys2Proof
end

