-- ==== Sys2Proof/Decode.lean ====
section
/-! DEFINITION. Decoding and encoding of the 96-bit instructions (R54 to R67 and the encoding tables of the
instruction chapters), the slots of a line, and the decoder seen through the opcode table. -/

namespace Sys2Proof

/-- Why a slot is not an instruction (R69 steps 3 and 6). -/
inductive DecodeError where
  /-- OP has no row in R67. -/
  | unassignedOp
  /-- A SUB, ORD, TY or AOP value, or an operand class or index, that R56, R60 or R63 reserves. -/
  | reservedField
  /-- An operand, type or immediate that the instruction's own row does not accept. -/
  | reservedOperand
  /-- A field that must be zero is not (R65). -/
  | mustBeZero
  deriving DecidableEq, Repr

namespace Decode

/-! ## Codes of the small fields -/

/-- TY codes (R56). -/
def tyCode : Ty → BitVec 4
  | .none => 0x0 | .s8 => 0x1 | .u8 => 0x2 | .s16 => 0x3 | .u16 => 0x4 | .s32 => 0x5 | .u32 => 0x6 | .s64 => 0x7
  | .u64 => 0x8 | .f32 => 0x9 | .f64 => 0xA | .t6 => 0xB | .t8 => 0xC | .t16 => 0xD | .sc16 => 0xE

/-- The type of a TY code (R56); 0xF is reserved. -/
def tyOf (c : BitVec 4) : Option Ty :=
  match c.toNat with
  | 0x0 => some .none | 0x1 => some .s8 | 0x2 => some .u8 | 0x3 => some .s16 | 0x4 => some .u16 | 0x5 => some .s32
  | 0x6 => some .u32 | 0x7 => some .s64 | 0x8 => some .u64 | 0x9 => some .f32 | 0xA => some .f64 | 0xB => some .t6
  | 0xC => some .t8 | 0xD => some .t16 | 0xE => some .sc16 | _ => none

/-- NZ 0x00, Z 0x01 (R59). -/
def ccCode : Cc → BitVec 6 | .nz => 0 | .z => 1

/-- The inverse of ccCode. -/
def ccOf (s : BitVec 6) : Option Cc := match s.toNat with | 0 => some .nz | 1 => some .z | _ => none

/-- Comparison codes (R150, R158). -/
def cmpCode : Cmp → BitVec 6
  | .eq => 0 | .ne => 1 | .lt => 2 | .le => 3 | .gt => 4 | .ge => 5 | .un => 6 | .od => 7

/-- The inverse of cmpCode. -/
def cmpOf (s : BitVec 6) : Option Cmp :=
  match s.toNat with
  | 0 => some .eq | 1 => some .ne | 2 => some .lt | 3 => some .le | 4 => some .gt | 5 => some .ge | 6 => some .un
  | 7 => some .od | _ => none

/-- VOTE codes (R147). -/
def voteCode : VoteMode → BitVec 6
  | .quo => 0 | .same => 1 | .cnt => 2 | .rank => 3 | .map => 4 | .lead => 5

/-- The inverse of voteCode. -/
def voteOf (s : BitVec 6) : Option VoteMode :=
  match s.toNat with
  | 0 => some .quo | 1 => some .same | 2 => some .cnt | 3 => some .rank | 4 => some .map | 5 => some .lead | _ => none

/-- Combining codes (R153, R307). -/
def redCode : RedOp → BitVec 6 | .add => 0 | .min => 1 | .max => 2 | .and => 3 | .or => 4 | .xor => 5

/-- The inverse of redCode. -/
def redOf (s : Nat) : Option RedOp :=
  match s with
  | 0 => some .add | 1 => some .min | 2 => some .max | 3 => some .and | 4 => some .or | 5 => some .xor | _ => none

/-- VSHFL codes (R152). -/
def shflCode : ShflMode → BitVec 6 | .pick => 0 | .rot => 1 | .mirror => 2 | .deal => 3 | .undeal => 4

/-- The inverse of shflCode. -/
def shflOf (s : BitVec 6) : Option ShflMode :=
  match s.toNat with
  | 0 => some .pick | 1 => some .rot | 2 => some .mirror | 3 => some .deal | 4 => some .undeal | _ => none

/-- IDEM codes (R118). -/
def idemCode : IdemKind → BitVec 6 | .grp => 0 | .band => 1 | .core => 2

/-- The inverse of idemCode. -/
def idemOf (s : BitVec 6) : Option IdemKind :=
  match s.toNat with | 0 => some .grp | 1 => some .band | 2 => some .core | _ => none

/-- SID codes (R109). -/
def sidCode : SidDim → BitVec 6 | .lin => 0 | .x => 1 | .y => 2 | .z => 3

/-- The inverse of sidCode. -/
def sidOf (s : BitVec 6) : Option SidDim :=
  match s.toNat with | 0 => some .lin | 1 => some .x | 2 => some .y | 3 => some .z | _ => none

/-- ORD codes (R60). -/
def ordCode : Ord → BitVec 3 | .weak => 0 | .acq => 1 | .rel => 2 | .ar => 3

/-- The inverse of ordCode. -/
def ordOf (s : BitVec 3) : Option Ord :=
  match s.toNat with | 0 => some .weak | 1 => some .acq | 2 => some .rel | 3 => some .ar | _ => none

/-- AOP codes (R60). -/
def aopCode : Aop → BitVec 4
  | .add => 0x0 | .min => 0x1 | .max => 0x2 | .and => 0x3 | .or => 0x4 | .xor => 0x5 | .xchg => 0x6 | .cas => 0x7
  | .incw => 0x8 | .decw => 0x9 | .fadd => 0xA

/-- The inverse of aopCode. -/
def aopOf (c : BitVec 4) : Option Aop :=
  match c.toNat with
  | 0x0 => some .add | 0x1 => some .min | 0x2 => some .max | 0x3 => some .and | 0x4 => some .or | 0x5 => some .xor
  | 0x6 => some .xchg | 0x7 => some .cas | 0x8 => some .incw | 0x9 => some .decw | 0xA => some .fadd | _ => none

/-- CYCLE codes (R208). -/
def cycCode : CycSrc → BitVec 6 | .loc => 0 | .net => 1

/-- The inverse of cycCode. -/
def cycOf (s : BitVec 6) : Option CycSrc := match s.toNat with | 0 => some .loc | 1 => some .net | _ => none

/-- TLBINV codes (R208). -/
def tlbCode : TlbKind → BitVec 6 | .page => 0 | .space => 1 | .all => 2

/-- The inverse of tlbCode. -/
def tlbOf (s : BitVec 6) : Option TlbKind :=
  match s.toNat with | 0 => some .page | 1 => some .space | 2 => some .all | _ => none

/-- CLONE codes (R208). -/
def cloneCode : CloneMode → BitVec 6 | .off => 0 | .cnt => 1 | .strict => 2

/-- The inverse of cloneCode. -/
def cloneOf (s : BitVec 6) : Option CloneMode :=
  match s.toNat with | 0 => some .off | 1 => some .cnt | 2 => some .strict | _ => none

/-- Accumulator-format codes: ASCL SUB (R307) and ACVT SUB[2:1] (R317). -/
def accCode : AccFmt → BitVec 2 | .fp32 => 0 | .fp64 => 1 | .i32 => 2

/-- The inverse of accCode. -/
def accOf (s : BitVec 2) : Option AccFmt :=
  match s.toNat with | 0 => some .fp32 | 1 => some .fp64 | 2 => some .i32 | _ => none

/-- One bit as a field. -/
def bit (b : Bool) : BitVec 1 := if b then 1 else 0

/-! ## Operand fields (R62, R63) -/

/-- CLS and IDX of an operand. -/
def opdCode : Opd → BitVec 10
  | .vec r => 0#2 ++ r
  | .near r => 0b01#2 ++ 0#5 ++ r
  | .scal l r => 0b10#2 ++ l ++ r
  | .pred p => 0b11#2 ++ 0x0#4 ++ p
  | .map m => 0b11#2 ++ 0x1#4 ++ m
  | .acc a => 0b11#2 ++ 0b00100#5 ++ a
  | .buf b => 0b11#2 ++ 0b00101#5 ++ b
  | .pin q => 0b11#2 ++ 0b001100#6 ++ q
  | .spec x => 0b11#2 ++ 0b01#2 ++ x
  | .none => 0x3FE
  | .imm => 0x3FF

/-- The operand of a field, or none for the reserved indices of R63. -/
def opdOf (f : BitVec 10) : Option Opd :=
  let i := f.extractLsb' 0 8
  match (f.extractLsb' 8 2).toNat with
  | 0 => some (.vec i)
  | 1 => if i.extractLsb' 3 5 == 0 then some (.near (i.extractLsb' 0 3)) else none
  | 2 => some (.scal (i.extractLsb' 5 3) (i.extractLsb' 0 5))
  | _ =>
    match (i.extractLsb' 4 4).toNat with
    | 0x0 => some (.pred (i.extractLsb' 0 4))
    | 0x1 => some (.map (i.extractLsb' 0 4))
    | 0x2 => if i.getLsbD 3 then some (.buf (i.extractLsb' 0 3)) else some (.acc (i.extractLsb' 0 3))
    | 0x3 => if i.extractLsb' 2 2 == 0 then some (.pin (i.extractLsb' 0 2)) else none
    | 0x4 | 0x5 | 0x6 | 0x7 => some (.spec (i.extractLsb' 0 6))
    | 0xF => if i == 0xFE then some .none else if i == 0xFF then some .imm else none
    | _ => none

/-- A source field. -/
def srcCode (s : Src) : BitVec 11 := bit s.feb ++ opdCode s.o

/-- The source of a field. -/
def srcOf (f : BitVec 11) : Option Src := (opdOf (f.extractLsb' 0 10)).map (fun o => ⟨f.getLsbD 10, o⟩)

/-- A predicate field. -/
def predOf (f : BitVec 10) : Option (BitVec 4) := match opdOf f with | some (.pred p) => some p | _ => none

/-- A predicate source field; FEB is zero (R62). -/
def predSrcOf (f : BitVec 11) : Option (BitVec 4) := if f.getLsbD 10 then none else predOf (f.extractLsb' 0 10)

/-- A map source field. -/
def mapOf (f : BitVec 11) : Option (BitVec 4) := match srcOf f with | some ⟨false, .map m⟩ => some m | _ => none

/-- An accumulator field. -/
def accOpd (f : BitVec 10) : Option (BitVec 3) := match opdOf f with | some (.acc a) => some a | _ => none

/-- An accumulator source field. -/
def accSrc (f : BitVec 11) : Option (BitVec 3) := match srcOf f with | some ⟨false, .acc a⟩ => some a | _ => none

/-- A pin destination field. -/
def pinOf (f : BitVec 10) : Option (BitVec 2) := match opdOf f with | some (.pin q) => some q | _ => none

/-- A predicate as a source field. -/
def predSrc (p : BitVec 4) : BitVec 11 := srcCode ⟨false, .pred p⟩

/-! ## The formats (R54, R57 to R61) -/

/-- The header: OP, SUB, LEV, TY, GD, GN (R54). -/
def hdr (op : Nat) (sub : BitVec 6) (h : Hdr) (t : Ty) : BitVec 26 :=
  BitVec.ofNat 8 op ++ sub ++ h.lev ++ tyCode t ++ h.gd ++ bit h.gn

/-- F-R (R57). -/
def fR (op : Nat) (sub : BitVec 6) (h : Hdr) (t : Ty) (d : BitVec 10) (a b c : BitVec 11) (imm : BitVec 27) : Insn :=
  hdr op sub h t ++ d ++ a ++ b ++ c ++ imm

/-- F-I (R58). -/
def fI (op : Nat) (sub : BitVec 6) (h : Hdr) (t : Ty) (d : BitVec 10) (a : BitVec 11) (imm : BitVec 49) : Insn :=
  hdr op sub h t ++ d ++ a ++ imm

/-- F-B (R59). -/
def fB (op : Nat) (sub : BitVec 6) (h : Hdr) (a : BitVec 11) (tgt rcv : BitVec 24) : Insn :=
  hdr op sub h .none ++ 0#10 ++ a ++ tgt ++ rcv ++ 0#1

/-- F-M (R60). -/
def fM (op : Nat) (h : Hdr) (m : OpM) (d : BitVec 10) (a b : BitVec 11) (aop : BitVec 4) : Insn :=
  hdr op (ordCode m.ord ++ m.sc) h m.t ++ d ++ a ++ b ++ aop ++ 0#7 ++ m.off

/-- F-X (R61). -/
def fX (op : Nat) (sub : BitVec 6) (h : Hdr) (t : Ty) (d : BitVec 10) (a b c : BitVec 11) (ks : BitVec 11)
    (ai bi : BitVec 8) : Insn :=
  hdr op sub h t ++ d ++ a ++ b ++ c ++ ks ++ ai ++ bi

/-- F-X with OFFX, the field of bits [26:0] (R307). -/
def fXo (op : Nat) (sub : BitVec 6) (h : Hdr) (t : Ty) (d : BitVec 10) (a b c : BitVec 11) (off : BitVec 27) : Insn :=
  hdr op sub h t ++ d ++ a ++ b ++ c ++ off

/-- OP. -/
def wOp (w : Insn) : BitVec 8 := w.extractLsb' 88 8
/-- SUB. -/
def wSub (w : Insn) : BitVec 6 := w.extractLsb' 82 6
/-- LEV. -/
def wLev (w : Insn) : BitVec 3 := w.extractLsb' 79 3
/-- LEV, GD and GN. -/
def wHdr (w : Insn) : Hdr := ⟨w.extractLsb' 79 3, w.extractLsb' 71 4, w.getLsbD 70⟩
/-- TY. -/
def wTy (w : Insn) : Option Ty := tyOf (w.extractLsb' 75 4)
/-- D. -/
def wD (w : Insn) : BitVec 10 := w.extractLsb' 60 10
/-- A. -/
def wA (w : Insn) : BitVec 11 := w.extractLsb' 49 11
/-- B. -/
def wB (w : Insn) : BitVec 11 := w.extractLsb' 38 11
/-- C. -/
def wC (w : Insn) : BitVec 11 := w.extractLsb' 27 11
/-- IMM27, OFF27, OFFX. -/
def wImm (w : Insn) : BitVec 27 := w.extractLsb' 0 27
/-- IMM49. -/
def wImm49 (w : Insn) : BitVec 49 := w.extractLsb' 0 49
/-- TGT24. -/
def wTgt (w : Insn) : BitVec 24 := w.extractLsb' 25 24
/-- RCV24. -/
def wRcv (w : Insn) : BitVec 24 := w.extractLsb' 1 24
/-- AOP. -/
def wAop (w : Insn) : BitVec 4 := w.extractLsb' 34 4

/-- D, A and IMM27. -/
def rd1 (w : Insn) : Option Op1 := do return ⟨← opdOf (wD w), ← srcOf (wA w), wImm w⟩

/-- D, A, B and IMM27. -/
def rd2 (w : Insn) : Option Op2 := do return ⟨← opdOf (wD w), ← srcOf (wA w), ← srcOf (wB w), wImm w⟩

/-- D, A, B, C and IMM27. -/
def rd3 (w : Insn) : Option Op3 := do
  return ⟨← opdOf (wD w), ← srcOf (wA w), ← srcOf (wB w), ← srcOf (wC w), wImm w⟩

/-- ORD, SCOPE, TY, OFF27 with the operands that a memory row has. -/
def rdM (w : Insn) (d : Option Opd) (a b : Option Src) : Option OpM := do
  return ⟨← ordOf (w.extractLsb' 85 3), w.extractLsb' 82 3, ← wTy w, ← d, ← a, ← b, wImm w⟩

/-- An operand field that a row leaves zero. -/
def noSrc : Src := ⟨false, .none⟩

/-- The operands of MMA and MMALOOP. -/
def rdMma (w : Insn) : Option OpMma := do
  return ⟨← wTy w, ← accOpd (wD w), ← mapOf (wA w), ← mapOf (wB w), w.extractLsb' 16 11, w.extractLsb' 8 8, w.extractLsb' 0 8⟩

/-- Encoded Op1. -/
def eR1 (op : Nat) (sub : BitVec 6) (h : Hdr) (t : Ty) (o : Op1) : Insn :=
  fR op sub h t (opdCode o.d) (srcCode o.a) 0 0 o.imm

/-- Encoded Op2. -/
def eR2 (op : Nat) (sub : BitVec 6) (h : Hdr) (t : Ty) (o : Op2) : Insn :=
  fR op sub h t (opdCode o.d) (srcCode o.a) (srcCode o.b) 0 o.imm

/-- Encoded Op3. -/
def eR3 (op : Nat) (sub : BitVec 6) (h : Hdr) (t : Ty) (o : Op3) : Insn :=
  fR op sub h t (opdCode o.d) (srcCode o.a) (srcCode o.b) (srcCode o.c) o.imm

/-- Three predicate fields (R146). -/
def eP3 (op : Nat) (h : Hdr) (d a b : BitVec 4) : Insn :=
  fR op 0 h .none (opdCode (.pred d)) (predSrc a) (predSrc b) 0 0

/-- Two predicate fields. -/
def eP2 (op : Nat) (h : Hdr) (d a : BitVec 4) : Insn := fR op 0 h .none (opdCode (.pred d)) (predSrc a) 0 0 0

/-- A branch. -/
def eB (op : Nat) (sub : BitVec 6) (h : Hdr) (a : BitVec 11) (tgt rcv : BitVec 24) : Insn := fB op sub h a tgt rcv

/-- Encoded MMA and MMALOOP. -/
def eMma (op : Nat) (h : Hdr) (o : OpMma) : Insn :=
  fX op 0 h o.t (opdCode (.acc o.d)) (srcCode ⟨false, .map o.a⟩) (srcCode ⟨false, .map o.b⟩) 0 o.ks o.ai o.bi

/-- A memory row's word: `d`, `a`, `b` as it uses them. -/
def eM (op : Nat) (h : Hdr) (m : OpM) (d : BitVec 10) (b : BitVec 11) (aop : BitVec 4) : Insn :=
  fM op h m d (srcCode m.a) b aop

/-! ## Opcodes (R67) -/

/-- The opcode of an encoded instruction; a step without an encoding has none. -/
def opcode : Instr → Option (BitVec 8)
  | .nop _ => some 0x00
  | .br _ _ _ _ => some 0x01
  | .bra _ _ _ _ => some 0x02
  | .brl _ _ _ _ _ => some 0x03
  | .jmpi _ _ => some 0x04
  | .call _ _ => some 0x05
  | .calli _ _ => some 0x06
  | .ret _ => some 0x07
  | .loop _ _ _ => some 0x08
  | .endl _ => some 0x09
  | .brk _ _ _ _ => some 0x0A
  | .cont _ _ _ _ => some 0x0B
  | .rjoin _ => some 0x0C
  | .exit _ => some 0x0D
  | .yield _ => some 0x0E
  | .unif _ _ => some 0x0F
  | .levsync _ => some 0x10
  | .safept _ _ => some 0x11
  | .idem _ _ _ => some 0x12
  | .idemx _ _ => some 0x13
  | .vgrow _ _ _ => some 0x14
  | .vgive _ _ _ => some 0x15
  | .smov _ _ => some 0x20
  | .sldi _ _ _ => some 0x21
  | .sldih _ _ _ => some 0x22
  | .sid _ _ _ _ => some 0x23
  | .sadd _ _ => some 0x24
  | .ssub _ _ => some 0x25
  | .smul _ _ => some 0x26
  | .smulh _ _ _ => some 0x27
  | .sdiv _ _ _ => some 0x28
  | .srem _ _ _ => some 0x29
  | .sand _ _ => some 0x2A
  | .sor _ _ => some 0x2B
  | .sxor _ _ => some 0x2C
  | .sshl _ _ => some 0x2D
  | .sshr _ _ => some 0x2E
  | .ssra _ _ => some 0x2F
  | .pand _ _ _ _ => some 0x30
  | .por _ _ _ _ => some 0x31
  | .pxor _ _ _ _ => some 0x32
  | .pnot _ _ _ => some 0x33
  | .pmov _ _ _ => some 0x34
  | .pset _ _ _ => some 0x35
  | .vote _ _ _ _ _ _ => some 0x36
  | .scmp _ _ _ _ => some 0x37
  | .ssel _ _ => some 0x38
  | .smin _ _ _ => some 0x39
  | .smax _ _ _ => some 0x3A
  | .sclz _ _ => some 0x3B
  | .vmov _ _ _ => some 0x40
  | .vldi _ _ _ _ => some 0x41
  | .vadd _ _ _ _ => some 0x42
  | .vsub _ _ _ _ => some 0x43
  | .vmul _ _ _ => some 0x44
  | .vmulh _ _ _ => some 0x45
  | .vmad _ _ _ _ => some 0x46
  | .vabs _ _ _ _ => some 0x47
  | .vmin _ _ _ => some 0x48
  | .vmax _ _ _ => some 0x49
  | .vcmp _ _ _ _ => some 0x4A
  | .vsel _ _ _ => some 0x4B
  | .vred _ _ _ _ => some 0x4C
  | .vscan _ _ _ _ _ => some 0x4D
  | .vand _ _ _ => some 0x50
  | .vor _ _ _ => some 0x51
  | .vxor _ _ _ => some 0x52
  | .vnot _ _ _ => some 0x53
  | .vshl _ _ _ => some 0x54
  | .vshr _ _ _ => some 0x55
  | .vsra _ _ _ => some 0x56
  | .vclz _ _ _ => some 0x57
  | .vpop _ _ _ => some 0x58
  | .vbrev _ _ _ => some 0x59
  | .vbcast _ _ _ => some 0x5A
  | .vshfl _ _ _ _ => some 0x5B
  | .fadd _ _ _ => some 0x60
  | .fsub _ _ _ => some 0x61
  | .fmul _ _ _ => some 0x62
  | .ffma _ _ _ => some 0x63
  | .fmin _ _ _ => some 0x64
  | .fmax _ _ _ => some 0x65
  | .fabs _ _ _ => some 0x66
  | .fneg _ _ _ => some 0x67
  | .fcmp _ _ _ _ => some 0x68
  | .fclass _ _ _ => some 0x69
  | .fdiv _ _ _ => some 0x6A
  | .fsqrt _ _ _ => some 0x6B
  | .frcp _ _ _ => some 0x6C
  | .frsq _ _ _ => some 0x6D
  | .fexp2 _ _ _ => some 0x6E
  | .flog2 _ _ _ => some 0x6F
  | .fcvt _ _ _ _ _ => some 0x70
  | .icvt _ _ _ _ _ _ => some 0x71
  | .frnd _ _ _ _ => some 0x72
  | .fscl _ _ _ => some 0x73
  | .ld _ _ => some 0x80
  | .st _ _ => some 0x81
  | .ldk _ _ => some 0x82
  | .lds _ _ => some 0x83
  | .sts _ _ => some 0x84
  | .sld _ _ => some 0x85
  | .sst _ _ => some 0x86
  | .pref _ _ => some 0x87
  | .atom _ _ _ => some 0x90
  | .atoms _ _ _ => some 0x91
  | .satom _ _ _ => some 0x92
  | .red _ _ _ => some 0x93
  | .fence _ _ _ => some 0x94
  | .cpy _ _ _ _ _ => some 0xA0
  | .cpyp _ _ _ _ => some 0xA1
  | .cpym _ _ _ _ _ _ => some 0xA2
  | .cpys _ _ _ _ => some 0xA3
  | .cpyr _ _ _ _ _ => some 0xA4
  | .arvi _ _ _ => some 0xA5
  | .arv _ _ _ => some 0xA6
  | .arwt _ _ _ _ _ => some 0xA7
  | .artst _ _ _ _ _ _ => some 0xA8
  | .omap _ _ _ _ _ _ _ _ _ _ => some 0xB0
  | .plst _ _ _ _ => some 0xB1
  | .mma _ _ => some 0xB2
  | .mmaloop _ _ => some 0xB3
  | .mfence _ => some 0xB4
  | .mwait _ _ => some 0xB5
  | .aclr _ _ => some 0xB6
  | .ascl _ _ _ _ _ _ _ => some 0xB7
  | .amovv _ _ _ _ _ _ => some 0xB8
  | .asts _ _ _ _ => some 0xB9
  | .alds _ _ _ _ => some 0xBA
  | .acvt _ _ _ _ _ _ _ _ _ _ => some 0xBB
  | .bar _ _ => some 0xC0
  | .bara _ _ _ => some 0xC1
  | .barw _ _ _ => some 0xC2
  | .tspawn _ _ => some 0xC3
  | .tself _ _ => some 0xC4
  | .fwrite _ _ _ => some 0xC5
  | .fwait _ _ _ => some 0xC6
  | .ftest _ _ _ _ => some 0xC7
  | .lock _ _ => some 0xC8
  | .trylock _ _ _ => some 0xC9
  | .unlock _ _ => some 0xCA
  | .cntwt _ _ _ => some 0xCB
  | .pin _ _ _ => some 0xD0
  | .unpin _ _ => some 0xD1
  | .pinx _ _ _ => some 0xD2
  | .reclaim _ _ _ _ => some 0xD3
  | .rcdrain _ _ => some 0xD4
  | .msend _ _ _ _ _ _ => some 0xD5
  | .rwait _ _ _ => some 0xD6
  | .rack _ _ _ => some 0xD7
  | .rdesc _ _ _ _ => some 0xD8
  | .trap _ _ => some 0xE0
  | .rft _ => some 0xE1
  | .ctlrd _ _ _ => some 0xE2
  | .ctlwr _ _ _ => some 0xE3
  | .cycle _ _ _ => some 0xE4
  | .sleepc _ _ _ => some 0xE5
  | .evrd _ _ _ => some 0xE6
  | .bkpt _ _ => some 0xE7
  | .halt _ => some 0xE8
  | .tlbinv _ _ _ => some 0xE9
  | .clone _ _ => some 0xEA
  | .vgrowGrant _ | .segmentEmit _ | .segmentFinish _ | .conditionReport _ | .lineFill _ _
  | .producerCompletion _ | .faultDelivery _ | .handlerTimeLimit _ | .preemptionRequest _ _
  | .preemptionTimeout _ | .park _ _ | .unitResume _ _ | .replayCompare _ _ _ | .replayMismatch _
  | .regionRestart _ | .bandKill _ _ | .fatalError | .walkroundStart _ | .walkroundAbandon _
  | .walkroundComplete _ _ | .writeApply _ | .writeDeliver _ | .readPerform _ | .viewRefresh _ _
  | .viewEvict _ _ | .accessComplete _ | .cellarEvict _ | .pageWalk _ _ _ | .tlbDrop _ _ _ | .droverStart _
  | .sectorComplete _ _ _ | .matrixOpStart _ | .matrixOpComplete _ _ _ | .spawnStep _ _ | .dispatch _
  | .taskRetire _ | .pinSearch _ _ | .shadowWithdraw _ _ | .sleepExpire _ _ | .packetInject _
  | .bucketRefill _ _ | .ringAppend _ | .wayfareRead _ _ _ _ _ | .wayfareWrite _ _ _ _
  | .wayfareAtomic _ _ _ _ _ _ _ _ | .wayfareFenceMarker _ _ | .wayfareAck _ _ | .wayfareReadReply _ _ _
  | .wayfareRefusal _ _ | .flitCrcFailure _ | .hostAccess _ _ _ | .launchPacket _ | .fencePacket _
  | .fencePacketPass _ | .signalPacket _ | .nopPacket _ | .doorbell _ _ | .qdescWrite _ _ _ | .faultBufferWrite
  | .fbcfgWrite _ | .fbresolveResume _ | .fbresolveAbort _ | .tlbcmdPage _ _ | .tlbcmdSpace _ | .tlbcmdAll
  | .dbgcmdResumeStopIa _ _ | .dbgcmdResumeNext _ _ | .dbgcmdKill _ _ | .bootcmdReset | .bootcmdFullStart
  | .mcbankClear _ | .islctlAutomatic _ _ | .islctlHoldOn _ _ | .islctlGate _ _ | .islandGated _
  | .controlSpaceWrite _ _ | .powerWindow | .moduleReset | .startupStageComplete _ _ | .startupStageTimeout
  | .peerLinkTrain _ _ | .mailboxRequest _ | .worrenStatus | .worrenBankRead _ | .worrenBankClear _
  | .worrenPowerCap _ | .worrenFirmwareChunk _ _ | .worrenActivate | .worrenFloorMap _ | .worrenExtend _ _
  | .worrenAttest _ | .worrenStartReset | .worrenFullStart | .hostCompletion _ _ => none

/-! ## Decoding -/

/-- Rows 0x00 to 0x0F of R67. -/
def build0 (w : Insn) : Option Instr :=
  let h := wHdr w
  match (w.extractLsb' 88 4).toNat with
  | 0x0 => do return .nop h
  | 0x1 => do return .br h (← ccOf (wSub w)) (← srcOf (wA w)) (wTgt w)
  | 0x2 => do return .bra h (← ccOf (wSub w)) (← srcOf (wA w)) (wTgt w)
  | 0x3 => do return .brl h (← ccOf (wSub w)) (← srcOf (wA w)) (wTgt w) (wRcv w)
  | 0x4 => do return .jmpi h (← srcOf (wA w))
  | 0x5 => do return .call h (wTgt w)
  | 0x6 => do return .calli h (← srcOf (wA w))
  | 0x7 => do return .ret h
  | 0x8 => do return .loop h (← srcOf (wA w)) (wTgt w)
  | 0x9 => do return .endl h
  | 0xA => do return .brk h (← ccOf (wSub w)) (← srcOf (wA w)) (wTgt w)
  | 0xB => do return .cont h (← ccOf (wSub w)) (← srcOf (wA w)) (wTgt w)
  | 0xC => do return .rjoin h
  | 0xD => do return .exit h
  | 0xE => do return .yield h
  | _ => do return .unif h (← srcOf (wA w))

/-- Rows 0x10 to 0x1F of R67. -/
def build1 (w : Insn) : Option Instr :=
  let h := wHdr w
  match (w.extractLsb' 88 4).toNat with
  | 0x0 => do return .levsync h
  | 0x1 => do return .safept h (wImm49 w)
  | 0x2 => do return .idem h (← idemOf (wSub w)) (w.extractLsb' 0 16)
  | 0x3 => do return .idemx h (w.extractLsb' 0 16)
  | 0x4 => do return .vgrow h (← srcOf (wA w)) (wImm w)
  | 0x5 => do return .vgive h (← srcOf (wA w)) (wImm w)
  | _ => none

/-- Rows 0x20 to 0x2F of R67. -/
def build2 (w : Insn) : Option Instr :=
  let h := wHdr w
  match (w.extractLsb' 88 4).toNat with
  | 0x0 => do return .smov h (← rd1 w)
  | 0x1 => do return .sldi h (← opdOf (wD w)) (wImm49 w)
  | 0x2 => do return .sldih h (← opdOf (wD w)) (wImm49 w)
  | 0x3 => do return .sid h (← sidOf (wSub w)) (← opdOf (wD w)) (w.extractLsb' 49 6)
  | 0x4 => do return .sadd h (← rd2 w)
  | 0x5 => do return .ssub h (← rd2 w)
  | 0x6 => do return .smul h (← rd2 w)
  | 0x7 => do return .smulh h (← wTy w) (← rd2 w)
  | 0x8 => do return .sdiv h (← wTy w) (← rd2 w)
  | 0x9 => do return .srem h (← wTy w) (← rd2 w)
  | 0xA => do return .sand h (← rd2 w)
  | 0xB => do return .sor h (← rd2 w)
  | 0xC => do return .sxor h (← rd2 w)
  | 0xD => do return .sshl h (← rd2 w)
  | 0xE => do return .sshr h (← rd2 w)
  | _ => do return .ssra h (← rd2 w)

/-- Rows 0x30 to 0x3F of R67. -/
def build3 (w : Insn) : Option Instr :=
  let h := wHdr w
  match (w.extractLsb' 88 4).toNat with
  | 0x0 => do return .pand h (← predOf (wD w)) (← predSrcOf (wA w)) (← predSrcOf (wB w))
  | 0x1 => do return .por h (← predOf (wD w)) (← predSrcOf (wA w)) (← predSrcOf (wB w))
  | 0x2 => do return .pxor h (← predOf (wD w)) (← predSrcOf (wA w)) (← predSrcOf (wB w))
  | 0x3 => do return .pnot h (← predOf (wD w)) (← predSrcOf (wA w))
  | 0x4 => do return .pmov h (← predOf (wD w)) (← predSrcOf (wA w))
  | 0x5 => do return .pset h (← predOf (wD w)) (w.getLsbD 0)
  | 0x6 => do return .vote h (← voteOf (wSub w)) (← opdOf (wD w)) (← predSrcOf (wA w)) (w.extractLsb' 0 6) (w.getLsbD 6)
  | 0x7 => do return .scmp h (← cmpOf (wSub w)) (← wTy w) (← rd2 w)
  | 0x8 => do return .ssel h (← rd3 w)
  | 0x9 => do return .smin h (← wTy w) (← rd2 w)
  | 0xA => do return .smax h (← wTy w) (← rd2 w)
  | 0xB => do return .sclz h (← rd1 w)
  | _ => none

/-- Rows 0x40 to 0x4F of R67. -/
def build4 (w : Insn) : Option Instr :=
  let h := wHdr w
  match (w.extractLsb' 88 4).toNat with
  | 0x0 => do return .vmov h (← wTy w) (← rd1 w)
  | 0x1 => do return .vldi h (← wTy w) (← opdOf (wD w)) (wImm49 w)
  | 0x2 => do return .vadd h (← wTy w) ((wSub w).getLsbD 0) (← rd2 w)
  | 0x3 => do return .vsub h (← wTy w) ((wSub w).getLsbD 0) (← rd2 w)
  | 0x4 => do return .vmul h (← wTy w) (← rd2 w)
  | 0x5 => do return .vmulh h (← wTy w) (← rd2 w)
  | 0x6 => do return .vmad h (← wTy w) ((wSub w).getLsbD 0) (← rd3 w)
  | 0x7 => do return .vabs h (← wTy w) ((wSub w).getLsbD 0) (← rd1 w)
  | 0x8 => do return .vmin h (← wTy w) (← rd2 w)
  | 0x9 => do return .vmax h (← wTy w) (← rd2 w)
  | 0xA => do return .vcmp h (← cmpOf (wSub w)) (← wTy w) (← rd2 w)
  | 0xB => do return .vsel h (← wTy w) (← rd3 w)
  | 0xC => do return .vred h (← redOf (wSub w).toNat) (← wTy w) (← rd1 w)
  | 0xD => do return .vscan h (← redOf ((wSub w).extractLsb' 0 3).toNat) ((wSub w).getLsbD 3) (← wTy w) (← rd1 w)
  | _ => none

/-- Rows 0x50 to 0x5F of R67. -/
def build5 (w : Insn) : Option Instr :=
  let h := wHdr w
  match (w.extractLsb' 88 4).toNat with
  | 0x0 => do return .vand h (← wTy w) (← rd2 w)
  | 0x1 => do return .vor h (← wTy w) (← rd2 w)
  | 0x2 => do return .vxor h (← wTy w) (← rd2 w)
  | 0x3 => do return .vnot h (← wTy w) (← rd1 w)
  | 0x4 => do return .vshl h (← wTy w) (← rd2 w)
  | 0x5 => do return .vshr h (← wTy w) (← rd2 w)
  | 0x6 => do return .vsra h (← wTy w) (← rd2 w)
  | 0x7 => do return .vclz h (← wTy w) (← rd1 w)
  | 0x8 => do return .vpop h (← wTy w) (← rd1 w)
  | 0x9 => do return .vbrev h (← wTy w) (← rd1 w)
  | 0xA => do return .vbcast h (← wTy w) (← rd2 w)
  | 0xB => do return .vshfl h (← shflOf (wSub w)) (← wTy w) (← rd2 w)
  | _ => none

/-- Rows 0x60 to 0x6F of R67. -/
def build6 (w : Insn) : Option Instr :=
  let h := wHdr w
  match (w.extractLsb' 88 4).toNat with
  | 0x0 => do return .fadd h (← wTy w) (← rd2 w)
  | 0x1 => do return .fsub h (← wTy w) (← rd2 w)
  | 0x2 => do return .fmul h (← wTy w) (← rd2 w)
  | 0x3 => do return .ffma h (← wTy w) (← rd3 w)
  | 0x4 => do return .fmin h (← wTy w) (← rd2 w)
  | 0x5 => do return .fmax h (← wTy w) (← rd2 w)
  | 0x6 => do return .fabs h (← wTy w) (← rd1 w)
  | 0x7 => do return .fneg h (← wTy w) (← rd1 w)
  | 0x8 => do return .fcmp h (← cmpOf (wSub w)) (← wTy w) (← rd2 w)
  | 0x9 => do return .fclass h (← wTy w) (← rd1 w)
  | 0xA => do return .fdiv h (← wTy w) (← rd2 w)
  | 0xB => do return .fsqrt h (← wTy w) (← rd1 w)
  | 0xC => do return .frcp h (← wTy w) (← rd1 w)
  | 0xD => do return .frsq h (← wTy w) (← rd1 w)
  | 0xE => do return .fexp2 h (← wTy w) (← rd1 w)
  | _ => do return .flog2 h (← wTy w) (← rd1 w)

/-- Rows 0x70 to 0x7F of R67. -/
def build7 (w : Insn) : Option Instr :=
  let h := wHdr w
  match (w.extractLsb' 88 4).toNat with
  | 0x0 => do return .fcvt h (← tyOf ((wSub w).extractLsb' 0 4)) (← wTy w) (← opdOf (wD w)) (← srcOf (wA w))
  | 0x1 => do return .icvt h (← tyOf ((wSub w).extractLsb' 0 4)) ((wSub w).getLsbD 4) (← wTy w) (← opdOf (wD w)) (← srcOf (wA w))
  | 0x2 => do return .frnd h (← wTy w) (← opdOf (wD w)) (← srcOf (wA w))
  | 0x3 => do return .fscl h (← wTy w) (← rd2 w)
  | _ => none

/-- Rows 0x80 to 0x8F of R67. -/
def build8 (w : Insn) : Option Instr :=
  let h := wHdr w
  match (w.extractLsb' 88 4).toNat with
  | 0x0 => do return .ld h (← rdM w (opdOf (wD w)) (srcOf (wA w)) (srcOf (wB w)))
  | 0x1 => do return .st h (← rdM w (some .none) (srcOf (wA w)) (srcOf (wB w)))
  | 0x2 => do return .ldk h (← rdM w (opdOf (wD w)) (srcOf (wA w)) (srcOf (wB w)))
  | 0x3 => do return .lds h (← rdM w (opdOf (wD w)) (srcOf (wA w)) (srcOf (wB w)))
  | 0x4 => do return .sts h (← rdM w (some .none) (srcOf (wA w)) (srcOf (wB w)))
  | 0x5 => do return .sld h (← rdM w (opdOf (wD w)) (srcOf (wA w)) (srcOf (wB w)))
  | 0x6 => do return .sst h (← rdM w (some .none) (srcOf (wA w)) (srcOf (wB w)))
  | 0x7 => do return .pref h (← rdM w (some .none) (srcOf (wA w)) (srcOf (wB w)))
  | _ => none

/-- Rows 0x90 to 0x9F of R67. -/
def build9 (w : Insn) : Option Instr :=
  let h := wHdr w
  match (w.extractLsb' 88 4).toNat with
  | 0x0 => do return .atom h (← aopOf (wAop w)) (← rdM w (opdOf (wD w)) (srcOf (wA w)) (srcOf (wB w)))
  | 0x1 => do return .atoms h (← aopOf (wAop w)) (← rdM w (opdOf (wD w)) (srcOf (wA w)) (srcOf (wB w)))
  | 0x2 => do return .satom h (← aopOf (wAop w)) (← rdM w (opdOf (wD w)) (srcOf (wA w)) (srcOf (wB w)))
  | 0x3 => do return .red h (← aopOf (wAop w)) (← rdM w (some .none) (srcOf (wA w)) (srcOf (wB w)))
  | 0x4 => do return .fence h (← ordOf (w.extractLsb' 85 3)) (w.extractLsb' 82 3)
  | _ => none

/-- Rows 0xA0 to 0xAF of R67. -/
def buildA (w : Insn) : Option Instr :=
  let h := wHdr w
  match (w.extractLsb' 88 4).toNat with
  | 0x0 => do return .cpy h (← match (wSub w).toNat with | 0 => some .g2s | 1 => some .s2g | _ => none) (← srcOf (wA w)) (← srcOf (wB w)) (wImm w)
  | 0x1 => do return .cpyp h (← srcOf (wA w)) (← srcOf (wB w)) (wImm w)
  | 0x2 => do return .cpym h (← match (wSub w).toNat with | 0 => some .s | 1 => some .p | _ => none) (← srcOf (wA w)) (← srcOf (wB w)) (← srcOf (wC w)) (wImm w)
  | 0x3 => do return .cpys h (← srcOf (wA w)) (← srcOf (wB w)) (wImm w)
  | 0x4 => do return .cpyr h (← redOf (wSub w).toNat) (← srcOf (wA w)) (← srcOf (wB w)) (wImm w)
  | 0x5 => do return .arvi h (w.extractLsb' 13 14) (w.extractLsb' 0 13)
  | 0x6 => do return .arv h (← srcOf (wA w)) (wImm w)
  | 0x7 => do return .arwt h (← predOf (wD w)) (← srcOf (wA w)) (← srcOf (wB w)) (wImm w)
  | 0x8 => do match (wSub w).toNat with | 0 => return .artst h .done (← predOf (wD w)) (← srcOf (wA w)) (← srcOf (wB w)) (wImm w) | 1 => return .artst h .pois (← predOf (wD w)) (← srcOf (wA w)) noSrc (wImm w) | _ => none
  | _ => none

/-- Rows 0xB0 to 0xBF of R67. -/
def buildB (w : Insn) : Option Instr :=
  let h := wHdr w
  match (w.extractLsb' 88 4).toNat with
  | 0x0 => do return .omap h ((wSub w).getLsbD 0) ((wSub w).getLsbD 1) ((wSub w).getLsbD 2) (← wTy w) (← match opdOf (wD w) with | some (.map m) => some m | _ => none) (← match srcOf (wA w) with | some ⟨false, .buf b⟩ => some b | _ => none) (w.extractLsb' 0 6) (w.extractLsb' 6 3) (w.extractLsb' 9 5)
  | 0x1 => do return .plst h ((wSub w).getLsbD 0) (← mapOf (wA w)) (wImm w)
  | 0x2 => do return .mma h (← rdMma w)
  | 0x3 => do return .mmaloop h (← rdMma w)
  | 0x4 => do return .mfence h
  | 0x5 => do return .mwait h (← match srcOf (wA w) with | some ⟨false, .acc a⟩ => some (some a) | some ⟨false, .none⟩ => some none | _ => none)
  | 0x6 => do return .aclr h (← accOpd (wD w))
  | 0x7 => do return .ascl h (← accOf ((wSub w).extractLsb' 0 2)) (← wTy w) (← accOpd (wD w)) (← accSrc (wA w)) (← srcOf (wB w)) (← srcOf (wC w))
  | 0x8 => do return .amovv h (← wTy w) (← opdOf (wD w)) (← accSrc (wA w)) (← srcOf (wB w)) (w.extractLsb' 0 6)
  | 0x9 => do return .asts h (← wTy w) (← accOpd (wD w)) (wImm w)
  | 0xA => do return .alds h (← wTy w) (← accOpd (wD w)) (wImm w)
  | 0xB => do if (wSub w).getLsbD 0 then return .acvt h true (← accOf ((wSub w).extractLsb' 1 2)) ((wSub w).getLsbD 3) (← wTy w) .none (← accSrc (wA w)) noSrc 0 (wImm w) else return .acvt h false (← accOf ((wSub w).extractLsb' 1 2)) ((wSub w).getLsbD 3) (← wTy w) (← opdOf (wD w)) (← accSrc (wA w)) (← srcOf (wB w)) (w.extractLsb' 0 6) 0
  | _ => none

/-- Rows 0xC0 to 0xCF of R67. -/
def buildC (w : Insn) : Option Instr :=
  let h := wHdr w
  match (w.extractLsb' 88 4).toNat with
  | 0x0 => do return .bar h (w.extractLsb' 0 3)
  | 0x1 => do return .bara h (← opdOf (wD w)) (w.extractLsb' 0 3)
  | 0x2 => do return .barw h (← srcOf (wA w)) (w.extractLsb' 0 3)
  | 0x3 => do return .tspawn h (← srcOf (wA w))
  | 0x4 => do return .tself h (← opdOf (wD w))
  | 0x5 => do return .fwrite h (← srcOf (wA w)) (← srcOf (wB w))
  | 0x6 => do return .fwait h (← opdOf (wD w)) (← srcOf (wA w))
  | 0x7 => do return .ftest h (← match (wSub w).toNat with | 0 => some .full | 1 => some .orph | _ => none) (← predOf (wD w)) (← srcOf (wA w))
  | 0x8 => do return .lock h (← srcOf (wA w))
  | 0x9 => do return .trylock h (← predOf (wD w)) (← srcOf (wA w))
  | 0xA => do return .unlock h (← srcOf (wA w))
  | 0xB => do return .cntwt h (← srcOf (wA w)) (← srcOf (wB w))
  | _ => none

/-- Rows 0xD0 to 0xDF of R67. -/
def buildD (w : Insn) : Option Instr :=
  let h := wHdr w
  match (w.extractLsb' 88 4).toNat with
  | 0x0 => do return .pin h (← pinOf (wD w)) (← srcOf (wA w))
  | 0x1 => do return .unpin h (← pinOf (wD w))
  | 0x2 => do return .pinx h (← pinOf (wD w)) (← srcOf (wA w))
  | 0x3 => do return .reclaim h (← predOf (wD w)) (← srcOf (wA w)) (← srcOf (wB w))
  | 0x4 => do return .rcdrain h (← opdOf (wD w))
  | 0x5 => do return .msend h (← predOf (wD w)) (← srcOf (wA w)) (← srcOf (wB w)) (w.extractLsb' 0 5) (w.extractLsb' 5 12)
  | 0x6 => do return .rwait h (← opdOf (wD w)) (w.extractLsb' 0 2)
  | 0x7 => do return .rack h (← srcOf (wA w)) (w.extractLsb' 0 2)
  | 0x8 => do return .rdesc h (← predOf (wD w)) (← srcOf (wA w)) (w.extractLsb' 0 2)
  | _ => none

/-- Rows 0xE0 to 0xEF of R67. -/
def buildE (w : Insn) : Option Instr :=
  let h := wHdr w
  match (w.extractLsb' 88 4).toNat with
  | 0x0 => do return .trap h (w.extractLsb' 0 32)
  | 0x1 => do return .rft h
  | 0x2 => do return .ctlrd h (← opdOf (wD w)) (w.extractLsb' 0 12)
  | 0x3 => do return .ctlwr h (← srcOf (wA w)) (w.extractLsb' 0 12)
  | 0x4 => do return .cycle h (← cycOf (wSub w)) (← opdOf (wD w))
  | 0x5 => do return .sleepc h (← srcOf (wA w)) (wImm w)
  | 0x6 => do return .evrd h (← opdOf (wD w)) (w.extractLsb' 0 8)
  | 0x7 => do return .bkpt h (w.extractLsb' 0 32)
  | 0x8 => do return .halt h
  | 0x9 => do match (wSub w).toNat with | 0 => return .tlbinv h .page (← srcOf (wA w)) | 1 => return .tlbinv h .space noSrc | 2 => return .tlbinv h .all noSrc | _ => none
  | 0xA => do return .clone h (← cloneOf (wSub w))
  | _ => none

/-- The instruction that a word's fields spell, its unnamed fields not yet checked. -/
def build (w : Insn) : Option Instr :=
  match (w.extractLsb' 92 4).toNat with
  | 0x0 => build0 w
  | 0x1 => build1 w
  | 0x2 => build2 w
  | 0x3 => build3 w
  | 0x4 => build4 w
  | 0x5 => build5 w
  | 0x6 => build6 w
  | 0x7 => build7 w
  | 0x8 => build8 w
  | 0x9 => build9 w
  | 0xA => buildA w
  | 0xB => buildB w
  | 0xC => buildC w
  | 0xD => buildD w
  | 0xE => buildE w
  | _ => none

/-- Whether R67 assigns an opcode. -/
def assigned (op : BitVec 8) : Bool :=
  decide ((op.extractLsb' 0 4).toNat < match (op.extractLsb' 4 4).toNat with
    | 0x0 => 16
    | 0x1 => 6
    | 0x2 => 16
    | 0x3 => 12
    | 0x4 => 14
    | 0x5 => 12
    | 0x6 => 16
    | 0x7 => 4
    | 0x8 => 8
    | 0x9 => 5
    | 0xA => 9
    | 0xB => 12
    | 0xC => 12
    | 0xD => 9
    | 0xE => 11
    | _ => 0)

/-! ## Encoding -/

/-- The word of an instruction (R54 to R65); a step without an encoding has none. -/
def encode : Instr → Option Insn
  | .nop h => some (fR 0x00 0 h .none 0 0 0 0 0)
  | .br h cc a t => some (eB 0x01 (ccCode cc) h (srcCode a) t 0)
  | .bra h cc a t => some (eB 0x02 (ccCode cc) h (srcCode a) t 0)
  | .brl h cc a t r => some (eB 0x03 (ccCode cc) h (srcCode a) t r)
  | .jmpi h a => some (eB 0x04 0 h (srcCode a) 0 0)
  | .call h t => some (eB 0x05 0 h 0 t 0)
  | .calli h a => some (eB 0x06 0 h (srcCode a) 0 0)
  | .ret h => some (eB 0x07 0 h 0 0 0)
  | .loop h a t => some (eB 0x08 0 h (srcCode a) t 0)
  | .endl h => some (eB 0x09 0 h 0 0 0)
  | .brk h cc a t => some (eB 0x0A (ccCode cc) h (srcCode a) t 0)
  | .cont h cc a t => some (eB 0x0B (ccCode cc) h (srcCode a) t 0)
  | .rjoin h => some (eB 0x0C 0 h 0 0 0)
  | .exit h => some (eB 0x0D 0 h 0 0 0)
  | .yield h => some (eB 0x0E 0 h 0 0 0)
  | .unif h a => some (eB 0x0F 0 h (srcCode a) 0 0)
  | .levsync h => some (fR 0x10 0 h .none 0 0 0 0 0)
  | .safept h e => some (fI 0x11 0 h .none 0 0 e)
  | .idem h k x => some (fI 0x12 (idemCode k) h .none 0 0 (x.setWidth 49))
  | .idemx h x => some (fI 0x13 0 h .none 0 0 (x.setWidth 49))
  | .vgrow h a i => some (fR 0x14 0 h .none 0 (srcCode a) 0 0 i)
  | .vgive h a i => some (fR 0x15 0 h .none 0 (srcCode a) 0 0 i)
  | .smov h o => some (eR1 0x20 0 h .none o)
  | .sldi h d i => some (fI 0x21 0 h .none (opdCode d) 0x3FF i)
  | .sldih h d i => some (fI 0x22 0 h .none (opdCode d) 0x3FF i)
  | .sid h m d x => some (fR 0x23 (sidCode m) h .none (opdCode d) (srcCode ⟨false, .spec x⟩) 0 0 0)
  | .sadd h o => some (eR2 0x24 0 h .none o)
  | .ssub h o => some (eR2 0x25 0 h .none o)
  | .smul h o => some (eR2 0x26 0 h .none o)
  | .smulh h t o => some (eR2 0x27 0 h t o)
  | .sdiv h t o => some (eR2 0x28 0 h t o)
  | .srem h t o => some (eR2 0x29 0 h t o)
  | .sand h o => some (eR2 0x2A 0 h .none o)
  | .sor h o => some (eR2 0x2B 0 h .none o)
  | .sxor h o => some (eR2 0x2C 0 h .none o)
  | .sshl h o => some (eR2 0x2D 0 h .none o)
  | .sshr h o => some (eR2 0x2E 0 h .none o)
  | .ssra h o => some (eR2 0x2F 0 h .none o)
  | .pand h d a b => some (eP3 0x30 h d a b)
  | .por h d a b => some (eP3 0x31 h d a b)
  | .pxor h d a b => some (eP3 0x32 h d a b)
  | .pnot h d a => some (eP2 0x33 h d a)
  | .pmov h d a => some (eP2 0x34 h d a)
  | .pset h d v => some (fR 0x35 0 h .none (opdCode (.pred d)) 0x3FF 0 0 ((bit v).setWidth 27))
  | .vote h m d a t l => some (fR 0x36 (voteCode m) h .none (opdCode d) (predSrc a) 0 0 (0#20 ++ bit l ++ t))
  | .scmp h c t o => some (eR2 0x37 (cmpCode c) h t o)
  | .ssel h o => some (eR3 0x38 0 h .none o)
  | .smin h t o => some (eR2 0x39 0 h t o)
  | .smax h t o => some (eR2 0x3A 0 h t o)
  | .sclz h o => some (eR1 0x3B 0 h .none o)
  | .vmov h t o => some (eR1 0x40 0 h t o)
  | .vldi h t d i => some (fI 0x41 0 h t (opdCode d) 0x3FF i)
  | .vadd h t s o => some (eR2 0x42 ((bit s).setWidth 6) h t o)
  | .vsub h t s o => some (eR2 0x43 ((bit s).setWidth 6) h t o)
  | .vmul h t o => some (eR2 0x44 0 h t o)
  | .vmulh h t o => some (eR2 0x45 0 h t o)
  | .vmad h t s o => some (eR3 0x46 ((bit s).setWidth 6) h t o)
  | .vabs h t s o => some (eR1 0x47 ((bit s).setWidth 6) h t o)
  | .vmin h t o => some (eR2 0x48 0 h t o)
  | .vmax h t o => some (eR2 0x49 0 h t o)
  | .vcmp h c t o => some (eR2 0x4A (cmpCode c) h t o)
  | .vsel h t o => some (eR3 0x4B 0 h t o)
  | .vred h r t o => some (eR1 0x4C (redCode r) h t o)
  | .vscan h r x t o => some (eR1 0x4D (0#2 ++ bit x ++ (redCode r).extractLsb' 0 3) h t o)
  | .vand h t o => some (eR2 0x50 0 h t o)
  | .vor h t o => some (eR2 0x51 0 h t o)
  | .vxor h t o => some (eR2 0x52 0 h t o)
  | .vnot h t o => some (eR1 0x53 0 h t o)
  | .vshl h t o => some (eR2 0x54 0 h t o)
  | .vshr h t o => some (eR2 0x55 0 h t o)
  | .vsra h t o => some (eR2 0x56 0 h t o)
  | .vclz h t o => some (eR1 0x57 0 h t o)
  | .vpop h t o => some (eR1 0x58 0 h t o)
  | .vbrev h t o => some (eR1 0x59 0 h t o)
  | .vbcast h t o => some (eR2 0x5A 0 h t o)
  | .vshfl h m t o => some (eR2 0x5B (shflCode m) h t o)
  | .fadd h t o => some (eR2 0x60 0 h t o)
  | .fsub h t o => some (eR2 0x61 0 h t o)
  | .fmul h t o => some (eR2 0x62 0 h t o)
  | .ffma h t o => some (eR3 0x63 0 h t o)
  | .fmin h t o => some (eR2 0x64 0 h t o)
  | .fmax h t o => some (eR2 0x65 0 h t o)
  | .fabs h t o => some (eR1 0x66 0 h t o)
  | .fneg h t o => some (eR1 0x67 0 h t o)
  | .fcmp h c t o => some (eR2 0x68 (cmpCode c) h t o)
  | .fclass h t o => some (eR1 0x69 0 h t o)
  | .fdiv h t o => some (eR2 0x6A 0 h t o)
  | .fsqrt h t o => some (eR1 0x6B 0 h t o)
  | .frcp h t o => some (eR1 0x6C 0 h t o)
  | .frsq h t o => some (eR1 0x6D 0 h t o)
  | .fexp2 h t o => some (eR1 0x6E 0 h t o)
  | .flog2 h t o => some (eR1 0x6F 0 h t o)
  | .fcvt h s t d a => some (fR 0x70 ((tyCode s).setWidth 6) h t (opdCode d) (srcCode a) 0 0 0)
  | .icvt h s x t d a => some (fR 0x71 (0#1 ++ bit x ++ tyCode s) h t (opdCode d) (srcCode a) 0 0 0)
  | .frnd h t d a => some (fR 0x72 0 h t (opdCode d) (srcCode a) 0 0 0)
  | .fscl h t o => some (eR2 0x73 0 h t o)
  | .ld h m => some (eM 0x80 h m (opdCode m.d) (srcCode m.b) 0)
  | .st h m => some (eM 0x81 h m 0 (srcCode m.b) 0)
  | .ldk h m => some (eM 0x82 h m (opdCode m.d) (srcCode m.b) 0)
  | .lds h m => some (eM 0x83 h m (opdCode m.d) (srcCode m.b) 0)
  | .sts h m => some (eM 0x84 h m 0 (srcCode m.b) 0)
  | .sld h m => some (eM 0x85 h m (opdCode m.d) (srcCode m.b) 0)
  | .sst h m => some (eM 0x86 h m 0 (srcCode m.b) 0)
  | .pref h m => some (eM 0x87 h m 0 (srcCode m.b) 0)
  | .atom h p m => some (eM 0x90 h m (opdCode m.d) (srcCode m.b) (aopCode p))
  | .atoms h p m => some (eM 0x91 h m (opdCode m.d) (srcCode m.b) (aopCode p))
  | .satom h p m => some (eM 0x92 h m (opdCode m.d) (srcCode m.b) (aopCode p))
  | .red h p m => some (eM 0x93 h m 0 (srcCode m.b) (aopCode p))
  | .fence h o s => some (fR 0x94 (ordCode o ++ s) h .none 0 0 0 0 0)
  | .cpy h d a b i => some (fR 0xA0 (if d == .g2s then 0 else 1) h .none 0 (srcCode a) (srcCode b) 0 i)
  | .cpyp h a b i => some (fR 0xA1 0 h .none 0 (srcCode a) (srcCode b) 0 i)
  | .cpym h d a b c i => some (fR 0xA2 (if d == .s then 0 else 1) h .none 0 (srcCode a) (srcCode b) (srcCode c) i)
  | .cpys h a b i => some (fR 0xA3 0 h .none 0 (srcCode a) (srcCode b) 0 i)
  | .cpyr h r a b i => some (fR 0xA4 (redCode r) h .none 0 (srcCode a) (srcCode b) 0 i)
  | .arvi h o n => some (fR 0xA5 0 h .none 0 0 0 0 (o ++ n))
  | .arv h a i => some (fR 0xA6 0 h .none 0 (srcCode a) 0 0 i)
  | .arwt h d a b i => some (fR 0xA7 0 h .none (opdCode (.pred d)) (srcCode a) (srcCode b) 0 i)
  | .artst h c d a b i => some (fR 0xA8 (if c == .done then 0 else 1) h .none (opdCode (.pred d)) (srcCode a) (if c == .done then srcCode b else 0) 0 i)
  | .omap h r l x t d b p v k => some (fR 0xB0 (0#3 ++ bit x ++ bit l ++ bit r) h t (opdCode (.map d)) (srcCode ⟨false, .buf b⟩) 0 0 (0#13 ++ k ++ v ++ p))
  | .plst h r m o => some (fXo 0xB1 ((bit r).setWidth 6) h .none 0 (srcCode ⟨false, .map m⟩) 0 0 o)
  | .mma h o => some (eMma 0xB2 h o)
  | .mmaloop h o => some (eMma 0xB3 h o)
  | .mfence h => some (fR 0xB4 0 h .none 0 0 0 0 0)
  | .mwait h a => some (fR 0xB5 0 h .none 0 (match a with | some a => srcCode ⟨false, .acc a⟩ | none => 0x3FE) 0 0 0)
  | .aclr h d => some (fXo 0xB6 0 h .none (opdCode (.acc d)) 0 0 0 0)
  | .ascl h f t d a b c => some (fXo 0xB7 ((accCode f).setWidth 6) h t (opdCode (.acc d)) (srcCode ⟨false, .acc a⟩) (srcCode b) (srcCode c) 0)
  | .amovv h t d a b r => some (fXo 0xB8 0 h t (opdCode d) (srcCode ⟨false, .acc a⟩) (srcCode b) 0 (r.setWidth 27))
  | .asts h t d o => some (fXo 0xB9 0 h t (opdCode (.acc d)) 0 0 0 o)
  | .alds h t d o => some (fXo 0xBA 0 h t (opdCode (.acc d)) 0 0 0 o)
  | .acvt h s f x t d a b r o => some (fXo 0xBB (0#2 ++ bit x ++ accCode f ++ bit s) h t (if s then 0 else opdCode d) (srcCode ⟨false, .acc a⟩) (if s then 0 else srcCode b) 0 (if s then o else r.setWidth 27))
  | .bar h j => some (fR 0xC0 0 h .none 0 0 0 0 (j.setWidth 27))
  | .bara h d j => some (fR 0xC1 0 h .none (opdCode d) 0 0 0 (j.setWidth 27))
  | .barw h a j => some (fR 0xC2 0 h .none 0 (srcCode a) 0 0 (j.setWidth 27))
  | .tspawn h a => some (fR 0xC3 0 h .none 0 (srcCode a) 0 0 0)
  | .tself h d => some (fR 0xC4 0 h .none (opdCode d) 0 0 0 0)
  | .fwrite h a b => some (fR 0xC5 0 h .none 0 (srcCode a) (srcCode b) 0 0)
  | .fwait h d a => some (fR 0xC6 0 h .none (opdCode d) (srcCode a) 0 0 0)
  | .ftest h c d a => some (fR 0xC7 (if c == .full then 0 else 1) h .none (opdCode (.pred d)) (srcCode a) 0 0 0)
  | .lock h a => some (fR 0xC8 0 h .none 0 (srcCode a) 0 0 0)
  | .trylock h d a => some (fR 0xC9 0 h .none (opdCode (.pred d)) (srcCode a) 0 0 0)
  | .unlock h a => some (fR 0xCA 0 h .none 0 (srcCode a) 0 0 0)
  | .cntwt h a b => some (fR 0xCB 0 h .none 0 (srcCode a) (srcCode b) 0 0)
  | .pin h q a => some (fR 0xD0 0 h .none (opdCode (.pin q)) (srcCode a) 0 0 0)
  | .unpin h q => some (fR 0xD1 0 h .none (opdCode (.pin q)) 0 0 0 0)
  | .pinx h q a => some (fR 0xD2 0 h .none (opdCode (.pin q)) (srcCode a) 0 0 0)
  | .reclaim h d a b => some (fR 0xD3 0 h .none (opdCode (.pred d)) (srcCode a) (srcCode b) 0 0)
  | .rcdrain h d => some (fR 0xD4 0 h .none (opdCode d) 0 0 0 0)
  | .msend h d a b n t => some (fR 0xD5 0 h .none (opdCode (.pred d)) (srcCode a) (srcCode b) 0 (0#10 ++ t ++ n))
  | .rwait h d r => some (fR 0xD6 0 h .none (opdCode d) 0 0 0 (r.setWidth 27))
  | .rack h a r => some (fR 0xD7 0 h .none 0 (srcCode a) 0 0 (r.setWidth 27))
  | .rdesc h d a r => some (fR 0xD8 0 h .none (opdCode (.pred d)) (srcCode a) 0 0 (r.setWidth 27))
  | .trap h i => some (fI 0xE0 0 h .none 0 0 (i.setWidth 49))
  | .rft h => some (fR 0xE1 0 h .none 0 0 0 0 0)
  | .ctlrd h d c => some (fR 0xE2 0 h .none (opdCode d) 0 0 0 (c.setWidth 27))
  | .ctlwr h a c => some (fR 0xE3 0 h .none 0 (srcCode a) 0 0 (c.setWidth 27))
  | .cycle h s d => some (fR 0xE4 (cycCode s) h .none (opdCode d) 0 0 0 0)
  | .sleepc h a i => some (fR 0xE5 0 h .none 0 (srcCode a) 0 0 i)
  | .evrd h d v => some (fR 0xE6 0 h .none (opdCode d) 0 0 0 (v.setWidth 27))
  | .bkpt h i => some (fI 0xE7 0 h .none 0 0 (i.setWidth 49))
  | .halt h => some (fR 0xE8 0 h .none 0 0 0 0 0)
  | .tlbinv h k a => some (fR 0xE9 (tlbCode k) h .none 0 (if k == .page then srcCode a else 0) 0 0 0)
  | .clone h m => some (fR 0xEA (cloneCode m) h .none 0 0 0 0 0)
  | .vgrowGrant _ | .segmentEmit _ | .segmentFinish _ | .conditionReport _ | .lineFill _ _
  | .producerCompletion _ | .faultDelivery _ | .handlerTimeLimit _ | .preemptionRequest _ _
  | .preemptionTimeout _ | .park _ _ | .unitResume _ _ | .replayCompare _ _ _ | .replayMismatch _
  | .regionRestart _ | .bandKill _ _ | .fatalError | .walkroundStart _ | .walkroundAbandon _
  | .walkroundComplete _ _ | .writeApply _ | .writeDeliver _ | .readPerform _ | .viewRefresh _ _
  | .viewEvict _ _ | .accessComplete _ | .cellarEvict _ | .pageWalk _ _ _ | .tlbDrop _ _ _ | .droverStart _
  | .sectorComplete _ _ _ | .matrixOpStart _ | .matrixOpComplete _ _ _ | .spawnStep _ _ | .dispatch _
  | .taskRetire _ | .pinSearch _ _ | .shadowWithdraw _ _ | .sleepExpire _ _ | .packetInject _
  | .bucketRefill _ _ | .ringAppend _ | .wayfareRead _ _ _ _ _ | .wayfareWrite _ _ _ _
  | .wayfareAtomic _ _ _ _ _ _ _ _ | .wayfareFenceMarker _ _ | .wayfareAck _ _ | .wayfareReadReply _ _ _
  | .wayfareRefusal _ _ | .flitCrcFailure _ | .hostAccess _ _ _ | .launchPacket _ | .fencePacket _
  | .fencePacketPass _ | .signalPacket _ | .nopPacket _ | .doorbell _ _ | .qdescWrite _ _ _ | .faultBufferWrite
  | .fbcfgWrite _ | .fbresolveResume _ | .fbresolveAbort _ | .tlbcmdPage _ _ | .tlbcmdSpace _ | .tlbcmdAll
  | .dbgcmdResumeStopIa _ _ | .dbgcmdResumeNext _ _ | .dbgcmdKill _ _ | .bootcmdReset | .bootcmdFullStart
  | .mcbankClear _ | .islctlAutomatic _ _ | .islctlHoldOn _ _ | .islctlGate _ _ | .islandGated _
  | .controlSpaceWrite _ _ | .powerWindow | .moduleReset | .startupStageComplete _ _ | .startupStageTimeout
  | .peerLinkTrain _ _ | .mailboxRequest _ | .worrenStatus | .worrenBankRead _ | .worrenBankClear _
  | .worrenPowerCap _ | .worrenFirmwareChunk _ _ | .worrenActivate | .worrenFloorMap _ | .worrenExtend _ _
  | .worrenAttest _ | .worrenStartReset | .worrenFullStart | .hostCompletion _ _ => none

/-- Decode one 96-bit instruction (R69 steps 3 and 6). A word is an instruction when its fields spell a well-formed one
and every bit that this one does not use is zero, that is, when it is the word of that instruction. -/
def decode (w : Insn) : Except DecodeError Instr :=
  if assigned (wOp w) then
    match build w with
    | none => .error .reservedField
    | some i =>
      if i.wf then
        if encode i == some w then .ok i else .error .mustBeZero
      else .error .reservedOperand
  else .error .unassignedOp

/-- The little-endian value of bytes (R8). -/
def leNat : List Byte → Nat
  | [] => 0
  | b :: bs => b.toNat + 256 * leNat bs

/-- `n` little-endian bytes of a value (R8). -/
def leBytes : Nat → Nat → List Byte
  | 0, _ => []
  | n + 1, v => BitVec.ofNat 8 v :: leBytes n (v / 256)

/-- Decode the first instruction of a byte string, with the rest of it (R45). -/
def decodeBytes (bs : List Byte) : Option (Except DecodeError Instr × List Byte) :=
  if bs.length < 12 then none else some (decode (BitVec.ofNat 96 (leNat (bs.take 12))), bs.drop 12)

end Decode

/-- The decoder seen through the opcode table: the twelve bytes of slot 0, lowest first (R45), bits above `nbits` zero. -/
def decodeTableWord (nbits w : Nat) : Option Instr :=
  match Decode.decodeBytes (Decode.leBytes 12 (w % 2 ^ nbits)) with
  | some (.ok i, _) => some i
  | _ => none

end Sys2Proof
end

