-- ==== Sys2Proof/Machine/State.lean ====
section
/-! DEFINITION. The state of the Aellith as plain data: everything the manual gives the machine, unit by unit
(INVENTORY.md, heading State), the reasons a step can stop, and the state right after module reset. -/

namespace Sys2Proof.Machine

/-- Why the machine stops. Every fault of R167 is a state of the machine (a record, a handler, a parked band), so no
step of this model raises one; the type is closed and its one constructor is the host interface's placeholder. -/
inductive Fault where
  /-- Raised by nothing: kept so that the interface has a value. Safe. -/
  | machineStop
  deriving DecidableEq, Repr

/-- Why a step gives an instruction no meaning. -/
inductive Refusal where
  /-- Raised only by an arm of exec whose instruction has no meaning yet. Safe. -/
  | notModelled (mnemonic : String)
  deriving DecidableEq, Repr

/-! ## Pieces of a sequencer context (R20, R26) -/

/-- One entry of a loop stack: remaining count and body start (R20). -/
structure LoopEnt where
  count : W32
  start : W64
  deriving DecidableEq, Repr

/-- One entry of a call stack: return IA and the loop depth at the call (R21). -/
structure CallEnt where
  ret   : W64
  loops : Nat
  deriving DecidableEq, Repr

/-- A report request: the condition operand, whether values (JMPI, CALLI, UNIF on a scalar) or truth is asked for,
and the parent's IA and instruction for the record of R412. -/
structure ReportReq where
  a    : Src
  val  : Bool
  ia   : W64
  insn : Insn
  deriving DecidableEq, Repr

/-- A segment: id, inclusive range, report request; `only` marks the empty range of R163. -/
structure Seg where
  id    : BitVec 16
  start : W64
  stop  : W64
  only  : Bool
  rep   : Option ReportReq
  deriving DecidableEq, Repr

/-- What a report says (R33, R35). -/
inductive RepKind where
  | empty | allTrue | allFalse | mixed | value (v : W64)
  deriving DecidableEq, Repr

/-- What one group showed of a condition: its kind, its key and its lanes true and false (R34). -/
structure Shown where
  k  : RepKind
  gk : Nat
  lt : Lanes
  lf : Lanes
  deriving DecidableEq, Repr

/-- A report, with the lowest-numbered group of each kind that its subtree showed, in the groups' order (R34). -/
structure Report where
  k    : RepKind
  seen : List Shown
  deriving DecidableEq, Repr

/-- One record of a write log (R26, R27). -/
structure LogRec where
  reg  : BitVec 5
  old  : W64
  full : Bool
  poi  : Bool
  deriving DecidableEq, Repr

/-- A trail entry (R26); `log` stands newest first. -/
structure TrailEnt where
  seg   : Seg
  unfin : Nat
  ia    : W64
  preds : BitVec 16
  loops : List LoopEnt
  depth : Nat
  next  : BitVec 16
  log   : List LogRec
  deriving DecidableEq, Repr

/-- What an agent has already done of an instruction that it has not finished, so that the instruction goes on when
the agent issues again. -/
inductive WaitSt where
  | none
  /-- BAR or BARA arrived in this phase of barrier j; the lanes `rest` had arrived before and still have to (R353). -/
  | bar (j phase : Nat) (rest : Lanes)
  /-- ARWT waits at this offset for a phase other than b; `got` is the POIS of the releasing step (R324). -/
  | arwt (off b : Nat) (got : Option Bool)
  /-- MSEND waits for the answer to this message (R390). -/
  | msend (id : Nat) (res : Option Bool)
  /-- FWAIT holds its destination empty; the old value and full bit stand here (R330, R358). -/
  | fwait (pa : Nat) (reg : BitVec 5) (old : W64) (full : Bool)
  /-- LOCK sleeps on this word (R363). -/
  | lock (pa : Nat)
  /-- CNTWT sleeps on this word until it is at least the target (R360). -/
  | cntwt (pa tgt : Nat)
  /-- TLBINV has dropped its entries and waits for the accesses below this number (R220). -/
  | inval (upto : Nat)
  /-- SLEEPC until this count of the reader's clock, 0 once it is over (R216). -/
  | sleep (wake : Nat)
  /-- RECLAIM has done its checks and its fence; the result of its search, and how far its push has come: the head as read, and whether
  it stands in the object (R373). -/
  | search (name : W64) (found : Option Bool) (push : Option (Nat × Bool))
  /-- RCDRAIN has taken the entry with this number and still has the others to try; `t0` is the count of takings when it began, and the
  rest is as of a RECLAIM (R375). -/
  | drain (cur : Nat) (todo : List Nat) (t0 : Nat) (found : Option Bool) (push : Option (Nat × Bool))
  /-- A split waits in BARW until the phase of barrier j differs from b (R353). -/
  | barw (j b : Nat)
  /-- A split waits in RWAIT for a message in ring r (R390). -/
  | ring (r : Nat)
  /-- A split waits in MWAIT for the operations that write an accumulator, or for all (R314). -/
  | mats (a : Option Nat)
  /-- RET reloads the newest spilled entry of its call stack; `got` is the poison of what came back (R21). -/
  | reload (got : Option Bool)
  deriving DecidableEq, Repr

/-- A full fault request: code, level, lanes, AUX, ADDR, operand field and detail words (R169 to R171). -/
structure FaultReq where
  code  : Nat
  lev   : Nat
  lanes : Lanes
  aux   : W32
  addr  : W64
  opf   : Nat
  det   : List (BitVec 8)
  deriving DecidableEq, Repr

/-- A sequencer context of a unit of level `lvl` with launch-wide number `g` (R17, R20). `place` is its core, cluster
or die number, and `rel` says that it has issued a store, an atomic or a fence since it last emitted a segment (R250). -/
structure Ctx where
  gc      : Nat
  lvl     : Nat
  g       : Nat
  dom     : Nat
  place   : Nat
  sc      : Tab W64
  se      : Tab Bool
  sp      : Tab Bool
  preds   : BitVec 16
  loops   : List LoopEnt
  calls   : Tab CallEnt
  depth   : Nat
  spilled : Nat
  trail   : List TrailEnt
  next    : BitVec 16
  ia      : W64
  segStart : W64
  lower   : Bool
  cur     : Option Seg
  curDone : Bool
  asked   : Bool
  reports : Tab Report
  rep     : Option Report
  held    : Option (FaultReq × W64 × Insn)
  w       : WaitSt
  stopped : Bool
  parked  : Bool
  ended   : Bool
  mcsel   : Nat
  latch   : List W64
  netSeen : Nat
  locSeen : Nat
  rel     : Bool
  deriving DecidableEq, Repr

/-! ## Pieces of a group (R12, R37, R99) -/

/-- A reconvergence record (R36, R184): a token pushed (with its address or none), a deferred or a held record. -/
inductive RecKind where
  | token (ia : Option W64)
  | deferred (target : W64) (mask : Lanes)
  | held (mask : Lanes)
  deriving DecidableEq, Repr

/-- A record and the record below it; `age` grows with each push, and `res` says that it is one of the eight resident ones
(R37). -/
structure Rec where
  k     : RecKind
  below : Option Nat
  age   : Nat
  res   : Bool
  deriving DecidableEq, Repr

/-- A split-table entry (R12). `rj` says that it waits at an RJOIN, `yl` that it gave up its turn (R131). -/
structure Split where
  pc    : W64
  mask  : Lanes
  token : Option W64
  depth : Nat
  top   : Option Nat
  rj    : Bool
  yl    : Bool
  w     : WaitSt
  deriving DecidableEq, Repr

/-- A pin register and its shadow; 0 stands for nothing (R367). -/
structure PinReg where
  v      : W64
  shadow : W64
  deriving DecidableEq, Repr

/-- The region register of a group (R135) with its restart count (R196, R197). -/
structure Region where
  valid    : Bool
  kind     : IdemKind
  index    : BitVec 16
  entry    : W64
  mask     : Lanes
  restarts : Nat
  deriving DecidableEq, Repr

/-- The loop and call stack of a level that stands stopped while a handler runs (R165, R176). -/
structure KeptStacks where
  ck      : Nat
  loops   : List LoopEnt
  calls   : Tab CallEnt
  depth   : Nat
  spilled : Nat
  deriving DecidableEq, Repr

/-- A running trap handler: the fault's level, unit and record, the resume IA, the split table put aside, and the stacks of the
stopped levels (R165, R175). -/
structure Handler where
  code   : Nat
  lev    : Nat
  unit   : UnitRef
  ia     : W64
  rcd    : List (BitVec 8)
  resume : W64
  start  : Nat
  splits : List (Option Split)
  recs   : Tab Rec
  region : Region
  entry  : Nat
  held   : List KeptStacks
  rep412 : Bool
  deriving DecidableEq, Repr

/-- An H fault that met a park: its handler runs on resume (R178, R180). -/
structure PendH where
  u      : UnitRef
  e      : Nat
  f      : FaultReq
  ia     : W64
  insn   : Insn
  seq    : Nat
  rep412 : Bool
  deriving DecidableEq, Repr

/-- A live-mask entry: vector, near and predicate registers and scalars that a SAFEPT saves (R94). -/
structure LiveMask where
  v : List Nat
  n : List Nat
  p : List Nat
  s : List Nat
  deriving DecidableEq, Repr

/-- Why a group does not issue. -/
inductive GStop where
  | run
  | safept
  | pfault
  | halted
  | unitFault
  | restart
  | parked
  deriving DecidableEq, Repr

/-- A group: lanes, split table, registers (R12, R99). Vector words stand at key 32·register + lane. `rot` is the entry that issued
last (R38), `swap` two entries that change places for one round (R131), `pair` an entry with a second slot of a pair to issue, and whether
that slot is the one in hand (R49), `vent` the entry whose VGROW waits for `vwant` registers (R136), `last` one issue that the group may still make after
a park was asked for (R177 step 2), `live94` the live-mask entry of an effective SAFEPT and `kept` what its save wrote (R115). -/
structure Group where
  gc      : Nat
  b       : Nat
  r       : Nat
  slot    : Nat
  nlive   : Nat
  live    : Lanes
  splits  : List (Option Split)
  recs    : Tab Rec
  rot     : Nat
  swap    : Option (Nat × Nat)
  pair    : Option (Nat × Bool)
  pc0     : W64
  seg     : Option Seg
  segDone : Bool
  rep     : Option Report
  vcount  : Nat
  vr      : Tab W32
  ve      : Tab Bool
  vp      : Tab Bool
  nr      : Tab W32
  np      : Tab Bool
  pr      : Tab Lanes
  pins    : List PinReg
  region  : Region
  chk     : Nat
  handler : Option Handler
  stop    : GStop
  pendH   : Option PendH
  clonePend : Option (Lanes × W64 × Insn)
  w       : WaitSt
  vwant   : Nat
  vent    : Nat
  last    : Bool
  live94  : Option Nat
  kept    : Option LiveMask
  mcsel   : Nat
  latch   : List W64
  netSeen : Nat
  locSeen : Nat
  deriving DecidableEq, Repr

/-- A barrier: PHASE and the members that have arrived (R351). -/
structure Barrier where
  phase   : BitVec 4
  arrived : List Nat
  deriving DecidableEq, Repr

/-! ## Memory accesses (R240 to R246) -/

/-- Whose access it is. -/
inductive AgentId where
  | unit (u : UnitRef)
  | host
  | peer (w : Nat)
  deriving DecidableEq, Repr

/-- Where an access goes (R241). -/
inductive Loc where
  | mem (pa : Nat)
  | hostWin (a : Nat)
  | peerWin (w a : Nat)
  | scr (bk off : Nat)
  | nowhere
  deriving DecidableEq, Repr

/-- What an access does. Atomics carry their operation and data; a PREF takes no value (R264). -/
inductive AccKind where
  | read
  | pref
  | write
  | atomic (op : Aop) (t : Ty) (b c : W64) (ret : Bool)
  | fence
  | copy (core id : Nat) (writes : Bool)
  | mat (core id : Nat) (writes : Bool)
  deriving DecidableEq, Repr

/-- Where a returned value goes: registers of a lane, a scalar, a slot of a call stack, a peer (with its tag) or the host. -/
inductive Dest where
  | none
  | vec (gk reg lane : Nat) (t : Ty)
  | scal (ck : Nat) (reg : BitVec 5) (t : Ty)
  | stack (ck slot : Nat)
  | peer (w tag : Nat)
  | host
  deriving DecidableEq, Repr

/-- A pending access. `batch` is the first id of its instruction (R245), `lanes` are the lanes it belongs to and `mask` the split that issued it (R249); `core` is the
core whose view it uses, if any; `taken` is the value a read took, with its poison; `vord` tells when its step on the view was
taken, which orders the atomics of one instruction in the queue to the home slice; `marks` are the packets of a copy by pair and
number (R256), `owes` its writes to the windows that the host or a peer has still to report, by port (R242), and `route` the routers that
its packet crosses (R380). -/
structure Access where
  id    : Nat
  batch : Nat
  by_   : AgentId
  lanes : Lanes
  mask  : Lanes
  core  : Option Nat
  cls   : Nat
  loc   : Loc
  width : Nat
  kind  : AccKind
  ord   : Ord
  sc    : Nat
  data  : List (BitVec 8)
  poi   : Bool
  dest  : Dest
  taken : Option (List (BitVec 8))
  atView : Bool
  vord   : Nat
  atHome : Bool
  inj   : Bool
  pseq  : Nat
  rept  : Bool
  konst : Bool
  marks : List (Nat × Nat)
  owes  : Tab Nat
  route : List Nat
  deriving DecidableEq, Repr

/-- A producer whose value is there and not yet written (R111). -/
structure Producer where
  n    : Nat
  dest : Dest
  val  : List (BitVec 8)
  poi  : Bool
  deriving DecidableEq, Repr

/-! ## Cores, clusters -/

/-- A cached translation (R236). -/
structure TlbEnt where
  space : Nat
  va    : Nat
  bits  : Nat
  pa    : Nat
  w     : Bool
  x     : Bool
  prv   : Bool
  deriving DecidableEq, Repr

/-- A line in a line cache (R47, R53): space, line address, its 64 bytes as one number. -/
structure LineEnt where
  space : Nat
  va    : Nat
  data  : BitVec 512
  deriving DecidableEq, Repr

/-- A queued matrix operation (R308) with what it captured at issue. -/
inductive MatKind where
  | mma (t : Ty) (d ra rb : Nat) (ma mb : W64) (steps ai bi : Nat)
  | aclr (d : Nat)
  | ascl (f : AccFmt) (t : Ty) (d a : Nat) (sa sb : List (BitVec 16))
  | amovv (t : Ty) (gk reg : Nat) (lanes : Lanes) (a row : Nat)
  | asts (t : Ty) (d off : Nat)
  | alds (t : Ty) (d off : Nat)
  | acvtV (f : AccFmt) (wrap : Bool) (t : Ty) (gk reg : Nat) (lanes : Lanes) (a row : Nat)
  | acvtS (f : AccFmt) (wrap : Bool) (t : Ty) (a off : Nat)
  deriving DecidableEq, Repr

/-- A queued operation: its band, accumulators read and written, whether it runs, whether a map or buffer it uses was touched by its
band (R253, R308), and the access of the group that stands for its scratchpad side (R273). `fence` counts the MFENCEs issued before
it (R297, R313), `ia`, `m0` and `m1` are what an event of it records (R202), and `todo` the elements that a scratchpad form has
still to move. -/
structure MatOp where
  id    : Nat
  bk    : Nat
  k     : MatKind
  rd    : List Nat
  wr    : List Nat
  run   : Bool
  taint : Bool
  acc   : Option Nat
  fence : Nat
  ia    : W64
  m0    : W64
  m1    : W64
  todo  : Option (List Nat)
  deriving DecidableEq, Repr

/-- A fault that waits for an MWAIT (R296, R314, R316): its code, the accumulators that its operation writes, the band, and the source of
R201. -/
structure MatFault where
  code : Nat
  accs : List Nat
  bk   : Nat
  src  : Nat
  deriving DecidableEq, Repr

/-- A value that a 32-bit word of plane buffer or map state held before a write (R297), with the number of MFENCEs issued until then. Word
k of the plane store has key k, half h of map m key 32,768 + 2·m + h. -/
structure OldWord where
  key   : Nat
  fence : Nat
  val   : W32
  deriving DecidableEq, Repr

/-- What a copy command moves (R300). -/
inductive CopyKind where
  | g2s | s2g | plane | mScr | mPlane | s2s | red (op : RedOp)
  deriving DecidableEq, Repr

/-- An element of a sector: its row, its byte within the row, its address on the strided side and its bytes, and once it is read what
was there, with its poison. -/
structure Piece where
  row : Nat
  off : Nat
  va  : Nat
  n   : Nat
  got : Option (List (BitVec 8) × Bool)
  deriving DecidableEq, Repr

/-- A sector of a copy that is not complete (R300): its virtual address or scratchpad offset, its physical address, the
band it counts for, the elements still to move (none: no step of it is taken yet), and whether one of them was poisoned. -/
structure Sector where
  va   : Nat
  pa   : Nat
  bk   : Nat
  todo : Option (List Piece)
  poi  : Bool
  deriving DecidableEq, Repr

/-- A drover command: descriptor, arrival word, targets, the sectors not yet complete (R300, R320), and MISC1 of an event that it leads to
(R202). -/
structure Copy where
  id      : Nat
  gk      : Nat
  bk      : Nat
  k       : CopyKind
  base    : W64
  stride  : Nat
  rows    : Nat
  cols    : Nat
  ty      : Nat
  sgn4    : Bool
  prec    : Nat
  other   : Nat
  arr     : Option Nat
  targets : List Nat
  sectors : List Sector
  started : Bool
  acc     : Nat
  m1      : W64
  deriving DecidableEq, Repr

/-- A replay entry (R189): the group, the instruction with its IA and lanes, the values of its sources in each lane as read at
issue, and the results that it committed. -/
structure Replay where
  gk    : Nat
  ia    : W64
  insn  : Insn
  lanes : Lanes
  srcs  : List (List W64)
  res   : List W64
  deriving DecidableEq, Repr

/-- A core. `kv` are the 128-byte lines of the constant path (R263). Accumulator words and plane bytes that are not listed read as free values under the tag of the placement
(R106); `accErr` and `pbErr` are accumulator and plane words with an
uncorrectable error, set by the surroundings (log 15), `mfault` the faults deferred to an MWAIT, by operation, `fences` the MFENCEs
issued and `old` what words held before (R297). -/
structure Core where
  view   : Tab Byte
  kv     : List (Nat × List (BitVec 8))
  tlb    : List TlbEnt
  lines  : List LineEnt
  acc    : Tab W32
  accTag : Nat
  accErr : Tab Bool
  pb     : Tab Byte
  pbErr  : Tab Bool
  mq     : List MatOp
  mseq   : Nat
  mfault : Tab MatFault
  fences : Nat
  old    : List OldWord
  drover : List Copy
  dseq   : Nat
  replay : List (List Replay)
  ev     : Tab Nat
  wfail  : Nat
  gone   : Bool
  deriving DecidableEq, Repr

/-- A cluster controller and its island (R215, R385, R403). `cyc` cycles had passed at network time `nc0`. -/
structure Cluster where
  tlb   : List TlbEnt
  lines : List LineEnt
  homes : List Nat
  cyc   : Nat
  nc0   : Nat
  mhz   : Nat
  ctl   : W64
  isl   : Nat
  walk  : Bool
  walkAt : Nat
  deriving DecidableEq, Repr

/-! ## Launches and the front end -/

/-- A level entry of a launch record (R16). -/
structure Level where
  dom   : Nat
  scope : Nat
  nbar  : Nat
  nscal : Nat
  e0    : Nat
  e1    : Nat
  e2    : Nat
  stk   : Nat
  deriving DecidableEq, Repr

/-- A launch record as read (R333). -/
structure LRec where
  levels  : List Level
  chk     : Nat
  priv    : Bool
  debug   : Bool
  resid   : Bool
  idemp   : Bool
  mat     : Bool
  prodv   : Bool
  prod    : Nat
  pins    : Nat
  scrg    : Nat
  entry   : W64
  handler : W64
  vbase   : Nat
  vmax    : Nat
  lmtab   : W64
  lmcount : Nat
  bsave   : W64
  usave   : W64
  deriving DecidableEq, Repr

/-- A task as the front end knows it: record address, id, priority, address space and directory (R336, R338). -/
structure Task where
  rcd   : W64
  id    : Nat
  prio  : Nat
  space : Nat
  top   : Nat
  tdir  : W64
  tdlim : Nat
  deriving DecidableEq, Repr

/-- An entry of a launch's deferred list (R374): its number, name and head, whether an RCDRAIN has it now, and the count of its last
taking. -/
structure DeferEnt where
  id    : Nat
  name  : W64
  head  : Option W64
  taken : Bool
  tk    : Nat
  deriving DecidableEq, Repr

/-- How far a retirement has come (R340, R374): 0 not begun, 1 the deferred list, 2 the release, 3 the future, 4 the counter, 5 the
successors. `ids` are the entries or successors still to take, `push` how far the push of the first entry has come. -/
structure Retire where
  stage : Nat
  ids   : List Nat
  push  : Option (Nat × Bool)
  deriving DecidableEq, Repr

/-- A running launch in one grid context (R19, R333, R336). `helper` is the task that took it in, ADOPTED of its record and
%helper, and `ups` the chain of takings-in above it, that task first (R327, R346); `dbg` are its contexts above the band domain that a BKPT or
HALT stopped, with their stop IAs (R218, R219, R393). -/
structure Launch where
  t       : Task
  r       : LRec
  save    : W64
  usavex  : W64
  faultrec : W64
  fut     : W64
  counter : W64
  seq     : W32
  defer   : List DeferEnt
  dseq    : Nat
  retire  : Retire
  placed  : Nat
  ended   : Nat
  done    : Bool
  out     : Nat
  code    : Nat
  ups     : List Nat
  helper  : Nat
  dbg     : List (Nat × W64)
  deriving DecidableEq, Repr

/-- What stands in a ready queue (R337, R341). -/
inductive ReadyItem where
  /-- a READY task, with the band that holds its pending-launch entry -/
  | task (t : Task) (bk : Option Nat)
  /-- a parked unit that may resume -/
  | unit (gc b : Nat)
  /-- the rest of a launch whose first unit is placed (R42) -/
  | more (gc : Nat)
  deriving DecidableEq, Repr

/-- A ready-queue entry with its effective priority and age (R342). One that a band has taken in keeps its place until that band has
parked (R346). -/
structure ReadyEnt where
  what  : ReadyItem
  prio  : Nat
  eff   : Nat
  age   : Nat
  taken : Bool
  deriving DecidableEq, Repr

/-! ## Bands and wake-ups -/

/-- Where a band stands. -/
inductive BandSt where
  | unplaced | resident | parked | resuming | ended
  deriving DecidableEq, Repr

/-- A park under way: cause of R182 and the cycle of the request (R177). -/
structure ParkReq where
  cause : Nat
  start : Nat
  deriving DecidableEq, Repr

/-- A take-in agreed and not yet carried out (R346): the grid context of the owner and its ready-queue entry. -/
structure Take where
  gc  : Nat
  ent : ReadyEnt
  deriving DecidableEq, Repr

/-- A receiver ring (R387). -/
structure Ring where
  desc : W64
  h    : W32
  t    : W32
  seq  : BitVec 16
  deriving DecidableEq, Repr

/-- A kill agreed and not yet carried out (R198): the unit, its fault, and the IA, instruction and SEQ of its record. -/
structure Kill where
  u    : UnitRef
  f    : FaultReq
  ia   : W64
  insn : Insn
  seq  : Nat
  deriving DecidableEq, Repr

/-- A band of a launch with number `b` (R334). `pend` holds the addresses of the spawned records with whether their spawn step
is taken (R326); `again` is the clock before which no pre-emption is asked for again (R370) and `kept` a request that applies
once the band runs again (R177); `dying` is a kill that waits for the band's producers (R198); `helps` is the grid context of the task that the parked band took in, and `reserve` the band that runs inside
its resources (R328); `keep` says that they are kept for the resume of the band itself, whose helper field `unlink` then clears (R328);
`owed` are the records that go to the host when the band is saved (R180), and `rcd` the band's last
H fault record, if any (R181). `passed` says that a VGROW parking passed the band over (R370), `wanted` is the ready entry that a band parked
in a wait makes room for (R330), `due` that a parked band waits for room in the ready queues (R342), and `olds` and `fen` are what its
core held of older matrix words when it parked (R297). -/
structure Band where
  gc      : Nat
  b       : Nat
  st      : BandSt
  core    : Nat
  slot    : Nat
  scr     : Tab Byte
  scrP    : Tab Bool
  maps    : Tab W64
  pend    : List (W64 × Bool)
  park    : Option ParkReq
  cause   : Nat
  unres   : Nat
  rings   : Tab Ring
  take    : Option Take
  helps   : Option Nat
  dbg     : Option W64
  dbgUnit : Option (UnitRef × Nat)
  dbgAt   : Nat
  inPlace : Bool
  born    : Nat
  kills   : Nat
  reserve : Option Nat
  keep    : Bool
  unlink  : Bool
  passed  : Bool
  wanted  : Option ReadyItem
  due     : Bool
  olds    : List OldWord
  fen     : Nat
  again   : Nat
  kept    : Bool
  owed    : List (List (BitVec 8))
  rcd     : List (BitVec 8)
  dying   : Option Kill
  deriving DecidableEq, Repr

/-- A wake-up or a lock queue slot in a home slice's table (R330, R361), with the context that waits; `fut` says that the word is a
future. -/
structure Wake where
  pa    : Nat
  task  : Nat
  slot  : Bool
  full  : Bool
  ck    : Nat
  fut   : Bool
  deriving DecidableEq, Repr

/-- A name that stands published outside a core's registers: that of a parked unit (R368), or with `dead` that of a killed one, which
is withdrawn once the accesses of its group below that number are performed (R367). -/
structure ParkedPin where
  name : W64
  task : Nat
  gk   : Nat
  dead : Option Nat
  deriving DecidableEq, Repr

/-- A ring message on its way (R388), with the routers that it crosses (R380) and its number in its pair (R381). -/
structure Msg where
  id   : Nat
  by_  : UnitRef
  e    : Nat
  hdl  : W64
  src  : Nat
  tag  : BitVec 12
  data : List (BitVec 8)
  poi  : List Bool
  route : List Nat
  pair : Nat
  pseq : Nat
  deriving DecidableEq, Repr

/-! ## Host, peers, start-up -/

/-- A host queue descriptor (R343); `fence` says that a FENCE packet is holding the queue. -/
structure QDesc where
  base   : W64
  cfg    : W64
  rd     : W64
  wr     : W64
  space  : W64
  toptab : W64
  tdir   : W64
  tdlim  : W64
  fence  : Bool
  deriving DecidableEq, Repr

/-- What a fault-buffer entry stands for (R395). -/
inductive FbKind where
  | park (gc b : Nat)
  | bkpt (gc b : Nat)
  | grid (ck : Nat)
  | dead
  deriving DecidableEq, Repr

/-- A machine-check bank (R200). -/
structure Bank where
  status : W64
  addr   : W64
  misc0  : W64
  misc1  : W64
  deriving DecidableEq, Repr

/-- The enabled units (R2, R205): bit masks; `cores` stands by physical cluster. -/
structure Floor where
  part   : Nat
  serial : W64
  clus   : BitVec 50
  cores  : List (BitVec 16)
  slices : BitVec 32
  chan   : BitVec 256
  farm   : BitVec 8
  peers  : BitVec 12
  deriving DecidableEq, Repr

/-- The module flash (R402, R407, R408), with the identity key pair that secure storage holds: `idPub` and `idKey` (R408, log 16). -/
structure Flash where
  fails  : Nat
  ctr    : Nat
  slotA  : Tab Byte
  slotB  : Tab Byte
  active : Bool
  pick   : Bool
  map    : List (BitVec 8)
  cert   : List (BitVec 8)
  idPub  : BitVec 512
  idKey  : List (BitVec 8)
  deriving DecidableEq, Repr

/-- Start-up (R401, R402): state as BOOTSTAT[1:0], reason, stage in hand and when it began. -/
structure Boot where
  st     : Nat
  reason : BitVec 8
  stage  : Nat
  since  : Nat
  tested : List (Nat × Bool)
  deriving DecidableEq, Repr

/-- A Wayfare port (R398 to R400). -/
structure PeerPort where
  up    : Bool
  crc   : Nat
  inSeq : Nat
  deriving DecidableEq, Repr

/-- The host-visible registers of R393 that are not held elsewhere. `fbWait` are records that wait for the fault buffer, `fbMeta`
what its entries stand for, with their bytes; `window` is the last power window, `tlbUpto` what TLBCMD waits for, `attest` the nonce of a
report that is being signed, with whether it was asked for through the mailbox, `hostRd` the data
of the host's reads, newest last, `mailReq` the bytes of the mailbox, and `mailRsp` the last response of the Worren port. -/
structure HostRegs where
  qs      : Tab QDesc
  fbBase  : W64
  fbCfg   : W64
  fbHead  : W64
  fbTail  : W64
  fbWait  : List (List (BitVec 8) × FbKind)
  fbMeta  : Tab (FbKind × List (BitVec 8))
  pcap    : W64
  aper    : W64
  tlbCmd  : W64
  tlbVa   : W64
  tlbUpto : Nat
  walkInt : W64
  window  : Nat
  islCtl  : Tab W64
  buckets : Tab W64
  levels  : Tab Int
  meas    : Tab (BitVec 256)
  mailReq : List (BitVec 8)
  mailRsp : List (BitVec 8)
  attest  : Option (Bool × List (BitVec 8))
  vectors : List Nat
  halted  : Bool
  hostRd  : List (List (BitVec 8))
  deriving DecidableEq, Repr

/-- A hardware upset that is still to strike (R187 to R194): an input of the model. Each names what it hits: the residue check or the
clone of a group's instruction, a register word, the predicates and split table of a group, the storage of a context, a line of a
line cache, a word of a band's scratchpad, a line of a core's L1, a word of a core's accumulators or of one of its plane buffers,
a sector of a cellar line, dirty or clean; an error that the code of an array corrects, by the bank of the array's unit and its source of
R201; or a header that comes in at a peer port (R399). -/
inductive Upset where
  | residue (gk : Nat) (lanes : Lanes)
  | cloneNow (gk : Nat) (lanes : Lanes)
  | regWord (gk : Nat) (lanes : Lanes) (near : Bool)
  | grpStore (gk : Nat)
  | ctxStore (ck : Nat)
  | line (va : W64) (twice : Bool)
  | scrWord (bk off : Nat)
  | l1 (core pa : Nat)
  | accWord (core k : Nat)
  | planeWord (core k : Nat)
  | cellar (pa : Nat) (dirty : Bool)
  | soft (bank src : Nat)
  | header (w : Nat) (bits : BitVec 128)
  deriving DecidableEq, Repr

/-- An error of a stored sector (R194): one wrong bit, two of them, or the hash of another address, to which the data was to go. -/
inductive SecErr where
  | single
  | double
  | moved (meant : Nat)
  deriving DecidableEq, Repr

/-- The instruction in hand: who issues it, from where, and its bits. -/
structure Cur where
  u    : UnitRef
  e    : Nat
  ia   : W64
  insn : Insn
  deriving DecidableEq, Repr

/-- The machine. `covers` are the copies, by their access, that are writing a whole sector in which nobody has set poison since (R194);
`blocked` are the BLOCKED tasks by the address of their record, with the space and directory of their spawner (R338,
R339), `routes` are the tables of the routers and `links` the packets in the queue of each first link, at key 64 · router +
neighbour (R380). -/
structure State where
  agenda  : List Turn
  tick    : Nat
  fresh   : Nat
  cur     : Cur
  upsets  : List Upset
  mem     : List Host.Cell
  pois    : Tab Bool
  badSec  : Tab SecErr
  covers  : Tab (List Nat)
  accs    : List Access
  accSeq  : Nat
  prods   : List Producer
  prodSeq : Nat
  pairSeq : Tab Nat
  cores   : Tab Core
  clusters : Tab Cluster
  fabric  : Tab Cluster
  launches : Tab Launch
  ctxs    : Tab Ctx
  bands   : Tab Band
  groups  : Tab Group
  bars    : Tab Barrier
  parkedBars : Tab Barrier
  pins    : List ParkedPin
  wakes   : List Wake
  ovf     : List Wake
  ready   : List ReadyEnt
  blocked : List (Nat × Task)
  msgs    : List Msg
  msgSeq  : Nat
  host    : HostRegs
  banks   : Tab Bank
  floor   : Floor
  flash   : Flash
  boot    : Boot
  peers   : Tab PeerPort
  routes  : Tab (List Nat)
  links   : Tab (List Nat)
  nc      : Nat
  deriving DecidableEq, Repr

/-- Every unit of an OA-800 enabled (log 4). -/
def Floor.full : Floor :=
  { part := 800, serial := 0, clus := BitVec.allOnes 50, cores := List.replicate 50 (BitVec.allOnes 16),
    slices := BitVec.allOnes 32, chan := BitVec.allOnes 256, farm := BitVec.allOnes 8, peers := BitVec.allOnes 12 }

/-- The floor map that names an OA-800 with every unit, as the flash holds it (R205, log 4): its signature field is zeros. -/
def fullMap : List (BitVec 8) :=
  [0x4F, 0x41, 0x46, 0x4D, 0x00, 0x01, 0x20, 0x03] ++ List.replicate 8 0 ++ List.replicate 6 0xFF ++ [0x03, 0x00] ++
  List.replicate 100 0xFF ++ List.replicate 4 0xFF ++ List.replicate 32 0xFF ++ [0xFF, 0xFF, 0x0F] ++ List.replicate (93 + 29792) 0

/-- The control space at reset (R393): every register 0 but PCAP 1600 and WALKINT 0x100. -/
def HostRegs.reset : HostRegs :=
  { qs := [], fbBase := 0, fbCfg := 0, fbHead := 0, fbTail := 0, fbWait := [], fbMeta := [], pcap := 1600, aper := 0,
    tlbCmd := 0, tlbVa := 0, tlbUpto := 0, walkInt := 0x100, window := 0, islCtl := [], buckets := [], levels := [], meas := [], mailReq := [],
    mailRsp := [], attest := none, vectors := [], halted := false, hostRd := [] }

/-- The module right after reset: the first start-up stage has begun (R401), nothing is placed, queued or pending. -/
def State.reset : State :=
  { agenda := [], tick := 0, fresh := 0, cur := { u := .grp 0, e := 0, ia := 0, insn := 0 }, upsets := [], mem := [],
    pois := [], badSec := [], covers := [], accs := [], accSeq := 0, prods := [], prodSeq := 0, pairSeq := [], cores := [],
    clusters := [], fabric := [], launches := [], ctxs := [], bands := [], groups := [], bars := [], parkedBars := [],
    pins := [], wakes := [], ovf := [], ready := [], blocked := [], msgs := [], msgSeq := 0, host := HostRegs.reset, banks := [],
    floor := Floor.full,
    flash := { fails := 0, ctr := 0, slotA := [], slotB := [], active := false, pick := false, map := fullMap, cert := [], idPub := 0, idKey := [] },
    boot := { st := 0, reason := 0, stage := 1, since := 0, tested := [] }, peers := [], routes := [], links := [], nc := 0 }

end Sys2Proof.Machine
end

