-- ==== Sys2Proof/Machine/Tab.lean ====
section
/-! DEFINITION. Tables of keys and values in canonical form, memory as a table of bytes, and byte strings (R8). -/

namespace Sys2Proof.Machine

/-- The value at a key, if it is listed. -/
def tabGet? {α : Type} : Tab α → Nat → Option α
  | [], _ => none
  | (k, v) :: r, i => if i = k then some v else tabGet? r i

/-- The value at a key, or the default. -/
def tabGet {α : Type} (d : α) (t : Tab α) (i : Nat) : α := (tabGet? t i).getD d

/-- List a value at a key. -/
def tabSet {α : Type} : Tab α → Nat → α → Tab α
  | [], i, v => [(i, v)]
  | (k, w) :: r, i, v => if i < k then (i, v) :: (k, w) :: r else if i = k then (i, v) :: r else (k, w) :: tabSet r i v

/-- Unlist a key. -/
def tabDel {α : Type} (t : Tab α) (i : Nat) : Tab α := t.filter (fun p => p.1 != i)

/-- Write a value; the default is not listed, so equal tables are equal lists. -/
def tabPut {α : Type} [DecidableEq α] (d : α) (t : Tab α) (i : Nat) (v : α) : Tab α :=
  if v = d then tabDel t i else tabSet t i v

/-- Change a listed value. -/
def tabUpd {α : Type} (t : Tab α) (i : Nat) (f : α → α) : Tab α := t.map (fun p => if p.1 = i then (p.1, f p.2) else p)

/-- Keys strictly rising, all above a bound. -/
def keysAbove {α : Type} : Option Nat → Tab α → Bool
  | _, [] => true
  | b, (k, _) :: r => (match b with | some j => decide (j < k) | none => true) && keysAbove (some k) r

/-- The canonical form of memory: addresses strictly rising and no listed byte equal to 0, what an unlisted address
reads as (log 3). -/
def Memory.wf (m : List Host.Cell) : Bool := keysAbove none m && m.all (fun c => c.2 != 0)

/-- One byte of memory; an address that nothing has written reads 0 (log 3). -/
def memByte (m : List Host.Cell) (a : Nat) : Byte := tabGet (0 : Byte) m a

/-- Write one byte of memory. -/
def memPut (m : List Host.Cell) (a : Nat) (b : Byte) : List Host.Cell := tabPut (0 : Byte) m a b

/-- `n` bytes from an address. -/
def memRead (m : List Host.Cell) (a : Nat) : Nat → List Byte
  | 0 => []
  | n + 1 => memByte m a :: memRead m (a + 1) n

/-- Write bytes from an address on. -/
def memWrite (m : List Host.Cell) (a : Nat) : List Byte → List Host.Cell
  | [] => m
  | b :: bs => memWrite (memPut m a b) (a + 1) bs

/-- The little-endian value of bytes (R8). -/
abbrev leNat (bs : List Byte) : Nat := Decode.leNat bs

/-- `n` little-endian bytes of a value (R8). -/
abbrev leBytes (n v : Nat) : List Byte := Decode.leBytes n v

/-- A value of `n` little-endian bytes at an address. -/
def memNat (m : List Host.Cell) (a n : Nat) : Nat := leNat (memRead m a n)

/-- Write a value as `n` little-endian bytes. -/
def memPutNat (m : List Host.Cell) (a n v : Nat) : List Host.Cell := memWrite m a (leBytes n v)

/-- Bits [hi:lo] of a number. -/
def bitsOf (v hi lo : Nat) : Nat := v / 2 ^ lo % 2 ^ (hi + 1 - lo)

/-- Bit n of a number. -/
def bitOf (v n : Nat) : Bool := v / 2 ^ n % 2 == 1

/-- A Bool as a number. -/
def b2n (b : Bool) : Nat := if b then 1 else 0

/-- The element at an index, if the list is that long. -/
def nth? {α : Type} (l : List α) (n : Nat) : Option α := l[n]?

/-- Replace the element at an index. -/
def setNth {α : Type} : List α → Nat → α → List α
  | [], _, _ => []
  | _ :: r, 0, v => v :: r
  | x :: r, n + 1, v => x :: setNth r n v

/-- The lanes of a mask, lowest first. -/
def lanesOf (m : Lanes) : List Nat := (List.range 32).filter (fun i => m.getLsbD i)

/-- The mask of the lanes that meet a test. -/
def maskOf (p : Nat → Bool) : Lanes := (List.range 32).foldl (fun m i => if p i then m ||| BitVec.twoPow 32 i else m) 0

/-- How many lanes a mask holds. -/
def laneCount (m : Lanes) : Nat := (lanesOf m).length

/-- The lowest lane of a mask, or 0. -/
def lowLane (m : Lanes) : Nat := (lanesOf m).head?.getD 0

/-- The first `n` lanes. -/
def lowMask (n : Nat) : Lanes := BitVec.ofNat 32 (2 ^ n - 1)

/-- The product of a list. -/
def prodL (l : List Nat) : Nat := l.foldl (· * ·) 1

/-- The sum of a list. -/
def sumL (l : List Nat) : Nat := l.foldl (· + ·) 0

/-- The largest element, or 0. -/
def maxL (l : List Nat) : Nat := l.foldl max 0

end Sys2Proof.Machine
end

