-- ==== Sys2Proof/Machine/Geom.lean ====
section
/-! DEFINITION. The shape of a launch (R16 to R19, R334), the keys of its units, and instruction addresses (R51, R52). -/

namespace Sys2Proof.Machine

/-! ## Domains (R16) -/

/-- DOM of the group domain. -/
abbrev domGroup : Nat := 1
/-- DOM of the band domain. -/
abbrev domBand : Nat := 2
/-- DOM of the cluster domain. -/
abbrev domCluster : Nat := 3
/-- DOM of the die domain. -/
abbrev domDie : Nat := 4
/-- DOM of the device domain. -/
abbrev domDevice : Nat := 5

/-! ## Keys -/

/-- The key of a sequencer context. -/
def ctxKey (gc lvl g : Nat) : Nat := (g * 8 + lvl) * 64 + gc

/-- The key of a band. -/
def bandKey (gc b : Nat) : Nat := b * 64 + gc

/-- The key of a group: group r of band b. -/
def grpKey (gc b r : Nat) : Nat := (b * 16 + r) * 64 + gc

/-- The key of barrier j of the unit with a context key (R351). -/
def barKey (ck j : Nat) : Nat := ck * 8 + j

/-! ## Levels -/

/-- An undeclared level. -/
def Level.zero : Level := ⟨0, 0, 0, 0, 0, 0, 0, 0⟩

/-- Level k of a launch record. -/
def LRec.lvl (r : LRec) (k : Nat) : Level := (nth? r.levels k).getD Level.zero

/-- The top level (R6). -/
def LRec.top (r : LRec) : Nat := r.levels.length - 1

/-- The extent of a level (R16). -/
def Level.ext (l : Level) : Nat := l.e0 * l.e1 * l.e2

/-- The product of the extents of levels i to j − 1. -/
def LRec.extents (r : LRec) (i j : Nat) : Nat :=
  prodL (((List.range j).filter (fun k => decide (i ≤ k))).map (fun k => (r.lvl k).ext))

/-- The group-domain level, if one is declared: level 1 (R6, R18). -/
def LRec.grpLev (r : LRec) : Option Nat := if (r.lvl 1).dom = domGroup then some 1 else none

/-- The highest band-domain level, if any: one unit of it is a band (R18 condition 6). -/
def LRec.bandLev (r : LRec) : Option Nat :=
  ((List.range r.levels.length).filter (fun k => (r.lvl k).dom = domBand)).getLast?

/-- Groups of one band (R17, R18): with no band-domain level every group is a band of its own. -/
def LRec.gpb (r : LRec) : Nat := match r.bandLev with | some k => r.extents 1 k | none => 1

/-- Live lanes of a group (R17). -/
def LRec.nlive (r : LRec) : Nat := (r.lvl 0).ext

/-- All the groups of a launch: the units of level 1. -/
def LRec.groups (r : LRec) : Nat := r.extents 1 (r.top + 1)

/-- All the bands of a launch. -/
def LRec.bands (r : LRec) : Nat := r.groups / r.gpb

/-- The launch-wide number of the level-k ancestor of group number G of the launch (R17). -/
def LRec.anc (r : LRec) (G k : Nat) : Nat := G / r.extents 1 k

/-- The launch-wide number of the level-k ancestor of unit g of level j ≤ k. -/
def LRec.ancFrom (r : LRec) (j g k : Nat) : Nat := g / r.extents j k

/-- The linear number u of unit g of level k within its parent (R17). -/
def LRec.lin (r : LRec) (k g : Nat) : Nat := if k = r.top then g else g % (r.lvl k).ext

/-- The band of unit g of a level below or at the band domain. -/
def LRec.bandOf (r : LRec) (k g : Nat) : Nat :=
  match r.bandLev with | some hb => r.ancFrom k g hb | none => g

/-- The level whose units are placed whole (R42): the highest cluster- or die-domain level, or none. -/
def LRec.wholeLev (r : LRec) : Option Nat :=
  ((List.range r.levels.length).filter
    (fun k => (r.lvl k).dom = domCluster ∨ (r.lvl k).dom = domDie)).getLast?

/-- Bands of one unit of level k, at or above the band domain. -/
def LRec.bandsOf (r : LRec) (k : Nat) : Nat := r.extents 1 k / r.gpb

/-- Slices of one group at a vector count (R39). -/
def slices (nlive vcount : Nat) : Nat := (nlive + 7) / 8 * (vcount / 8)

/-! ## Look-up -/

/-- The launch in a grid context. -/
def State.launch? (s : State) (gc : Nat) : Option Launch := tabGet? s.launches gc

/-- An empty launch record. -/
def LRec.none : LRec :=
  { levels := [], chk := 0, priv := false, debug := false, resid := false, idemp := false, mat := false, prodv := false,
    prod := 0, pins := 0, scrg := 0, entry := 0, handler := 0, vbase := 0, vmax := 0, lmtab := 0, lmcount := 0,
    bsave := 0, usave := 0 }

/-- The launch record in a grid context. -/
def State.lrec (s : State) (gc : Nat) : LRec := match s.launch? gc with | some l => l.r | none => LRec.none

/-- The task in a grid context. -/
def State.task (s : State) (gc : Nat) : Task :=
  match s.launch? gc with | some l => l.t | none => ⟨0, 0x3FFFFFFF, 0, 0, 0, 0, 0⟩

/-- Change a launch. -/
def State.updLaunch (s : State) (gc : Nat) (f : Launch → Launch) : State := { s with launches := tabUpd s.launches gc f }

/-- A context. -/
def State.ctx? (s : State) (ck : Nat) : Option Ctx := tabGet? s.ctxs ck

/-- Change a context. -/
def State.updCtx (s : State) (ck : Nat) (f : Ctx → Ctx) : State := { s with ctxs := tabUpd s.ctxs ck f }

/-- A group. -/
def State.grp? (s : State) (gk : Nat) : Option Group := tabGet? s.groups gk

/-- Change a group. -/
def State.updGrp (s : State) (gk : Nat) (f : Group → Group) : State := { s with groups := tabUpd s.groups gk f }

/-- A band. -/
def State.band? (s : State) (bk : Nat) : Option Band := tabGet? s.bands bk

/-- Change a band. -/
def State.updBand (s : State) (bk : Nat) (f : Band → Band) : State := { s with bands := tabUpd s.bands bk f }

/-- The core where a band stands. -/
def coreAt (s : State) (bk : Nat) : Nat := match s.band? bk with | some b => b.core | none => 0

/-- A core that has done nothing yet. -/
def Core.fresh : Core :=
  { view := [], kv := [], tlb := [], lines := [], acc := [], accTag := 0, accErr := [], pb := [], pbErr := [], mq := [], mseq := 0, mfault := [],
    fences := 0, old := [], drover := [], dseq := 0, replay := [[], [], [], []], ev := [], wfail := 0, gone := false }

/-- A core. -/
def State.core (s : State) (c : Nat) : Core := tabGet Core.fresh s.cores c

/-- Change a core. -/
def State.updCore (s : State) (c : Nat) (f : Core → Core) : State :=
  { s with cores := tabSet s.cores c (f (s.core c)) }

/-- A cluster controller right after reset: its island on and automatic at nominal frequency (R403, R404). -/
def Cluster.fresh : Cluster :=
  { tlb := [], lines := [], homes := [], cyc := 0, nc0 := 0, mhz := 1100, ctl := 0, isl := 0, walk := false, walkAt := 0 }

/-- A cluster. -/
def State.cluster (s : State) (c : Nat) : Cluster := tabGet Cluster.fresh s.clusters c

/-- Change a cluster. -/
def State.updCluster (s : State) (c : Nat) (f : Cluster → Cluster) : State :=
  { s with clusters := tabSet s.clusters c (f (s.cluster c)) }

/-- A die fabric, or at key 10 the front end's. -/
def State.die (s : State) (d : Nat) : Cluster := tabGet Cluster.fresh s.fabric d

/-- Change a die fabric. -/
def State.updDie (s : State) (d : Nat) (f : Cluster → Cluster) : State :=
  { s with fabric := tabSet s.fabric d (f (s.die d)) }

/-- Cores of a cluster that the floor map enables, in physical order (R205). -/
def Floor.coresOf (f : Floor) (c : Nat) : List Nat :=
  (List.range 16).filter (fun k => ((nth? f.cores c).getD 0).getLsbD k && f.clus.getLsbD c)

/-- Physical core numbers 16·cluster + k, enabled, in order: the index in this list is %core (R107). -/
def Floor.allCores (f : Floor) : List Nat :=
  ((List.range 50).map (fun c => (f.coresOf c).map (fun k => 16 * c + k))).flatten

/-- Enabled clusters in physical order. -/
def Floor.allClus (f : Floor) : List Nat := (List.range 50).filter (fun c => f.clus.getLsbD c)

/-- Enabled slices in physical order. -/
def Floor.allSlices (f : Floor) : List Nat := (List.range 32).filter (fun c => f.slices.getLsbD c)

/-- Enabled HBM channels. -/
def Floor.nchan (f : Floor) : Nat := ((List.range 256).filter (fun c => f.chan.getLsbD c)).length

/-- Enabled far-memory modules. -/
def Floor.nfar (f : Floor) : Nat := ((List.range 8).filter (fun c => f.farm.getLsbD c)).length

/-- The physical number 16·cluster + k of core number n (R107). -/
def physCore (f : Floor) (n : Nat) : Nat := (nth? f.allCores n).getD 0

/-- The cluster number of core number n (R107). -/
def clusOfCore (f : Floor) (n : Nat) : Nat :=
  ((f.allClus.zipIdx).find? (fun p => p.1 == physCore f n / 16)).elim 0 (·.2)

/-- The die of a cluster number: five clusters a die in physical order (R3). -/
def dieOfClus (f : Floor) (n : Nat) : Nat := (nth? f.allClus n).getD 0 / 5

/-- The die of core number n. In floor mode it stays the die where the core is made: R107 counts enabled units, and no rule says whether
a die without enabled clusters is one (log 27). -/
def dieOfCore (f : Floor) (n : Nat) : Nat := physCore f n / 80

/-! ## Instruction addresses -/

/-- The byte address of an IA's line (R51). -/
def iaLine (ia : W64) : Nat := ia.toNat / 64 * 64

/-- The slot of an IA (R51). -/
def iaSlot (ia : W64) : Nat := ia.toNat % 8

/-- Whether bits [63:57] equal bit 56 (R51, R226). -/
def vaOk (a : W64) : Bool := a.extractLsb' 57 7 == (if a.getLsbD 56 then BitVec.allOnes 7 else 0)

/-- Whether an IA has the form of R51. -/
def iaOk (ia : W64) : Bool := vaOk ia && ia.extractLsb' 3 3 == 0 && decide (iaSlot ia ≤ 4)

/-- An IA from a line address and a slot. -/
def iaMk (line slot : Nat) : W64 := BitVec.ofNat 64 (line + slot)

/-- The next slot (R52). -/
def iaNext (ia : W64) : W64 := if iaSlot ia = 4 then iaMk (iaLine ia + 64) 0 else ia + 1

/-- The slot before (R52). -/
def iaPrev (ia : W64) : W64 := if iaSlot ia = 0 then BitVec.ofNat 64 (iaLine ia + 2 ^ 64 - 64 + 4) else ia - 1

/-- The linear slot index (R52). -/
def iaLin (ia : W64) : Nat := 5 * (ia.toNat / 64) + iaSlot ia

/-- The IA a slot offset away (R52). For a line before 0 or from 2^58 on the manual gives no IA: the address wraps in 64 bits (log 27). -/
def iaAdd (ia : W64) (off : BitVec 24) : W64 :=
  let n : Int := (iaLin ia : Int) + off.toInt
  BitVec.ofInt 64 (n.fdiv 5 * 64 + n.fmod 5)

/-- Whether an IA lies in a segment's range, both ends inclusive (R22). -/
def inSeg (g : Seg) (ia : W64) : Bool := decide (iaLin g.start ≤ iaLin ia) && decide (iaLin ia ≤ iaLin g.stop) && !g.only

/-- Whether segment id a is newer than b, modulo 2^16 within a window of 32 (R32). -/
def newer (a b : BitVec 16) : Bool := let d := (a - b).toNat; decide (1 ≤ d) && decide (d ≤ 32)

end Sys2Proof.Machine
end

