-- ==== Sys2Proof/Machine/Fresh.lean ====
section
/-! DEFINITION. Units and launches right after placement (R106, R333). -/

namespace Sys2Proof.Machine

/-- A context right after placement. -/
def Ctx.fresh (gc lvl g dom place : Nat) (ia : W64) : Ctx :=
  { gc := gc, lvl := lvl, g := g, dom := dom, place := place, sc := [], se := [], sp := [], preds := 0, loops := [],
    calls := [], depth := 0, spilled := 0, trail := [], next := 0, ia := ia, segStart := ia, lower := false, cur := none,
    curDone := false, asked := false, reports := [], rep := none, held := none, w := .none, stopped := false,
    parked := false, ended := false, mcsel := 0, latch := [0, 0, 0, 0], netSeen := 0, locSeen := 0, rel := false }

/-- A group right after placement: one entry at `ia` with every live lane (R12, R106). -/
def Group.fresh (gc b r slot nlive vcount chk : Nat) (ia : W64) : Group :=
  { gc := gc, b := b, r := r, slot := slot, nlive := nlive, live := lowMask nlive,
    splits := [some ⟨ia, lowMask nlive, none, 0, none, false, false, .none⟩, none, none, none], recs := [], rot := 3, swap := none, pair := none, pc0 := ia,
    seg := none, segDone := false, rep := none, vcount := vcount, vr := [], ve := [], vp := [], nr := [], np := [],
    pr := [], pins := List.replicate 4 ⟨0, 0⟩, region := ⟨false, .grp, 0, 0, 0, 0⟩, chk := chk, handler := none,
    stop := .run, pendH := none, clonePend := none, w := .none, vwant := 0, vent := 0, last := false, live94 := none, kept := none, mcsel := 0,
    latch := [0, 0, 0, 0], netSeen := 0, locSeen := 0 }

/-- A band that has not been placed. -/
def Band.fresh (gc b : Nat) : Band :=
  { gc := gc, b := b, st := .unplaced, core := 0, slot := 0, scr := [], scrP := [], maps := [],
    pend := [], park := none, cause := 0, unres := 0, rings := [], take := none, helps := none, dbg := none, dbgUnit := none, dbgAt := 0,
    inPlace := false, born := 0, kills := 0, reserve := none, keep := false, unlink := false, passed := false, wanted := none, due := false, olds := [], fen := 0, again := 0, kept := false, owed := [], rcd := [], dying := none }

/-- A launch right after its record is read. -/
def Launch.fresh (t : Task) (r : LRec) : Launch :=
  { t := t, r := r, save := 0, usavex := 0, faultrec := 0, fut := 0, counter := 0, seq := 0, defer := [], dseq := 0, retire := ⟨0, [], none⟩, placed := 0,
    ended := 0, done := false, out := 0, code := 0, ups := [], helper := 0x3FFFFFFF, dbg := [] }

end Sys2Proof.Machine
end

