-- ==== Sys2Proof/Machine/Regs.lean ====
section
/-! DEFINITION. Reading and writing registers: scalars with the write log (R26, R27), ancestor scalars (R25, R32), vector,
near and predicate registers with their full/empty bits and poison marks (R99 to R114, R195), and free values (R10). -/

namespace Sys2Proof.Machine

/-! ## Free values -/

/-- The next free value of w bits. -/
def freeNow (s : State) (w : Nat) : BitVec w := Config.freeBits w s.fresh

/-- Take a free value. -/
def State.tick1 (s : State) : State := { s with fresh := s.fresh + 1 }

/-! ## Scalars -/

/-- A register's value, full/empty bit and poison mark. -/
structure Cell where
  v    : W64
  full : Bool
  poi  : Bool
  deriving DecidableEq, Repr

/-- A scalar of a context as it stands. -/
def Ctx.cell (c : Ctx) (r : BitVec 5) : Cell :=
  ⟨tabGet 0 c.sc r.toNat, !tabGet false c.se r.toNat, tabGet false c.sp r.toNat⟩

/-- Write a scalar with its full/empty bit and poison mark, unlogged. -/
def Ctx.put (c : Ctx) (r : BitVec 5) (x : Cell) : Ctx :=
  { c with sc := tabPut 0 c.sc r.toNat x.v, se := tabPut false c.se r.toNat (!x.full), sp := tabPut false c.sp r.toNat x.poi }

/-- Whether the write log has room, or none is kept (R27). -/
def Ctx.logRoom (c : Ctx) : Bool := match c.trail.getLast? with | some e => decide (e.log.length < 4) | none => true

/-- Log the old value of a scalar in the newest live trail entry, while any segment is unretired (R27). -/
def Ctx.log (c : Ctx) (r : BitVec 5) : Ctx :=
  match c.trail.reverse with
  | [] => c
  | e :: older =>
    let x := c.cell r
    { c with trail := (({ e with log := ⟨r, x.v, x.full, x.poi⟩ :: e.log } : TrailEnt) :: older).reverse }

/-- Write a scalar and log its old value (R27). The caller tests logRoom. -/
def Ctx.write (c : Ctx) (r : BitVec 5) (x : Cell) : Ctx := (c.log r).put r x

/-- Undo one log record (R31). -/
def Ctx.undoRec (c : Ctx) (l : LogRec) : Ctx := c.put l.reg ⟨l.old, l.full, l.poi⟩

/-- A scalar as it stood when the segment with this id was emitted: the logs of the entries from the newest back to that
one are undone (R25). None if the entry is not live. -/
def Ctx.cellAt (c : Ctx) (id : BitVec 16) (r : BitVec 5) : Option Cell :=
  if c.trail.any (fun e => e.seg.id == id) then
    let es := (c.trail.dropWhile (fun e => e.seg.id != id)).reverse
    some ((es.foldl (fun c e => e.log.foldl Ctx.undoRec c) c).cell r)
  else none

/-- The predicate p of a context; p15 reads 1 (R103). -/
def Ctx.pred (c : Ctx) (p : BitVec 4) : Bool := p == 15 || c.preds.getLsbD p.toNat

/-- Write a predicate of a context; writes to p15 are ignored (R103). -/
def Ctx.setPred (c : Ctx) (p : BitVec 4) (v : Bool) : Ctx :=
  if p == 15 then c
  else { c with preds := if v then c.preds ||| BitVec.twoPow 16 p.toNat else c.preds &&& ~~~(BitVec.twoPow 16 p.toNat) }

/-! ## Who is who -/

/-- Group number G of a group within its launch: the launch-wide number of its level-1 ancestor (R17). -/
def Group.num (g : Group) (r : LRec) : Nat := g.b * r.gpb + g.r

/-- The key of the level-k ancestor of a group. -/
def grpAnc (s : State) (g : Group) (k : Nat) : Nat := let r := s.lrec g.gc; ctxKey g.gc k (r.anc (g.num r) k)

/-- The key of the level-k ancestor of a context, itself included. -/
def ctxAnc (s : State) (c : Ctx) (k : Nat) : Nat := ctxKey c.gc k ((s.lrec c.gc).ancFrom c.lvl c.g k)

/-- The grid context of a unit. -/
def gcOf (s : State) : UnitRef → Nat
  | .grp k => match s.grp? k with | some g => g.gc | none => 0
  | .ctx k => match s.ctx? k with | some c => c.gc | none => 0

/-- The key of the unit's level-k ancestor context. -/
def ancKey (s : State) (u : UnitRef) (k : Nat) : Nat :=
  match u with
  | .grp gk => match s.grp? gk with | some g => grpAnc s g k | none => 0
  | .ctx ck => match s.ctx? ck with | some c => ctxAnc s c k | none => 0

/-- The current segment of the child of level k on the way from a unit up to its level-k ancestor. -/
def segOnPath (s : State) (u : UnitRef) (k : Nat) : Option Seg :=
  match u with
  | .grp gk =>
    match s.grp? gk with
    | none => none
    | some g =>
      let r := s.lrec g.gc
      if k = 1 ∨ (k = 2 ∧ r.grpLev = some 1) then g.seg
      else (s.ctx? (grpAnc s g (k - 1))).bind (fun c => c.cur)
  | .ctx ck =>
    match s.ctx? ck with
    | none => none
    | some c => (s.ctx? (ctxAnc s c (k - 1))).bind (fun c => c.cur)

/-- Whether the group-domain level is the top level: its groups then walk the code with no segment. -/
def grpTop (r : LRec) : Bool := r.grpLev == some 1 && r.top == 1

/-- The key of the group whose sequencer runs a group-domain context. -/
def grpOfCtx (s : State) (c : Ctx) : Nat := let r := s.lrec c.gc; grpKey c.gc (c.g / r.gpb) (c.g % r.gpb)

/-- Whether a trap handler runs in the unit's group. -/
def inHandler (s : State) : UnitRef → Bool
  | .grp k => match s.grp? k with | some g => g.handler.isSome | none => false
  | .ctx k => match s.ctx? k with
    | some c => c.dom == domGroup && (match s.grp? (grpOfCtx s c) with | some g => g.handler.isSome | none => false)
    | none => false

/-- The context whose own scalars an instruction of level `lev` names (R103, R139). -/
def ownKey (s : State) (u : UnitRef) (lev : Nat) : Nat :=
  match u with | .ctx ck => ck | .grp _ => ancKey s u lev

/-- A scalar operand read by a unit at an instruction of level `lev`: its own, or that of level j as it stood when the
segment in hand was emitted (R25). None while a resumed child must wait for the re-emission (R32). In a handler an
ancestor whose segment has retired reads as it stands (log 19). -/
def readScal (s : State) (u : UnitRef) (lev : Nat) (l : BitVec 3) (r : BitVec 5) : Option Cell :=
  let j := if l == 0 then lev else l.toNat
  let own := ownKey s u lev
  if j = lev then (s.ctx? own).map (fun c => c.cell r)
  else
    let ak := ancKey s u j
    match s.ctx? ak with
    | none => none
    | some c =>
      if c.dom = domGroup then some (c.cell r)
      else match segOnPath s u j with
        | some g => match c.cellAt g.id r with
          | some x => some x
          | none => if inHandler s u then some (c.cell r) else none
        | none => some (c.cell r)

/-! ## Vector, near and predicate registers -/

/-- The key of a vector or near word. -/
abbrev vkey (r lane : Nat) : Nat := 32 * r + lane

/-- A vector register word. -/
def Group.vword (g : Group) (r lane : Nat) : W32 := tabGet 0 g.vr (vkey r lane)

/-- A near register word. -/
def Group.nword (g : Group) (r lane : Nat) : W32 := tabGet 0 g.nr (vkey r lane)

/-- Whether a vector word is empty (R110). -/
def Group.vempty (g : Group) (r lane : Nat) : Bool := tabGet false g.ve (vkey r lane)

/-- Write a vector word: full, its poison mark set or cleared (R111, R195). -/
def Group.setV (g : Group) (r lane : Nat) (v : W32) (poi : Bool) : Group :=
  { g with vr := tabPut 0 g.vr (vkey r lane) v, ve := tabPut false g.ve (vkey r lane) false,
           vp := tabPut false g.vp (vkey r lane) poi }

/-- Mark a vector word empty (R110). -/
def Group.emptyV (g : Group) (r lane : Nat) : Group := { g with ve := tabPut false g.ve (vkey r lane) true }

/-- Write a near word. -/
def Group.setN (g : Group) (r lane : Nat) (v : W32) (poi : Bool) : Group :=
  { g with nr := tabPut 0 g.nr (vkey r lane) v, np := tabPut false g.np (vkey r lane) poi }

/-- Predicate p of a lane; p15 reads 1 (R103). -/
def Group.pred (g : Group) (p : BitVec 4) (lane : Nat) : Bool := p == 15 || (tabGet (0 : Lanes) g.pr p.toNat).getLsbD lane

/-- Write predicate p in the lanes of a mask; writes to p15 are ignored (R103). -/
def Group.setPred (g : Group) (p : BitVec 4) (m v : Lanes) : Group :=
  if p == 15 then g
  else { g with pr := tabPut 0 g.pr p.toNat ((tabGet (0 : Lanes) g.pr p.toNat &&& ~~~m) ||| (v &&& m)) }

/-- The low and high words of a 64-bit value. -/
def lo32 (v : W64) : W32 := v.setWidth 32
/-- The high word. -/
def hi32 (v : W64) : W32 := (v >>> 32).setWidth 32
/-- A 64-bit value of two words, low first (R63). -/
def mk64 (lo hi : W32) : W64 := (hi ++ lo : BitVec 64)

/-- Write a value to a vector or near destination of n registers (1 or 2) in one lane; other classes take nothing. -/
def Group.setDst (g : Group) (d : Opd) (n lane : Nat) (v : W64) (poi : Bool) : Group :=
  match d with
  | .vec r => let g := g.setV r.toNat lane (lo32 v) poi; if n = 2 then g.setV (r.toNat + 1) lane (hi32 v) poi else g
  | .near r => let g := g.setN r.toNat lane (lo32 v) poi; if n = 2 then g.setN (r.toNat + 1) lane (hi32 v) poi else g
  | _ => g

/-- The value of a vector or near operand of n registers in one lane. -/
def Group.getVN (g : Group) (o : Opd) (n lane : Nat) : W64 :=
  match o with
  | .vec r => mk64 (g.vword r.toNat lane) (if n = 2 then g.vword (r.toNat + 1) lane else 0)
  | .near r => mk64 (g.nword r.toNat lane) (if n = 2 then g.nword (r.toNat + 1) lane else 0)
  | _ => 0

/-- Whether some of n registers of a vector operand is empty in a lane. -/
def Group.emptyOp (g : Group) (o : Opd) (n lane : Nat) : Bool :=
  match o with
  | .vec r => (List.range n).any (fun k => g.vempty (r.toNat + k) lane)
  | _ => false

/-- Whether some of n registers of a vector or near operand is poison-marked in a lane (R195). -/
def Group.poiOp (g : Group) (o : Opd) (n lane : Nat) : Bool :=
  match o with
  | .vec r => (List.range n).any (fun k => tabGet false g.vp (vkey (r.toNat + k) lane))
  | .near r => (List.range n).any (fun k => tabGet false g.np (vkey (r.toNat + k) lane))
  | _ => false

/-- Whether some of n registers of a vector operand lies at or above %vcount (R137). -/
def Group.overOp (g : Group) (o : Opd) (n : Nat) : Bool :=
  match o with
  | .vec r => decide (g.vcount < r.toNat + n)
  | _ => false

end Sys2Proof.Machine
end

