-- ==== Sys2Proof/Machine/Trans.lean ====
section
/-! DEFINITION. The physical map (R227, R228), homes (R231), machine-check banks (R200 to R203), poisoned sectors (R194),
page walks and translation caches (R233 to R237). -/

namespace Sys2Proof.Machine

/-! ## The physical map -/

/-- A region of the physical map (R227). -/
inductive RegionK where
  | hbm | far | host | peer | hole
  deriving DecidableEq, Repr

/-- The region of a physical address under the floor map in use (R227); peer ports 12 to 15 do not exist (R398). -/
def regionOf (f : Floor) (pa : Nat) : RegionK :=
  if pa < f.nchan * 2 ^ 31 then .hbm
  else if 0x10000000000 ≤ pa ∧ pa < 0x10000000000 + f.nfar * 2 ^ 39 then .far
  else if 0x8000000000000 ≤ pa ∧ pa ≤ 0xBFFFFFFFFFFFF then .host
  else if 0xC000000000000 ≤ pa ∧ pa ≤ 0xFFFFFFFFFFFFF ∧ pa / 2 ^ 46 % 16 < 12 then .peer
  else .hole

/-- HBM or far memory: what the cellar holds (R227). -/
def isMem (f : Floor) (pa : Nat) : Bool := regionOf f pa == .hbm || regionOf f pa == .far

/-- The home slice of a physical address (R231), also the fold that R368 applies to a name. -/
def sliceOf (f : Floor) (h : Nat) : Nat := (nth? f.allSlices (h % f.allSlices.length)).getD 0

/-- The home slice (R231). -/
def homeOf (f : Floor) (pa : Nat) : Nat :=
  sliceOf f (((bitsOf pa 22 7).xor (bitsOf pa 38 23)).xor (bitsOf pa 51 39))

/-- The slice of a parked name (R368). -/
def nameSlice (f : Floor) (x : W64) : Nat :=
  let v := x.toNat
  sliceOf f ((((bitsOf v 18 3).xor (bitsOf v 34 19)).xor (bitsOf v 50 35)).xor (bitsOf v 63 51))

/-! ## Machine-check banks -/

/-- The bank of core number n (R200). -/
def bankOfCore (s : State) (n : Nat) : Nat := physCore s.floor n
/-- The bank of cluster number n. -/
def bankOfClus (s : State) (n : Nat) : Nat := 0x320 + (nth? s.floor.allClus n).getD 0
/-- The bank of cellar slice n. -/
def bankOfSlice (n : Nat) : Nat := 0x352 + n
/-- The bank of the host port. -/
def bankHost : Nat := 0x4A4
/-- The bank of peer port w. -/
def bankPeer (w : Nat) : Nat := 0x4A5 + w

/-- An empty bank. -/
def Bank.zero : Bank := ⟨0, 0, 0, 0⟩

/-- A machine-check bank (R200). -/
def State.bank (s : State) (b : Nat) : Bank := tabGet Bank.zero s.banks b

/-- CLASS of a bank. -/
def Bank.cls (b : Bank) : Nat := bitsOf b.status.toNat 61 60
/-- VAL of a bank. -/
def Bank.val (b : Bank) : Bool := b.status.getLsbD 63

/-- STATUS with VAL set (R201), COUNT and OVER kept from the old one. -/
def mkStatus (old : W64) (cls act code src : Nat) (ovr : Bool) : W64 :=
  BitVec.ofNat 64 (2 ^ 63 + b2n ovr * 2 ^ 62 + cls * 2 ^ 60 + act * 2 ^ 58 + code % 256 * 2 ^ 48 + src % 256 * 2 ^ 40 +
    bitsOf old.toNat 15 0)

/-- Whether a contained or fatal event is recorded in a bank, and not only marked by OVER (R203). -/
def Bank.takes (k : Bank) (cls : Nat) : Bool := !k.val || k.cls == 0 || (cls == 2 && k.cls == 1)

/-- Record an event in a bank (R203). Nothing is recorded once the module has stopped (R199). A contained or fatal
record raises vector 65 (R397); an event that only sets OVER raises none. -/
def State.bankEvent (s : State) (b cls act code src : Nat) (addr misc0 misc1 : W64) : State :=
  if s.host.halted then s
  else
    let k := s.bank b
    let new (ovr : Bool) (st : W64) : Bank := ⟨mkStatus st cls act code src ovr, addr, misc0, misc1⟩
    let k' : Bank :=
      if cls = 0 then
        let cnt := bitsOf k.status.toNat 15 0
        let st : W64 := if cnt = 0xFFFF then k.status else k.status + 1
        if k.val then { k with status := st } else new (k.status.getLsbD 62) st
      else if k.takes cls then new (k.status.getLsbD 62) k.status
      else { k with status := k.status ||| BitVec.twoPow 64 62 }
    let s := { s with banks := tabPut Bank.zero s.banks b k' }
    if cls = 0 || !k.takes cls then s else { s with host := { s.host with vectors := s.host.vectors ++ [65] } }

/-- Clear a bank's record and COUNT (R203). -/
def State.bankClear (s : State) (b : Nat) : State := { s with banks := tabPut Bank.zero s.banks b Bank.zero }

/-- Whether a bank's unit exists in the floor map; the banks of disabled units read as zero (R200). -/
def bankLives (f : Floor) (b : Nat) : Bool :=
  if b < 0x320 then f.clus.getLsbD (b / 16) && ((nth? f.cores (b / 16)).getD 0).getLsbD (b % 16)
  else if b < 0x352 then f.clus.getLsbD (b - 0x320)
  else if b < 0x372 then f.slices.getLsbD (b - 0x352)
  else if b < 0x472 then f.chan.getLsbD (b - 0x372)
  else if b < 0x4A5 then true
  else if b < 0x4B1 then f.peers.getLsbD (b - 0x4A5)
  else false

/-- A bank as it reads (R200). -/
def State.bankRead (s : State) (b : Nat) : Bank := if bankLives s.floor b then s.bank b else Bank.zero

/-- MISC0 of R202. -/
def misc0Of (task helper : Nat) : W64 := BitVec.ofNat 64 (helper % 2 ^ 30 * 2 ^ 32 + task % 2 ^ 30)

/-- MISC1 of R202. -/
def misc1Of (lmask : Lanes) (grp lev : Nat) : W64 :=
  BitVec.ofNat 64 (lmask.toNat + grp % 256 * 2 ^ 32 + lev % 8 * 2 ^ 40)

/-! ## Sectors (R194) -/

/-- AHASH of the sector at a physical address (R194). -/
def ahash (pa : Nat) : BitVec 5 :=
  BitVec.ofNat 5 (sumL ((List.range 5).map (fun k =>
    ((List.range 10).filter (fun j => decide (5 + k + 5 * j ≤ 51) && bitOf pa (5 + k + 5 * j))).length % 2 * 2 ^ k)))

/-- The 16 check bits of a sector that holds no error, as they are written (R194). -/
def checkBits (pa : Nat) (data : BitVec 256) (pois : Bool) : BitVec 16 :=
  ahash pa ++ (if pois then 1#1 else 0#1) ++ Config.eccBits data pois (ahash pa)

/-- The source that a read of the sector with a number records where it is uncorrectable (R194): two wrong bits, or data that was meant
for an address with another hash. -/
def secSrc (s : State) (k : Nat) : Option Nat :=
  let far := b2n (regionOf s.floor (32 * k) == .far)
  match tabGet? s.badSec k with
  | some .double => some (0x12 + 2 * far)
  | some (.moved a) => if ahash a = ahash (32 * k) then none else some (0x13 + 2 * far)
  | _ => none

/-- Whether a 32-byte sector is poisoned or reads as uncorrectable. -/
def badSector (s : State) (pa : Nat) : Bool := tabGet false s.pois (pa / 32) || (secSrc s (pa / 32)).isSome

/-- Whether some byte of a range lies in a bad sector. -/
def badRange (s : State) (pa n : Nat) : Bool := (List.range n).any (fun i => badSector s (pa + i))

/-- The enabled channels of the stack of a slice. -/
def stackChans (f : Floor) (slice : Nat) : List Nat :=
  ((List.range 32).map (fun i => 32 * (slice / 4) + i)).filter (fun h => f.chan.getLsbD h)

/-- The bank that records an error of the line at an address: that of a channel of its home slice's stack, fixed for the address, or the
host port's for far memory (R194, R200, R228). -/
def chanBank (s : State) (pa : Nat) : Nat :=
  if regionOf s.floor pa = .far then bankHost
  else
    let l := stackChans s.floor (homeOf s.floor pa)
    0x372 + (nth? l (Config.channel (pa / 128) % l.length)).getD 0

/-- Record what a read of a sector finds (R193, R194 step 4): the contained event of an uncorrectable one, the corrected event of a
single error, which is mended. Where no task is behind the event MISC0 is 0 (log 27). -/
def sectorEvent (s : State) (pa : Nat) : State :=
  let ev := fun (s : State) (cls src : Nat) => s.bankEvent (chanBank s pa) cls 0 0 src (BitVec.ofNat 64 (pa / 32 * 32)) 0 0
  match tabGet? s.badSec (pa / 32), secSrc s (pa / 32) with
  | _, some src => ev s 1 src
  | some .single, none => ev { s with badSec := tabDel s.badSec (pa / 32) } 0 (if regionOf s.floor pa = .far then 0x14 else 0x12)
  | _, none => s

/-- The events of every sector of a range. Those that meet in one bank are taken with the lower source first (R203). -/
def sectorEvents (s : State) (pa n : Nat) : State :=
  let ks := ((List.range n).map (fun i => (pa + i) / 32)).dedup
  let odd := fun (k : Nat) => (secSrc s k).any (fun x => x % 2 == 1)
  (ks.filter (fun k => !odd k) ++ ks.filter odd).foldl (fun s k => sectorEvent s (32 * k)) s

/-- Poison a sector: a copy that writes it whole no longer clears it (R194). -/
def poisonSec (s : State) (k : Nat) : State := { s with pois := tabPut false s.pois k true, badSec := tabDel s.badSec k, covers := tabDel s.covers k }

/-- Clear the poison and the errors of a sector that is written whole (R194). -/
def clearSec (s : State) (k : Nat) : State := { s with pois := tabPut false s.pois k false, badSec := tabDel s.badSec k }

/-- Whether a bank's unit holds an array of a source under SEC-DED (R193, R200, R201): a core its register files, contexts, scratchpads and
matrix stores, a cluster its contexts, a cellar slice its tags and directory. -/
def softArray (b src : Nat) : Bool :=
  if b < 0x320 then src == 1 || src == 2 || src == 3 || src == 4 || src == 7
  else if b < 0x352 then src == 3 else decide (b < 0x372) && src == 0x11

/-- The errors that the codes of a unit's arrays correct (log 15) have no effect but the count in its bank (R193). -/
def softHits (s : State) (b : Nat) : State :=
  (s.upsets.filter (fun u => match u with | .soft k src => k == b && softArray b src | _ => false)).foldl (fun s u =>
    match u with
    | .soft _ src => ({ s with upsets := s.upsets.erase u }).bankEvent b 0 0 0 src 0 0 0
    | _ => s) s

/-- An uncorrectable error of a sector in the cellar (R193): a clean line is fetched again, and the event counts as corrected; a dirty one
is poisoned. -/
def cellarHit (s : State) (u : Upset) : State :=
  match u with
  | .cellar pa dirty =>
    let s := { s with upsets := s.upsets.erase u }
    let s := if dirty then poisonSec s (pa / 32) else s
    s.bankEvent (bankOfSlice (homeOf s.floor pa)) (b2n dirty) 0 0 0x10 (BitVec.ofNat 64 (pa / 32 * 32)) 0 0
  | _ => s

/-- The upsets that wait for a read of some sector of a range in the cellar. -/
def cellarHits (s : State) (pa n : Nat) : List Upset :=
  s.upsets.filter (fun u => match u with | .cellar a _ => decide (pa / 32 ≤ a / 32) && decide (a / 32 ≤ (pa + n - 1) / 32) | _ => false)

/-- What a read of memory finds before it takes its data (R193, R194): the events of its sectors, and whether one of them is bad. -/
def readCheck (s : State) (pa n : Nat) : Bool × State :=
  let s := (cellarHits s pa n).foldl cellarHit (softHits s (bankOfSlice (homeOf s.floor pa)))
  (badRange s pa n, sectorEvents s pa n)

/-- A write to a word on which somebody waits makes every overflow waiter of its slice issue again (R362). -/
def ovfScan (s : State) (pa n : Nat) : State :=
  { s with ovf := s.ovf.filter (fun w => !(homeOf s.floor w.pa == homeOf s.floor pa &&
      (s.ovf ++ s.wakes).any (fun v => decide (pa < v.pa + 16) && decide (v.pa < pa + n)))) }

/-- Write bytes at the home slice, whatever is recorded of their sectors. -/
def homeBytes (s : State) (pa : Nat) (bs : List Byte) : State := ovfScan { s with mem := memWrite s.mem pa bs } pa bs.length

/-- Write bytes at the home slice, with the poison rules of R194: a whole unpoisoned sector clears its poison, a partial
write leaves it, a merge into an uncorrectable sector records its event and poisons it, poisoned data poisons every sector it touches. -/
def homeWrite (s : State) (pa : Nat) (bs : List Byte) (poi : Bool) : State :=
  let n := bs.length
  let secs := ((List.range n).map (fun i => (pa + i) / 32)).dedup
  let whole := fun (k : Nat) => decide (pa ≤ 32 * k) && decide (32 * k + 32 ≤ pa + n)
  let s := homeBytes s pa bs
  secs.foldl (fun s k =>
    let bad := !whole k && (secSrc s k).isSome
    let s := if whole k then s else sectorEvent s (32 * k)
    if poi || bad then poisonSec s k else if whole k then clearSec s k else s) s

/-- A value written as n bytes at the home slice. -/
def homePut (s : State) (pa n v : Nat) : State := homeWrite s pa (leBytes n v) false

/-- An n-byte value at the home slice. -/
def homeGet (s : State) (pa n : Nat) : Nat := memNat s.mem pa n

/-! ## Page walks (R233 to R235) -/

/-- What an access needs of its page. -/
inductive Need where
  | read | write | fetch
  deriving DecidableEq, Repr

/-- The outcome of a walk: a leaf, or a fault code. -/
inductive WalkRes where
  | leaf (e : TlbEnt)
  | fail (code : Nat)
  deriving DecidableEq, Repr

/-- Index of level n of R233 (1 to 5) in a virtual address, and the bits below its page. -/
def pteIndex (n va : Nat) : Nat :=
  match n with
  | 1 => bitsOf va 56 48 | 2 => bitsOf va 47 39 | 3 => bitsOf va 38 30 | 4 => bitsOf va 29 21 | _ => bitsOf va 20 16

/-- n bytes that the front end or a device access of its own reads: those of a window are free (R228, log 17). -/
def devRead (s : State) (pa n : Nat) : List Byte :=
  if isMem s.floor pa then memRead s.mem pa n else leBytes n (Config.freeBits (8 * n) (2 ^ 64 * (pa + 1) + s.tick)).toNat

/-- Bytes that such an access writes: in a window they leave nothing in the machine (log 17). -/
def devWrite (s : State) (pa : Nat) (bs : List Byte) (poi : Bool) : State := if isMem s.floor pa then homeWrite s pa bs poi else s

/-- An n-byte value that such an access reads. -/
def devGet (s : State) (pa n : Nat) : Nat := leNat (devRead s pa n)

/-- An n-byte value that such an access writes. -/
def devPut (s : State) (pa n v : Nat) : State := devWrite s pa (leBytes n v) false

/-- log2 of the page that a leaf of level n maps. -/
def pageBits (n : Nat) : Nat := match n with | 3 => 30 | 4 => 21 | _ => 16

/-- log2 of the alignment of the table that an entry of level n names. -/
def tableBits (n : Nat) : Nat := if n = 4 then 8 else 12

/-- The entry of a walk as it is read (R235): whether its sector is bad, with the event of R194, which a sector that is only poisoned makes
too. -/
def entryCheck (s : State) (ea : Nat) : Bool × State :=
  let (bad, t) := readCheck s ea 8
  (bad, if bad && (secSrc t (ea / 32)).isNone then
    t.bankEvent (chanBank t ea) 1 0 0 (0x12 + 2 * b2n (regionOf t.floor ea == .far)) (BitVec.ofNat 64 (ea / 32 * 32)) 0 0 else t)

/-- Walk from level n with `k` levels left (R235). -/
def walkFrom (s : State) (space va : Nat) : Nat → Nat → Nat → WalkRes × State
  | 0, _, _ => (.fail 0x21, s)
  | k + 1, n, table =>
    let ea := table + 8 * pteIndex n va
    let (bad, s) := entryCheck s ea
    if bad then (.fail 0x21, s)
    else
      let e := homeGet s ea 8
      let pa := bitsOf e 51 8 * 256
      let zero := bitsOf e 63 52 = 0 ∧ bitsOf e 7 5 = 0
      if !bitOf e 0 then (.fail 0x20, s)
      else if ¬zero then (.fail 0x21, s)
      else if bitOf e 1 then
        if n ≤ 2 then (.fail 0x21, s)
        else if pa % 2 ^ pageBits n ≠ 0 then (.fail 0x21, s)
        else (.leaf ⟨space, va / 2 ^ pageBits n * 2 ^ pageBits n, pageBits n, pa, bitOf e 2, bitOf e 3, bitOf e 4⟩, s)
      else if n = 5 then (.fail 0x21, s)
      else if bitsOf e 4 2 ≠ 0 then (.fail 0x21, s)
      else if pa % 2 ^ tableBits n ≠ 0 then (.fail 0x21, s)
      else if !isMem s.floor pa then (.fail 0x21, s)
      else walkFrom s space va k (n + 1) pa

/-- A walk from the top table (R235). A top table outside HBM and far memory, or unaligned, gives 0x21. -/
def walk (s : State) (space top va : Nat) : WalkRes × State :=
  if top % 4096 ≠ 0 ∨ !isMem s.floor top then (.fail 0x21, s) else walkFrom s space va 5 1 top

/-- The state after a walk that a front end's access makes in vain: the event of a bad entry stands in its bank (R235). -/
def walked (s : State) (space top va : Nat) : State := (walk s space top va).2

/-- Whether a leaf allows an access (R235). -/
def leafAllows (s : State) (e : TlbEnt) (va : Nat) (need : Need) (priv : Bool) : Bool :=
  regionOf s.floor (e.pa + va % 2 ^ e.bits) != .hole &&
  (match need with | .read => true | .write => e.w | .fetch => e.x) && (priv || !e.prv)

/-! ## Translation caches (R236) -/

/-- Where an agent's translations are cached. -/
inductive Place where
  | core (n : Nat)
  | clus (n : Nat)
  | fab
  deriving DecidableEq, Repr

/-- The entry of a cache that maps an address. -/
def tlbFind (t : List TlbEnt) (space va : Nat) : Option TlbEnt :=
  t.find? (fun e => e.space == space && va / 2 ^ e.bits * 2 ^ e.bits == e.va)

/-- Add an entry, dropping the oldest of a full cache; the one dropped is free (R236). -/
def tlbAdd (t : List TlbEnt) (cap : Nat) (e : TlbEnt) : List TlbEnt :=
  let t := t.filter (fun x => x != e)
  (if t.length < cap then t else t.drop 1) ++ [e]

/-- The cluster of a place. -/
def placeClus (s : State) : Place → Option Nat
  | .core n => some (clusOfCore s.floor n) | .clus n => some n | .fab => none

/-- Drop the entries of a page in a place's caches (R236: before a 0x21 record is sent). -/
def tlbForget (s : State) (pl : Place) (space va : Nat) : State :=
  let keep := fun (t : List TlbEnt) => t.filter (fun e => !(e.space == space && va / 2 ^ e.bits * 2 ^ e.bits == e.va))
  let s := match pl with | .core n => s.updCore n (fun c => { c with tlb := keep c.tlb }) | _ => s
  match placeClus s pl with | some n => s.updCluster n (fun c => { c with tlb := keep c.tlb }) | none => s

/-- Count an event of a core (R217). -/
def State.count (s : State) (core ev n : Nat) : State :=
  s.updCore core (fun c => { c with ev := tabPut 0 c.ev ev ((tabGet 0 c.ev ev + n) % 2 ^ 64) })

/-- Use a leaf for an access: the physical address, with the leaf added to the caches that did not hold it, or 0x21 with the
page dropped from them (R235, R236). -/
def leafUse (s : State) (pl : Place) (inCore inClus : Bool) (space : Nat) (e : TlbEnt) (va : Nat) (need : Need) (priv : Bool) :
    Except Nat Nat × State :=
  if leafAllows s e va need priv then
    let s := match pl with | .core n => (if inCore then s else s.updCore n (fun c => { c with tlb := tlbAdd c.tlb 128 e })) | _ => s
    let s := match placeClus s pl with
      | some n => if inClus then s else s.updCluster n (fun c => { c with tlb := tlbAdd c.tlb 4096 e })
      | none => s
    (.ok (e.pa + va % 2 ^ e.bits), s)
  else (.error 0x21, tlbForget s pl space va)

/-- The entry of a place's core cache that maps an address. -/
def coreTlb (s : State) (pl : Place) (space va : Nat) : Option TlbEnt :=
  match pl with | .core n => tlbFind (s.core n).tlb space va | _ => none

/-- The entry of a place's cluster cache that maps an address. -/
def clusTlb (s : State) (pl : Place) (space va : Nat) : Option TlbEnt :=
  match placeClus s pl with | some n => tlbFind (s.cluster n).tlb space va | none => none

/-- Count a miss of a core's translation cache (R217). -/
def countMiss (s : State) (pl : Place) : State := match pl with | .core n => s.count n 7 1 | _ => s

/-- Translate one address: the core's cache, the cluster's, then a walk that fills both (R236, log 8). The answer is a
physical address or a code. -/
def translate (s : State) (pl : Place) (space top va : Nat) (need : Need) (priv : Bool) : Except Nat Nat × State :=
  match coreTlb s pl space va with
  | some e => leafUse s pl true true space e va need priv
  | none =>
    match clusTlb s pl space va with
    | some e => leafUse (countMiss s pl) pl false true space e va need priv
    | none =>
      match walk (countMiss s pl) space top va with
      | (.leaf e, s) => leafUse s pl false false space e va need priv
      | (.fail c, s) => (.error c, if c = 0x21 then tlbForget s pl space va else s)

/-- Drop entries of every translation cache of the device (R220). -/
def tlbDropAll (s : State) (p : TlbEnt → Bool) : State :=
  let f := fun (t : List TlbEnt) => t.filter (fun e => !p e)
  { s with cores := s.cores.map (fun x => (x.1, { x.2 with tlb := f x.2.tlb })),
           clusters := s.clusters.map (fun x => (x.1, { x.2 with tlb := f x.2.tlb })),
           fabric := s.fabric.map (fun x => (x.1, { x.2 with tlb := f x.2.tlb })) }

end Sys2Proof.Machine
end

