-- ==== Sys2Proof/Machine/Fetch.lean ====
section
/-! DEFINITION. Fetching lines of code: the line and its word (R45, R46), the fill check (R47, R48), line caches (R53) and
the test of a target's TGT bit (R50). -/

namespace Sys2Proof.Machine

/-- Slot i of a line (R45). -/
def slotOf (l : BitVec 512) (i : Nat) : Insn := l.extractLsb' (96 * i) 96

/-- The line word (R45, R46). -/
def lineWord (l : BitVec 512) : W32 := l.extractLsb' 480 32

/-- LEV of an instruction word (R54). -/
def levOf (w : Insn) : Nat := (Decode.wLev w).toNat

/-- The number of ones of a number of n bits. -/
def ones (n v : Nat) : Nat := ((List.range n).filter (fun i => v.testBit i)).length

/-- Whether SPAR and LPAR hold (R47). -/
def parityOk (l : BitVec 512) : Bool :=
  let w := lineWord l
  ones 32 w.toNat % 2 == 0 &&
  (List.range 5).all (fun i => (ones 96 (slotOf l i).toNat + b2n (w.getLsbD (27 + i))) % 2 == 0)

/-- The LVM bits that the slots of a line need (R48). -/
def lvmOf (l : BitVec 512) : Nat :=
  (List.range 5).foldl (fun m i => m ||| 2 ^ levOf (slotOf l i)) 0

/-- Whether [9:1] is zero and LVM is right (R47, R48). -/
def lineOk (l : BitVec 512) : Bool :=
  let w := (lineWord l).toNat
  bitsOf w 9 1 == 0 && bitsOf w 17 10 == lvmOf l

/-- TGT of slot i (R46). -/
def tgtOf (l : BitVec 512) (i : Nat) : Bool := (lineWord l).getLsbD (18 + i)

/-- The lines cached at a place (R53). -/
def linesAt (s : State) : Place → List LineEnt
  | .core n => (s.core n).lines | .clus n => (s.cluster n).lines | .fab => (s.die 10).lines

/-- Replace the lines cached at a place. -/
def setLines (s : State) (pl : Place) (ls : List LineEnt) : State :=
  match pl with
  | .core n => s.updCore n (fun c => { c with lines := ls })
  | .clus n => s.updCluster n (fun c => { c with lines := ls })
  | .fab => s.updDie 10 (fun c => { c with lines := ls })

/-- The bank of the unit that fetches at a place; the front end records at the host port's bank (log 4). -/
def bankOfPlace (s : State) : Place → Nat
  | .core n => bankOfCore s n | .clus n => bankOfClus s n | .fab => bankHost

/-- What a fetch answers: the line, or the fault code of R47 or R237. -/
abbrev FetchRes := Except Nat (BitVec 512)

/-- The parity upset that the surroundings hold for a line (log 15). -/
def lineHit (s : State) (va : Nat) : Option Upset :=
  s.upsets.find? (fun u => match u with | .line v _ => v.toNat / 64 == va / 64 | _ => false)

/-- Whether an upset strikes both copies of a line. -/
def hitTwice : Option Upset → Bool
  | some (.line _ t) => t
  | _ => false

/-- The upset is used up. -/
def spendHit (s : State) : Option Upset → State
  | some u => { s with upsets := s.upsets.erase u }
  | none => s

/-- The refetch of a line whose first copy failed parity is counted and recorded as corrected (R47, R202): `who` is MISC0. -/
def refetched (s : State) (pl : Place) (pa : Nat) (who : W64) : State :=
  (match pl with | .core n => s.count n 9 1 | _ => s).bankEvent (bankOfPlace s pl) 0 0 0 0x06 (BitVec.ofNat 64 pa) who 0

/-- Keep a line at a place. -/
def keepLine (s : State) (pl : Place) (space va : Nat) (l : BitVec 512) : State :=
  setLines s pl ((linesAt s pl).filter (fun e => !(e.space == space && e.va == va)) ++ [⟨space, va, l⟩])

/-- The 64 bytes that a line fill reads at a physical address: those of memory, or free ones of a window (log 6). -/
def lineBytes (s : State) (pa : Nat) : BitVec 512 × State :=
  if isMem s.floor pa then (BitVec.ofNat 512 (homeGet s pa 64), s) else (freeNow s 512, s.tick1)

/-- Keep a filled line that passes the program check, or answer the line-check fault (R47). -/
def checkLine (s : State) (pl : Place) (space va : Nat) (l : BitVec 512) : FetchRes × State :=
  if lineOk l then (.ok l, keepLine s pl space va l) else (.error 0x01, s)

/-- The one more fetch of a line that failed parity: a second failure is the fault 0x32 (R47). -/
def takeAgain (s : State) (pl : Place) (space va pa : Nat) (who : W64) (hit : Option Upset) : FetchRes × State :=
  let q := lineBytes s pa
  if !parityOk q.1 || hitTwice hit then (.error 0x32, spendHit q.2 hit)
  else checkLine (refetched (spendHit q.2 hit) pl pa who) pl space va q.1

/-- Take the bytes of a line that memory holds without error: parity, then the fill check (R47). -/
def takeLine (s : State) (pl : Place) (space va pa : Nat) (who : W64) : FetchRes × State :=
  let r := lineBytes s pa
  let hit := lineHit r.2 va
  if parityOk r.1 && hit.isNone then checkLine r.2 pl space va r.1 else takeAgain r.2 pl space va pa who hit

/-- Fill a line at a place from its physical address (R47, R194). -/
def fillFrom (s : State) (pl : Place) (space va pa : Nat) (who : W64) : FetchRes × State :=
  let r := readCheck s pa 64
  if r.1 then (.error 0x32, r.2) else takeLine r.2 pl space va pa who

/-- MISC0 of the records that a launch's units make (R202). -/
def whoOf (s : State) (gc : Nat) : W64 :=
  misc0Of (s.task gc).id (match s.launch? gc with | some l => l.helper | none => 0x3FFFFFFF)

/-- Fill a line at a place for a launch (R47, R237). -/
def fillLine (s : State) (pl : Place) (gc va : Nat) : FetchRes × State :=
  let t := s.task gc
  match translate s pl t.space t.top va .fetch (s.lrec gc).priv with
  | (.error c, s) => (.error c, s)
  | (.ok pa, s) => fillFrom s pl t.space va pa (whoOf s gc)

/-- Fetch the line of an IA for a launch at a place: a cached line, or a fill (R47, log 9). -/
def fetchLine (s : State) (pl : Place) (gc : Nat) (ia : W64) : FetchRes × State :=
  let t := s.task gc
  match (linesAt s pl).find? (fun e => e.space == t.space && e.va == iaLine ia) with
  | some e => (.ok e.data, s)
  | none => fillLine s pl gc (iaLine ia)

/-- What the test of a transfer's IA finds: passed, illegal target (R50, R51), or a fault of the line's fetch. -/
inductive TgtRes where
  | ok
  | bad
  | fetch (code : Nat)
  deriving DecidableEq, Repr

/-- Check an IA that control may move to: its form, then its TGT bit (R50, R51). -/
def checkTgt (s : State) (pl : Place) (gc : Nat) (ia : W64) : TgtRes × State :=
  if !iaOk ia then (.bad, s)
  else match fetchLine s pl gc ia with
    | (.error c, s) => (.fetch c, s)
    | (.ok l, s) => (if tgtOf l (iaSlot ia) then .ok else .bad, s)

/-- Check several IAs: an illegal one comes before a line's fetch fault, as 0x05 comes before the codes of a translation
(R168). -/
def checkTgts (s : State) (pl : Place) (gc : Nat) : List W64 → TgtRes × State
  | [] => (.ok, s)
  | ia :: r =>
    match checkTgt s pl gc ia with
    | (.ok, s) => checkTgts s pl gc r
    | (.bad, s) => (.bad, s)
    | (.fetch c, s) => match checkTgts s pl gc r with
      | (.bad, s) => (.bad, s)
      | (_, s) => (.fetch c, s)

/-- The place of a group or context: its core for a group, a group-domain or a band-domain context, else its cluster
controller, else the fabric (R47, R236). -/
def placeOf (s : State) (u : UnitRef) : Place :=
  match u with
  | .grp gk =>
    match s.grp? gk with
    | some g => match s.band? (bandKey g.gc g.b) with | some b => .core b.core | none => .fab
    | none => .fab
  | .ctx ck =>
    match s.ctx? ck with
    | some c => if c.dom ≤ domBand then .core c.place else if c.dom = domCluster then .clus c.place else .fab
    | none => .fab

end Sys2Proof.Machine
end

