-- ==== Sys2Proof/Machine/Futures.lean ====
section
/-! DEFINITION. Futures as words (R356), and the entries of the home slices' wake-up tables as they leave (R362). -/

namespace Sys2Proof.Machine

/-- A write to a word of a slice, or an entry that frees, makes every overflow waiter of the slice issue again (R362). -/
def wakeOvf (s : State) (pa : Nat) : State :=
  { s with ovf := s.ovf.filter (fun w => homeOf s.floor w.pa != homeOf s.floor pa) }

/-- A future by its fields. -/
structure Fut where
  value : W64
  full  : Bool
  orph  : Bool
  wreg  : Bool
  ownv  : Bool
  owner : Nat
  deriving DecidableEq, Repr

/-- The future in sixteen bytes. -/
def futOf (bs : List Byte) : Fut :=
  let v := leNat bs
  ⟨BitVec.ofNat 64 (bitsOf v 63 0), bitOf v 96, bitOf v 97, bitOf v 98, bitOf v 94, bitsOf v 93 64⟩

/-- Its sixteen bytes; zero fields are written zero. -/
def futBytes (f : Fut) : List Byte :=
  leBytes 16 (f.value.toNat + f.owner % 2 ^ 30 * 2 ^ 64 + b2n f.ownv * 2 ^ 94 + b2n f.full * 2 ^ 96 + b2n f.orph * 2 ^ 97 + b2n f.wreg * 2 ^ 98)

/-- The future at a physical address. -/
def futGet (s : State) (pa : Nat) : Fut := futOf (devRead s pa 16)

/-- Write a future as one step of its home slice; overflow waiters of the slice issue again (R362). -/
def futPut (s : State) (pa : Nat) (f : Fut) : State := wakeOvf (devWrite s pa (futBytes f) false) pa

/-- Take entries out of the wake-up tables: overflow waiters of their slices issue again (R362), and a future with none left has its
WREG cleared (R356). -/
def unregister (s : State) (p : Wake → Bool) : State :=
  let gone := s.wakes.filter p
  let s := gone.foldl (fun (s : State) w => wakeOvf s w.pa) { s with wakes := s.wakes.filter (fun w => !p w) }
  let pas := ((gone.filter (fun w => w.fut)).map (fun w => w.pa)).dedup
  (pas.filter (fun a => !s.wakes.any (fun w => w.fut && w.pa == a))).foldl (fun (s : State) a => futPut s a { futGet s a with wreg := false }) s

end Sys2Proof.Machine
end

