-- ==== Sys2Proof/Machine/Ops.lean ====
section
/-! DEFINITION. The shared operations: what an act of an agent may come to, clocks (R215), split tables (R12, R13, R36, R37,
R128), fault records (R169 to R171), taking a fault (R164, R165, R172, R175, R179, R196, R218), killing and aborting (R172,
R198), and the return from a handler (R176). -/

namespace Sys2Proof.Machine

/-- What an instruction comes to when its unit issues it: done and on to the next slot, done with control elsewhere, done with
the unit already where it goes on, some part done and the unit still at the instruction, nothing done yet, or a fault. -/
inductive Act where
  | next (s : State)
  | jump (s : State) (ia : W64)
  | done (s : State)
  | stay (s : State)
  | wait
  | fault (s : State) (f : FaultReq)
  deriving Repr

/-- A fault request with everything but code and level zero. -/
def FaultReq.mk0 (code lev : Nat) : FaultReq := ⟨code, lev, 0, 0, 0, 0, []⟩

/-! ## Clocks (R215; log 11) -/

/-- Cycles that a clock domain has counted: none pass while its island is gated (R215). -/
def Cluster.now (c : Cluster) (nc : Nat) : Nat := if c.isl = 2 then c.cyc else c.cyc + (nc - c.nc0) * c.mhz / 1600

/-- The cycle counter at a place. -/
def clockAt (s : State) : Place → Nat
  | .core n => (s.cluster (clusOfCore s.floor n)).now s.nc
  | .clus n => (s.cluster n).now s.nc
  | .fab => (s.die 10).now s.nc

/-- The local cycle counter of a unit: a die-domain context reads its die's fabric (R215). -/
def clockOf (s : State) (u : UnitRef) : Nat :=
  match u with
  | .ctx ck => match s.ctx? ck with
    | some c => if c.dom = domDie then (s.die c.place).now s.nc else clockAt s (placeOf s u)
    | none => 0
  | _ => clockAt s (placeOf s u)

/-! ## Save areas (R181, R185, R334) -/

/-- Address of a band's save area. -/
def bandSave (s : State) (gc b : Nat) : Nat :=
  match s.launch? gc with
  | none => 0
  | some l =>
    let base := if l.save ≠ 0 then l.save.toNat else l.r.bsave.toNat
    base + b * (if l.r.mat then 0x112000 else 0xD2000)

/-- Address of a cluster- or die-level unit's save area (R334). -/
def unitSave (s : State) (gc lvl g : Nat) : Nat :=
  match s.launch? gc with
  | none => 0
  | some l =>
    let base := if l.usavex ≠ 0 then l.usavex.toNat else l.r.usave.toNat
    let lower := (List.range lvl).filter (fun k => (l.r.lvl k).dom = domCluster ∨ (l.r.lvl k).dom = domDie)
    base + 0x8000 * (g + sumL (lower.map (fun k => l.r.extents k (l.r.top + 1))))

/-- A device's own write through a launch's page tables, 32 bytes a page look-up; none when some page fails (R334). -/
def virtWrite (s : State) (gc va : Nat) (bs : List Byte) (poi : Bool) : Option State :=
  let t := s.task gc
  let priv := (s.lrec gc).priv
  let chunks := bs.toChunks 32
  (chunks.zipIdx).foldl (fun (o : Option State) p => o.bind (fun s =>
    let a := va + 32 * p.2
    match walk s t.space t.top a with
    | (.leaf e, _) =>
      let pa := e.pa + a % 2 ^ e.bits
      if leafAllows s e a .write priv then some (devWrite s pa p.1 poi) else none
    | _ => none)) (some s)

/-- A device's own read through a launch's page tables: physical address, or none. -/
def virtAddr (s : State) (gc va : Nat) (need : Need) : Option Nat :=
  let t := s.task gc
  match walk s t.space t.top va with
  | (.leaf e, _) => if leafAllows s e va need (s.lrec gc).priv then some (e.pa + va % 2 ^ e.bits) else none
  | _ => none

/-- The state after a walk of a device's own access that fails (R235). -/
def virtTried (s : State) (gc va : Nat) : State := let t := s.task gc; walked s t.space t.top va

/-- The state after a device's own access to n bytes that fails: the event of the first walk that does (R235). -/
def virtFailed (s : State) (gc va n : Nat) (need : Need) : State :=
  match (List.range ((n + 31) / 32)).find? (fun i => (virtAddr s gc (va + 32 * i) need).isNone) with
  | some i => virtTried s gc (va + 32 * i)
  | none => s

/-- A fatal error (R199): every launch and host queue stops, the banks stop updating, the host is interrupted. -/
def fatal (s : State) : State :=
  { s with host := { s.host with halted := true, vectors := s.host.vectors ++ [67] }, boot := { s.boot with st := 3 } }

/-- n bytes of a save area; where they cannot be read, zeros. -/
def areaBytes (s : State) (gc va n : Nat) : List Byte :=
  ((List.range ((n + 31) / 32)).map (fun i => match virtAddr s gc (va + 32 * i) .read with
    | some pa => devRead s pa (min 32 (n - 32 * i))
    | none => List.replicate (min 32 (n - 32 * i)) 0)).flatten

/-- A value of a save area. -/
def areaNat (s : State) (gc va n : Nat) : Nat := leNat (areaBytes s gc va n)

/-! ## Split tables -/

/-- Records reachable from a top index. -/
def recChain (recs : Tab Rec) : Nat → Option Nat → List Nat
  | 0, _ => []
  | _, none => []
  | n + 1, some i => i :: (match tabGet? recs i with | some r => recChain recs n r.below | none => [])

/-- Drop the records that no entry reaches (R37: 64 in all). -/
def gcRecs (splits : List (Option Split)) (recs : Tab Rec) : Tab Rec :=
  let live := ((splits.filterMap id).map (fun x => recChain recs 64 x.top)).flatten
  recs.filter (fun p => live.contains p.1)

/-- The age of the next record pushed (R37). -/
def recAge (recs : Tab Rec) : Nat := maxL (recs.map (fun p => p.2.age)) + 1

/-- List a new record, which is resident. -/
def pushRec (recs : Tab Rec) (i : Nat) (k : RecKind) (below : Option Nat) : Tab Rec :=
  tabSet recs i ⟨k, below, recAge recs, true⟩

/-- The lowest free record index, if fewer than 64 are held (R37). -/
def freeRec (recs : Tab Rec) : Option Nat := (List.range 64).find? (fun i => (tabGet? recs i).isNone)

/-- The occupied entries with their numbers. -/
def entries (sp : List (Option Split)) : List (Nat × Split) :=
  (sp.zipIdx).filterMap (fun p => p.1.map (fun x => (p.2, x)))

/-- Whether an entry stands at its token's address (R13). -/
def atToken (x : Split) : Bool := match x.token with | some t => x.pc == t | none => false

/-- An entry at its token with a deferred or held record on top takes the record up; the lanes that a held record rejoins are
answered (R36). A deferred record whose lanes have all exited is discarded (R128). -/
def takeUp (recs : Tab Rec) (x : Split) : Option (Split × Tab Rec × Lanes) :=
  if !atToken x then none
  else match x.top with
    | none => none
    | some i =>
      match tabGet? recs i with
      | some ⟨.deferred t m, below, _, _⟩ =>
        if m = 0 then some ({ x with top := below }, recs, 0)
        else
          let j := (freeRec recs).getD i
          some ({ x with pc := t, mask := m, top := some j }, pushRec recs j (.held x.mask) below, 0)
      | some ⟨.held m, below, _, _⟩ => some ({ x with mask := x.mask ||| m, top := below }, recs, x.mask ||| m)
      | _ => none

/-- The kinds of the records of a chain, newest first. -/
def chainKinds (recs : Tab Rec) (x : Split) : List RecKind :=
  (recChain recs 64 x.top).filterMap (fun i => (tabGet? recs i).map (fun r => r.k))

/-- The deferred and held records of a chain, newest first. -/
def chainLanes (recs : Tab Rec) (x : Split) : List RecKind :=
  (chainKinds recs x).filter (fun k => match k with | .token _ => false | _ => true)

/-- The first pair of entries that fuse: PCs, tokens and depths equal, whatever tokens stand below (R13). R13 says that the stacks are
then equal; two entries whose deferred or held records differ all the same do not fuse, so that no lane is lost (log 19). -/
def fusePair (sp : List (Option Split)) (recs : Tab Rec) : Option (Nat × Split × Nat × Split) :=
  let es := entries sp
  (es.map (fun a => es.filterMap (fun b =>
    if a.1 < b.1 ∧ a.2.pc = b.2.pc ∧ a.2.token = b.2.token ∧ a.2.depth = b.2.depth ∧
      chainLanes recs a.2 = chainLanes recs b.2
    then some (a.1, a.2, b.1, b.2) else none))).flatten.head?

/-- The lanes of a split table: those of its entries and of their deferred and held records. -/
def tableLanes (sp : List (Option Split)) (recs : Tab Rec) : Lanes :=
  (entries sp).foldl (fun m p => (chainKinds recs p.2).foldl (fun m k => match k with
    | .deferred _ x => m ||| x | .held x => m ||| x | .token _ => m) (m ||| p.2.mask)) 0

/-- The lowest entry at an RJOIN where every lane of the table waits at that IA (R130). -/
def rejoined (sp : List (Option Split)) (recs : Tab Rec) : Option (Nat × Split) :=
  let rj := (entries sp).filter (fun p => p.2.rj)
  match rj with
  | [] => none
  | a :: _ =>
    if rj.all (fun p => p.2.pc == a.2.pc) && rj.length == (entries sp).length &&
      rj.foldl (fun m p => m ||| p.2.mask) 0 == tableLanes sp recs then some a else none

/-- An entry that is released: it waits at its token at depth d and no other entry has depth d or more (R13). One that meets the test of
the fusion and keeps apart for its lanes does not hold it up (log 19). -/
def releasable (sp : List (Option Split)) : Option (Nat × Split) :=
  let es := entries sp
  es.find? (fun a => atToken a.2 && decide (0 < a.2.depth) && es.all (fun b => b.1 == a.1 || decide (b.2.depth < a.2.depth) ||
    (b.2.depth == a.2.depth && b.2.pc == a.2.pc && b.2.token == a.2.token)))

/-- One step of settling a split table; the lanes that a fusion or a held record joins are answered for their fence (R249). The
fused entry waits at an RJOIN only where both did, and keeps what the lower-numbered entry had done of its instruction: the
manual is silent on an instruction that one of two fused entries has partly done (log 26). -/
def settle1 (sp : List (Option Split)) (recs : Tab Rec) : Option (List (Option Split) × Tab Rec × Lanes) :=
  match (entries sp).findSome? (fun a => (takeUp recs a.2).map (fun x => (a.1, x))) with
  | some (i, x, recs, m) => some (setNth sp i (some x), recs, m)
  | none =>
    match fusePair sp recs with
    | some (i, a, j, b) =>
      some (setNth (setNth sp j none) i (some { a with mask := a.mask ||| b.mask, rj := a.rj && b.rj, yl := false }), recs, a.mask ||| b.mask)
    | none => match rejoined sp recs with
    | some (i, a) =>
      let m := tableLanes sp recs
      let x : Split := { a with pc := iaNext a.pc, mask := m, token := none, depth := 0, top := none, rj := false, yl := false }
      some (setNth [none, none, none, none] i (some x), [], m)
    | none =>
      match releasable sp with
      | none => none
      | some (i, a) =>
        let (tok, below) := match a.top with
          | some k => match tabGet? recs k with
            | some ⟨.token t, below, _, _⟩ => (t, below)
            | _ => (none, none)
          | none => (none, none)
        some (setNth sp i (some { a with token := tok, depth := a.depth - 1, top := below }), recs, 0)

/-- Settle a split table after a move: take up, fuse and release until nothing more applies. The answer lists the lanes
of the fusions. -/
def settleN : Nat → List (Option Split) → Tab Rec → List Lanes → List (Option Split) × Tab Rec × List Lanes
  | 0, sp, recs, fs => (sp, gcRecs sp recs, fs)
  | n + 1, sp, recs, fs =>
    match settle1 sp recs with
    | none => (sp, gcRecs sp recs, fs)
    | some (sp, recs, m) => settleN n sp (gcRecs sp recs) (if m = 0 then fs else fs ++ [m])

/-- Whether an access writes. -/
def isWriteK : AccKind → Bool
  | .write => true | .atomic .. => true | .copy .. => true | .mat _ _ w => w | _ => false

/-- A new access with everything but its kind and issuer empty. -/
def Access.fence (s : State) (by_ : AgentId) (lanes mask : Lanes) (core : Option Nat) (ord : Ord) (sc : Nat) : Access :=
  { id := s.accSeq, batch := s.accSeq, by_ := by_, lanes := lanes, mask := mask, core := core, cls := 0, loc := .nowhere, width := 0,
    kind := .fence, ord := ord, sc := sc, data := [], poi := false, dest := .none, taken := none, atView := false, vord := 0,
    atHome := false, inj := false, pseq := 0, rept := false, konst := false, marks := [], owes := [], route := [] }

/-- Enter an access in the pending sets (R243 step 1). -/
def State.addAcc (s : State) (a : Access) : State :=
  { s with accs := s.accs ++ [{ a with id := s.accSeq, batch := s.accSeq }], accSeq := s.accSeq + 1 }

/-- Enter the accesses of one instruction: one batch (R245). -/
def State.addAccs (s : State) (l : List Access) : State :=
  let b := s.accSeq
  l.foldl (fun s a => { s with accs := s.accs ++ [{ a with id := s.accSeq, batch := b }], accSeq := s.accSeq + 1 }) s

/-- The core of a group's band. -/
def coreOfGrp (s : State) (g : Group) : Nat := coreAt s (bandKey g.gc g.b)

/-! ## Records outside the eight resident ones (R37, R184) -/

/-- A reconvergence record in its 16 bytes: kind 0 token, 1 no token, 2 deferred, 3 held. -/
def recBytes (x : Option Rec) : List Byte :=
  match x with
  | none => List.replicate 16 0
  | some x =>
    let (ia, m, k) : W64 × Lanes × Nat := match x.k with
      | .token (some t) => (t, 0, 0) | .token none => (0, 0, 1) | .deferred t m => (t, m, 2) | .held m => (0, m, 3)
    leBytes 8 ia.toNat ++ leBytes 4 m.toNat ++ leBytes 1 k ++ leBytes 1 (x.below.getD 0xFF) ++ leBytes 2 0

/-- Read a reconvergence record back; its age and place stay what they were. -/
def readRec (s : State) (gc va : Nat) (old : Rec) : Rec :=
  let ia := BitVec.ofNat 64 (areaNat s gc va 8)
  let m := BitVec.ofNat 32 (areaNat s gc (va + 8) 4)
  let b := areaNat s gc (va + 13) 1
  { old with
    k := match areaNat s gc (va + 12) 1 with | 0 => .token (some ia) | 1 => .token none | 2 => .deferred ia m | _ => .held m,
    below := if b = 0xFF then none else some b }

/-- Where record i of a group stands in its save area (R184). -/
def recVa (s : State) (g : Group) (i : Nat) : Nat := bandSave s g.gc g.b + 0x2000 + 0x9000 * g.r + 0x100 + 16 * i

/-- Write record i of a group to the save area; where it cannot be written the error is fatal, as in a park (R334, log 26). -/
def spillRec (s : State) (gk i : Nat) (r : Rec) : State :=
  match s.grp? gk with
  | none => s
  | some g => ((virtWrite s g.gc (recVa s g i) (recBytes (some r)) false).getD (fatal (virtTried s g.gc (recVa s g i)))).updGrp gk (fun g =>
      { g with recs := tabSet g.recs i { r with res := false } })

/-- Read record i of a group back from the save area. -/
def reloadRec (s : State) (gk i : Nat) (r : Rec) : State :=
  match s.grp? gk with
  | none => s
  | some g =>
    let va := recVa s g i
    let s := if (virtAddr s g.gc va .read).isSome then s else fatal (virtTried s g.gc va)
    s.updGrp gk (fun g => { g with recs := tabSet g.recs i { readRec s g.gc va r with res := true } })

/-- The record of a list that is least, or greatest, in age. -/
def recByAge (newest : Bool) (l : List (Nat × Rec)) : Option (Nat × Rec) :=
  l.foldl (fun o p => match o with
    | none => some p
    | some q => if (if newest then decide (q.2.age < p.2.age) else decide (p.2.age < q.2.age)) then some p else some q) none

/-- Keep the eight newest records resident: the oldest resident one is spilled, and a place that a pop frees reloads the newest
spilled one (R37). -/
def balanceRecs : Nat → State → Nat → State
  | 0, s, _ => s
  | n + 1, s, gk =>
    match s.grp? gk with
    | none => s
    | some g =>
      let here := g.recs.filter (fun p => p.2.res)
      if 8 < here.length then
        match recByAge false here with | some (i, r) => balanceRecs n (spillRec s gk i r) gk | none => s
      else if here.length < 8 then
        match recByAge true (g.recs.filter (fun p => !p.2.res)) with
        | some (i, r) => balanceRecs n (reloadRec s gk i r) gk | none => s
      else s

/-- Give a group a split table and its records: a spilled record that has changed is written again (R37). -/
def putTable (s : State) (gk : Nat) (sp : List (Option Split)) (recs : Tab Rec) : State :=
  match s.grp? gk with
  | none => s
  | some g =>
    let out := recs.filter (fun p => !p.2.res && tabGet? g.recs p.1 != some p.2)
    let s := s.updGrp gk (fun g => { g with splits := sp, recs := recs })
    balanceRecs 64 (out.foldl (fun (s : State) p => spillRec s gk p.1 p.2) s) gk

/-- Settle a group's split table; each fusion is a group-scope full fence for its lanes (R249). -/
def settle (s : State) (gk : Nat) : State :=
  match s.grp? gk with
  | none => s
  | some g =>
    let (sp, recs, fs) := settleN 256 g.splits g.recs []
    let s := putTable s gk sp recs
    fs.foldl (fun s m => s.addAcc (Access.fence s (.unit (.grp gk)) m m (some (coreOfGrp s g)) .ar 1)) s

/-- Take lanes out of an entry whose mask they empty: it is freed, or takes up its topmost deferred or held record that
still holds a lane (R128). -/
def refill (recs : Tab Rec) : Nat → Split → Option Split × Tab Rec
  | 0, _ => (none, recs)
  | n + 1, x =>
    match x.top with
    | none => (none, recs)
    | some i =>
      match tabGet? recs i with
      | none => (none, recs)
      | some ⟨.token t, below, _, _⟩ => refill recs n { x with token := t, depth := x.depth - 1, top := below }
      | some ⟨.deferred t m, below, _, _⟩ =>
        if m = 0 then refill recs n { x with top := below }
        else
          let j := (freeRec recs).getD i
          (some { x with pc := t, mask := m, top := some j, rj := false, w := .none }, pushRec recs j (.held 0) below)
      | some ⟨.held m, below, _, _⟩ =>
        if m = 0 then refill recs n { x with top := below }
        else (some { x with pc := x.token.getD x.pc, mask := m, top := below, rj := false, w := .none }, recs)

/-- Whether some deferred or held record of a chain still holds a lane. -/
def chainHolds (recs : Tab Rec) (x : Split) : Bool :=
  (recChain recs 64 x.top).any (fun i => match tabGet? recs i with
    | some ⟨.deferred _ m, _, _, _⟩ => m != 0 | some ⟨.held m, _, _, _⟩ => m != 0 | _ => false)

/-- Clear lanes from every mask of a split table and its records, and free or refill the entries they empty (R128). -/
def clearLanes (sp : List (Option Split)) (recs : Tab Rec) (m : Lanes) : List (Option Split) × Tab Rec :=
  let recs := recs.map (fun (p : Nat × Rec) => (p.1, { p.2 with k := match p.2.k with
    | .deferred t k => .deferred t (k &&& ~~~m)
    | .held k => .held (k &&& ~~~m)
    | .token t => .token t }))
  (sp.zipIdx).foldl (fun (acc : List (Option Split) × Tab Rec) p =>
    match p.1 with
    | none => acc
    | some x =>
      let k := x.mask &&& ~~~m
      if k ≠ 0 then (setNth acc.1 p.2 (some { x with mask := k }), acc.2)
      else if chainHolds acc.2 x then
        let (y, recs) := refill acc.2 130 { x with mask := 0 }
        (setNth acc.1 p.2 y, recs)
      else (setNth acc.1 p.2 none, acc.2)) (sp, recs)

/-- Whether the group's table holds a single entry at depth 0, or none because every lane has exited (R24, R120). -/
def Group.single (g : Group) : Bool :=
  match entries g.splits with | [] => true | [(_, x)] => x.depth == 0 | _ => false

/-- Where the group stands when its table is single: the entry's PC, or pc0. -/
def Group.pos (g : Group) : W64 := match entries g.splits with | (_, x) :: _ => x.pc | [] => g.pc0

/-- Move the single entry, or pc0 (R119). -/
def Group.setPos (g : Group) (ia : W64) : Group :=
  match entries g.splits with
  | (i, x) :: _ => { g with splits := setNth g.splits i (some { x with pc := ia, w := .none }), w := .none }
  | [] => { g with pc0 := ia, w := .none }

/-! ## Fault records (R169 to R171) -/

/-- The level-1 fields of a record about a unit: UNIT, CORE, GRP. -/
def recWhere (s : State) (u : UnitRef) (lev : Nat) : Nat × Nat × Nat :=
  match u with
  | .grp gk =>
    match s.grp? gk with
    | some g =>
      let r := s.lrec g.gc
      (if r.grpLev.isSome then r.lin 1 (g.num r) else g.r, coreOfGrp s g, g.r)
    | none => (0, 0xFFFF, 0xFF)
  | .ctx ck =>
    match s.ctx? ck with
    | some c => ((s.lrec c.gc).lin c.lvl c.g, if c.dom ≤ domBand then c.place else 0xFFFF,
        if c.dom = domGroup then c.g % (s.lrec c.gc).gpb else 0xFF)
    | none => (0, 0xFFFF, if lev = 0 then 0 else 0xFF)

/-- The 128 bytes of a fault record (R169, R170); a translation fault above L0 names no group (R271). -/
def recordBytes (s : State) (u : UnitRef) (f : FaultReq) (ia : W64) (insn : Insn) (seq disp : Nat) : List Byte :=
  let (un, core, grp) := recWhere s u f.lev
  let grp := if f.lev ≠ 0 ∧ (f.code = 0x20 ∨ f.code = 0x21) then 0xFF else grp
  let l := s.launch? (gcOf s u)
  let task := (s.task (gcOf s u)).id
  let helper := match l with | some l => l.helper | none => 0x3FFFFFFF
  leBytes 8 (seq % 2 ^ 32 * 2 ^ 32 + (if f.code = 0x10 then f.opf else 0) * 2 ^ 24 + disp * 2 ^ 16 + f.lev * 2 ^ 8 + f.code) ++
  leBytes 8 ia.toNat ++ leBytes 12 insn.toNat ++ leBytes 4 0 ++ leBytes 4 task ++ leBytes 4 helper ++ leBytes 4 un ++
  leBytes 2 core ++ leBytes 1 grp ++ leBytes 1 0 ++ leBytes 4 f.lanes.toNat ++ leBytes 4 f.aux.toNat ++ leBytes 8 f.addr.toNat ++
  (f.det ++ List.replicate 64 0).take 64

/-- Dispositions (R167). -/
inductive Disp where
  | h | p | c | d
  deriving DecidableEq, Repr

/-- The disposition of a code (R167). -/
def dispOf (code : Nat) : Disp :=
  if code = 0x20 ∨ code = 0x21 then .p else if 0x30 ≤ code ∧ code ≤ 0x34 then .c else if code = 0x38 then .d else .h

/-- Queue a record for the host's fault buffer (R395). -/
def toHost (s : State) (rcd : List Byte) (k : FbKind) : State :=
  { s with host := { s.host with fbWait := s.host.fbWait ++ [(rcd, k)] } }

/-! ## Ending units, aborting, killing -/

/-- The groups of a band. -/
def grpsOf (s : State) (gc b : Nat) : List (Nat × Group) := s.groups.filter (fun p => p.2.gc == gc && p.2.b == b)

/-- The contexts below or at unit g of level lvl. -/
def ctxsUnder (s : State) (gc lvl g : Nat) : List (Nat × Ctx) :=
  let r := s.lrec gc
  s.ctxs.filter (fun p => p.2.gc == gc && decide (p.2.lvl ≤ lvl) && r.ancFrom p.2.lvl p.2.g lvl == g)

/-- The groups below unit g of level lvl. -/
def grpsUnder (s : State) (gc lvl g : Nat) : List (Nat × Group) :=
  let r := s.lrec gc
  s.groups.filter (fun p => p.2.gc == gc && r.anc (p.2.num r) lvl == g)

/-- The bands that hold a group of unit g of level lvl. -/
def bandsUnder (s : State) (gc lvl g : Nat) : List (Nat × Band) :=
  let r := s.lrec gc
  s.bands.filter (fun p => p.2.gc == gc &&
    (if r.extents 1 lvl < r.gpb then g / (r.gpb / r.extents 1 lvl) == p.2.b else r.anc (p.2.b * r.gpb) lvl == g))

/-- Drop what some destinations still wait for: reads leave the pending sets without effect, and a completion that is due is dropped; an
atomic stays, with no destination (R31, R198, R251). -/
def dropDests (s : State) (p : Dest → Bool) : State :=
  { s with accs := (s.accs.filter (fun a => !(a.kind == .read && p a.dest))).map (fun a => if p a.dest then { a with dest := .none } else a),
           prods := s.prods.filter (fun x => !p x.dest) }

/-- Whether the drover of some core still holds a copy of a band or one that targets it (R129, R198, R303, R306). -/
def copying (s : State) (bk : Nat) : Bool := s.cores.any (fun p => p.2.drover.any (fun d => d.bk == bk || d.targets.contains bk))

/-- The chain of bands that share the resources of one: itself and whoever runs inside it. -/
def chainOf (s : State) : Nat → Nat → List Nat
  | 0, bk => [bk]
  | n + 1, bk => match (s.band? bk).bind (fun x => x.reserve) with | some o => bk :: chainOf s n o | none => [bk]

/-- The bands that stand parked above some bands in a chain of takings-in give up what is kept for their helpers (R347). -/
def freeChain (s : State) (bks : List Nat) : State :=
  { s with bands := s.bands.map (fun (p : Nat × Band) =>
      if p.2.reserve.isSome && (chainOf s 5 p.1).tail.any bks.contains then (p.1, { p.2 with reserve := none }) else p) }

/-- End a band: its groups and contexts go, its scratchpad is discarded, its rings and matrix
commands are released (R129, R198, R229, R390). The slot stays counted until no inbound copy targets it, and the scratchpad
stays until the band's copies are done (R306). A band that is placed again keeps its pending-launch entries (R326), and one that was parked
for its helper gives the helper's resources up with its own: what runs inside goes on by itself (R347). -/
def clearBand (s : State) (gc b : Nat) (st : BandSt) : State :=
  let bk := bandKey gc b
  let gks := (grpsOf s gc b).map (·.1)
  let core := coreAt s bk
  let ids := ((s.core core).mq.filter (fun m => m.bk == bk)).map (·.id)
  let s := { s with groups := s.groups.filter (fun p => !gks.contains p.1),
                    clusters := s.clusters.map (fun (p : Nat × Cluster) => (p.1, { p.2 with homes := p.2.homes.filter (fun k => k != bk) })),
                    accs := s.accs.filter (fun a => match a.kind with | .mat c i _ => !(c == core && ids.contains i) | _ => true) }
  let s := match s.band? bk with | some x => if x.reserve.isSome then freeChain s [bk] else s | none => s
  let s := s.updCore core (fun c => { c with
    mq := c.mq.filter (fun m => m.bk != bk), mfault := c.mfault.filter (fun p => p.2.bk != bk),
    replay := c.replay.map (fun q => q.filter (fun e => !gks.contains e.gk)) })
  s.updBand bk (fun x => { Band.fresh gc b with
    st := st, core := x.core, slot := x.slot, born := x.born, kills := x.kills, take := x.take, again := x.again, rcd := x.rcd,
    scr := if copying s bk then x.scr else [], scrP := if copying s bk then x.scrP else [],
    pend := if st = .unplaced then x.pend else x.pend.filter (fun p => !p.2) })

/-- The published names of a band that is killed stay published until its groups' accesses are performed (R198, R367). -/
def killPins (s : State) (gc b : Nat) : State :=
  let gs := grpsOf s gc b
  let here : Bool := match s.band? (bandKey gc b) with | some x => x.st != .parked && x.st != .resuming | none => true
  let names := (gs.map (fun p => ((p.2.pins.map (fun q => [q.v, q.shadow])).flatten.filter (fun x => x != 0)).map (fun x =>
    (⟨x, (s.task gc).id, p.1, some s.accSeq⟩ : ParkedPin)))).flatten
  { s with pins := s.pins.map (fun p => if gs.any (fun q => q.1 == p.gk) then { p with dead := some (p.dead.getD s.accSeq) } else p) ++
      (if here then names else []) }

/-- Kill a band: what its groups still wait for is dropped, and it goes (R198). -/
def endBand (s : State) (gc b : Nat) (st : BandSt) : State :=
  let gks := (grpsOf s gc b).map (·.1)
  clearBand (dropDests (killPins s gc b) (fun d => match d with | .vec gk _ _ _ => gks.contains gk | _ => false)) gc b st

/-- Stop every unit of a launch with no further effect; the task then retires with OUT and a code (R172, R340). -/
def stopLaunch (s : State) (gc out code : Nat) : State :=
  let bs := (s.bands.filter (fun p => p.2.gc == gc && p.2.st != .ended)).map (fun p => p.2.b)
  let s := bs.foldl (fun s b => endBand s gc b .ended) s
  let s := { s with ctxs := s.ctxs.map (fun (p : Nat × Ctx) => if p.2.gc == gc then (p.1, { p.2 with ended := true, trail := [] }) else p),
                    ready := s.ready.filter (fun e => match e.what with | .unit g _ => g != gc | .more g => g != gc | _ => true),
                    ovf := s.ovf.filter (fun w => w.ck % 64 != gc),
                    msgs := s.msgs.filter (fun m => gcOf s m.by_ != gc) }
  (unregister s (fun w => !w.slot && w.ck % 64 == gc)).updLaunch gc (fun l => { l with done := true, out := out, code := code })

/-- Whether a DISP 3 record may be written at FAULTREC (R172). -/
def faultRecAddr (s : State) (gc : Nat) (fr : W64) : Option Nat :=
  if fr = 0 ∨ fr.toNat % 128 ≠ 0 ∨ !vaOk fr then none
  else (virtAddr s gc fr.toNat .write).bind (fun pa => if isMem s.floor pa then some pa else none)

/-- Abort a launch: the record with DISP 3 goes through FAULTREC or to the host's fault buffer, and every unit stops
(R172). -/
def abortLaunch (s : State) (u : UnitRef) (f : FaultReq) (ia : W64) (insn : Insn) (seq : Nat) : State :=
  let gc := gcOf s u
  let rcd := recordBytes s u f ia insn seq 3
  let fr := match s.launch? gc with | some l => l.faultrec | none => 0
  let s := match faultRecAddr s gc fr with
    | some pa => homeWrite s pa rcd false
    | none => toHost (if fr ≠ 0 ∧ fr.toNat % 128 = 0 ∧ vaOk fr then virtFailed s gc fr.toNat 128 .write else s) rcd .dead
  stopLaunch s gc 2 f.code

/-- The band of a unit, if it lies in one. -/
def bandOfUnit (s : State) (u : UnitRef) : Option Nat :=
  match u with
  | .grp gk => (s.grp? gk).map (fun g => g.b)
  | .ctx ck => (s.ctx? ck).bind (fun c => if c.dom ≤ domBand then some ((s.lrec c.gc).bandOf c.lvl c.g) else none)

/-- The unit that is placed, parked and killed with a band: level and launch-wide number, or none for the band alone
(R42). -/
def wholeUnit (s : State) (gc b : Nat) : Option (Nat × Nat) :=
  let r := s.lrec gc
  r.wholeLev.map (fun k => (k, r.anc (b * r.gpb) k))

/-- The bands that are placed, parked and killed with a band, itself included (R42, R43). -/
def bandsWith (s : State) (gc b : Nat) : List Nat :=
  if (s.lrec gc).resid then (s.bands.filter (fun p => p.2.gc == gc && p.2.st != .ended)).map (fun p => p.2.b)
  else match wholeUnit s gc b with
  | some (k, g) => (bandsUnder s gc k g).map (fun p => p.2.b)
  | none => [b]

/-- The bands that are killed with a band: those of its whole unit (R42, R198). -/
def unitBands (s : State) (gc b : Nat) : List Nat :=
  match wholeUnit s gc b with
  | some (k, g) => (bandsUnder s gc k g).map (fun p => p.2.b)
  | none => [b]

/-- Whether a handler runs in some group of the bands that park with a band: a request and every park is deferred until it has
returned (R175). -/
def handling (s : State) (gc b : Nat) : Bool :=
  (bandsWith s gc b).any (fun x => (grpsOf s gc x).any (fun p => p.2.handler.isSome))

/-- A ready-queue entry at its task's priority with age 0 (R342). -/
def readyAdd (s : State) (what : ReadyItem) (prio : Nat) : State := { s with ready := s.ready ++ [⟨what, prio, prio, 0, false⟩] }

/-- The band that is killed for a fault of a unit. -/
def killBand (s : State) (u : UnitRef) : Option Nat :=
  match bandOfUnit s u with
  | some b => some b
  | none => match u with
    | .ctx ck => (s.ctx? ck).bind (fun c => (bandsUnder s c.gc c.lvl c.g).head?.map (fun (p : Nat × Band) => p.2.b))
    | _ => none

/-- Agree to kill the band of a unit, with its whole unit: it stops at once, and BAND_KILL carries the kill out (R198). A unit
without bands aborts its launch. -/
def killUnit (s : State) (u : UnitRef) (f : FaultReq) (ia : W64) (insn : Insn) (seq : Nat) : State :=
  let gc := gcOf s u
  match killBand s u with
  | none => abortLaunch s u f ia insn seq
  | some b => (unitBands s gc b).foldl (fun (s : State) x => s.updBand (bandKey gc x) (fun y =>
      if y.dying.isSome then y else { y with dying := some ⟨u, f, ia, insn, seq⟩ })) s

/-! ## Containment (R196, R197) -/

/-- Scopes of R196 as numbers: group 0, band 1, core 2, and 3 for what is never restarted. -/
def kindNo : IdemKind → Nat | .grp => 0 | .band => 1 | .core => 2

/-- The reach of a contained fault of a unit (R196). `src` is the bank's SRC. R196 names no reach for a group's own predicates and split
table: it is the group (log 27). -/
def reachOf (s : State) (u : UnitRef) (code src : Nat) : Nat :=
  if code = 0x33 ∨ code = 0x34 then 3
  else match u with
    | .grp _ => if code = 0x32 ∧ (src = 0x04 ∨ src = 0x07 ∨ src = 0x09) then 1 else 0
    | .ctx ck => match s.ctx? ck with
      | some c =>
        if c.dom = domGroup then (if code = 0x32 ∧ (src = 0x04 ∨ src = 0x07 ∨ src = 0x09) then 1 else 0)
        else if c.dom = domBand then 1 else 3
      | none => 3

/-- The bank that records a contained fault of a unit (R203, R47). -/
def bankOfUnit (s : State) (u : UnitRef) : Nat := bankOfPlace s (placeOf s u)

/-- Whether a stopped group can restart its region at a scope (R196). -/
def canRestart (s : State) (g : Group) (scope : Nat) : Bool :=
  g.region.valid && decide (scope ≤ kindNo g.region.kind) && decide (g.region.restarts < 4) &&
  (grpTop (s.lrec g.gc) || (match g.seg with | some x => inSeg x g.region.entry && !g.segDone | none => false))

/-- The groups that stop for a contained fault at a scope. -/
def scopeGroups (s : State) (u : UnitRef) (scope : Nat) : List (Nat × Group) :=
  match u, bandOfUnit s u with
  | .grp gk, some b =>
    if scope = 0 then (s.groups.filter (fun p => p.1 == gk))
    else if scope = 1 then grpsOf s (gcOf s u) b
    else
      let core := coreAt s (bandKey (gcOf s u) b)
      s.groups.filter (fun p => coreOfGrp s p.2 == core &&
        (match s.band? (bandKey p.2.gc p.2.b) with | some x => x.st == .resident | none => true))
  | .ctx _, some b => if scope ≤ 1 then grpsOf s (gcOf s u) b else []
  | _, none => []

/-- Containment of a fault of disposition C (R196): record it, and restart regions or kill the unit. -/
def contain (s : State) (u : UnitRef) (f : FaultReq) (ia : W64) (insn : Insn) (seq src : Nat) : State :=
  let reach := reachOf s u f.code src
  let gu := match u with
    | .grp gk => s.grp? gk
    | .ctx ck => (s.ctx? ck).bind (fun c => if c.dom = domGroup then s.grp? (grpOfCtx s c) else none)
  let kind := match gu with | some g => (if g.region.valid then kindNo g.region.kind else 0) | none => 0
  let scope := max reach kind
  let gs := scopeGroups s (match u, gu with | .ctx _, some g => .grp (grpKey g.gc g.b g.r) | u, _ => u) scope
  let ok := decide (reach ≤ 2) && !gs.isEmpty && gs.all (fun p => canRestart s p.2 scope)
  let (_, _, grp) := recWhere s u f.lev
  let s := s.bankEvent (bankOfUnit s u) 1 (if ok then 1 else 2) f.code src ia (whoOf s (gcOf s u)) (misc1Of f.lanes grp f.lev)
  if ok then gs.foldl (fun s p => s.updGrp p.1 (fun g => { g with stop := .restart })) s
  else killUnit s u f ia insn seq

/-- Whether a group's registers still wait for producers: reads or producers bound for its vector registers or for the scalars of
its group-domain context, or matrix operations that write its registers (R115, R214). -/
def grpBusy (s : State) (gk : Nat) : Bool :=
  let own := match s.grp? gk with | some g => if (s.lrec g.gc).grpLev.isSome then some (grpAnc s g 1) else none | none => none
  let p := fun (d : Dest) => match d with | .vec k _ _ _ => k == gk | .scal ck _ _ => own == some ck | _ => false
  s.accs.any (fun a => p a.dest) || s.prods.any (fun x => p x.dest) ||
  s.cores.any (fun c => c.2.mq.any (fun m => match m.k with
    | .amovv _ k _ _ _ _ => k == gk | .acvtV _ _ _ k _ _ _ _ => k == gk | _ => false))

/-- Restart a group's region (R197): one entry with the recorded mask less exited lanes, at the entry IA. -/
def restartGroup (s : State) (gk : Nat) : State :=
  match s.grp? gk with
  | none => s
  | some g =>
    let m := g.region.mask &&& g.live
    let r := s.lrec g.gc
    let core := coreOfGrp s g
    let s := s.updCore core (fun c => { c with replay := c.replay.map (fun q => q.filter (fun e => e.gk != gk)) })
    s.updGrp gk (fun g => { g with
      splits := [if m = 0 then none else some ⟨g.region.entry, m, none, 0, none, false, false, .none⟩, none, none, none],
      recs := [], pc0 := g.region.entry, stop := .run, clonePend := none, chk := r.chk,
      region := { g.region with restarts := g.region.restarts + 1 }, w := .none })

/-! ## Parking requests and debug stops -/

/-- Ask for a park of a band with its whole unit (R177, R182): other bands of the unit record cause 6. For every cause but a
pre-emption a group stops at its next issue boundary, so the instruction that it has in hand may still issue. -/
def requestPark (s : State) (gc b cause : Nat) (byUnit : Bool) : State :=
  (bandsWith s gc b).foldl (fun (s : State) x =>
    let new := match s.band? (bandKey gc x) with | some y => y.park.isNone | none => false
    let s := s.updBand (bandKey gc x) (fun y =>
      if y.park.isSome then y
      else { y with park := some ⟨if x = b ∧ !byUnit then cause else 6, clockAt s (.core y.core)⟩, cause := cause })
    if new then (grpsOf s gc x).foldl (fun (s : State) p => s.updGrp p.1 (fun g => { g with last := cause != 1 })) s else s) s

/-- Stop a band, with its whole unit, for the debugger or the host, unless it stands stopped already (R218, R219): `w` is the unit and
entry that stopped. -/
def debugStop (s : State) (gc b : Nat) (w : Option (UnitRef × Nat)) (ia : W64) : State :=
  (bandsWith s gc b).foldl (fun s x => s.updBand (bandKey gc x) (fun y =>
    if y.dbg.isSome then y else { y with dbg := some ia, dbgUnit := w, dbgAt := clockAt s (.core y.core) })) s

/-- The stop of a BKPT or HALT at entry e of a unit (R218, R219): its band, or every band of its unit; a context above the band domain
stands stopped itself, so that the stop holds where no band of the unit is placed. -/
def stopUnit (s : State) (u : UnitRef) (e : Nat) (ia : W64) : State :=
  let gc := gcOf s u
  match bandOfUnit s u with
  | some b => debugStop s gc b (some (u, e)) ia
  | none => match u with
    | .grp _ => s
    | .ctx ck => match s.ctx? ck with
      | none => s
      | some c =>
        let s := (s.updCtx ck (fun c => { c with stopped := true })).updLaunch gc (fun l =>
          { l with dbg := (ck, ia) :: l.dbg.filter (fun p => p.1 != ck) })
        (bandsUnder s gc c.lvl c.g).foldl (fun s p => debugStop s gc p.2.b none ia) s

/-- The stops of a launch whose unit holds a band (R393). -/
def stopsOver (s : State) (gc b : Nat) : List (Nat × W64) :=
  match s.launch? gc with
  | none => []
  | some l => l.dbg.filter (fun p => match s.ctx? p.1 with
    | some c => c.dom == domDevice || l.r.anc (b * l.r.gpb) c.lvl == c.g
    | none => false)

/-! ## Trap handlers (R165, R175) -/

/-- Combine the reports of children in order (R33, R35): mixed where two that are not empty differ. What each kind's lowest group
showed is kept in the order of the children (R34). -/
def combineReps (l : List Report) : Report :=
  let seen := (l.map (fun r => r.seen)).flatten.foldl (fun (a : List Shown) x => if a.any (fun y => y.k == x.k) then a else a ++ [x]) []
  match l.filter (fun r => r.k != .empty) with
  | [] => ⟨.empty, []⟩
  | r :: rs => ⟨if r.k == .mixed || rs.any (fun x => x.k != r.k) then .mixed else r.k, seen⟩

/-- The group that a report names (R34): the lowest whose lanes disagree with each other, or with those of the lowest group that
showed anything; of two groups that are each uniform and differ it is the higher one (log 26). -/
def Report.shown (r : Report) : Option Shown :=
  match r.seen with
  | [] => none
  | [a] => some a
  | a :: b :: _ => if a.k == .mixed then some a else some b

/-- The group that runs the handler of a fault above L0 (R165): the one that the record names, else the lowest live group of the
lowest band that holds one. -/
def handlerGroup (s : State) (ck : Nat) (f : FaultReq) : Option Nat :=
  match s.ctx? ck with
  | none => none
  | some c =>
    let gs := (grpsUnder s c.gc c.lvl c.g).filter (fun p => p.2.live != 0)
    let pick := fun (l : List (Nat × Group)) => l.foldl (fun (o : Option (Nat × Group)) p =>
      match o with | none => some p | some q => if p.2.b < q.2.b ∨ (p.2.b = q.2.b ∧ p.2.r < q.2.r) then some p else o) none
    let named := if f.code ≠ 0x07 ∨ c.dom = domGroup then []
      else match (combineReps (c.reports.map (·.2))).shown with
        | some x => gs.filter (fun p => p.1 == x.gk)
        | none => []
    ((pick named).orElse (fun _ => pick gs)).map (·.1)

/-- Kill a band for a fault inside its handler: code 0x33 or 0x34 with the inner code in AUX (R175). -/
def killHandler (s : State) (u : UnitRef) (code inner lev : Nat) (lanes : Lanes) (ia : W64) (insn : Insn) (seq : Nat) : State :=
  contain s u ⟨code, lev, lanes, BitVec.ofNat 32 inner, 0, 0, []⟩ ia insn seq 0x0B

/-- Count a fault of a launch (R170). -/
def countFault (s : State) (gc : Nat) : Nat × State :=
  let n := match s.launch? gc with | some l => (l.seq + 1).toNat | none => 0
  (n, s.updLaunch gc (fun l => { l with seq := l.seq + 1 }))

/-- Stop or release the units below a faulting unit while its handler runs (R165). -/
def setStopped (s : State) (u : UnitRef) (hg : Nat) (b : Bool) : State :=
  match u with
  | .grp _ => s
  | .ctx ck =>
    match s.ctx? ck with
    | none => s
    | some c =>
      let cs := (ctxsUnder s c.gc c.lvl c.g).map (·.1)
      let gs := (grpsUnder s c.gc c.lvl c.g).map (·.1)
      let s := cs.foldl (fun s k => s.updCtx k (fun x => { x with stopped := b })) s
      gs.foldl (fun s k => if k = hg then s
        else s.updGrp k (fun g => if b ∧ g.stop = .run then { g with stop := .unitFault }
          else if !b ∧ g.stop = .unitFault then { g with stop := .run } else g)) s

/-- The lanes that a handler runs in: those of the faulting entry, or every live lane for a fault of a unit (R175). -/
def handlerLanes (g : Group) (u : UnitRef) (e : Nat) (rep412 : Bool) : Lanes :=
  let whole := match u with | .grp _ => false | .ctx _ => true
  if whole || rep412 then g.live
  else match nth? g.splits e with | some (some x) => x.mask &&& g.live | _ => g.live

/-- Enter the launch's handler in a group for a fault of a unit (R165, R175): a fresh split table of the lanes concerned at the
handler entry, the old one put aside. -/
def enterHandler (s : State) (u : UnitRef) (hg : Nat) (g : Group) (e : Nat) (f : FaultReq) (ia : W64) (insn : Insn) (seq : Nat)
    (rep412 : Bool) : State :=
  let h : Handler := {
    code := f.code, lev := f.lev, unit := u, ia := ia, rcd := recordBytes s u f ia insn seq 0, resume := ia,
    start := clockAt s (.core (coreOfGrp s g)), splits := g.splits, recs := g.recs,
    region := g.region, entry := e, rep412 := rep412,
    held := match u with
      | .grp _ => []
      | .ctx ck => match s.ctx? ck with
        | some c => (ctxsUnder s c.gc c.lvl c.g).map (fun p => ⟨p.1, p.2.loops, p.2.calls, p.2.depth, p.2.spilled⟩)
        | none => [] }
  (setStopped s u hg true).updGrp hg (fun x => { x with
    handler := some h, stop := .run,
    splits := [some ⟨(s.lrec g.gc).handler, handlerLanes g u e rep412, none, 0, none, false, false, .none⟩, none, none, none],
    recs := [], region := { x.region with valid := false }, w := .none })

/-- Start a handler; an entry that fails R50 kills the band with 0x33 (R50). -/
def startHandler (s : State) (u : UnitRef) (hg e : Nat) (f : FaultReq) (ia : W64) (insn : Insn) (seq : Nat) (rep412 : Bool) : State :=
  match s.grp? hg with
  | none => s
  | some g =>
    let a := (s.lrec g.gc).handler
    match checkTgt (enterHandler s u hg g e f ia insn seq rep412) (.core (coreOfGrp s g)) g.gc a with
    | (.ok, s) => s
    | (.bad, s) => killHandler s (.grp hg) 0x33 0x05 0 (handlerLanes g u e rep412) a 0 seq
    | (.fetch c, s) => killHandler s (.grp hg) 0x33 c 0 (handlerLanes g u e rep412) a 0 seq

/-- The band-domain contexts of a band, in level order. -/
def bandCtxList (s : State) (gc b : Nat) : List (Nat × Ctx) :=
  ((List.range 8).map (fun k => s.ctxs.filter (fun p => p.2.gc == gc && p.2.lvl == k && p.2.dom == domBand &&
    (s.lrec gc).bandOf p.2.lvl p.2.g == b))).flatten

/-- The band header (R182); an H fault that saves nothing records CAUSE 0 and no group. -/
def bandHead (s : State) (x : Band) (cause : Nat) : List Byte :=
  let r := s.lrec x.gc
  let gs := grpsOf s x.gc x.b
  let m := fun (p : Group → Bool) => sumL ((gs.filter (fun q => p q.2)).map (fun q => 2 ^ q.2.r))
  let helper := match s.launch? x.gc with | some l => l.helper | none => 0x3FFFFFFF
  leBytes 8 (cause % 16 + b2n r.mat * 2 ^ 4 + (bandCtxList s x.gc x.b).length % 16 * 2 ^ 8 + gs.length % 32 * 2 ^ 16 + r.scrg % 512 * 2 ^ 32) ++
  leBytes 4 (s.task x.gc).id ++ leBytes 4 helper ++ leBytes 2 (if cause = 0 then 0 else m (fun _ => true)) ++
  leBytes 2 (if cause = 0 then 0 else m (fun g => g.kept.isNone)) ++ leBytes 2 (m (fun g => g.pendH.isSome)) ++ List.replicate 0x6A 0

/-- The contexts that the area of a cluster- or die-domain unit holds, in level order (R185). -/
def areaCtxs (s : State) (gc j g : Nat) : List (Nat × Ctx) :=
  let r := s.lrec gc
  ((List.range 8).map (fun l => (ctxsUnder s gc j g).filter (fun p => p.2.lvl == l && p.2.dom == (r.lvl j).dom))).flatten

/-- The header of such an area (R185). -/
def unitHead (s : State) (gc j g cause : Nat) : List Byte :=
  leBytes 8 (cause % 16 + (areaCtxs s gc j g).length % 32 * 2 ^ 8) ++ List.replicate 0x78 0

/-- Where the record of an H fault is written (R172, R181, R185); none for a grid context, which has no area. -/
def recordAddr (s : State) (u : UnitRef) : Option Nat :=
  match bandOfUnit s u with
  | some b => some (bandSave s (gcOf s u) b)
  | none => match u with
    | .ctx ck => (s.ctx? ck).bind (fun c => if c.dom = domCluster ∨ c.dom = domDie then some (unitSave s c.gc c.lvl c.g) else none)
    | _ => none

/-- Write the record of an H fault in the unit's save area, with a header of CAUSE 0 behind it (R172, R181, R182, R185); none where
the area cannot be written. The band keeps the record, which the area holds at every save (R181). -/
def writeFault (s : State) (u : UnitRef) (rcd : List Byte) : Option State :=
  let gc := gcOf s u
  match recordAddr s u with
  | none => some s
  | some a =>
    let head := match bandOfUnit s u with
      | some b => (match s.band? (bandKey gc b) with | some x => bandHead s x 0 | none => [])
      | none => (match u with | .ctx ck => (match s.ctx? ck with | some c => unitHead s gc c.lvl c.g 0 | none => []) | _ => [])
    let s := match bandOfUnit s u with | some b => s.updBand (bandKey gc b) (fun x => { x with rcd := rcd }) | none => s
    virtWrite s gc a (rcd ++ head) false

/-- Take an H fault: record it in the save area and start the handler, or abort the launch when there is none (R172). A
fault that meets a park under way, or whose handler is to run in a group that is parked, is kept, and its handler runs on resume (R180). -/
def takeH (s : State) (u : UnitRef) (e : Nat) (f : FaultReq) (ia : W64) (insn : Insn) (seq : Nat) (rep412 : Bool) : State :=
  let gc := gcOf s u
  let hg? := match u with | .grp gk => some gk | .ctx ck => handlerGroup s ck f
  match hg? with
  | none => abortLaunch s u f ia insn seq
  | some hg =>
    if (s.lrec gc).handler = 0 then abortLaunch s u f ia insn seq
    else
      let inGrp : Bool := match u with | .grp _ => true | .ctx ck => match s.ctx? ck with | some c => c.dom == domGroup | none => false
      let parking : Bool := inGrp && (match (s.grp? hg).bind (fun g => s.band? (bandKey g.gc g.b)) with
        | some b => b.park.isSome && !handling s b.gc b.b
        | none => false)
      let away : Bool := match (s.grp? hg).bind (fun g => s.band? (bandKey g.gc g.b)) with
        | some b => b.st != .resident
        | none => false
      match writeFault s u (recordBytes s u f ia insn seq 0) with
      | none => fatal (match recordAddr s u with | some a => virtFailed s gc a 256 .write | none => s)
      | some s =>
        if parking || away then s.updGrp hg (fun g => { g with
          pendH := some ⟨u, e, f, ia, insn, seq, rep412⟩, stop := if away then g.stop else .halted })
        else startHandler s u hg e f ia insn seq rep412

/-- A fault in a subtree drops the faults that its ancestors hold; they recur when their instructions are executed again (R30). -/
def dropHeld (s : State) (u : UnitRef) : State :=
  let from_ := match u with | .grp _ => 1 | .ctx ck => match s.ctx? ck with | some c => c.lvl + 1 | none => 8
  (List.range 8).foldl (fun (s : State) k =>
    if from_ ≤ k ∧ k ≤ (s.lrec (gcOf s u)).top then s.updCtx (ancKey s u k) (fun c => { c with held := none }) else s) s

/-- A record of a P fault for the host: one more to resolve before the band resumes (R179). While a handler runs it waits until the
band is saved (R180). -/
def owePark (s : State) (rcd : List Byte) (gc b : Nat) : State :=
  let late := handling s gc b
  let s := s.updBand (bandKey gc b) (fun x => { x with unres := x.unres + 1, owed := if late then x.owed ++ [rcd] else x.owed })
  if late then s else toHost s rcd (.park gc b)

/-- Taking a fault, whatever its code: SEQ counts it (R170), a fault inside a handler kills the band (R175), and the code's
disposition decides the rest (R167, R172, R179, R196, R218). `e` is the split-table entry of a group; `src` the bank source
of a contained fault. -/
def takeFault (s : State) (u : UnitRef) (e : Nat) (f : FaultReq) (ia : W64) (insn : Insn) (src : Nat) : State :=
  let gc := gcOf s u
  let s := dropHeld s u
  let (seq, s) := countFault s gc
  if inHandler s u then killHandler s u 0x33 f.code f.lev f.lanes ia insn seq
  else match dispOf f.code with
    | .h => takeH s u e f ia insn seq false
    | .c => contain s u f ia insn seq src
    | .d =>
      toHost (stopUnit s u e ia) (recordBytes s u f ia insn seq 1) (.bkpt gc ((killBand s u).getD 0))
    | .p =>
      let rcd := recordBytes s u f ia insn seq 1
      match u with
      | .grp gk =>
        match s.grp? gk with
        | none => s
        | some g =>
          let s := s.updGrp gk (fun g => { g with stop := .pfault })
          requestPark (owePark s rcd gc g.b) gc g.b 3 false
      | .ctx ck =>
        match s.ctx? ck with
        | none => s
        | some c =>
          let s := s.updCtx ck (fun c => { c with stopped := true })
          let s := if c.dom = domGroup then s.updGrp (grpOfCtx s c) (fun g => { g with stop := .pfault }) else s
          let b? := if c.dom ≤ domBand then some ((s.lrec gc).bandOf c.lvl c.g)
            else if c.dom = domDevice then none else (bandsUnder s gc c.lvl c.g).head?.map (fun p => p.2.b)
          match b? with
          | none => toHost s rcd (.grid ck)
          | some b =>
            requestPark (owePark s rcd gc b) gc b 3 (decide (domBand < c.dom))

/-- Whether what a split has in hand waits for something that is neither an empty register, a memory reply nor a VGROW (R130): the phase
of a barrier or of an arrival record, a message, or a matrix operation. -/
def waitHolds (s : State) (gk : Nat) (g : Group) (w : WaitSt) : Bool :=
  match w with
  | .bar j b _ | .barw j b => (tabGet ⟨0, []⟩ s.bars (barKey (ancKey s (.grp gk) 1) j)).phase.toNat == b
  | .arwt _ _ got => got.isNone
  | .ring r => (match (s.band? (bandKey g.gc g.b)).bind (fun x => tabGet? x.rings r) with | some x => x.h == x.t | none => false)
  | .mats a => (s.core (coreOfGrp s g)).mq.any (fun o => o.bk == bandKey g.gc g.b && (match a with | some x => o.wr.contains x | none => true))
  | _ => false

/-- Whether a split cannot become ready by itself (R130): it waits at an RJOIN, at its token or in `waitHolds`, it stands outside its
segment, or it stands at a slot of the group-domain level, which waits for the group's other splits (R120). The slot is looked
up in the lines that the group's core holds; one that is not there is still to be fetched. -/
def splitStuck (s : State) (g : Group) (gk : Nat) (x : Split) : Bool :=
  let out := g.handler.isNone && !grpTop (s.lrec g.gc) && (match g.seg with | some y => !inSeg y x.pc | none => true)
  x.rj || atToken x || out || waitHolds s gk g x.w ||
  (match (linesAt s (placeOf s (.grp gk))).find? (fun e => e.space == (s.task g.gc).space && e.va == iaLine x.pc) with
   | some e => let lev := levOf (slotOf e.data (iaSlot x.pc)); lev != 0 && (s.lrec g.gc).grpLev == some lev && !g.single
   | none => false)

/-- The rejoin fault of R130: no split of the group can become ready, some wait at an RJOIN, and not all at one. It is taken at
the lowest such entry, and its record names every entry (R171). -/
def rejoinCheck (s : State) (gk : Nat) : State :=
  match s.grp? gk with
  | none => s
  | some g =>
    let es := entries g.splits
    if g.stop ≠ .run ∨ g.vwant ≠ 0 ∨ !es.all (fun p => splitStuck s g gk p.2) then s
    else match es.find? (fun p => p.2.rj) with
      | none => s
      | some (e, x) =>
        let det := (List.range 4).map (fun k => match nth? g.splits k with
          | some (some y) => leBytes 8 y.pc.toNat ++ leBytes 4 y.mask.toNat ++ leBytes 4 2
          | _ => List.replicate 16 0)
        let (l, s) := fetchLine s (placeOf s (.grp gk)) g.gc x.pc
        let w := match l with | .ok l => slotOf l (iaSlot x.pc) | .error _ => 0
        takeFault s (.grp gk) e { FaultReq.mk0 0x0C 0 with lanes := g.live, det := det.flatten } x.pc w 0

/-! ## The return from a handler (R176, R214) -/

/-- Whether RESUMEIA may be returned to (R51, R176 step 4). -/
def resumeOk (s : State) (h : Handler) : Bool :=
  iaOk h.resume && (h.rep412 || match h.unit with
    | .grp _ => true
    | .ctx ck => match s.ctx? ck with
      | none => false
      | some c =>
        let seg := if c.dom = domGroup then
            (s.grp? (grpOfCtx s c)).bind (fun g => g.seg) else c.cur
        c.lvl == (s.lrec c.gc).top || h.resume == h.ia || (match seg with | some x => inSeg x h.resume | none => false))

/-- Return from the handler of a group (R176): the saved split table comes back less the lanes that exited, with the loop and call
stacks of the stopped levels, the faulting level resumes at RESUMEIA unless every lane of the faulting split has exited, and
every stopped level runs again. No instruction of a handler changes a trail, so the trails stand as they were. -/
def returnHandler (s : State) (gk : Nat) : State :=
  match s.grp? gk with
  | none => s
  | some g =>
    match g.handler with
    | none => s
    | some h =>
      let (sp, recs) := clearLanes h.splits h.recs (~~~g.live)
      let s := putTable s gk sp (gcRecs sp recs)
      let s := s.updGrp gk (fun g => { g with handler := none, region := h.region, w := .none })
      let s := setStopped s h.unit gk false
      let s := h.held.foldl (fun (s : State) k => s.updCtx k.ck (fun c =>
        { c with loops := k.loops, calls := k.calls, depth := k.depth, spilled := k.spilled })) s
      let left : Lanes := match nth? h.splits h.entry with | some (some x) => x.mask &&& g.live | _ => 0
      let s := match h.unit with
        | .grp _ =>
          if h.rep412 then s.updGrp gk (fun g => { g with rep := none })
          else if left = 0 then s
          else s.updGrp gk (fun g => match nth? g.splits h.entry with
            | some (some x) => { g with splits := setNth g.splits h.entry (some { x with pc := h.resume, rj := false, w := .none }) }
            | _ => g)
        | .ctx ck =>
          if h.rep412 then s.updCtx ck (fun c => { c with rep := none })
          else match s.ctx? ck with
            | some c =>
              if c.dom = domGroup then s.updGrp gk (fun g => g.setPos h.resume)
              else s.updCtx ck (fun c => { c with ia := h.resume, segStart := h.resume, lower := false, asked := false, reports := [], w := .none })
            | none => s
      settle s gk

/-! ## Ending an instruction -/

/-- The guard of an instruction at a context (R55). -/
def guardCtx (c : Ctx) (h : Hdr) : Bool := c.pred h.gd != h.gn

/-- The lanes of a mask that pass the guard (R55). -/
def guardLanes (g : Group) (h : Hdr) (m : Lanes) : Lanes := maskOf (fun i => m.getLsbD i && (g.pred h.gd i != h.gn))

/-- The split of the instruction in hand. -/
def curSplit (s : State) (g : Group) : Option Split := match nth? g.splits s.cur.e with | some x => x | none => none

/-- The active lanes of the instruction in hand (R55, R141). -/
def activeOf (s : State) (g : Group) (h : Hdr) : Lanes :=
  match curSplit s g with | some x => guardLanes g h (x.mask &&& g.live) | none => 0

/-- Move a group's split e to an IA. At the group-domain level, or with every lane exited, the single position moves. -/
def moveGrp (s : State) (gk : Nat) (lane : Bool) (ia : W64) : State :=
  let s := s.updGrp gk (fun g =>
    if lane then
      { g with splits := (g.splits.zipIdx).map (fun p => if p.2 = s.cur.e then p.1.map (fun x => { x with pc := ia, w := .none }) else p.1) }
    else g.setPos ia)
  rejoinCheck (settle s gk) gk

/-- Move a context: after an instruction that ends its segment, the next range begins at the new IA (R22). -/
def moveCtx (s : State) (ck : Nat) (ends : Bool) (ia : W64) : State :=
  s.updCtx ck (fun c => { c with
    ia := ia, w := .none, asked := false, reports := [],
    segStart := if ends then ia else c.segStart, lower := if ends then false else c.lower })

/-- The bank source of a contained fault: for 0x32 the request's OPF field, which no record of that code shows, carries
it (R201). -/
def srcOfFault (f : FaultReq) : Nat := if f.code = 0x32 then f.opf else if f.code = 0x31 then 0x0A else 0x0C

/-- A group that waits at its instruction stops there when a pre-emption is under way and no other split of it can issue
(R177 step 2). -/
def haltWaiting (s : State) : State :=
  match s.cur.u with
  | .ctx _ => s
  | .grp gk =>
    match s.grp? gk with
    | none => s
    | some g =>
      let asked := match s.band? (bandKey g.gc g.b) with | some b => b.park.isSome && b.cause == 1 && !handling s g.gc g.b | none => false
      if asked && g.handler.isNone && g.stop == .run && (entries g.splits).all (fun p => p.1 == s.cur.e || atToken p.2 || p.2.rj)
      then s.updGrp gk (fun g => { g with stop := .halted }) else s

/-- Entry e of a group has issued an instruction: if it did so in another's place, the turn that was given up is spent (R131). -/
def Group.gave (g : Group) (e : Nat) : Group :=
  match g.swap with
  | some (a, f) => if f ≠ e then g
      else { g with splits := g.splits.zipIdx.map (fun p => if p.2 = a ∨ p.2 = e then p.1.map (fun x => { x with yl := false }) else p.1) }
  | none => g

/-- An instruction that a group has issued is counted on its core: once, when it is done or faults (R15, R217). -/
def issued (s t : State) : State :=
  match s.cur.u with
  | .grp gk => (match s.grp? gk with | some g => (t.updGrp gk (fun x => x.gave s.cur.e)).count (coreOfGrp s g) 0 1 | none => t)
  | .ctx _ => t

/-- The instruction in hand is done: its unit goes on at an IA, and its issue is counted. `s` is the state at issue, `t` the one
after the effect; `ends` says that the instruction ends a context's segment (R22). -/
def goOn (s : State) (lev : Nat) (ends : Bool) (t : State) (ia : W64) : State :=
  match s.cur.u with
  | .grp gk => moveGrp (issued s t) gk (lev == 0) ia
  | .ctx ck =>
    moveCtx (if t.accs.any (fun a => decide (s.accSeq ≤ a.id) && decide (a.id < t.accSeq) && a.by_ == .unit (.ctx ck) && (isWriteK a.kind || (a.kind == .fence && !a.konst)))
      then t.updCtx ck (fun c => { c with rel := true }) else t) ck ends ia

/-- The unit that a fault of level `lev` in the instruction in hand belongs to. -/
def faultUnit (s : State) (lev : Nat) : UnitRef := if lev = 0 then s.cur.u else .ctx (ownKey s s.cur.u lev)

/-- The instruction in hand faults, at the IA that the state `t` after its look-ups has in hand: a context whose earlier segments have
not retired holds the fault (R30), every other unit takes it. -/
def faultNow (s t : State) (f : FaultReq) : State :=
  match (faultUnit s f.lev), t.ctx? (match faultUnit s f.lev with | .ctx ck => ck | .grp _ => 0) with
  | .ctx ck, some c =>
    if c.trail.isEmpty then takeFault t (.ctx ck) s.cur.e f t.cur.ia t.cur.insn (srcOfFault f)
    else t.updCtx ck (fun c => { c with held := some (f, t.cur.ia, t.cur.insn) })
  | u, _ => takeFault t u s.cur.e f t.cur.ia t.cur.insn (srcOfFault f)

/-- End the instruction in hand, of level `lev`; `ends` says that it ends a context's segment (R22). -/
def finish (s : State) (lev : Nat) (ends : Bool) (a : Act) : Host.Outcome State Fault Refusal :=
  match a with
  | .next t => .next (goOn s lev ends t (iaNext s.cur.ia))
  | .jump t ia => .next (goOn s lev ends t ia)
  | .done t => .next (issued s t)
  | .stay t => .next t
  | .wait => .next (haltWaiting s)
  | .fault t f => .next (faultNow s (issued s t) f)

end Sys2Proof.Machine
end

