-- ==== Sys2Proof/Machine/Operands.lean ====
section
/-! DEFINITION. Operands: which an instruction has, the checks of R69 that depend on the launch (R63, R66, R68, R102, R104,
R105, R107, R108), the full/empty, range and poison checks (R112, R113, R137, R195), and operand values (R64, R107, R140). -/

namespace Sys2Proof.Machine

/-! ## The operands of an instruction -/

/-- A source that takes no operand. -/
def srcOf' (o : Opd) : Src := ⟨false, o⟩

/-- Source fields of an instruction: field number (1 A, 2 B, 3 C) and operand. -/
def srcsOf : Instr → List (Nat × Src)
  | .br _ _ a _ | .bra _ _ a _ | .brl _ _ a _ _ | .jmpi _ a | .calli _ a | .loop _ a _ | .brk _ _ a _ | .cont _ _ a _
  | .unif _ a | .vgrow _ a _ | .vgive _ a _ => [(1, a)]
  | .smov _ o | .sclz _ o => [(1, o.a)]
  | .sid _ _ _ x => [(1, srcOf' (.spec x))]
  | .sadd _ o | .ssub _ o | .smul _ o | .sand _ o | .sor _ o | .sxor _ o | .sshl _ o | .sshr _ o | .ssra _ o
  | .smulh _ _ o | .sdiv _ _ o | .srem _ _ o | .smin _ _ o | .smax _ _ o | .scmp _ _ _ o => [(1, o.a), (2, o.b)]
  | .ssel _ o => [(1, o.a), (2, o.b)]
  | .vmov _ _ o | .vabs _ _ _ o | .vred _ _ _ o | .vscan _ _ _ _ o | .vnot _ _ o | .vclz _ _ o | .vpop _ _ o | .vbrev _ _ o
  | .fabs _ _ o | .fneg _ _ o | .fclass _ _ o | .fsqrt _ _ o | .frcp _ _ o | .frsq _ _ o | .fexp2 _ _ o | .flog2 _ _ o => [(1, o.a)]
  | .vadd _ _ _ o | .vsub _ _ _ o | .vmul _ _ o | .vmulh _ _ o | .vmin _ _ o | .vmax _ _ o | .vcmp _ _ _ o | .vand _ _ o
  | .vor _ _ o | .vxor _ _ o | .vshl _ _ o | .vshr _ _ o | .vsra _ _ o | .vbcast _ _ o | .vshfl _ _ _ o | .fadd _ _ o
  | .fsub _ _ o | .fmul _ _ o | .fmin _ _ o | .fmax _ _ o | .fcmp _ _ _ o | .fdiv _ _ o | .fscl _ _ o => [(1, o.a), (2, o.b)]
  | .vmad _ _ _ o | .ffma _ _ o => [(1, o.a), (2, o.b), (3, o.c)]
  | .vsel _ _ o => [(1, o.a), (2, o.b)]
  | .fcvt _ _ _ _ a | .icvt _ _ _ _ _ a | .frnd _ _ _ a => [(1, a)]
  | .ld _ m | .st _ m | .ldk _ m | .lds _ m | .sts _ m | .sld _ m | .sst _ m | .pref _ m | .atom _ _ m | .atoms _ _ m
  | .satom _ _ m | .red _ _ m => [(1, m.a), (2, m.b)]
  | .cpy _ _ a b _ | .cpyp _ a b _ | .cpys _ a b _ | .cpyr _ _ a b _ => [(1, a), (2, b)]
  | .cpym _ _ a b c _ => [(1, a), (2, b), (3, c)]
  | .arv _ a _ => [(1, a)]
  | .arwt _ _ a b _ | .artst _ _ _ a b _ => [(1, a), (2, b)]
  | .ascl _ _ _ _ _ b c => [(2, b), (3, c)]
  | .amovv _ _ _ _ b _ => [(2, b)]
  | .acvt _ _ _ _ _ _ _ b _ _ => [(2, b)]
  | .barw _ a _ | .tspawn _ a | .fwait _ _ a | .ftest _ _ _ a | .lock _ a | .trylock _ _ a | .unlock _ a | .pin _ _ a
  | .pinx _ _ a | .rack _ a _ | .rdesc _ _ a _ | .ctlwr _ a _ | .sleepc _ a _ | .tlbinv _ _ a => [(1, a)]
  | .fwrite _ a b | .cntwt _ a b | .reclaim _ _ a b | .msend _ _ a b _ _ => [(1, a), (2, b)]
  | _ => []

/-- The destination register of an instruction, if it names one. -/
def dstOf : Instr → Option Opd
  | .smov _ o | .sclz _ o | .vmov _ _ o | .vabs _ _ _ o | .vred _ _ _ o | .vscan _ _ _ _ o | .vnot _ _ o | .vclz _ _ o
  | .vpop _ _ o | .vbrev _ _ o | .fabs _ _ o | .fneg _ _ o | .fclass _ _ o | .fsqrt _ _ o | .frcp _ _ o | .frsq _ _ o
  | .fexp2 _ _ o | .flog2 _ _ o => some o.d
  | .sldi _ d _ | .sldih _ d _ | .sid _ _ d _ | .vote _ _ d _ _ _ | .vldi _ _ d _ | .fcvt _ _ _ d _ | .icvt _ _ _ _ d _
  | .frnd _ _ d _ | .amovv _ _ d _ _ _ | .acvt _ _ _ _ _ d _ _ _ _ | .bara _ d _ | .tself _ d | .fwait _ d _ | .rcdrain _ d
  | .rwait _ d _ | .ctlrd _ d _ | .cycle _ _ d | .evrd _ d _ => some d
  | .sadd _ o | .ssub _ o | .smul _ o | .sand _ o | .sor _ o | .sxor _ o | .sshl _ o | .sshr _ o | .ssra _ o
  | .smulh _ _ o | .sdiv _ _ o | .srem _ _ o | .smin _ _ o | .smax _ _ o | .scmp _ _ _ o
  | .vadd _ _ _ o | .vsub _ _ _ o | .vmul _ _ o | .vmulh _ _ o | .vmin _ _ o | .vmax _ _ o | .vcmp _ _ _ o | .vand _ _ o
  | .vor _ _ o | .vxor _ _ o | .vshl _ _ o | .vshr _ _ o | .vsra _ _ o | .vbcast _ _ o | .vshfl _ _ _ o | .fadd _ _ o
  | .fsub _ _ o | .fmul _ _ o | .fmin _ _ o | .fmax _ _ o | .fcmp _ _ _ o | .fdiv _ _ o | .fscl _ _ o => some o.d
  | .ssel _ o | .vmad _ _ _ o | .ffma _ _ o | .vsel _ _ o => some o.d
  | .ld _ m | .ldk _ m | .lds _ m | .sld _ m | .atom _ _ m | .atoms _ _ m | .satom _ _ m => some m.d
  | _ => none

/-! ## Levels and privilege (R66, R68, R69 steps 2, 4, 5) -/

/-- The levels that an opcode accepts in a launch (R66 and the LEV columns of the instruction chapters). -/
def levAccept (r : LRec) (w : Insn) : Bool :=
  let op := (Decode.wOp w).toNat
  let lev := levOf w
  let dom := (r.lvl lev).dom
  let grp := lev ≠ 0 ∧ dom = domGroup
  if op = 0x03 ∨ op = 0x0C ∨ (0x11 ≤ op ∧ op ≤ 0x13) ∨ op = 0x36 ∨ (0x40 ≤ op ∧ op ≤ 0x7F) ∨ (0x80 ≤ op ∧ op ≤ 0x84) ∨
     op = 0x90 ∨ op = 0x91 ∨ op = 0x93 ∨ op = 0xB8 ∨ op = 0xE1 then lev = 0
  else if op = 0xBB then lev = 0 ∨ (grp ∧ (Decode.wSub w).getLsbD 0)
  else if op = 0x14 ∨ op = 0x15 ∨ (0xA0 ≤ op ∧ op ≤ 0xA8) ∨ op = 0xB0 ∨ op = 0xB1 ∨ (0xB4 ≤ op ∧ op ≤ 0xBA) ∨
     (0xD0 ≤ op ∧ op ≤ 0xD2) ∨ op = 0xEA then lev = 0 ∨ grp
  else if op = 0xB2 ∨ op = 0xB3 then lev = 0 ∨ dom = domCluster
  else if 0xC0 ≤ op ∧ op ≤ 0xC2 then lev < r.top
  else if op = 0xC3 then grp ∨ dom = domBand
  else if 0xD5 ≤ op ∧ op ≤ 0xD8 then lev = 0 ∨ grp ∨ dom = domBand
  else if op = 0xE6 then lev = 0 ∨ dom = domBand
  else if op = 0x00 ∨ op = 0x0D ∨ op = 0x0E ∨ (0x30 ≤ op ∧ op ≤ 0x35) ∨ op = 0x87 ∨ op = 0x94 ∨ op = 0xE0 ∨
     (0xE2 ≤ op ∧ op ≤ 0xE5) ∨ op = 0xE7 ∨ op = 0xE8 then True
  else lev ≠ 0

/-- Whether an encoding is privileged: HALT, TLBINV, the machine-check control registers, and a CLONE below the launch
record's mode (R68, R207). -/
def isPriv (r : LRec) (w : Insn) : Bool :=
  let op := (Decode.wOp w).toNat
  let cr := bitsOf (Decode.wImm w).toNat 11 0
  op = 0xE8 ∨ op = 0xE9 ∨ ((op = 0xE2 ∨ op = 0xE3) ∧ 0x100 ≤ cr ∧ cr ≤ 0x104) ∨
  (op = 0xEA ∧ (Decode.wSub w).toNat < r.chk)

/-! ## The operand checks of R69 step 6 that depend on the launch -/

/-- Whether a special value exists for a level (R107, R108): none is fine, else the code. -/
def specCode (r : LRec) (lev x : Nat) : Option Nat :=
  let dom := (r.lvl lev).dom
  if 8 ≤ x ∧ x ≤ 0x17 then
    let k := x % 8
    if r.top < k then some 0x02 else if x < 0x10 ∧ k < lev then some 0x03 else none
  else if x = 0 then (if lev = 0 then none else some 0x03)
  else if x = 2 ∨ x = 0x1B then (if lev = 0 ∨ dom = domGroup then none else some 0x03)
  else if x = 3 then (if dom ≤ domBand then none else some 0x03)
  else if x = 4 then (if dom ≤ domCluster then none else some 0x03)
  else if x = 5 then (if dom ≤ domDie then none else some 0x03)
  else none

/-- The code that an operand raises in step 6: a scalar of a level above the top or one that does not exist, a special
value its level does not accept, a pin beyond the count, matrix state not owned (R63, R102, R104, R105, R108). `n` scalars
are named from the one given. -/
def opdCode6 (r : LRec) (lev n : Nat) : Opd → Option Nat
  | .scal l x =>
    let j := if l == 0 then lev else l.toNat
    if r.top < j then some 0x02 else if (r.lvl j).nscal < x.toNat + n then some 0x03 else none
  | .spec x => specCode r lev x.toNat
  | .pin q => if r.pins ≤ q.toNat then some 0x03 else none
  | .acc _ | .buf _ => if r.mat then none else some 0x03
  | _ => none

/-- How many scalars a source names from its own on (R266, R299). -/
def srcCount (i : Instr) (fld : Nat) : Nat :=
  match i with
  | .cpy .. | .cpyp .. | .cpym .. | .cpys .. | .cpyr .. => if fld = 1 then 4 else 1
  | .satom _ .cas _ => if fld = 2 then 2 else 1
  | _ => 1

/-- Operands that stand in fields of their own. -/
def extraOpds : Instr → List Opd
  | .omap _ _ _ _ _ _ b _ _ _ => [.buf b]
  | .mma _ o | .mmaloop _ o => [.acc o.d]
  | .mwait _ (some a) => [.acc a]
  | .aclr _ d => [.acc d]
  | .ascl _ _ _ d a _ _ => [.acc d, .acc a]
  | .amovv _ _ _ a _ _ => [.acc a]
  | .asts _ _ d _ | .alds _ _ d _ => [.acc d]
  | .acvt _ _ _ _ _ _ a _ _ _ => [.acc a]
  | .pin _ q _ | .pinx _ q _ | .unpin _ q => [.pin q]
  | _ => []

/-- Further conditions of an instruction's own row that depend on the launch alone: barriers (R351), the scalar of VGROW
and VGIVE (R136), events (R217), control registers (R210), and the plane buffer that CPYP names (R104). -/
def rowCode (r : LRec) (lev : Nat) : Instr → Option Nat
  | .bar _ j | .bara _ _ j | .barw _ _ j => if (r.lvl (lev + 1)).nbar ≤ j.toNat then some 0x03 else none
  | .vgrow _ a _ | .vgive _ a _ => match a.o with
    | .scal l _ => let j := if l == 0 then lev else l.toNat
                   if (r.lvl j).dom = domGroup then none else some 0x03
    | _ => none
  | .evrd _ _ ev => if 0x0A ≤ ev.toNat then some 0x03 else none
  | .cpyp .. => if r.mat then none else some 0x03
  | .ctlrd _ _ c =>
    let n := c.toNat
    if n ≤ 0x12 ∨ n = 0x20 ∨ n = 0x21 ∨ (0x100 ≤ n ∧ n ≤ 0x104) then none else some 0x03
  | .ctlwr _ _ c => if c.toNat = 0x10 ∨ c.toNat = 0x100 ∨ c.toNat = 0x101 then none else some 0x03
  | _ => none

/-- The first code of R69 step 6 that depends on the launch; an illegal instruction comes before a level range (log 19). -/
def step6 (r : LRec) (lev : Nat) (i : Instr) : Option Nat :=
  let cs := (srcsOf i).filterMap (fun p => opdCode6 r lev (srcCount i p.1) p.2.o) ++
    ((dstOf i).toList.filterMap (opdCode6 r lev 1)) ++ ((extraOpds i).filterMap (opdCode6 r lev 1)) ++ (rowCode r lev i).toList
  if cs.contains 0x03 then some 0x03 else cs.head?

/-! ## Values -/

/-- The value of the immediate select from IMM27 (R64). -/
def immVal (t : Ty) (imm : BitVec 27) : W64 :=
  match t with
  | .f32 => ((imm ++ 0#5 : BitVec 32)).setWidth 64
  | .f64 => (imm ++ 0#37 : BitVec 64)
  | .t6 | .t8 | .t16 | .sc16 => imm.setWidth 64
  | _ => imm.signExtend 64

/-- The value of the immediate select from IMM49 (R64). -/
def immVal49 (t : Ty) (imm : BitVec 49) : W64 :=
  match t with
  | .f32 | .t6 | .t8 | .t16 | .sc16 => imm.setWidth 64
  | .f64 => (imm ++ 0#15 : BitVec 64)
  | _ => imm.signExtend 64

/-- A special value as read by a unit at a level, in a lane (R107). -/
def specVal (s : State) (u : UnitRef) (lev lane x : Nat) : W64 :=
  let gc := gcOf s u
  let r := s.lrec gc
  let l := s.launch? gc
  let n : Nat :=
    if x = 0 then lane
    else if x = 1 then r.nlive
    else if x = 2 then (match u with
      | .grp gk => (match s.grp? gk with | some g => g.r | none => 0)
      | .ctx ck => (match s.ctx? ck with | some c => c.g % r.gpb | none => 0))
    else if x = 3 then (match placeOf s u with | .core n => n | _ => 0)
    else if x = 4 then (match placeOf s u with | .core n => clusOfCore s.floor n | .clus n => n | .fab => 0)
    else if x = 5 then (match placeOf s u with
      | .core n => dieOfCore s.floor n | .clus n => dieOfClus s.floor n
      | .fab => (match u with | .ctx ck => (match s.ctx? ck with | some c => c.place | none => 0) | _ => 0))
    else if x = 6 then (s.task gc).id
    else if x = 7 then gc
    else if x < 0x10 then
      let k := x - 8
      if k = 0 then lane
      else match u with
        | .grp gk => (match s.grp? gk with | some g => r.lin k (r.anc (g.num r) k) | none => 0)
        | .ctx ck => (match s.ctx? ck with | some c => r.lin k (r.ancFrom c.lvl c.g k) | none => 0)
    else if x < 0x18 then (r.lvl (x - 0x10)).ext
    else if x = 0x18 then r.top
    else if x = 0x19 then (s.task gc).prio
    else if x = 0x1A then (match l with | some l => l.helper | none => 0x3FFFFFFF)
    else if x = 0x1B then (match u with
      | .grp gk => (match s.grp? gk with | some g => g.vcount | none => 0)
      | .ctx _ => 0)
    else if x = 0x1C then 1024 * r.scrg
    else if x = 0x1D then r.pins
    else if x = 0x1E then s.floor.allCores.length
    else if x = 0x1F then s.floor.allClus.length
    else if x = 0x20 then s.floor.allSlices.length
    else if x = 0x21 then s.floor.nchan
    else 0
  BitVec.ofNat 64 n

/-- The value of a source in a lane (or once, lane 0): registers of n words, scalars, special values, the immediate given,
predicates as 1 or 0, and 0 for none (R63, R140). -/
def opdVal (s : State) (u : UnitRef) (lev : Nat) (n lane : Nat) (imm : W64) (o : Opd) : W64 :=
  match o with
  | .vec _ | .near _ => match u with
    | .grp gk => (match s.grp? gk with | some g => g.getVN o n lane | none => 0)
    | .ctx _ => 0
  | .scal l r => match readScal s u lev l r with | some x => x.v | none => 0
  | .spec x => specVal s u lev lane x.toNat
  | .imm => imm
  | .pred p => match u with
    | .grp gk => if lev = 0 then (match s.grp? gk with | some g => if g.pred p lane then 1 else 0 | none => 0)
        else (match s.ctx? (ownKey s u lev) with | some c => if c.pred p then 1 else 0 | none => 0)
    | .ctx ck => match s.ctx? ck with | some c => if c.pred p then 1 else 0 | none => 0
  | _ => 0

/-! ## The checks of R112, R113, R137 and R195 -/

/-- A use of a source: its field, operand, the registers it spans, the lanes it is read in and whether a poison mark on
it faults. -/
structure Use where
  fld   : Nat
  o     : Src
  n     : Nat
  lanes : Lanes
  poi   : Bool
  deriving DecidableEq, Repr

/-- The lanes in which a use finds an empty register; a scalar answers lane 0 (R112). -/
def useEmpty (s : State) (u : UnitRef) (lev : Nat) (x : Use) : Lanes :=
  match x.o.o with
  | .vec _ => match u with
    | .grp gk => (match s.grp? gk with | some g => maskOf (fun i => x.lanes.getLsbD i && g.emptyOp x.o.o x.n i) | none => 0)
    | _ => 0
  | .scal l r =>
    if (List.range x.n).any (fun k => match readScal s u lev l (r + BitVec.ofNat 5 k) with | some c => !c.full | none => false) then 1 else 0
  | _ => 0

/-- The lanes in which a use finds a poison mark; a scalar answers every lane of the use (R195). -/
def usePoison (s : State) (u : UnitRef) (lev : Nat) (x : Use) : Lanes :=
  match x.o.o with
  | .vec _ | .near _ => match u with
    | .grp gk => (match s.grp? gk with | some g => maskOf (fun i => x.lanes.getLsbD i && g.poiOp x.o.o x.n i) | none => 0)
    | _ => 0
  | .scal l r =>
    if (List.range x.n).any (fun k => match readScal s u lev l (r + BitVec.ofNat 5 k) with | some c => c.poi | none => false) then x.lanes else 0
  | _ => 0

/-- Whether a scalar source must wait for a re-emission (R32). -/
def useStalls (s : State) (u : UnitRef) (lev : Nat) (x : Use) : Bool :=
  match x.o.o with
  | .scal l r => (readScal s u lev l r).isNone
  | _ => false

/-- A destination: an operand of n registers in some lanes. -/
structure DUse where
  o     : Opd
  n     : Nat
  lanes : Lanes
  deriving DecidableEq, Repr

/-- Whether a destination is empty in some active lane (R113). -/
def dstEmpty (s : State) (u : UnitRef) (lev : Nat) (d : DUse) : Bool :=
  match d.o with
  | .vec _ => match u with
    | .grp gk => (match s.grp? gk with | some g => (lanesOf d.lanes).any (fun i => g.emptyOp d.o d.n i) | none => false)
    | _ => false
  | .scal _ r => match s.ctx? (ownKey s u lev) with | some c => !(c.cell r).full | none => false
  | _ => false

/-- The checks before an instruction takes effect (R112, R113, R137): a register range, an empty register under FEB = 1,
or a wait. None: everything is ready. `act` are the active lanes, 0 above L0. -/
def checkUses (s : State) (u : UnitRef) (lev : Nat) (act : Lanes) (uses : List Use) (dst : List DUse) : Option Act :=
  let ovr := match u with
    | .grp gk => (match s.grp? gk with
      | some g => uses.any (fun x => g.overOp x.o.o x.n) || dst.any (fun d => g.overOp d.o d.n)
      | none => false)
    | _ => false
  let lm := fun (m : Lanes) => if lev = 0 then m else (0 : Lanes)
  if ovr then some (.fault s { FaultReq.mk0 0x0F lev with lanes := lm act })
  else
    match uses.find? (fun x => x.o.feb && useEmpty s u lev x != 0) with
    | some x =>
      let m := match x.o.o with | .scal _ _ => 0 | _ => lm (useEmpty s u lev x)
      some (.fault s { FaultReq.mk0 0x10 lev with lanes := m, opf := x.fld })
    | none =>
      if uses.any (fun x => useEmpty s u lev x != 0 || useStalls s u lev x) || dst.any (dstEmpty s u lev) then some .wait
      else none

/-- The lanes that meet code 0x30 (R195). -/
def poisonLanes (s : State) (u : UnitRef) (lev : Nat) (uses : List Use) : Lanes :=
  (uses.filter (fun x => x.poi)).foldl (fun m x => m ||| usePoison s u lev x) 0

/-- The poison check, the last of R168. -/
def checkPoison (s : State) (u : UnitRef) (lev : Nat) (uses : List Use) : Option Act :=
  let m := poisonLanes s u lev uses
  if m = 0 then none else some (.fault s { FaultReq.mk0 0x30 lev with lanes := if lev = 0 then m else 0 })

/-- All checks of an instruction that touches no memory, in the order of R168. -/
def checkAll (s : State) (u : UnitRef) (lev : Nat) (act : Lanes) (uses : List Use) (dst : List DUse) : Option Act :=
  (checkUses s u lev act uses dst).orElse (fun _ => checkPoison s u lev uses)

/-- Registers that an operand of n words spans: one scalar holds any element. -/
def spanOf (n : Nat) : Opd → Nat
  | .scal _ _ => 1
  | _ => n

/-- Uses of n-register sources in the active lanes, poison faulting. -/
def usesOf (act : Lanes) (n : Nat) (l : List (Nat × Src)) : List Use := l.map (fun p => ⟨p.1, p.2, spanOf n p.2.o, act, true⟩)

end Sys2Proof.Machine
end

