-- ==== Sys2Proof/Machine/Flags.lean ====
section
/-! DEFINITION. The integer computations of R142, R144, R149, R150, R153 and R266 on values of w bits, the conditions of
R119, and the predicates they write. -/

namespace Sys2Proof.Machine

/-- A value as the integer its type reads (R144, R149). -/
def intOf (sgn : Bool) {w : Nat} (a : BitVec w) : Int := if sgn then a.toInt else a.toNat

/-- The smallest and largest values of a w-bit type (R149). -/
def minOf (sgn : Bool) (w : Nat) : Int := if sgn then -(2 ^ (w - 1)) else 0
/-- The largest value. -/
def maxOf (sgn : Bool) (w : Nat) : Int := if sgn then 2 ^ (w - 1) - 1 else 2 ^ w - 1

/-- Clamp an exact result into the type's range, or wrap it (R149). -/
def narrow (sat sgn : Bool) (w : Nat) (v : Int) : BitVec w :=
  BitVec.ofInt w (if sat then max (minOf sgn w) (min (maxOf sgn w) v) else v)

/-- SHL of R142. -/
def shl {w : Nat} (a c : BitVec w) : BitVec w := if c.toNat < w then a <<< c.toNat else 0

/-- SHR of R142. -/
def shr {w : Nat} (a c : BitVec w) : BitVec w := if c.toNat < w then a >>> c.toNat else 0

/-- SRA of R142. -/
def sra {w : Nat} (a c : BitVec w) : BitVec w :=
  if c.toNat < w then a.sshiftRight c.toNat else if a.msb then BitVec.allOnes w else 0

/-- The high half of the exact product (R144, R149). -/
def mulh (sgn : Bool) {w : Nat} (a b : BitVec w) : BitVec w :=
  BitVec.ofInt w ((intOf sgn a * intOf sgn b).fdiv (2 ^ w))

/-- SDIV of R144: truncation toward zero, all ones for a zero divisor, and the wrap of the most negative quotient. -/
def sdivV (sgn : Bool) {w : Nat} (a b : BitVec w) : BitVec w :=
  if b = 0 then BitVec.allOnes w else BitVec.ofInt w ((intOf sgn a).tdiv (intOf sgn b))

/-- SREM of R144. -/
def sremV (sgn : Bool) {w : Nat} (a b : BitVec w) : BitVec w :=
  if b = 0 then a else BitVec.ofInt w ((intOf sgn a).tmod (intOf sgn b))

/-- The lesser of two values (R144, R149, R266). -/
def minV (sgn : Bool) {w : Nat} (a b : BitVec w) : BitVec w := if intOf sgn a ≤ intOf sgn b then a else b
/-- The greater of two values. -/
def maxV (sgn : Bool) {w : Nat} (a b : BitVec w) : BitVec w := if intOf sgn b ≤ intOf sgn a then a else b

/-- Leading zero bits (R144, R149). -/
def clz {w : Nat} (a : BitVec w) : Nat :=
  match (List.range w).find? (fun i => a.getLsbD (w - 1 - i)) with | some i => i | none => w

/-- One bits (R149). -/
def popCount {w : Nat} (a : BitVec w) : Nat := ((List.range w).filter (fun i => a.getLsbD i)).length

/-- Bit j moved to bit w − 1 − j (R149). -/
def brev {w : Nat} (a : BitVec w) : BitVec w :=
  (List.range w).foldl (fun r i => if a.getLsbD i then r ||| BitVec.twoPow w (w - 1 - i) else r) 0

/-- The comparisons of R150; UN and OD are of R158 only. -/
def cmpV (cc : Cmp) (sgn : Bool) {w : Nat} (a b : BitVec w) : Bool :=
  let x := intOf sgn a
  let y := intOf sgn b
  match cc with
  | .eq => x == y | .ne => x != y | .lt => decide (x < y) | .le => decide (x ≤ y) | .gt => decide (y < x) | .ge => decide (y ≤ x)
  | .un => false | .od => true

/-- Combine of R153, also the element operation of R302. -/
def combine (op : RedOp) (sgn : Bool) {w : Nat} (a b : BitVec w) : BitVec w :=
  match op with
  | .add => a + b | .min => minV sgn a b | .max => maxV sgn a b | .and => a &&& b | .or => a ||| b | .xor => a ^^^ b

/-- The identity of R153. -/
def identity (op : RedOp) (sgn : Bool) (w : Nat) : BitVec w :=
  match op with
  | .add | .or | .xor => 0 | .min => BitVec.ofInt w (maxOf sgn w) | .max => BitVec.ofInt w (minOf sgn w) | .and => BitVec.allOnes w

/-- The transfer of R59: NZ where the value is nonzero or true, Z where it is zero or false. -/
def ccTakes (cc : Cc) (v : Bool) : Bool := match cc with | .nz => v | .z => !v

/-- Whether an instruction of a context ends the segment in hand (R22): all but NOP, PREF and SLEEPC. MMA and MMALOOP wait as
a side effect does (R296), so they end it (log 19). -/
def endsSegment : Instr → Bool
  | .nop .. | .pref .. | .sleepc .. => false
  | _ => true

/-- Side effects at a parent's level (R29), with MMA and MMALOOP, which wait as one does (R296). -/
def sideEffect : Instr → Bool
  | .st .. | .sst .. | .sts .. | .atom .. | .atoms .. | .satom .. | .red .. | .fence .. | .cpy .. | .cpyp .. | .cpym ..
  | .cpys .. | .cpyr .. | .arvi .. | .arv .. | .arwt .. | .artst .. | .tspawn .. | .fwrite .. | .fwait .. | .lock ..
  | .trylock .. | .unlock .. | .cntwt .. | .bar .. | .bara .. | .barw .. | .pin .. | .unpin .. | .pinx .. | .reclaim ..
  | .rcdrain .. | .msend .. | .rack .. | .rdesc .. | .ctlwr .. | .tlbinv .. | .trap .. | .bkpt .. | .halt .. | .yield ..
  | .exit .. | .levsync .. | .mma .. | .mmaloop .. => true
  | _ => false

/-- The header of an encoded instruction; a step without an encoding has none. -/
def hdrOf : Instr → Option Hdr
  | i => (Decode.encode i).map Decode.wHdr

end Sys2Proof.Machine
end

