-- ==== Sys2Proof/Machine/Tiles.lean ====
section
/-! DEFINITION. The geometry of tile copies (R299, R300): element sizes, the sectors of the strided side and their elements. -/

namespace Sys2Proof.Machine

/-- The type of a TYPE field; 0xF is I4 and is held as S8 or U8 with half a byte. -/
def copyTy (t : Nat) (sgn4 : Bool) : Ty := if t = 0xF then (if sgn4 then .s8 else .u8) else (Decode.tyOf (BitVec.ofNat 4 t)).getD .none

/-- Bytes of n elements of a TYPE: half a byte each for I4, one for the rejected TYPE 0x0. -/
def elBytes (t : Nat) (n : Nat) : Nat := if t = 0xF then n / 2 else if t = 0 then n else n * tyBytes (copyTy t false)

/-- The element size of R321 in bytes; I4, and the rejected TYPE 0x0, count one. -/
def elSize (t : Nat) : Nat := if t = 0xF ∨ t = 0 then 1 else tyBytes (copyTy t false)

/-- The greatest precision of a TYPE in a plane buffer (R4); none for a type the matrix unit does not take. -/
def maxPrec (t : Nat) : Option Nat :=
  match t with
  | 0x1 | 0x2 => some 8 | 0x9 => some 24 | 0xA => some 53 | 0xB => some 3 | 0xC => some 5 | 0xD => some 12 | 0xF => some 4
  | _ => none

/-- Bytes of one 8×8 block at a precision (R291). -/
def blkBytes (p : Nat) : Nat := 96 + 8 * p

/-- Whether a kind writes plane buffers. -/
def toPlane : CopyKind → Bool
  | .plane | .mPlane => true
  | _ => false

/-- Whether a kind writes the global side, or an element there. -/
def toGlobal : CopyKind → Bool
  | .s2g | .red _ => true
  | _ => false

/-- Bytes of one row. -/
def Copy.rowBytes (c : Copy) : Nat := elBytes c.ty c.cols

/-- The start of row r of the strided side: a virtual address, or a scratchpad offset for CPYS. -/
def Copy.rowAt (c : Copy) (r : Nat) : Nat :=
  if c.k = .s2s then (lo32 c.base).toNat + r * c.stride else (c.base + BitVec.ofNat 64 (r * c.stride)).toNat

/-- The distinct 32-byte sectors of the strided side (R300). -/
def Copy.sectorList (c : Copy) : List Nat :=
  ((List.range c.rows).map (fun r =>
    let a := c.rowAt r
    if c.rowBytes = 0 then [] else (List.range ((a + c.rowBytes - 1) / 32 - a / 32 + 1)).map (fun i => a / 32 + i))).flatten.dedup

/-- The dense side's size in bytes. -/
def Copy.dense (c : Copy) : Nat := c.rows * c.rowBytes

/-- The parts of a sector that rows of a tile use: row, first byte within the row, address, bytes. -/
def Copy.parts (c : Copy) (va : Nat) : List (Nat × Nat × Nat × Nat) :=
  (List.range c.rows).filterMap (fun r =>
    let a := c.rowAt r
    let lo := max a va
    let hi := min (a + c.rowBytes) (va + 32)
    if lo < hi then some (r, lo - a, lo, hi - lo) else none)

/-- Where a part stands on the dense side (R299). -/
def Copy.denseOff (c : Copy) (row off : Nat) : Nat := c.other % 2 ^ 32 + row * c.rowBytes + off

/-- The pieces in which a part of a sector moves: its elements; narrow ones that go to a scratchpad, by the words that they share
there (R306). -/
def Copy.split (c : Copy) (p : Nat × Nat × Nat × Nat) : List Piece :=
  let es := elSize c.ty
  let at_ := fun (i n : Nat) => (⟨p.1, p.2.1 + i, p.2.2.1 + i, n, none⟩ : Piece)
  if toGlobal c.k ∨ toPlane c.k ∨ 4 ≤ es then (List.range (p.2.2.2 / es)).map (fun i => at_ (i * es) es)
  else
    let d := c.denseOff p.1 p.2.1
    let starts := (List.range p.2.2.2).filter (fun i => i = 0 || (d + i) % 4 = 0)
    starts.map (fun i => at_ i (min (4 - (d + i) % 4) (p.2.2.2 - i)))

/-- The pieces of a sector: each is one access (R243, R273). -/
def Copy.elements (c : Copy) (va : Nat) : List Piece := ((c.parts va).map c.split).flatten

/-- Whether a tile takes every byte of a sector. -/
def Copy.whole (c : Copy) (va : Nat) : Bool :=
  (List.range 32).all (fun i => (c.parts va).any (fun p => decide (p.2.2.1 ≤ va + i) && decide (va + i < p.2.2.1 + p.2.2.2)))

/-- Whether an element that a sector has still to move lies in a range of physical addresses. -/
def Copy.hits (c : Copy) (x : Sector) (pa n : Nat) : Bool :=
  decide (x.pa < pa + n) && decide (pa < x.pa + 32) &&
  (x.todo.getD (c.elements x.va)).any (fun p => let q := x.pa + (p.va - x.va); decide (q < pa + n) && decide (pa < q + p.n))

end Sys2Proof.Machine
end

