-- ==== Sys2Proof/Machine/Order.lean ====
section
/-! DEFINITION. The ordering machine (R239 to R257): pending accesses, the points they reach, the conditions on each step,
and what a returned value does to its destination (R111, R259). -/

namespace Sys2Proof.Machine

/-! ## Whose access, where -/

/-- The agent of a unit's accesses: a group issues those of its lanes and of its group-domain context (R240). -/
def agentOf (s : State) (u : UnitRef) : AgentId :=
  match u with
  | .ctx ck => match s.ctx? ck with
    | some c => if c.dom = domGroup then .unit (.grp (grpOfCtx s c)) else .unit u
    | none => .unit u
  | _ => .unit u

/-- The core whose view a unit's accesses use (R241): a group or a band-domain context has one. -/
def viewOf (s : State) (u : UnitRef) : Option Nat := match placeOf s u with | .core n => some n | _ => none

/-- Whether an access is to HBM or far memory. -/
def locIsMem (a : Access) : Bool := match a.loc with | .mem _ => true | _ => false

/-- Whether an access goes to a window's port (R228). -/
def locIsWin (a : Access) : Bool := match a.loc with | .hostWin _ | .peerWin _ _ => true | _ => false

/-- Whether two accesses touch a common byte. -/
def overlaps (a b : Access) : Bool :=
  let r := fun (x y : Nat) => decide (x < y + b.width) && decide (y < x + a.width)
  match a.loc, b.loc with
  | .mem x, .mem y => r x y
  | .hostWin x, .hostWin y => r x y
  | .peerWin v x, .peerWin w y => v == w && r x y
  | .scr k x, .scr l y => k == l && r x y
  | _, _ => false

/-- Whether an access reads a value. -/
def isReadK : AccKind → Bool
  | .read => true | .atomic .. => true | .copy .. => true | .mat _ _ w => !w | _ => false

/-- Whether an access is an operation of the home slice's atomic unit (R232, R248): scope CLU or wider, or no core view. -/
def homeAtomic (a : Access) : Bool :=
  match a.kind with | .atomic .. => locIsMem a && (decide (3 ≤ a.sc) || a.core.isNone) | _ => false

/-- Whether a read takes its value from a core view (R241); LDK never does (R263). -/
def readsView (a : Access) : Bool := locIsMem a && a.core.isSome && decide (a.sc ≤ 2) && !a.konst

/-- Whether a write's first point is a core view (R243 step 2). -/
def writesView (a : Access) : Bool := locIsMem a && a.core.isSome && !homeAtomic a

/-- Same agent for R246 and R247: the same unit, and for splits a common lane; at scope LANE the same lane (R242, R249). -/
def sameAgent (a b : Access) (sc : Nat) : Bool :=
  a.by_ == b.by_ &&
  (match a.by_ with
   | .unit (.grp _) => if sc = 0 then a.lanes &&& b.lanes != 0 else a.mask &&& b.mask != 0
   | _ => true)

/-- Whether an access is performed at a scope (R242). Window writes are performed at SYS when reported, and a window's atomic once its
answer has come. A PREF orders nothing, so that nothing waits for it (R264). -/
def performedAt (a : Access) (sc : Nat) : Bool :=
  match a.kind with
  | .fence => false
  | .pref => true
  | .mat .. => a.atHome
  | .read => a.taken.isSome
  | .atomic .. =>
    if locIsWin a then (if sc ≤ 5 then a.taken.isSome else a.rept)
    else if sc ≤ 2 ∧ writesView a then a.atView else a.atHome
  | .copy .. => a.atHome && (decide (sc ≤ 5) || a.owes.isEmpty)
  | _ =>
    if locIsWin a then (if sc ≤ 5 then a.atHome else a.rept)
    else if sc ≤ 2 ∧ writesView a then a.atView else a.atHome

/-- Whether an access has taken every value that it reads; of a copy, its reads alone (R273). -/
def readsDone (a : Access) : Bool :=
  match a.kind with
  | .copy .. => a.taken.isSome || a.atHome
  | _ => performedAt a a.sc

/-! ## Packets (R256, R381 to R383) -/

/-- The endpoint where a unit injects: its physical cluster, or the host port above the clusters (R382). -/
def endpointAt (s : State) (u : UnitRef) : Nat :=
  match placeOf s u with
  | .core c => physCore s.floor c / 16
  | .clus n => (nth? s.floor.allClus n).getD 0
  | _ => 50

/-- The injecting endpoint of an access: a physical cluster, the host port, or a peer port (R382, R393). -/
def endpointOf (s : State) (a : Access) : Nat :=
  match a.by_ with
  | .host => 50
  | .peer w => 51 + w
  | .unit u => match a.core with
    | some c => physCore s.floor c / 16
    | none => match placeOf s u with
      | .clus n => (nth? s.floor.allClus n).getD 0
      | _ => 50

/-- The destination endpoint that stands for an injecting one: a cluster's, the host port's or a peer port's. -/
def backTo (ep : Nat) : Nat := if ep < 50 then 64 + ep else ep - 18

/-- The destination endpoint of a location: its home slice, the host port, or a peer port. -/
def locTarget (s : State) (l : Loc) : Nat :=
  match l with
  | .mem pa => homeOf s.floor pa | .hostWin _ => 32 | .peerWin w _ => 33 + w | _ => 0

/-- The destination endpoint of an access. -/
def targetOf (s : State) (a : Access) : Nat := locTarget s a.loc

/-- The pair of an access (R381). -/
def pairOf (s : State) (a : Access) : Nat := endpointOf s a * 128 + targetOf s a

/-- Whether an access crosses the network: to a home slice or a port, but not from a view that serves it. -/
def needsInject (a : Access) : Bool := locIsMem a || locIsWin a

/-- Flits of a request: a 16-byte header and its data (R399; for Saddle log 25). -/
def flitsOf (a : Access) : Nat := if isWriteK a.kind then (16 + a.width + 63) / 64 else 1

/-- Whether sequence number x comes before y within the window of R381. -/
def seqBefore (x y : Nat) : Bool := let d := (y + 65536 - x) % 65536; decide (1 ≤ d) && decide (d ≤ 4096)

/-- Whether an injected access has not been delivered. -/
def undelivered (a : Access) : Bool := a.inj && !a.atHome && (a.taken.isNone || isWriteK a.kind)

/-- Whether every packet of a pair with a number lower than one is delivered: what the acknowledgement of a fence marker that follows
that packet says (R256). -/
def lowerGone (s : State) (pair num : Nat) : Bool :=
  s.accs.all (fun b => !(undelivered b && pairOf s b == pair && seqBefore b.pseq num))

/-- Whether a fence marker sent after the packets of an access is acknowledged. The marker may follow them at once, so that no run of R256
is left out. -/
def acked (s : State) (a : Access) : Bool := (!a.inj || lowerGone s (pairOf s a) a.pseq) && a.marks.all (fun p => lowerGone s p.1 p.2)

/-- Whether an access is performed at a scope as a release or a fence of its agent finds it: at CLU and wider by the acknowledgement of a
marker (R256). -/
def performedFor (s : State) (a : Access) (sc : Nat) : Bool := performedAt a sc && (decide (sc < 3) || acked s a)

/-- Whether the writes of one source to one 128-byte line that have lower numbers are applied (R256). -/
def lineClear (s : State) (pair num line : Nat) : Bool :=
  s.accs.all (fun b => !(isWriteK b.kind && !b.atHome && b.inj && pairOf s b == pair &&
    seqBefore b.pseq num && (match b.loc with | .mem q => q / 128 == line | _ => false)))

/-- Whether the writes of one source to one 128-byte line are in sequence (R256). -/
def lineInOrder (s : State) (a : Access) : Bool :=
  match a.loc with
  | .mem pa => lineClear s (pairOf s a) a.pseq (pa / 128)
  | _ => true

/-! ## Conditions -/

/-- Earlier accesses of the same agent. -/
def earlier (s : State) (a : Access) (sc : Nat) : List Access :=
  s.accs.filter (fun b => decide (b.id < a.id) && b.batch != a.batch && sameAgent a b sc)

/-- Whether every access of an agent that is pending now is performed at a scope: the wait of a release that an
instruction makes before its own step (R254, R255). -/
def drained (s : State) (u : UnitRef) (mask : Lanes) (sc : Nat) : Bool :=
  let me := Access.fence s (agentOf s u) mask mask none .ar sc
  (s.accs.filter (fun b => sameAgent me b (max sc 1))).all (fun b => performedFor s b sc)

/-- Whether the acquires and fences before an access let it be performed (R246, R247); they do not order LDK (R263). -/
def ordersAllow (s : State) (a : Access) : Bool :=
  let es := if a.konst && isReadK a.kind then [] else s.accs.filter (fun b => decide (b.id < a.id) && b.batch != a.batch)
  es.all (fun b =>
    match b.kind with
    | .fence =>
      !(sameAgent a b b.sc) ||
      (match b.ord with
       | .acq | .ar => false
       | .rel => !isWriteK a.kind
       | .weak => true)
    | _ => !(sameAgent a b (max b.sc 1)) || !(b.ord == .acq || b.ord == .ar) || performedAt b b.sc)

/-- Whether a release may be applied: every earlier access of its agent is performed at its scope (R246). -/
def releaseAllows (s : State) (a : Access) : Bool :=
  !(a.ord == .rel || a.ord == .ar) || (earlier s a a.sc).all (fun b => performedFor s b a.sc)

/-- Earlier accesses of the same core, or of the same agent where there is no core, that touch common bytes (R244). -/
def sameLoc (s : State) (a : Access) : List Access :=
  s.accs.filter (fun b => decide (b.id < a.id) && b.batch != a.batch && overlaps a b &&
    ((a.core.isSome && a.core == b.core) || a.by_ == b.by_))

/-- Whether a copy of an access's core that issued before it has still to write some byte of it at the home slice (R244, R300). -/
def copyAhead (s : State) (a : Access) : Bool :=
  match a.loc, a.core with
  | .mem pa, some c => (s.core c).drover.any (fun d => decide (d.acc < a.id) && toGlobal d.k && d.sectors.any (fun x => d.hits x pa a.width))
  | _, _ => false

/-- Whether every write of a core to a range that issued before an access is at the home slice, those of its earlier copies among them
(R244). -/
def coreClear (s : State) (core acc pa n : Nat) : Bool :=
  !(s.core core).drover.any (fun d => decide (d.acc < acc) && toGlobal d.k && d.sectors.any (fun x => d.hits x pa n)) &&
  s.accs.all (fun b => !(decide (b.id < acc) && b.core == some core && isWriteK b.kind && !b.atHome &&
    (match b.loc with | .mem q => decide (q < pa + n) && decide (pa < q + b.width) | _ => false)))

/-- Whether the writes of one core or agent to common bytes are applied in issue order at the first point (R244). -/
def applyInOrder (s : State) (a : Access) : Bool :=
  !(homeAtomic a && copyAhead s a) && (sameLoc s a).all (fun b =>
    match b.kind with
    | .fence | .pref | .copy .. => true
    | .read | .mat _ _ false => b.by_ != a.by_ || b.taken.isSome || b.atHome
    | _ =>
      if writesView a then (if writesView b then b.atView else homeAtomic b || b.atHome)
      else b.atHome || (writesView b && b.atView && !homeAtomic a))

/-- Whether a read waits for no earlier write of its core, nor for an earlier read of its agent, of common bytes (R244). -/
def readInOrder (s : State) (a : Access) : Bool :=
  (sameLoc s a).all (fun b =>
    match b.kind with
    | .fence => true
    | .read => b.by_ != a.by_ || b.taken.isSome
    | .pref | .copy .. | .mat _ _ false => true
    | _ => if readsView a && writesView b then b.atView else b.atHome)

/-- Whether a core has a write to some byte of a range in transit, or a home atomic of it not yet applied (R243 step 4). -/
def inTransit (s : State) (core pa n : Nat) : Bool :=
  s.accs.any (fun b => b.core == some core && isWriteK b.kind && !b.atHome &&
    (match b.loc with | .mem x => decide (x < pa + n) && decide (pa < x + b.width) | _ => false) &&
    (b.atView || homeAtomic b)) ||
  (s.core core).drover.any (fun d => (match d.k with | .red _ => true | _ => false) && d.sectors.any (fun x => d.hits x pa n))

/-- Make the bytes of a range unheld in a core view. -/
def unhold (s : State) (core pa n : Nat) : State :=
  s.updCore core (fun c => { c with view := c.view.filter (fun p => !(decide (pa ≤ p.1) && decide (p.1 < pa + n))) })

/-- Make every location of a core view unheld (R246, R230). -/
def clearView (s : State) (core : Nat) : State := s.updCore core (fun c => { c with view := [] })

/-- Clear the view of a unit's core, if it has one: an acquire at CLU or wider (R230, R246). -/
def acquireView (s : State) (u : UnitRef) : State := match viewOf s u with | some c => clearView s c | none => s

/-- The acquire of an access: its view is wholly unheld when it is performed at CLU or wider (R246). -/
def acquireOf (s : State) (a : Access) : State :=
  match a.core with
  | some c => if (a.ord == .acq || a.ord == .ar) && decide (3 ≤ a.sc) then clearView s c else s
  | none => s

/-- Change a pending access. -/
def updAcc (s : State) (id : Nat) (f : Access → Access) : State :=
  { s with accs := s.accs.map (fun a => if a.id = id then f a else a) }

/-! ## Reading and writing at the points -/

/-- Poison marks of scratchpad words that a range touches (R193). -/
def scrBad (b : Band) (off n : Nat) : Bool := (List.range n).any (fun i => tabGet false b.scrP ((off + i) / 4))

/-- Bytes of a band's scratchpad. -/
def scrRead (b : Band) (off n : Nat) : List Byte := (List.range n).map (fun i => tabGet (0 : Byte) b.scr (off + i))

/-- Write bytes of a band's scratchpad: poisoned data marks its words; unpoisoned data clears only whole words (R195). -/
def scrWrite (s : State) (bk off : Nat) (bs : List Byte) (poi : Bool) : State :=
  s.updBand bk (fun b =>
    let scr := (bs.zipIdx).foldl (fun t p => tabPut (0 : Byte) t (off + p.2) p.1) b.scr
    let ws := ((List.range bs.length).map (fun i => (off + i) / 4)).dedup
    let scrP := ws.foldl (fun t w =>
      if poi then tabPut false t w true
      else if off ≤ 4 * w ∧ 4 * w + 4 ≤ off + bs.length then tabPut false t w false else t) b.scrP
    { b with scr := scr, scrP := scrP })

/-- Bytes of a core view, each filled from the home slice where it is unheld; bytes of bad sectors stay unheld. -/
def viewRead (s : State) (core pa n : Nat) : List Byte × State :=
  let c := s.core core
  let bs := (List.range n).map (fun i => match tabGet? c.view (pa + i) with | some b => b | none => memByte s.mem (pa + i))
  (bs, s.updCore core (fun c => { c with view := (bs.zipIdx).foldl (fun v p =>
    if badSector s (pa + p.2) then tabDel v (pa + p.2) else tabSet v (pa + p.2) p.1) c.view }))

/-- Whether some byte of a range is unheld in a core view. -/
def someUnheld (s : State) (core pa n : Nat) : Bool :=
  (List.range n).any (fun i => (tabGet? (s.core core).view (pa + i)).isNone)

/-- A write reaches a core view: held bytes take the new value, poisoned data leaves them unheld (R243 step 2). -/
def viewWrite (s : State) (core pa : Nat) (bs : List Byte) (poi : Bool) : State :=
  s.updCore core (fun c => { c with view := (bs.zipIdx).foldl (fun v p =>
    if poi then tabDel v (pa + p.2)
    else if (tabGet? v (pa + p.2)).isSome then tabSet v (pa + p.2) p.1 else v) c.view })

/-! ## Values and destinations (R111, R259) -/

/-- The low n bytes of a value sign- or zero-extended to 64 bits. -/
def extend (sgn : Bool) (n : Nat) (v : Nat) : W64 :=
  let m := v % 2 ^ (8 * n)
  if sgn && bitOf m (8 * n - 1) then BitVec.ofInt 64 ((m : Int) - 2 ^ (8 * n)) else BitVec.ofNat 64 m

/-- A loaded value as a register value: narrow S types sign-extend, the others zero-extend (R259). -/
def widen (t : Ty) (bs : List Byte) : W64 := extend (tySigned t) (tyBytes t) (leNat bs)

/-- Write a returned value to its destination, full, with its poison mark (R111, R114, R195). An entry that comes back to a call
stack lets its RET go on (R21). -/
def fillDest (s : State) (d : Dest) (bs : List Byte) (poi : Bool) : State :=
  match d with
  | .none => s
  | .peer _ _ => s
  | .host => { s with host := { s.host with hostRd := s.host.hostRd ++ [bs] } }
  | .scal ck r t => s.updCtx ck (fun c => c.put r ⟨widen t bs, true, poi⟩)
  | .stack ck slot =>
    let came := fun (w : WaitSt) => if w = .reload none then WaitSt.reload (some poi) else w
    let s := s.updCtx ck (fun c => { c with calls := tabSet c.calls slot ⟨BitVec.ofNat 64 (leNat (bs.take 8)), leNat ((bs.drop 8).take 1)⟩, w := came c.w })
    (match s.ctx? ck with
     | some c => if c.dom = domGroup then s.updGrp (grpOfCtx s c) (fun g => { g with w := came g.w }) else s
     | none => s)
  | .vec gk r lane t =>
    s.updGrp gk (fun g =>
      if t = .none then
        (List.range 4).foldl (fun g k => g.setV (r + k) lane (BitVec.ofNat 32 (leNat ((bs.drop (4 * k)).take 4))) poi) g
      else
        let v := widen t bs
        let g := g.setV r lane (lo32 v) poi
        if tyRegs t = 2 then g.setV (r + 1) lane (hi32 v) poi else g)

/-- Queue a producer for a taken value (R110, R111). -/
def State.addProd (s : State) (d : Dest) (bs : List Byte) (poi : Bool) : State :=
  match d with
  | .none => s
  | _ => { s with prods := s.prods ++ [⟨s.prodSeq, d, bs, poi⟩], prodSeq := s.prodSeq + 1 }

/-! ## Atomic operations (R266) -/

/-- Old, data and CAS's second value give the new value (R266). FADD is supplied by the caller. -/
def atomicNew (fadd : W64 → W64 → W64) (op : Aop) (t : Ty) (o b n : W64) : W64 :=
  let f := fun (w : Nat) =>
    let x : BitVec w := o.setWidth w
    let y : BitVec w := b.setWidth w
    let r : BitVec w := match op with
      | .add => x + y
      | .min => minV (tySigned t) x y
      | .max => maxV (tySigned t) x y
      | .and => x &&& y
      | .or => x ||| y
      | .xor => x ^^^ y
      | .xchg => y
      | .cas => if x = y then n.setWidth w else x
      | .incw => if y = 0 then x + 1 else BitVec.ofNat w ((x.toNat + 1) % y.toNat)
      | .decw => if y = 0 then x - 1 else BitVec.ofNat w ((x.toNat % y.toNat + y.toNat - 1) % y.toNat)
      | .fadd => (fadd o b).setWidth w
    r.setWidth 64
  f (8 * tyBytes t)

end Sys2Proof.Machine
end

