-- ==== Sys2Proof/Machine/Segments.lean ====
section
/-! DEFINITION. Segments (R22 to R24, R163), condition reports (R33 to R35, R412), rollback (R31), and the issue of an
instruction by a group or a context: the walk, the fetch and the checks of R69 (R22, R24, R120). -/

namespace Sys2Proof.Machine

/-! ## Children -/

/-- The group of launch-wide number G at level 1. -/
def grpKeyOf (r : LRec) (gc G : Nat) : Nat := grpKey gc (G / r.gpb) (G % r.gpb)

/-- How many children a context has (R17). -/
def childCount (r : LRec) (lvl : Nat) : Nat := if lvl ≤ 1 then 1 else (r.lvl (lvl - 1)).ext

/-- The unit of child j of unit g of a level. -/
def childRef (r : LRec) (gc lvl g j : Nat) : UnitRef :=
  if lvl ≤ 1 then .grp (grpKeyOf r gc g)
  else
    let n := j + (r.lvl (lvl - 1)).ext * g
    if (r.lvl (lvl - 1)).dom = domGroup then .grp (grpKeyOf r gc n) else .ctx (ctxKey gc (lvl - 1) n)

/-- The children of a context with their numbers. -/
def children (s : State) (c : Ctx) : List (Nat × UnitRef) :=
  let r := s.lrec c.gc
  (List.range (childCount r c.lvl)).map (fun j => (j, childRef r c.gc c.lvl c.g j))

/-- The band of child j of a context, if the child is a group: ended with its band. -/
def childEnded (s : State) (c : Ctx) (j : Nat) : Bool :=
  let r := s.lrec c.gc
  match childRef r c.gc c.lvl c.g j with
  | .ctx k => match s.ctx? k with | some x => x.ended | none => false
  | .grp _ =>
    let G := if c.lvl ≤ 1 then c.g else j + (r.lvl (c.lvl - 1)).ext * c.g
    (match s.band? (bandKey c.gc (G / r.gpb)) with | some b => b.st == .ended | none => false) ||
    (r.grpLev.isSome && (match s.ctx? (ctxKey c.gc 1 G) with | some x => x.ended | none => false))

/-- The parent context of a unit, with the unit's number among its children. -/
def parentOf (s : State) (u : UnitRef) : Option (Nat × Nat) :=
  match u with
  | .grp gk => match s.grp? gk with
    | none => none
    | some g =>
      let r := s.lrec g.gc
      let G := g.num r
      if grpTop r then none
      else if r.grpLev = some 1 then some (ctxKey g.gc 2 (r.anc G 2), r.lin 1 G) else some (ctxKey g.gc 1 G, 0)
  | .ctx ck => match s.ctx? ck with
    | none => none
    | some c =>
      let r := s.lrec c.gc
      if c.lvl = r.top then none else some (ctxKey c.gc (c.lvl + 1) (c.g / (r.lvl c.lvl).ext), r.lin c.lvl c.g)

/-- The segment a unit has in hand. -/
def curSeg (s : State) : UnitRef → Option Seg
  | .grp gk => (s.grp? gk).bind (fun g => g.seg)
  | .ctx ck => (s.ctx? ck).bind (fun c => c.cur)

/-- Whether a group has ended with its group-domain unit (R129). -/
def grpEnded (s : State) (g : Group) : Bool :=
  (s.lrec g.gc).grpLev.isSome && (match s.ctx? (grpAnc s g 1) with | some x => x.ended | none => false)

/-- Whether a unit has finished its segment, or holds none. -/
def segIdle (s : State) : UnitRef → Bool
  | .grp gk => match s.grp? gk with | some g => g.segDone || g.seg.isNone | none => true
  | .ctx ck => match s.ctx? ck with | some c => c.curDone || c.cur.isNone | none => true

/-- The entries of a parent's trail that a child has not started: its queue (R23). -/
def queueOf (c : Ctx) (cur : Option Seg) : List TrailEnt :=
  match cur with
  | none => c.trail
  | some g => c.trail.filter (fun e => newer e.seg.id g.id)

/-- Drop the trail entries whose every child has finished (R24). -/
def retire (c : Ctx) : Ctx := { c with trail := c.trail.dropWhile (fun e => e.unfin == 0) }

/-! ## Emission -/

/-- Whether a context's accesses are performed at its level's scope: the release of the first segment after a store, an
atomic or a fence, for every access issued before, reads among them (R250). -/
def emitReleased (s : State) (ck : Nat) (c : Ctx) : Bool :=
  !c.rel || (s.accs.filter (fun a => a.by_ == .unit (.ctx ck))).all (fun a => performedFor s a ((s.lrec c.gc).lvl c.lvl).scope)

/-- Whether an emission must stall: a full queue of a child that has not ended, or a full trail (R23), or the release of R250. -/
def emitStalls (s : State) (ck : Nat) (c : Ctx) : Bool :=
  decide (32 ≤ c.trail.length) || !emitReleased s ck c ||
  (children s c).any (fun p => !childEnded s c p.1 && decide (8 ≤ (queueOf c (curSeg s p.2)).length))

/-- Whether a child has still to finish the segment with an id: it has not ended, and the segment is newer than the one it has in
hand, or is that one and not finished. A child that met the segment before a rollback drops it when it is emitted again (R32). -/
def owesSeg (s : State) (c : Ctx) (id : BitVec 16) (p : Nat × UnitRef) : Bool :=
  !childEnded s c p.1 && (match curSeg s p.2 with
    | none => true
    | some g => newer id g.id || (id == g.id && !segIdle s p.2))

/-- Emit the range before a context's IA, or a report-only segment (R22, R23, R163). None while it stalls. -/
def emit (s : State) (ck : Nat) (only : Bool) (rep : Option ReportReq) : Option State :=
  match s.ctx? ck with
  | none => none
  | some c =>
    if emitStalls s ck c then none
    else
      let n := ((children s c).filter (owesSeg s c c.next)).length
      let e : TrailEnt := { seg := ⟨c.next, c.segStart, iaPrev c.ia, only, rep⟩, unfin := n, ia := c.ia, preds := c.preds, loops := c.loops,
                            depth := c.depth, next := c.next + 1, log := [] }
      some (s.updCtx ck (fun c => retire { c with
        trail := c.trail ++ [e], next := c.next + 1, segStart := c.ia, lower := false, asked := rep.isSome, reports := [], rel := false }))

/-- A child finishes a segment: its parent's entry counts one child less (R24). -/
def finishSeg (s : State) (u : UnitRef) : State :=
  match parentOf s u, curSeg s u with
  | some (pk, _), some g =>
    let s := s.updCtx pk (fun c => retire { c with
      trail := c.trail.map (fun e => if e.seg.id = g.id then { e with unfin := e.unfin - 1 } else e) })
    match u with
    | .grp gk => s.updGrp gk (fun x => { x with segDone := true })
    | .ctx ck => s.updCtx ck (fun x => { x with curDone := true })
  | _, _ => s

/-- A unit ends: every live entry of its parent that it has not finished counts one child less (R129). -/
def leaveParent (s : State) (u : UnitRef) : State :=
  match parentOf s u with
  | none => s
  | some (pk, _) =>
    let cur := curSeg s u
    let done := segIdle s u
    s.updCtx pk (fun c => retire { c with trail := c.trail.map (fun e =>
      let mine := match cur with | none => true | some g => newer e.seg.id g.id || (e.seg.id == g.id && !done)
      if mine then { e with unfin := e.unfin - 1 } else e) })

/-- A child starts the next segment of its queue, with the acquire of R250. None while the queue is empty. -/
def startSeg (s : State) (u : UnitRef) : Option State :=
  match parentOf s u with
  | none => none
  | some (pk, _) =>
    match s.ctx? pk with
    | none => none
    | some p =>
      match (queueOf p (curSeg s u)).head? with
      | none => none
      | some e =>
        let s := if 3 ≤ ((s.lrec p.gc).lvl p.lvl).scope then acquireView s u else s
        some (match u with
          | .grp gk => s.updGrp gk (fun g => { (if e.seg.only then g else g.setPos e.seg.start) with seg := some e.seg, segDone := false, rep := none })
          | .ctx ck => s.updCtx ck (fun c => { c with
              cur := some e.seg, curDone := false, rep := none, asked := false, reports := [],
              ia := if e.seg.only then c.ia else e.seg.start, segStart := if e.seg.only then c.segStart else e.seg.start, lower := false }))

/-- Whether a unit's walk has fallen through the stop of its segment (R24). -/
def pastStop (s : State) (u : UnitRef) : Bool :=
  match u with
  | .grp gk => match s.grp? gk with
    | some g => match g.seg with
      | some x => x.only || (g.single && g.pos == iaNext x.stop)
      | none => false
    | none => false
  | .ctx ck => match s.ctx? ck with
    | some c => match c.cur with
      | some x => x.only || c.ia == iaNext x.stop
      | none => false
    | none => false

/-- Whether a unit may finish its segment now (R24). -/
def mayFinish (s : State) (u : UnitRef) : Bool :=
  !segIdle s u && pastStop s u &&
  (match u with
   | .grp gk => match s.grp? gk with | some g => g.handler.isNone && g.single && g.stop == .run | none => false
   | .ctx ck => match s.ctx? ck with | some c => c.trail.isEmpty && !c.lower && !c.stopped && c.held.isNone | none => false)

/-! ## Condition reports (R33 to R35, R412) -/

/-- What one unit reports of a condition, or why it does not yet. -/
inductive RepRes where
  | wait
  | rep (r : Report)
  | fault (u : UnitRef) (f : FaultReq)
  deriving Repr

/-- The kind of a set of truth values: lanes true and lanes false (R33). -/
def kindOf (t f : Bool) : RepKind := if t then (if f then .mixed else .allTrue) else if f then .allFalse else .empty

/-- A scalar's report (R33, R35): its value, or its truth. -/
def scalRep (val : Bool) (v : W64) : Report := ⟨if val then .value v else kindOf (v != 0) (v == 0), []⟩

/-- The report of a scalar `sN:j` by the unit of level j that owns it (R412). A parked unit reports once it runs again. -/
def ctxRep (s : State) (ck : Nat) (q : ReportReq) (r : BitVec 5) : RepRes :=
  match s.ctx? ck with
  | none => .rep ⟨.empty, []⟩
  | some c =>
    if c.ended then .rep ⟨.empty, []⟩
    else if c.parked then .wait
    else
      let x := c.cell r
      if !x.full then (if q.a.feb then .fault (.ctx ck) { FaultReq.mk0 0x10 c.lvl with opf := 1 } else .wait)
      else if x.poi then .fault (.ctx ck) (FaultReq.mk0 0x30 c.lvl)
      else .rep (scalRep q.val x.v)

/-- The lanes of a mask whose condition operand is nonzero (R119). -/
def condLanes (g : Group) (o : Opd) (m : Lanes) : Lanes :=
  match o with
  | .pred p => maskOf (fun i => m.getLsbD i && g.pred p i)
  | .vec r => maskOf (fun i => m.getLsbD i && g.vword r.toNat i != 0)
  | _ => 0

/-- The use of a vector condition operand in some lanes; a predicate is never empty. -/
def vecUses (a : Src) (m : Lanes) : List Use := match a.o with | .vec _ => [⟨1, a, 1, m, true⟩] | _ => []

/-- The use of a scalar operand of a transfer or a count in some lanes. -/
def ownUses (a : Src) (m : Lanes) : List Use := match a.o with | .scal _ _ => [⟨1, a, 1, m, true⟩] | _ => []

/-- Whether an operand is a scalar. -/
def isScal (o : Opd) : Bool := match o with | .scal _ _ => true | _ => false

/-- The lanes among the active ones that take a branch, of those whose operand is nonzero (R12). -/
def takenLanes (cc : Cc) (nz m : Lanes) : Lanes := match cc with | .nz => nz | .z => m &&& ~~~nz

/-- The fault or wait of a lane condition operand (R112, R137, R195, R412). -/
def condCheck (s : State) (gk : Nat) (g : Group) (a : Src) (m : Lanes) : Option Act :=
  if g.live = 0 ∨ m = 0 then none else checkAll s (.grp gk) 0 m (vecUses a m) []

/-- Whether a band is parked or under restore. -/
def bandAway (s : State) (bk : Nat) : Bool :=
  match s.band? bk with | some b => b.st == .parked || b.st == .resuming | none => false

/-- The report of a group on lane data, or on a scalar of its group-domain context. A parked group reports once it runs again. -/
def grpRep (s : State) (gk : Nat) (q : ReportReq) : RepRes :=
  match s.grp? gk with
  | none => .rep ⟨.empty, []⟩
  | some g =>
    if bandAway s (bandKey g.gc g.b) then .wait
    else match q.a.o with
    | .scal _ r => ctxRep s (grpAnc s g 1) q r
    | o =>
      match condCheck s gk g q.a g.live with
      | some (.fault _ f) => .fault (.grp gk) f
      | some _ => .wait
      | none =>
        let t := condLanes g o g.live
        let f := g.live &&& ~~~t
        let k := kindOf (t != 0) (f != 0)
        .rep ⟨k, if k = .empty then [] else [⟨k, gk, t, f⟩]⟩

/-- The report of a unit over its subtree (R33): `n` levels are left. -/
def evalRep (s : State) (q : ReportReq) : Nat → UnitRef → RepRes
  | 0, _ => .wait
  | n + 1, u =>
    match u with
    | .grp gk => grpRep s gk q
    | .ctx ck =>
      match s.ctx? ck with
      | none => .wait
      | some c =>
        if c.ended then .rep ⟨.empty, []⟩
        else
          let own := match q.a.o with | .scal l r => if l.toNat = c.lvl then some r else none | _ => none
          match own with
          | some r => ctxRep s ck q r
          | none =>
            let rs := (children s c).map (fun p => evalRep s q n p.2)
            match rs.find? (fun x => match x with | .fault _ _ => true | _ => false) with
            | some x => x
            | none =>
              if rs.any (fun x => match x with | .wait => true | _ => false) then .wait
              else .rep (combineReps (rs.filterMap (fun x => match x with | .rep r => some r | _ => none)))

/-- Whether every child of an asking context has reported, or ended (R33). -/
def allReported (s : State) (c : Ctx) : Bool :=
  (List.range (childCount (s.lrec c.gc) c.lvl)).all (fun j => childEnded s c j || (tabGet? c.reports j).isSome)

/-- DETAIL of a non-uniformity record (R34, R171). The group is named by its number within its band at every level, and a child that
reported empty does not count as one that differs (log 26). -/
def nonUniDetail (reps : List (Nat × Report)) (r : Report) : List Byte :=
  let ne := reps.filter (fun p => p.2.k != .empty)
  let base := match ne with
    | [] => 0
    | (j, x) :: rest =>
      if x.k == .mixed then j / 64 * 64
      else match rest.find? (fun p => p.2.k != x.k) with | some (i, _) => i / 64 * 64 | none => 0
  let m := fun (p : Report → Bool) =>
    ne.foldl (fun (v : Nat) q => if base ≤ q.1 ∧ q.1 < base + 64 ∧ p q.2 then v + 2 ^ (q.1 - base) else v) 0
  leBytes 8 (m (fun x => x.k == .allTrue)) ++ leBytes 8 (m (fun x => x.k == .allFalse || x.k == .mixed)) ++
  (match r.shown with
   | some x => leBytes 4 (x.gk / 64 % 16) ++ leBytes 4 x.lt.toNat ++ leBytes 4 x.lf.toNat
   | none => leBytes 12 0) ++ leBytes 4 base

/-- Whether a condition operand of an instruction at level `lev` is lower-level data (R119): lane data, or a scalar below. -/
def isLower (lev : Nat) (o : Opd) : Bool :=
  match o with
  | .pred _ | .vec _ => true
  | .scal l _ => l != 0 && decide (l.toNat < lev)
  | _ => false

/-- The report request that an instruction of a context makes (R23). -/
def repOf (i : Instr) (lev : Nat) (ia : W64) (w : Insn) : Option ReportReq :=
  match i with
  | .br _ _ a _ | .brk _ _ a _ | .cont _ _ a _ => if isLower lev a.o then some ⟨a, false, ia, w⟩ else none
  | .unif _ a => if isLower lev a.o then some ⟨a, match a.o with | .scal _ _ => true | _ => false, ia, w⟩ else none
  | .jmpi _ a | .calli _ a => if isLower lev a.o then some ⟨a, true, ia, w⟩ else none
  | _ => none

/-! ## Rollback (R31) -/

/-- Roll a context back to its oldest unretired segment: logs undone newest first, that entry's control state restored with at most
sixteen resident call entries (R21), its log emptied, newer entries dropped. What it had asked of its children is asked anew, in a
report-only segment where the range is empty (R163). -/
def rollback (c : Ctx) : Ctx :=
  match c.trail with
  | [] => { c with asked := false, reports := [] }
  | e :: _ =>
    let u := c.trail.reverse.foldl (fun c e => e.log.foldl Ctx.undoRec c) c
    { u with
      ia := e.ia, preds := e.preds, loops := e.loops, depth := e.depth, spilled := max c.spilled (e.depth - 16), next := e.next,
      trail := [{ e with log := [] }], segStart := e.ia, lower := false, asked := false, reports := [], held := none, w := .none }

/-! ## Issue -/

/-- What a unit's turn comes to before any instruction: nothing, a move, or an instruction to run. -/
inductive Prep where
  | idle
  | moved (s : State)
  | run (i : Instr) (s : State)
  deriving Repr

/-- A fault of a context at its own slot or fetch: held until its earlier segments have retired (R30). -/
def ctxFault (s : State) (ck : Nat) (c : Ctx) (f : FaultReq) (ia : W64) (w : Insn) (src : Nat) : State :=
  if c.trail.isEmpty then takeFault s (.ctx ck) 0 f ia w src
  else s.updCtx ck (fun c => { c with held := some (f, ia, w) })

/-- The fault request of a line fetch that fails (R47, R237). -/
def fetchFault (code lev : Nat) (lanes : Lanes) (ia : W64) : FaultReq :=
  if code = 0x20 ∨ code = 0x21 ∨ code = 0x22 then
    ⟨code, lev, lanes, 6, BitVec.ofNat 64 (iaLine ia), 0, leBytes 8 (iaLine ia) ++ leBytes 8 (iaLine ia)⟩
  else { FaultReq.mk0 code lev with lanes := lanes, opf := if code = 0x32 then 0x06 else 0 }

/-- Steps 3 to 6 of R69 for a slot: the instruction, or the code. -/
def decodeFor (r : LRec) (w : Insn) : Except Nat Instr :=
  if !Decode.assigned (Decode.wOp w) then .error 0x03
  else if !levAccept r w then .error 0x03
  else if isPriv r w && !r.priv then .error 0x04
  else match Decode.decode w with
    | .error _ => .error 0x03
    | .ok i => match step6 r (levOf w) i with | some c => .error c | none => .ok i

/-- The instruction in hand. -/
def withCur (s : State) (u : UnitRef) (e : Nat) (ia : W64) (w : Insn) : State := { s with cur := ⟨u, e, ia, w⟩ }

/-- Whether a band lets its units issue: resident, not stopped for a debugger; a park under way that no handler defers stops all but
a pre-emption's groups, and those that have an instruction in hand (R175, R177, R218). -/
def bandIssues (s : State) (gc b : Nat) (grp last : Bool) : Bool :=
  match s.band? (bandKey gc b) with
  | none => true
  | some x =>
    x.st == .resident && x.dbg.isNone && x.dying.isNone &&
    (match x.park with | none => true | some _ => handling s gc b || (grp && (last || x.cause == 1)))

/-- Whether a handler runs, or is kept for a group's resume, for a unit that lies above another one of a launch or is that one: `anc` gives
its ancestors by level, and the group `self` is left out (R165, R178). -/
def handledAbove (s : State) (gc : Nat) (self : Option Nat) (anc : Nat → Nat) : Bool :=
  s.groups.any (fun p => p.2.gc == gc && some p.1 != self &&
    (match ((p.2.handler.map (fun h => h.unit)).orElse (fun _ => p.2.pendH.map (fun h => h.u)) : Option UnitRef) with
     | some (.ctx ck) => (match s.ctx? ck with | some c => anc c.lvl == ck | none => false)
     | _ => false))

/-- Whether a context may issue at all. -/
def ctxIssues (s : State) (c : Ctx) : Bool :=
  !c.ended && !c.stopped && !c.parked && c.held.isNone && !s.host.halted &&
  !handledAbove s c.gc none (fun k => if c.lvl ≤ k then ctxAnc s c k else 0) &&
  (match s.launch? c.gc with | some l => !l.done | none => false) &&
  (if c.dom ≤ domBand then bandIssues s c.gc ((s.lrec c.gc).bandOf c.lvl c.g) false false
   else (bandsUnder s c.gc c.lvl c.g).all (fun p => c.dom = domDevice ||
     ((p.2.park.isNone || handling s p.2.gc p.2.b) && p.2.dbg.isNone && p.2.dying.isNone)))

/-- Whether some replay entry of a group is still to be compared (R190). -/
def hasReplay (s : State) (gk : Nat) : Bool := s.cores.any (fun p => p.2.replay.any (fun q => q.any (fun e => e.gk == gk)))

/-- Whether an instruction waits until every earlier replay entry of its group is compared (R191, R221). -/
def awaitsReplay (chk : Nat) (w : Insn) : Bool :=
  let op := (Decode.wOp w).toNat
  op = 0x12 ∨ op = 0x13 ∨ op = 0xEA ∨ (op = 0x0D ∧ levOf w = 0) ∨
  (chk = 2 ∧ 0x80 ≤ op ∧ op < 0xF0 ∧ op ≠ 0x80 ∧ op ≠ 0x82 ∧ op ≠ 0x83 ∧ op ≠ 0x87)

/-- An uncorrectable storage error that strikes the instruction: a word of the vector or near file that it reads, the predicates and
split table of its group, or the sequencer context's storage (R193, log 15). The answer: the upset, its lanes and its source. -/
def strikes (s : State) (u : UnitRef) (i : Instr) (act : Lanes) : Option (Upset × Lanes × Nat) :=
  let reads := fun (near : Bool) => (srcsOf i).any (fun p => match p.2.o with | .vec _ => !near | .near _ => near | _ => false)
  s.upsets.findSome? (fun x => match x, u with
    | .regWord gk m near, .grp k => if gk = k ∧ m &&& act ≠ 0 ∧ reads near then some (x, m &&& act, if near then 0x02 else 0x01) else none
    | .grpStore gk, .grp k => if gk = k then some (x, act, 0x03) else none
    | .ctxStore ck, .ctx k => if ck = k then some (x, 0, 0x03) else none
    | _, _ => none)

/-- A context's turn at its own slot, decoded or not. -/
def ctxSlot (s : State) (ck : Nat) (c : Ctx) (w : Insn) : Prep :=
  let r := s.lrec c.gc
  match decodeFor r w with
  | .error code =>
    if c.lower then (match emit s ck false none with | some t => .moved t | none => .idle)
    else .moved (ctxFault s ck c (FaultReq.mk0 code c.lvl) c.ia w 0)
  | .ok i =>
    match strikes s (.ctx ck) i 0 with
    | some (x, _, src) =>
      .moved (ctxFault { s with upsets := s.upsets.erase x } ck c (FaultReq.mk0 0x32 c.lvl) c.ia w src)
    | none =>
    let h := Decode.wHdr w
    let on := guardCtx c h
    let q := if on then repOf i c.lvl c.ia w else none
    if endsSegment i && c.lower then
      (match emit s ck false q with | some t => .moved t | none => .idle)
    else match q with
      | some _ =>
        if !c.asked then (match emit s ck true q with | some t => .moved t | none => .idle)
        else if !allReported s c then .idle
        else if !c.trail.isEmpty then .idle
        else .run i (withCur s (.ctx ck) 0 c.ia w)
      | none =>
        if on && sideEffect i && !c.trail.isEmpty then .idle
        else .run i (withCur s (.ctx ck) 0 c.ia w)

/-- A context's turn: start a segment, walk on over lines and slots of other levels (R22), emit, or run an instruction. -/
def prepCtx (s : State) (ck : Nat) : Prep :=
  match s.ctx? ck with
  | none => .idle
  | some c =>
    if !ctxIssues s c then .idle
    else
      let r := s.lrec c.gc
      if c.lvl ≠ r.top ∧ segIdle s (.ctx ck) then (match startSeg s (.ctx ck) with | some t => .moved t | none => .idle)
      else if c.lvl ≠ r.top ∧ pastStop s (.ctx ck) then
        (if c.lower then (match emit s ck false none with | some t => .moved t | none => .idle) else .idle)
      else
        match fetchLine s (placeOf s (.ctx ck)) c.gc c.ia with
        | (.error code, t) => .moved (ctxFault t ck c (fetchFault code c.lvl 0 c.ia) c.ia 0 0x06)
        | (.ok l, t) =>
          let w := slotOf l (iaSlot c.ia)
          if levOf w = c.lvl then ctxSlot t ck c w
          else
            let low := decide (levOf w < c.lvl) || decide (r.top < levOf w)
            .moved (t.updCtx ck (fun c => { c with ia := iaNext c.ia, lower := c.lower || low }))

/-- A group's fault at a slot of level 0, or of its group-domain level. -/
def grpFault (s : State) (gk e : Nat) (g : Group) (lev : Nat) (f : FaultReq) (ia : W64) (w : Insn) (src : Nat) : State :=
  takeFault s (if lev = 0 then .grp gk else .ctx (grpAnc s g 1)) e f ia w src

/-- The entries of a group that take turns, in the order of their turns (R14, R38): those that do not wait at an RJOIN or at their
token and stand in the segment, from the entry after the last one that issued. While a VGROW waits its split alone may issue
(R41, R136). -/
def turns (s : State) (g : Group) : List Nat :=
  let top := grpTop (s.lrec g.gc)
  ([1, 2, 3, 4].map (fun k => (g.rot + k) % 4)).filter (fun e => match nth? g.splits e with
    | some (some x) =>
      let out := g.handler.isNone && !top && (match g.seg with | some y => !inSeg y x.pc | none => true)
      !atToken x && !x.rj && !out && (g.vwant == 0 || g.vent == e)
    | _ => false)

/-- Whether an entry gives up its turn (R131). -/
def yields (g : Group) (e : Nat) : Bool := match nth? g.splits e with | some (some x) => x.yl | _ => false

/-- The entry whose turn it is: one with the second slot of a pair to issue (R49), else the first in order. One that gave up this turn
by YIELD leaves it to the next that can take it, past one that has tried in vain (R131). -/
def turnOf (s : State) (g : Group) : Option Nat :=
  let l := turns s g
  match g.pair, l with
  | _, [] => none
  | p, e :: rest =>
    if p.any (fun q => !q.2 && l.contains q.1) then p.map (·.1)
    else if !yields g e then some e
    else match g.swap with
      | some (a, f) => if a = e then some ((rest.dropWhile (· != f)).tail.headD e) else some (rest.headD e)
      | none => some (rest.headD e)

/-- Entry e takes the turn that the entries of `l` wait for in order. It is the second slot of a pair, which belongs to the opportunity of
the first (R49), or e's own turn, or the turn that the first of `l` gave up: those two then change places for this round, so that no
split waits longer than R38 allows (R131, log 27). -/
def Group.took (g : Group) (l : List Nat) (e : Nat) : Group :=
  if g.pair = some (e, false) then { g with pair := some (e, true), last := false }
  else if l.head? = some e then
    { g with
      pair := none, last := false, swap := none,
      rot := match g.swap with | some (a, f) => if a = e ∧ !yields g e then f else e | none => e,
      splits := g.splits.zipIdx.map (fun p => if p.2 = e then p.1.map (fun x => { x with yl := false }) else p.1) }
  else { g with pair := none, last := false, swap := l.head?.map (fun a => (a, e)) }

/-- Entry e of a group takes its turn. -/
def tookTurn (s : State) (gk e : Nat) : State :=
  match s.grp? gk with
  | none => s
  | some g => s.updGrp gk (fun x => x.took (turns s g) e)

/-- A group's turn with entry e standing at an IA with a mask; e is ignored when every lane has exited. A group whose lanes have all
exited passes a slot above the top level with no fault, since no lane is there to take it (R66, R120), and a line that cannot be
fetched for the group sequencer is a fault of L0, whichever of its two levels still walks (R47); the manual says neither (log 26). In a
handler, a slot of another LEV has the inner code 0x03 in AUX (R175), which the manual does not state (log 27). -/
def grpSlot (s : State) (gk e : Nat) (g : Group) (ia : W64) (m : Lanes) : Prep :=
  let r := s.lrec g.gc
  match fetchLine s (placeOf s (.grp gk)) g.gc ia with
  | (.error code, t) => .moved (takeFault t (.grp gk) e (fetchFault code 0 m ia) ia 0 0x06)
  | (.ok l, t) =>
    let w := slotOf l (iaSlot ia)
    let lev := levOf w
    let h := Decode.wHdr w
    let act := guardLanes g h m
    let own := decide (lev = 0) || (r.grpLev == some lev)
    let skip : Prep := .moved (moveGrp (withCur t (.grp gk) e ia w) gk (m != 0) (iaNext ia))
    if r.top < lev then
      (if m = 0 then skip else .moved (takeFault t (.grp gk) e { FaultReq.mk0 0x02 0 with lanes := act } ia w 0))
    else if !own then
      (if g.handler.isSome then .moved (takeFault t (.grp gk) e { FaultReq.mk0 0x03 lev with lanes := act } ia w 0) else skip)
    else if lev = 0 ∧ m = 0 then skip
    else if lev ≠ 0 ∧ !g.single then
      (if g.stop = .run ∧ g.vwant = 0 ∧ (entries g.splits).all (fun p => splitStuck t g gk p.2) ∧ (entries g.splits).any (fun p => p.2.rj)
       then .moved (rejoinCheck t gk) else .idle)
    else match decodeFor r w with
      | .error code => .moved (grpFault t gk e g lev { FaultReq.mk0 code lev with lanes := if lev = 0 then act else 0 } ia w 0)
      | .ok i =>
        let uu : UnitRef := if lev = 0 then .grp gk else .ctx (grpAnc t g 1)
        match strikes t uu i act with
        | some (x, m, src) =>
          .moved (grpFault { t with upsets := t.upsets.erase x } gk e g lev
            { FaultReq.mk0 0x32 lev with lanes := m } ia w src)
        | none =>
          if awaitsReplay g.chk w && hasReplay t gk then .idle else .run i (withCur (tookTurn t gk e) (.grp gk) e ia w)

/-- Whether a group may issue at all: it runs, its band lets it, and it has not ended. -/
def grpMay (s : State) (g : Group) : Bool :=
  g.stop == .run && g.clonePend.isNone && g.pendH.isNone && !s.host.halted && !grpEnded s g && bandIssues s g.gc g.b true g.last &&
  !handledAbove s g.gc (some (grpKey g.gc g.b g.r)) (grpAnc s g)

/-- A group's turn for entry e, whoever's turn it is: start a segment, skip a slot of another level, or run an instruction (R24,
R120). -/
def entrySlot (s : State) (gk e : Nat) (g : Group) : Prep :=
  if !grpMay s g then .idle
  else if g.handler.isNone ∧ !grpTop (s.lrec g.gc) ∧ segIdle s (.grp gk) then
    (match startSeg s (.grp gk) with | some t => .moved t | none => .idle)
  else if g.handler.isNone ∧ pastStop s (.grp gk) then .idle
  else match entries g.splits with
    | [] => if g.handler.isSome then .idle else grpSlot s gk e g g.pc0 0
    | _ =>
      match nth? g.splits e with
      | some (some x) => if (turns s g).contains e then grpSlot s gk e g x.pc (x.mask &&& g.live) else .idle
      | _ => .idle

/-- A group's turn for entry e (R14, R38): only the entry whose turn it is acts, and one that is not ready passes its turn on. -/
def prepGrp (s : State) (gk e : Nat) : Prep :=
  match s.grp? gk with
  | none => .idle
  | some g =>
    if turns s g ≠ [] ∧ turnOf s g ≠ some e then .idle
    else match entrySlot s gk e g with
      | .idle => if grpMay s g ∧ (1 < (turns s g).length ∨ g.pair = some (e, false)) then .moved (tookTurn s gk e) else .idle
      | p => p

/-- A unit's turn (R14, R22). -/
def prep (s : State) (u : UnitRef) (e : Nat) : Prep :=
  let s := softHits s (bankOfPlace s (placeOf s u))
  match u with
  | .ctx ck => (match s.ctx? ck with | some c => if c.dom = domGroup then .idle else prepCtx s ck | none => .idle)
  | .grp gk => prepGrp s gk e

end Sys2Proof.Machine
end

