-- ==== Sys2Proof/Machine/Run.lean ====
section
/-! DEFINITION. What the meanings share: running at a context or in the lanes of a split (R55), the tests of a transfer
(R24, R50, R168), and the translation faults of a memory access (R169, R171, R226). -/

namespace Sys2Proof.Machine

/-- The level of a header. -/
def Hdr.lv (h : Hdr) : Nat := h.lev.toNat

/-- End an instruction with the act it came to. -/
def fin (s : State) (h : Hdr) (ends : Bool) (a : Act) : Host.Outcome State Fault Refusal := finish s (Hdr.lv h) ends a

/-- A fault with its lanes. -/
def flt (s : State) (code lev : Nat) (lanes : Lanes) : Act := .fault s { FaultReq.mk0 code lev with lanes := lanes }

/-- Run an instruction of a level above L0 at its context; a false guard leaves no effect (R55). -/
def atCtx (s : State) (h : Hdr) (f : Nat → Ctx → Act) : Act :=
  let ck := ownKey s s.cur.u (Hdr.lv h)
  match s.ctx? ck with
  | none => .next s
  | some c => if guardCtx c h then f ck c else .next s

/-- Run a lane instruction in the active lanes of the issuing split; with none active it has no effect (R55, R141). -/
def atLanes (s : State) (h : Hdr) (f : Nat → Group → Lanes → Act) : Act :=
  match s.cur.u with
  | .ctx _ => .next s
  | .grp gk =>
    match s.grp? gk with
    | none => .next s
    | some g => let m := activeOf s g h; if m = 0 then .next s else f gk g m

/-! ## Transfers -/

/-- The segment that bounds the transfers of an instruction (R24): none at the top level or in a handler (R175). -/
def boundSeg (s : State) (lev : Nat) : Option Seg :=
  let u := s.cur.u
  if inHandler s u then none
  else match u with
    | .grp gk => (s.grp? gk).bind (fun g => if grpTop (s.lrec g.gc) then none else g.seg)
    | .ctx ck => (s.ctx? ck).bind (fun c => if lev = (s.lrec c.gc).top then none else c.cur)

/-- Whether an IA lies in the segment that bounds an instruction. -/
def inBound (s : State) (lev : Nat) (ia : W64) : Bool := match boundSeg s lev with | some g => inSeg g ia | none => true

/-- The tests of a transfer: each IA's form and TGT bit (0x05), then its segment (0x06), then the fetch of its line (R50, R168). A line that
cannot be fetched faults at the IA that was being fetched, with INSN zero (R47, R169, R237). -/
def transfer (s : State) (lev : Nat) (lanes : Lanes) (ts : List W64) (k : State → Act) : Act :=
  match checkTgts s (placeOf s s.cur.u) (gcOf s s.cur.u) ts with
  | (.bad, t) => flt t 0x05 lev lanes
  | (.fetch c, t) =>
    if !ts.all (inBound t lev) then flt t 0x06 lev lanes else
    let ia := (ts.find? (fun x =>
      match (fetchLine s (placeOf s s.cur.u) (gcOf s s.cur.u) x).1 with | .error _ => true | .ok _ => false)).getD 0
    .fault { t with cur := { t.cur with ia := ia, insn := 0 } } (fetchFault c lev lanes ia)
  | (.ok, t) => if ts.all (inBound t lev) then k t else flt t 0x06 lev lanes

/-! ## Memory faults -/

/-- What the records of memory faults say of an access (R171). -/
structure AccDesc where
  width  : Nat
  sc     : Nat
  write  : Bool
  atomic : Bool
  deriving DecidableEq, Repr

/-- log2 of a width of 1 to 16 bytes; a task record's is 7. -/
def log2w (n : Nat) : Nat := if n ≤ 1 then 0 else if n ≤ 2 then 1 else if n ≤ 4 then 2 else if n ≤ 8 then 3 else if n ≤ 16 then 4 else 7

/-- AUX of a memory fault (R171). -/
def auxOf (d : AccDesc) : W32 := BitVec.ofNat 32 (log2w d.width + 16 * d.sc + 128 * b2n d.write + 256 * b2n d.atomic)

/-- A memory fault: its lanes, the address of the lowest of them, and the lowest and highest start addresses of all the
accesses (R169, R171). -/
def memFault (code lev : Nat) (lanes : Lanes) (d : AccDesc) (addr lo hi : Nat) : FaultReq :=
  ⟨code, lev, lanes, auxOf d, BitVec.ofNat 64 addr, 0, leBytes 8 lo ++ leBytes 8 hi⟩

/-- Translate one access for a unit: the physical address, or 0x20, 0x21 (R235 to R237). -/
def transOne (s : State) (u : UnitRef) (va : Nat) (need : Need) : Except Nat Nat × State :=
  let gc := gcOf s u
  let t := s.task gc
  translate s (placeOf s u) t.space t.top va need (s.lrec gc).priv

/-- Where a physical address goes (R227, R228). -/
def locOf (f : Floor) (pa : Nat) : Loc :=
  match regionOf f pa with
  | .hbm | .far => .mem pa
  | .host => .hostWin (pa - 0x8000000000000)
  | .peer => .peerWin (pa / 2 ^ 46 % 16) (pa % 2 ^ 46)
  | .hole => .nowhere

/-- A new access of a unit; one of a group-domain context, made with an empty mask, counts for every lane (R240). At a window it acts at
system scope, whatever scope it names (R228). -/
def mkAcc (s : State) (u : UnitRef) (lanes mask : Lanes) (loc : Loc) (width : Nat) (k : AccKind) (ord : Ord) (sc : Nat)
    (data : List Byte) (poi : Bool) (dest : Dest) : Access :=
  let all := fun (x : Lanes) => if mask = 0 then BitVec.allOnes 32 else x
  let win := match loc with | .hostWin _ | .peerWin _ _ => true | _ => false
  { Access.fence s (agentOf s u) (all lanes) (all mask) (viewOf s u) ord (if win then 6 else sc) with
    loc := loc, width := width, kind := k, data := data, poi := poi, dest := dest, cls := (s.task (gcOf s u)).prio }

end Sys2Proof.Machine
end

