-- ==== Sys2Proof/Machine/Place.lean ====
section
/-! DEFINITION. Records as the front end reads them (R16, R333, R336), resources of a core (R39 to R41, R100, R223), and
placing the units of a launch (R19, R41 to R43, R50, R53, R106). -/

namespace Sys2Proof.Machine

/-! ## Reading records -/

/-- The physical address of a front end's own access through a task's tables; none where the translation fails or gives a hole (R335). -/
def feAddr (s : State) (space top va : Nat) (need : Need) : Option Nat :=
  match walk s space top va with
  | (.leaf e, _) =>
    let pa := e.pa + va % 2 ^ e.bits
    if leafAllows s e va need true then some pa else none
  | _ => none

/-- Bytes at a virtual address as the front end reads them. -/
def feRead (s : State) (space top va n : Nat) : Option (List Byte) :=
  (List.range n).foldl (fun (o : Option (List Byte)) i => o.bind (fun bs =>
    if i = 0 ∨ (va + i) % 64 = 0 then
      (feAddr s space top (va + i) .read).map (fun pa => bs ++ devRead s pa (min (64 - (va + i) % 64) (n - i)))
    else some bs)) (some [])

/-- The state after a front end's access to n bytes that fails: the event of a bad entry stands in its bank (R235). -/
def feFailed (s : State) (space top va n : Nat) (need : Need) : State :=
  if (feAddr s space top va need).isNone then walked s space top va else walked s space top (va + n - 1)

/-- A little-endian field of a byte string. -/
def bfld (bs : List Byte) (off n : Nat) : Nat := leNat ((bs.drop off).take n)

/-- A level entry (R16). -/
def parseLevel (bs : List Byte) (k : Nat) : Level :=
  let v := bfld bs (0x80 + 16 * k) 16
  { dom := bitsOf v 3 0, scope := bitsOf v 6 4, nbar := bitsOf v 11 8, nscal := bitsOf v 17 12, e0 := bitsOf v 47 32,
    e1 := bitsOf v 63 48, e2 := bitsOf v 79 64, stk := bitsOf v 127 80 }

/-- A launch record of 256 bytes (R333). -/
def parseLRec (bs : List Byte) : LRec :=
  let h := bfld bs 0 8
  let w := fun (o : Nat) => BitVec.ofNat 64 (bfld bs o 8)
  { levels := (List.range (bitsOf h 3 0)).map (parseLevel bs), chk := bitsOf h 5 4, priv := bitOf h 6, debug := bitOf h 7,
    resid := bitOf h 8, idemp := bitOf h 9, mat := bitOf h 10, prodv := bitOf h 11, prod := bitsOf h 15 12,
    pins := bitsOf h 18 16, scrg := bitsOf h 40 32, entry := w 8, handler := w 0x10, vbase := bitsOf (bfld bs 0x18 8) 8 0,
    vmax := bitsOf (bfld bs 0x18 8) 24 16, lmtab := w 0x20, lmcount := bitsOf (bfld bs 0x28 8) 10 0, bsave := w 0x30,
    usave := w 0x38 }

/-! ## Resources of a core -/

/-- Whether some group of a band still waits for a producer (R40, R111), a matrix operation that writes its registers included. -/
def bandBusy (s : State) (gc b : Nat) : Bool :=
  let own := fun (gk : Nat) => gk % 64 == gc && gk / 1024 == b
  let mine := fun (d : Dest) => match d with | .vec gk _ _ _ => own gk | _ => false
  s.accs.any (fun a => mine a.dest) || s.prods.any (fun p => mine p.dest) ||
  s.cores.any (fun c => c.2.mq.any (fun m => match m.k with
    | .amovv _ k _ _ _ _ => own k | .acvtV _ _ _ k _ _ _ _ => own k | _ => false))

/-- Whether a band holds a slot of its core: it is resident, coming back, ended with something still due, or its resources
are kept for it while a task that it took in runs (R129, R303, R328). -/
def holdsSlot (s : State) (bk : Nat) (x : Band) : Bool :=
  match x.st with
  | .resident | .resuming => true
  | .parked => x.reserve.isSome || x.keep
  | .ended => bandBusy s x.gc x.b || copying s bk
  | .unplaced => copying s bk

/-- Whether a band runs inside the resources of the one that took it in. -/
def insideOf (s : State) (bk : Nat) : Bool := s.bands.any (fun p => p.2.reserve == some bk)

/-- Bands that hold slots of a core in their own right. -/
def coreBands (s : State) (core : Nat) : List (Nat × Band) :=
  s.bands.filter (fun p => p.2.core == core && holdsSlot s p.1 p.2 && !insideOf s p.1)

/-- Whether a column of a group has given its slices back: every live lane has exited and every register is full (R40). -/
def colFreed (g : Group) (i : Nat) : Bool :=
  let ls := (List.range 8).map (fun l => 8 * i + l)
  ls.all (fun l => !g.live.getLsbD l) &&
  (List.range g.vcount).all (fun r => ls.all (fun l => !g.vempty r l))

/-- Slices that a group holds (R39, R40). -/
def grpSlices (g : Group) : Nat :=
  ((List.range ((g.nlive + 7) / 8)).filter (fun i => !colFreed g i)).length * (g.vcount / 8)

/-- Slices of a quarter that a band's groups use. -/
def bandQuarter (s : State) (x : Band) (q : Nat) : Nat :=
  sumL (((grpsOf s x.gc x.b).filter (fun p => p.2.slot % 4 == q)).map (fun p => grpSlices p.2))

/-- Slices in use in a quarter of a core. -/
def usedQuarter (s : State) (core q : Nat) : Nat :=
  sumL ((coreBands s core).map (fun p => maxL ((chainOf s 5 p.1).map (fun k =>
    match s.band? k with | some x => bandQuarter s x q | none => 0))))

/-- Group slots in use on a core. -/
def usedSlots (s : State) (core : Nat) : List Nat :=
  ((coreBands s core).map (fun p => ((chainOf s 5 p.1).map (fun k =>
    match s.band? k with | some x => (grpsOf s x.gc x.b).map (fun p => p.2.slot) | none => [])).flatten)).flatten

/-- Free group slots, lowest first (R100). -/
def freeSlots (s : State) (core : Nat) : List Nat := (List.range 16).filter (fun i => !(usedSlots s core).contains i)

/-- Scratchpad granules in use on a core (R223). -/
def usedScr (s : State) (core : Nat) : Nat := sumL ((coreBands s core).map (fun p => (s.lrec p.2.gc).scrg))

/-- Whether a core may take a band: enabled, not withdrawn (R204), no test running on its cluster, and
its island on and not about to be gated (R405). -/
def coreOpen (s : State) (core : Nat) : Bool :=
  decide (core < s.floor.allCores.length) && !(s.core core).gone &&
  (let c := s.cluster (clusOfCore s.floor core)
   decide (c.isl = 0) && !c.walk && bitsOf c.ctl.toNat 1 0 != 2)

/-- Slices of a quarter for groups in given slots, at a register count. -/
def slotSlices (r : LRec) (slots : List Nat) (q cnt : Nat) : Nat :=
  (slots.filter (fun i => i % 4 == q)).length * slices r.nlive cnt

/-- Contexts of a domain that a placed unit of level k needs. -/
def ctxNeed (r : LRec) (k dom : Nat) : Nat :=
  sumL (((List.range (k + 1)).filter (fun j => (r.lvl j).dom = dom)).map (fun j => r.extents j k))

/-- Band-domain contexts that one band of a launch holds (R19). -/
def bandCtxs (r : LRec) : Nat := match r.bandLev with | some k => ctxNeed r k domBand | none => 0

/-- Band-domain contexts in use on a core, of its four (R19). -/
def usedBandCtxs (s : State) (core : Nat) : Nat := sumL ((coreBands s core).map (fun p =>
  maxL ((chainOf s 5 p.1).map (fun k => bandCtxs (s.lrec (k % 64))))))

/-- Ring descriptors of a band that has not ended. -/
def ringsHeld (s : State) (bk : Nat) : Nat :=
  match s.band? bk with | some x => if x.st == .resident || x.st == .resuming || x.st == .parked then x.rings.length else 0 | none => 0

/-- Ring descriptors of the parked owner that a band has agreed to take in (R346). -/
def ringsDue (s : State) (bk : Nat) : Nat :=
  match (s.band? bk).bind (fun x => x.take) with
  | some t => (match t.ent.what with | .unit g b => ringsHeld s (bandKey g b) | _ => 0)
  | none => 0

/-- Ring descriptors that a band on a core and whoever runs inside its resources hold, or an owner that is to run there. -/
def chainRings (s : State) (bk : Nat) : Nat := maxL ((chainOf s 5 bk).map (fun k => max (ringsHeld s k) (ringsDue s k)))

/-- Ring descriptors in use on a core, of its four (R387); those of a band that is parked for its helper stay kept for it (R328). -/
def usedRings (s : State) (core : Nat) : Nat := sumL ((coreBands s core).map (fun p => chainRings s p.1))

/-- Whether a core's ring descriptors suffice once a band with k rings runs inside the resources of another. -/
def ringsFit (s : State) (core bk k : Nat) : Bool :=
  let own := match (coreBands s core).find? (fun p => (chainOf s 5 p.1).contains bk) with | some p => chainRings s p.1 | none => 0
  decide (usedRings s core - own + max own k ≤ 4)

/-- The group slots that a band would take on a core, if it fits (R41, R100, R104, R223). -/
def fitSlots (s : State) (r : LRec) (core : Nat) : Option (List Nat) :=
  let fs := (freeSlots s core).take r.gpb
  if coreOpen s core && decide ((coreBands s core).length < 4) && decide (fs.length = r.gpb) &&
     (List.range 4).all (fun q => decide (usedQuarter s core q + slotSlices r fs q r.vbase ≤ 512) &&
       decide (slotSlices r fs q r.vmax ≤ 512)) &&
     decide (usedScr s core + r.scrg ≤ 256) && decide (usedBandCtxs s core + bandCtxs r ≤ 4) &&
     (!r.mat || (coreBands s core).all (fun p => !(s.lrec p.2.gc).mat))
  then some fs else none

/-- The lowest free band slot of a core. -/
def freeBandSlot (s : State) (core : Nat) : Nat :=
  ((List.range 4).find? (fun i => (coreBands s core).all (fun p => p.2.slot != i))).getD 0

/-! ## Placing -/

/-- Make a context unless it exists; a top-level one stands at the kernel entry. -/
def addCtx (s : State) (gc lvl g place : Nat) : State :=
  let r := s.lrec gc
  if (s.ctx? (ctxKey gc lvl g)).isSome then s
  else
    let c := Ctx.fresh gc lvl g (r.lvl lvl).dom place (if lvl = r.top then r.entry else 0)
    { s with ctxs := tabSet s.ctxs (ctxKey gc lvl g) c }

/-- Levels whose units lie within a band. -/
def bandLevels (r : LRec) : List Nat :=
  (List.range r.levels.length).filter (fun k => k ≠ 0 ∧ (r.lvl k).dom ≤ domBand)

/-- Units of a level within a band. -/
def unitsInBand (r : LRec) (k b : Nat) : List Nat :=
  let n := r.gpb / r.extents 1 k
  (List.range (max n 1)).map (fun j => b * (max n 1) + j)

/-- The line caches of a core and of its cluster are invalidated for a launch that has no band there yet, on its first placement as
on a resume: no line older than the placement is fetched (R53). -/
def freshLines (s : State) (gc core : Nat) : State :=
  if s.bands.any (fun p => p.2.gc == gc && p.2.core == core && p.2.st == .resident) then s
  else
    let s := s.updCore core (fun c => { c with lines := [] })
    s.updCluster (clusOfCore s.floor core) (fun c => { c with lines := [] })

/-- Place a band afresh in given group slots of a core (R41, R106, R229). The matrix state of an owner holds free values (R106). What the
core's view held is unheld, so that a task placed after a FENCE packet sees the accesses that it counted (R348, R254). -/
def placeBandAt (s : State) (gc b core slot : Nat) (slots : List Nat) : State :=
  let r := s.lrec gc
  let s := clearView (freshLines s gc core) core
  let s := s.updCore core (fun c => { c with kv := [] })
  let s := s.updCore core (fun c => if r.mat then { c with acc := [], accTag := s.fresh, accErr := [], pb := [], pbErr := [], fences := 0, old := [] } else c)
  let old := match s.band? (bandKey gc b) with | some x => x | none => Band.fresh gc b
  let nb := { Band.fresh gc b with
    st := .resident, core := core, slot := slot, born := s.tick, kills := old.kills, pend := old.pend, take := old.take,
    dbg := (stopsOver s gc b).head?.map (·.2), dbgAt := clockAt s (.core core) }
  let s := { s.tick1 with bands := tabSet s.bands (bandKey gc b) nb }
  let s := (slots.zipIdx).foldl (fun (s : State) p =>
    { s with groups := tabSet s.groups (grpKey gc b p.2) (Group.fresh gc b p.2 p.1 r.nlive r.vbase r.chk r.entry) }) s
  (bandLevels r).foldl (fun s k => (unitsInBand r k b).foldl (fun s g => addCtx s gc k g core) s) s

/-- Place a band on the first core of a list that it fits. -/
def tryBand (s : State) (gc b : Nat) (cores : List Nat) : Option State :=
  cores.findSome? (fun c => (fitSlots s (s.lrec gc) c).map (fun fs => placeBandAt s gc b c (freeBandSlot s c) fs))

/-- Place several bands. -/
def tryBands (s : State) (gc : Nat) (bs cores : List Nat) : Option State :=
  bs.foldl (fun (o : Option State) b => o.bind (fun s => tryBand s gc b cores)) (some s)

/-- Numbers of the enabled cores of a cluster number, of a die, and of all. -/
def coresOfClus (s : State) (n : Nat) : List Nat :=
  (List.range s.floor.allCores.length).filter (fun c => clusOfCore s.floor c = n)

/-- Clusters of a die. -/
def clusOfDie (s : State) (d : Nat) : List Nat :=
  (List.range s.floor.allClus.length).filter (fun c => dieOfClus s.floor c = d)

/-- Contexts of a domain in use at a place: those of units that are there, or are coming back (R19). -/
def ctxUsed (s : State) (dom place : Nat) : Nat :=
  (s.ctxs.filter (fun p => p.2.dom == dom && p.2.place == place && !p.2.ended &&
    (!p.2.parked || (bandsUnder s p.2.gc p.2.lvl p.2.g).any (fun q => q.2.st == .resuming)))).length

/-- Grid contexts in use: one of each launch, and one of every device-domain unit beyond the first (R19). -/
def gridUsed (s : State) : Nat :=
  sumL (s.launches.map (fun p => max 1 (s.ctxs.filter (fun q => q.2.gc == p.1 && q.2.dom == domDevice && !q.2.ended)).length))

/-- The bands of unit g of a level at or above the band domain. -/
def bandList (r : LRec) (k g : Nat) : List Nat := (List.range (r.bandsOf k)).map (fun j => g * r.bandsOf k + j)

/-- Make the contexts of the levels of a domain within unit g of level k. -/
def addCtxs (s : State) (gc k g dom place : Nat) : State :=
  let r := s.lrec gc
  ((List.range (k + 1)).filter (fun j => (r.lvl j).dom = dom)).foldl (fun s j =>
    (List.range (r.extents j k)).foldl (fun s i => addCtx s gc j (g * r.extents j k + i) place) s) s

/-- Place a unit of the highest cluster-domain level whole on a cluster of a list (R42). -/
def tryClus (s : State) (gc k g : Nat) (cs : List Nat) : Option State :=
  let r := s.lrec gc
  cs.findSome? (fun c =>
    if ctxUsed s domCluster c + ctxNeed r k domCluster ≤ 8 then
      (tryBands s gc (bandList r k g) (coresOfClus s c)).map (fun s => addCtxs s gc k g domCluster c)
    else none)

/-- The highest level of the cluster domain. -/
def clusLev (r : LRec) : Option Nat := ((List.range r.levels.length).filter (fun k => (r.lvl k).dom = domCluster)).getLast?

/-- Place a unit of the highest die-domain level whole on a die of a list (R42). -/
def tryDie (s : State) (gc k g : Nat) (ds : List Nat) : Option State :=
  let r := s.lrec gc
  ds.findSome? (fun d =>
    if ctxUsed s domDie d + ctxNeed r k domDie ≤ 16 then
      let o := match clusLev r with
        | some hc => (List.range (r.extents hc k)).foldl (fun (o : Option State) i =>
            o.bind (fun s => tryClus s gc hc (g * r.extents hc k + i) (clusOfDie s d))) (some s)
        | none => tryBands s gc (bandList r k g) (((clusOfDie s d).map (coresOfClus s)).flatten)
      o.map (fun s => addCtxs s gc k g domDie d)
    else none)

/-- Start a list at an index. -/
def rotate {α : Type} (l : List α) (n : Nat) : List α := l.drop (n % max l.length 1) ++ l.take (n % max l.length 1)

/-- Make the device-domain contexts above unit g of level k, and test the entry IA of a top-level unit that begins (R50); the front
end's lines are invalidated with the placement (R53). -/
def startTops (s : State) (gc k g : Nat) : State :=
  let r := s.lrec gc
  let ups := (List.range r.levels.length).filter (fun j => k ≤ j ∧ (r.lvl j).dom = domDevice)
  let top := ctxKey gc r.top (r.ancFrom k g r.top)
  let new := match s.ctx? top with | some c => c.dom != domDevice && c.ia == r.entry && c.next == 0 | none => true
  let s := s.updDie 10 (fun c => { c with lines := [] })
  let s := ups.foldl (fun s j => addCtx s gc j (r.ancFrom k g j) 0) s
  if !new then s
  else match checkTgt s (placeOf s (.ctx top)) gc r.entry with
    | (.ok, s) => s
    | (.bad, s) => takeFault s (.ctx top) 0 (FaultReq.mk0 0x05 r.top) r.entry 0 0
    | (.fetch c, s) => takeFault s (.ctx top) 0 (fetchFault c r.top 0 r.entry) r.entry 0 0x06

/-- The level of the chunks in which a launch is placed: a whole unit, or one band (R42). -/
def chunkLev (r : LRec) : Nat := match r.wholeLev with | some k => k | none => r.bandLev.getD 1

/-- How many chunks a launch has. -/
def chunks (r : LRec) : Nat := r.extents (chunkLev r) (r.top + 1)

/-- Place a chunk; `pick` is the free choice of the place (log 10). None where its contexts, grid contexts included, are not free (R19). -/
def placeChunk (s : State) (gc g pick : Nat) : Option State :=
  let r := s.lrec gc
  let k := chunkLev r
  let o := match (r.lvl k).dom with
    | 3 => tryClus s gc k g (rotate (List.range s.floor.allClus.length) pick)
    | 4 => tryDie s gc k g (rotate (List.range 10) pick)
    | _ => tryBand s gc g (rotate (List.range s.floor.allCores.length) pick)
  (o.map (fun s => startTops s gc k g)).bind (fun s => if gridUsed s ≤ 64 then some s else none)

/-- Place what a launch may place next: one chunk, or every one when it is resident (R42, R43). -/
def placeMore (s : State) (gc pick : Nat) : Option State :=
  match s.launch? gc with
  | none => none
  | some l =>
    let n := if l.r.resid then chunks l.r - l.placed else 1
    let gone : Nat → Bool := fun g => match s.band? (bandKey gc (g * l.r.bandsOf (chunkLev l.r))) with | some x => x.st == .ended | none => false
    ((List.range n).foldl (fun (o : Option State) i => o.bind (fun s =>
        if gone (l.placed + i) then some s else placeChunk s gc (l.placed + i) pick)) (some s)).map
      (fun s => s.updLaunch gc (fun l => { l with placed := l.placed + n }))

/-- The lowest free grid context (R19). -/
def freeGc (s : State) : Option Nat := if gridUsed s < 64 then (List.range 64).find? (fun g => (s.launch? g).isNone) else none

/-- STATE of a task record, and a change of it, at its home slice (R336, R337). -/
def taskState (s : State) (pa : Nat) : Nat := bitsOf (devGet s pa 8) 34 32
/-- Write STATE. -/
def setTaskState (s : State) (pa st : Nat) : State :=
  let h := devGet s pa 8
  devPut s pa 8 (h - bitsOf h 34 32 * 2 ^ 32 + st * 2 ^ 32)

/-- The physical address of a task's record. -/
def taskPa (s : State) (t : Task) : Option Nat := feAddr s t.space t.top t.rcd.toNat .read

/-- The launch of a READY task, as its records say now (log 24). -/
def launchOf (s : State) (t : Task) : Option Launch :=
  match feRead s t.space t.top t.rcd.toNat 128 with
  | none => none
  | some bs =>
    (feRead s t.space t.top (bfld bs 0x20 8) 256).map (fun l =>
      let w := fun (o : Nat) => BitVec.ofNat 64 (bfld bs o 8)
      { Launch.fresh t (parseLRec l) with
        save := w 0x48, usavex := w 0x18, faultrec := w 0x40, fut := w 0x30, counter := w 0x38 })

/-- Free the pending-launch entry of a placed task (R326, R337). -/
def freePend (s : State) (bk : Option Nat) (rcd : W64) : State :=
  match bk with
  | none => s
  | some k => s.updBand k (fun x => { x with pend := x.pend.erase (rcd, true) })

/-- Place a READY task (R341, R337): a grid context, its first chunk or all of it, STATE RUNNING. R19 has a 65th concurrent launch wait in
its host queue, where R341 and R344 let its LAUNCH packet complete and the READY task wait in the ready queue for a free grid context:
the model does the latter (log 27). -/
def placeTask (s : State) (t : Task) (bk : Option Nat) (pick : Nat) : Option State :=
  match freeGc s, launchOf s t, taskPa s t with
  | some gc, some l, some pa =>
    let s1 := { s with launches := tabSet s.launches gc l }
    (placeMore s1 gc pick).map (fun s => freePend (setTaskState s pa 3) bk t.rcd)
  | _, _, _ => none

/-- The faults that a band's next MWAIT will raise follow the band to its new core, and so do the older values of its matrix state, which
no MFENCE has settled (R297). -/
def moveFaults (s : State) (bk core : Nat) : State :=
  let old := match s.band? bk with | some x => x.core | none => core
  let mine := ((s.core old).mfault.filter (fun p => p.2.bk == bk)).map (·.2)
  let s := s.updCore old (fun c => { c with mfault := c.mfault.filter (fun p => p.2.bk != bk) })
  let s := match s.band? bk with
    | some x => if (s.lrec (bk % 64)).mat then s.updCore core (fun c => { c with fences := x.fen, old := x.olds, pbErr := [] }) else s
    | none => s
  mine.foldl (fun (s : State) v => s.updCore core (fun c => { c with mseq := c.mseq + 1, mfault := tabSet c.mfault c.mseq v })) s

/-- Give a parked band its resources on a core; its images are read by the resume that follows (R178). -/
def reoccupy (s : State) (gc b core slot : Nat) (slots : List Nat) : State :=
  let s := moveFaults s (bandKey gc b) core
  let s := freshLines s gc core
  let s := s.updBand (bandKey gc b) (fun x => { x with st := .resuming, core := core, slot := slot, born := s.tick })
  let s := s.updCore core (fun c => { c with kv := [] })
  let s := (slots.zipIdx).foldl (fun (s : State) p =>
    s.updGrp (grpKey gc b p.2) (fun g => { g with slot := p.1 })) s
  let r := s.lrec gc
  (bandLevels r).foldl (fun (s : State) k => (unitsInBand r k b).foldl (fun (s : State) g =>
    s.updCtx (ctxKey gc k g) (fun c => { c with place := core })) s) s

/-- Slices of a parked band at the counts its groups hold. -/
def parkedNeed (s : State) (gc b : Nat) (slots : List Nat) (q : Nat) : Nat :=
  sumL (((grpsOf s gc b).zip slots).map (fun p => if p.2 % 4 = q then slices p.1.2.nlive p.1.2.vcount else 0))

/-- Whether a parked band fits a core, and in which group slots. -/
def refitSlots (s : State) (gc b core : Nat) : Option (List Nat) :=
  let r := s.lrec gc
  let fs := (freeSlots s core).take r.gpb
  if coreOpen s core && decide ((coreBands s core).length < 4) && decide (fs.length = r.gpb) &&
     (List.range 4).all (fun q => decide (usedQuarter s core q + parkedNeed s gc b fs q ≤ 512)) &&
     decide (usedScr s core + r.scrg ≤ 256) && decide (usedBandCtxs s core + bandCtxs r ≤ 4) &&
     decide (usedRings s core + (match s.band? (bandKey gc b) with | some x => x.rings.length | none => 0) ≤ 4) &&
     (!r.mat || (coreBands s core).all (fun p => !(s.lrec p.2.gc).mat))
  then some fs else none

/-- Reoccupy the resources that were kept for a band whose helper's task has retired (R328). -/
def reoccupyKept (s : State) (x : Band) : State :=
  reoccupy (s.updBand (bandKey x.gc x.b) (fun y => { y with keep := false })) x.gc x.b x.core x.slot ((grpsOf s x.gc x.b).map (fun q => q.2.slot))

/-- Reoccupy the resources that are kept for a parked band, or the first core of a list that it fits. -/
def tryResume (s : State) (gc b : Nat) (cores : List Nat) : Option State :=
  match (s.band? (bandKey gc b)).filter (fun x => x.keep) with
  | some x => if cores.contains x.core then some (reoccupyKept s x) else none
  | none => cores.findSome? (fun c => (refitSlots s gc b c).map (fun fs => reoccupy s gc b c (freeBandSlot s c) fs))

/-- Give the contexts of a domain at and below unit g of level k their place. -/
def movePlace (s : State) (gc k g dom place : Nat) : State :=
  (ctxsUnder s gc k g).foldl (fun (s : State) p => if p.2.dom = dom then s.updCtx p.1 (fun c => { c with place := place }) else s) s

/-- The parked bands of unit g of a level. -/
def parkedIn (s : State) (gc k g : Nat) : List Nat :=
  (bandList (s.lrec gc) k g).filter (fun y => match s.band? (bandKey gc y) with | some z => z.st == .parked | none => false)

/-- Resume bands on the cores of a list. -/
def resumeBandsOn (s : State) (gc : Nat) (bs cores : List Nat) : Option State :=
  bs.foldl (fun (o : Option State) y => o.bind (fun s => tryResume s gc y cores)) (some s)

/-- Resume a unit of the highest cluster-domain level whole on one cluster of a list that has its contexts free (R19, R42). -/
def resumeClus (s : State) (gc k g : Nat) (cs : List Nat) : Option State :=
  let r := s.lrec gc
  if (parkedIn s gc k g).isEmpty then some s
  else cs.findSome? (fun c =>
    if ctxUsed s domCluster c + ctxNeed r k domCluster ≤ 8 then
      (resumeBandsOn s gc (parkedIn s gc k g) (coresOfClus s c)).map (fun s => movePlace s gc k g domCluster c)
    else none)

/-- Resume a unit of the highest die-domain level whole on one die of a list that has its contexts free; its cluster-level units
each resume on one cluster of that die (R19, R42). -/
def resumeDie (s : State) (gc k g : Nat) (ds : List Nat) : Option State :=
  let r := s.lrec gc
  if (parkedIn s gc k g).isEmpty then some s
  else ds.findSome? (fun d =>
    if ctxUsed s domDie d + ctxNeed r k domDie ≤ 16 then
      let o := match clusLev r with
        | some hc => (List.range (r.extents hc k)).foldl (fun (o : Option State) i =>
            o.bind (fun s => resumeClus s gc hc (g * r.extents hc k + i) (clusOfDie s d))) (some s)
        | none => resumeBandsOn s gc (parkedIn s gc k g) (((clusOfDie s d).map (coresOfClus s)).flatten)
      o.map (fun s => movePlace s gc k g domDie d)
    else none)

/-- Resume what was placed as one chunk: a whole unit, or one band. -/
def resumeChunk (s : State) (gc g pick : Nat) : Option State :=
  let r := s.lrec gc
  let k := chunkLev r
  match (r.lvl k).dom with
  | 3 => resumeClus s gc k g (rotate (List.range s.floor.allClus.length) pick)
  | 4 => resumeDie s gc k g (rotate (List.range 10) pick)
  | _ => resumeBandsOn s gc ((bandList r k g).filter (parkedIn s gc k g).contains) (rotate (List.range s.floor.allCores.length) pick)

/-- The chunk that a band belongs to. -/
def chunkOf (s : State) (gc b : Nat) : Nat := match wholeUnit s gc b with | some (_, g) => g | none => b

/-- Place again or resume a parked unit; the units of a resident launch resume together, each on a place of its own (R43, R178, R198,
R341). -/
def placeUnit (s : State) (gc b pick : Nat) : Option State :=
  match s.band? (bandKey gc b) with
  | none => none
  | some x =>
    if x.st = .unplaced then placeChunk s gc (chunkOf s gc b) pick
    else if (s.lrec gc).resid then
      (List.range (chunks (s.lrec gc))).foldl (fun (o : Option State) g => o.bind (fun s => resumeChunk s gc g pick)) (some s)
    else resumeChunk s gc (chunkOf s gc b) pick

/-- Place what a ready-queue entry stands for, if it fits. -/
def tryItem (s : State) (what : ReadyItem) (pick : Nat) : Option State :=
  match what with
  | .task t bk => placeTask s t bk pick
  | .unit gc b => placeUnit s gc b pick
  | .more gc => placeMore s gc pick

/-- The ready entries that may be placed: those that no band has taken in (R346). -/
def readyOpen (s : State) : List ReadyEnt := s.ready.filter (fun e => !e.taken)

/-- Whether some ready entry of at least a priority fits nowhere now and would fit once the bands of a unit are gone: what YIELD asks
(R131). -/
def wantedBy (s : State) (gc b : Nat) : Bool :=
  let bs := bandsWith s gc b
  let free := bs.foldl (fun (s : State) x => s.updBand (bandKey gc x) (fun y => { y with st := .unplaced, reserve := none, keep := false }))
    (freeChain s (bs.map (bandKey gc)))
  (readyOpen s).any (fun e => decide ((s.task gc).prio ≤ e.eff) && (tryItem s e.what 0).isNone && (tryItem free e.what 0).isSome)

/-! ## Fitting a band's own resources (R327, R330) -/

/-- The group slots of a band, lowest first. -/
def slotsOf (s : State) (x : Band) : List Nat :=
  (List.range 16).filter (fun i => (grpsOf s x.gc x.b).any (fun p => p.2.slot == i))

/-- Whether the contexts above the band that a launch of one band needs are free at a core (R19). -/
def upperFits (s : State) (r : LRec) (core : Nat) : Bool :=
  match r.wholeLev with
  | none => true
  | some k =>
    decide (ctxUsed s domCluster (clusOfCore s.floor core) + ctxNeed r k domCluster ≤ 8) &&
    decide (ctxUsed s domDie (dieOfCore s.floor core) + ctxNeed r k domDie ≤ 16)

/-- Whether a band of a launch that is placed afresh fits what a band holds: in which group slots (R327). -/
def fitsNew (s : State) (x : Band) (r : LRec) : Option (List Nat) :=
  let fs := (slotsOf s x).take r.gpb
  let own := s.lrec x.gc
  if decide (fs.length = r.gpb) &&
     (List.range 4).all (fun q => decide (slotSlices r fs q r.vbase ≤ bandQuarter s x q) && decide (slotSlices r fs q r.vmax ≤ 512)) &&
     decide (r.scrg ≤ own.scrg) && (!r.mat || own.mat) && upperFits s r x.core
  then some fs else none

/-- Whether a parked band fits what a band holds: in which group slots (R327). -/
def fitsOld (s : State) (x : Band) (gc b : Nat) : Option (List Nat) :=
  let r := s.lrec gc
  let own := s.lrec x.gc
  let fs := (slotsOf s x).take r.gpb
  if decide (fs.length = r.gpb) &&
     (List.range 4).all (fun q => decide (parkedNeed s gc b fs q ≤ bandQuarter s x q)) &&
     ringsFit s x.core (bandKey x.gc x.b) (ringsHeld s (bandKey gc b)) &&
     decide (r.scrg ≤ own.scrg) && (!r.mat || own.mat) && upperFits s r x.core
  then some fs else none

/-- Whether a launch is placed one band at a time. -/
def bandwise (r : LRec) : Bool := decide (r.bandsOf (chunkLev r) ≤ 1) && (!r.resid || decide (r.bands = 1))

/-- Whether what a ready entry stands for is one band and fits what a band holds (R330). -/
def fitsOwn (s : State) (x : Band) (what : ReadyItem) : Bool :=
  match what with
  | .task t _ => (match launchOf s t with | some l => bandwise l.r && (fitsNew s x l.r).isSome | none => false)
  | .more gc => bandwise (s.lrec gc) && (fitsNew s x (s.lrec gc)).isSome
  | .unit gc b => bandwise (s.lrec gc) &&
    (match s.band? (bandKey gc b) with
     | some y => if y.st == .parked then (fitsOld s x gc b).isSome else (fitsNew s x (s.lrec gc)).isSome
     | none => false)

/-! ## The ready queues in order (R341, R342) -/

/-- The places of the ready queues in the order in which the front end considers them: effective priority, then age in the
queue (R326, R341). -/
def readyOrder (s : State) : List (Nat × ReadyEnt) :=
  let es := ((s.ready.zipIdx).map (fun p => (p.2, p.1))).filter (fun p => !p.2.taken)
  ([3, 2, 1, 0].map (fun k => es.filter (fun p => p.2.eff == k))).flatten

/-- Age an entry by a dispatch of a higher effective priority (R342). -/
def ageEnt (eff : Nat) (e : ReadyEnt) : ReadyEnt :=
  if e.taken ∨ eff ≤ e.eff then e
  else if e.age + 1 < 64 then { e with age := e.age + 1 }
  else { e with eff := min 3 (e.eff + 1), age := 0 }

/-- The grid context in which a placed entry runs, with what is still to place of its launch. -/
def restOf (s t : State) (what : ReadyItem) : Option Nat :=
  let gc? := match what with
    | .task _ _ => (List.range 64).find? (fun g => (s.launch? g).isNone && (t.launch? g).isSome)
    | .more gc => some gc
    | .unit _ _ => none
  gc?.bind (fun gc => match t.launch? gc with
    | some l => if l.placed < chunks l.r then some gc else none
    | none => none)

/-- Take a placed entry out of its queue; the rest of its launch stays in its place (R42). -/
def leaveReady (s t : State) (i : Nat) (e : ReadyEnt) : State :=
  let rest : List ReadyEnt := match restOf s t e.what with | some gc => [⟨.more gc, e.prio, e.prio, 0, false⟩] | none => []
  { t with ready := ((t.ready.take i).map (ageEnt e.eff)) ++ rest ++ ((t.ready.drop (i + 1)).map (ageEnt e.eff)) }

/-- The first ready entry, in the front end's order, of at least a band's priority that fits what the band holds and can be placed nowhere
else: what an idle band is parked for (R330). -/
def idleWant (s : State) (x : Band) : Option ReadyItem :=
  ((readyOrder s).find? (fun p => decide ((s.task x.gc).prio ≤ p.2.eff) && fitsOwn s x p.2.what && (tryItem s p.2.what 0).isNone)).map
    (fun p => p.2.what)

/-- Place a ready entry that a band has parked for, on the core that it left (R330). -/
def placeWanted (s : State) (what : ReadyItem) (core : Nat) : State :=
  match (readyOrder s).find? (fun p => p.2.what == what) with
  | some (i, e) => (match tryItem s what core with | some t => leaveReady s t i e | none => s)
  | none => s

end Sys2Proof.Machine
end

