-- ==== Sys2Proof/Machine/Ends.lean ====
section
/-! DEFINITION. Barriers (R351 to R353), pins as stored (R367, R372), and the end of lanes and units (R40, R128, R129). -/

namespace Sys2Proof.Machine

/-! ## Barriers -/

/-- An untouched barrier. -/
def Barrier.zero : Barrier := ⟨0, []⟩

/-- Barrier j of the unit with a context key. -/
def State.bar (s : State) (ck j : Nat) : Barrier := tabGet Barrier.zero s.bars (barKey ck j)

/-- Set a barrier. -/
def State.setBar (s : State) (ck j : Nat) (b : Barrier) : State := { s with bars := tabPut Barrier.zero s.bars (barKey ck j) b }

/-- The number of a lane as a member. -/
def laneMember (gk lane : Nat) : Nat := 32 * gk + lane

/-- The members that a barrier of a unit of level l expects: those that have not ended (R351). For l = 1 they are the
live lanes of its group, else the units of the level below. -/
def barMembers (s : State) (c : Ctx) : List Nat :=
  let r := s.lrec c.gc
  if c.lvl = 1 then
    let gk := grpKeyOf r c.gc c.g
    match s.grp? gk with | some g => (lanesOf g.live).map (laneMember gk) | none => []
  else ((List.range (childCount r c.lvl)).filter (fun j => !childEnded s c j)).map
    (fun j => ctxKey c.gc (c.lvl - 1) (j + (r.lvl (c.lvl - 1)).ext * c.g))

/-- A fence that orders the later accesses of an agent after every earlier access of the members of a unit's barrier
(R254): `konst` marks it and `pseq` names the unit. -/
def barFence (s : State) (ck : Nat) (by_ : AgentId) (lanes : Lanes) (core : Option Nat) (sc : Nat) : Access :=
  { Access.fence s by_ lanes lanes core .ar sc with konst := true, pseq := ck }

/-- The full fence of a completed barrier for every member (R254, R351). -/
def barFences (s : State) (ck : Nat) (c : Ctx) : State :=
  let r := s.lrec c.gc
  let sc := (r.lvl c.lvl).scope
  if c.lvl = 1 then
    let gk := grpKeyOf r c.gc c.g
    match s.grp? gk with
    | some g => s.addAcc (barFence s ck (.unit (.grp gk)) g.live (some (coreOfGrp s g)) sc)
    | none => s
  else (children s c).foldl (fun (s : State) p =>
    match p.2 with
    | .grp gk => (match s.grp? gk with
      | some g => s.addAcc (barFence s ck (.unit p.2) (BitVec.allOnes 32) (some (coreOfGrp s g)) sc)
      | none => s)
    | .ctx _ => s.addAcc (barFence s ck (.unit p.2) 0 (viewOf s p.2) sc)) s

/-- Complete a barrier whose arrivals equal the members that remain (R351). -/
def barSettle (s : State) (ck j : Nat) : State :=
  match s.ctx? ck with
  | none => s
  | some c =>
    let b := s.bar ck j
    let ms := barMembers s c
    let arr := b.arrived.filter ms.contains
    if !ms.isEmpty && arr.length == ms.length then barFences (s.setBar ck j ⟨b.phase + 1, []⟩) ck c
    else s.setBar ck j { b with arrived := arr }

/-- Members arrive. -/
def barArrive (s : State) (ck j : Nat) (ms : List Nat) : State :=
  let b := s.bar ck j
  barSettle (s.setBar ck j { b with arrived := b.arrived ++ ms.filter (fun m => !b.arrived.contains m) }) ck j

/-- Every barrier of a unit is tested again after a member has ended. -/
def barAll (s : State) (ck : Nat) : State := (List.range 8).foldl (fun s j => barSettle s ck j) s

/-! ## Ends of lanes -/

/-- The table and position of a group after lanes leave it: entries are freed or refilled (R128), the issuing entry goes on
at an IA where it keeps a lane, and with no entry left the position is that IA. -/
def exitTable (g : Group) (e : Nat) (m : Lanes) (ia : W64) : Group :=
  let kept := match nth? g.splits e with | some (some x) => (x.mask &&& ~~~m) != 0 | _ => false
  let (sp, recs) := clearLanes g.splits g.recs m
  let sp := if kept then (match nth? sp e with | some (some x) => setNth sp e (some { x with pc := ia, w := .none }) | _ => sp) else sp
  { g with splits := sp, recs := gcRecs sp recs, live := g.live &&& ~~~m, pc0 := ia, region := { g.region with valid := false } }

/-- Lanes of a group exit (R128, R351). -/
def exitLanes (s : State) (gk e : Nat) (m : Lanes) (ia : W64) : State :=
  let s := settle (s.updGrp gk (fun g => exitTable g e m ia)) gk
  match s.grp? gk with
  | some g => rejoinCheck (barAll s (grpAnc s g 1)) gk
  | none => s

/-! ## Ends of units -/

/-- Clear an ended band's units once no producer, no copy and no pin of it remains (R40, R129, R303, R372). -/
def reapBand (s : State) (gc b : Nat) : State :=
  match s.band? (bandKey gc b) with
  | some x =>
    if x.st == .ended && !bandBusy s gc b && !copying s (bandKey gc b) &&
       (grpsOf s gc b).all (fun p => p.2.pins.all (fun q => q.v == 0 && q.shadow == 0)) then clearBand s gc b .ended
    else s
  | none => s

/-- A group ends with its unit: its lanes end and its pins are withdrawn as UNPIN does (R129, R367). -/
def endGroup (g : Group) : Group :=
  { g with live := 0, splits := [none, none, none, none], recs := [], handler := none, w := .none, vwant := 0,
           region := { g.region with valid := false },
           pins := g.pins.map (fun q => if q.shadow = 0 then ⟨0, q.v⟩ else q) }

/-- A unit of level lvl ends with every unit below it (R129). -/
def endUnit (s : State) (gc lvl g : Nat) : State :=
  let r := s.lrec gc
  let ck := ctxKey gc lvl g
  let u : UnitRef := if (r.lvl lvl).dom = domGroup then .grp (grpKeyOf r gc g) else .ctx ck
  let par := parentOf s u
  let s := leaveParent s u
  let cs := (ctxsUnder s gc lvl g).map (·.1)
  let gs := (grpsUnder s gc lvl g).map (·.1)
  let s := { s with bars := s.bars.filter (fun p => !cs.contains (p.1 / 8)) }
  let s := cs.foldl (fun (s : State) k => s.updCtx k (fun c => { c with
    ended := true, trail := [], loops := [], calls := [], depth := 0, spilled := 0, held := none, w := .none })) s
  let s := gs.foldl (fun s k => s.updGrp k endGroup) s
  let bs := if r.bandLev.getD 1 ≤ lvl then bandList r lvl g else []
  let s := bs.foldl (fun (s : State) b =>
    match s.band? (bandKey gc b) with
    | some _ => reapBand (s.updBand (bandKey gc b) (fun x => { x with st := .ended, park := none })) gc b
    | none => { s with bands := tabSet s.bands (bandKey gc b) { Band.fresh gc b with st := .ended } }) s
  let s := match par with | some (pk, _) => barAll s pk | none => s
  if lvl = r.top then
    let s := s.updLaunch gc (fun l => { l with ended := l.ended + 1 })
    match s.launch? gc with
    | some l => if l.ended < (r.lvl r.top).ext then s
        else s.updLaunch gc (fun l => { l with done := true, out := 1, code := 0 })
    | none => s
  else s

end Sys2Proof.Machine
end

