-- ==== Sys2Proof/Machine/Arrival.lean ====
section
/-! DEFINITION. Arrival words (R304 to R306), what waits for them (R324), and the pieces of a unit's waiting state. -/

namespace Sys2Proof.Machine

/-! ## Waiting state -/

/-- What the unit in hand has already done of its instruction of level `lev`. -/
def waitOf (s : State) (lev : Nat) : WaitSt :=
  match s.cur.u with
  | .ctx ck => match s.ctx? ck with | some c => c.w | none => .none
  | .grp gk => match s.grp? gk with
    | some g => if lev = 0 then (match curSplit s g with | some x => x.w | none => .none) else g.w
    | none => .none

/-- Set it. -/
def setWait (s : State) (lev : Nat) (w : WaitSt) : State :=
  match s.cur.u with
  | .ctx ck => s.updCtx ck (fun c => { c with w := w })
  | .grp gk => s.updGrp gk (fun g =>
      if lev = 0 then { g with splits := (g.splits.zipIdx).map (fun p =>
        if p.2 = s.cur.e then p.1.map (fun x => { x with w := w }) else p.1) }
      else { g with w := w })

/-- Withdraw what the units of a group wait for; their instructions issue again from the start (R330). -/
def clearWaits (g : Group) : Group := { g with w := .none, splits := g.splits.map (fun x => x.map (fun y => { y with w := .none })) }

/-! ## The word -/

/-- An arrival word by its fields (R304). -/
structure ArrWord where
  phase : Nat
  pois  : Bool
  parr  : Nat
  exp   : Nat
  psec  : Nat
  deriving DecidableEq, Repr

/-- The fields of sixteen bytes. -/
def arrOf (bs : List Byte) : ArrWord :=
  let v := leNat bs
  ⟨bitsOf v 3 0, bitOf v 4, bitsOf v 31 8, bitsOf v 55 32, bitsOf v 95 64⟩

/-- The sixteen bytes of the fields; zero fields are written zero. -/
def arrBytes (w : ArrWord) : List Byte :=
  leBytes 16 (w.phase % 16 + b2n w.pois * 16 + w.parr % 2 ^ 24 * 2 ^ 8 + w.exp % 2 ^ 24 * 2 ^ 32 + w.psec % 2 ^ 32 * 2 ^ 64)

/-- A step of an arrival or a sector completion ends the phase where nothing is pending (R304). -/
def arrSettle (w : ArrWord) : ArrWord :=
  if w.parr = 0 ∧ w.psec = 0 then { w with phase := (w.phase + 1) % 16, parr := w.exp } else w

/-- One arrival: none where it must wait for the phase, no effect at a word without expected arrivals (R304). -/
def arrArrive (w : ArrWord) : Option ArrWord :=
  if w.exp = 0 then some w else if w.parr = 0 then none else some (arrSettle { w with parr := w.parr - 1 })

/-- One sector completion with its poison (R304, R305). -/
def arrSector (w : ArrWord) (poi : Bool) : ArrWord :=
  arrSettle { w with pois := w.pois || poi, psec := (w.psec + 2 ^ 32 - 1) % 2 ^ 32 }

/-- The arrival word of a band at an offset. -/
def arrGet (s : State) (bk off : Nat) : ArrWord :=
  match s.band? bk with | some b => arrOf (scrRead b off 16) | none => ⟨0, false, 0, 0, 0⟩

/-- A waiter whose phase has been passed keeps the POIS of that step (R324). -/
def arrSee (b : Band) (w : WaitSt) : WaitSt :=
  match w with
  | .arwt off ph none =>
    let a := arrOf (scrRead b off 16)
    if a.phase = ph then w else .arwt off ph (some a.pois)
  | _ => w

/-- Every waiter of a band looks at its word after a write of the scratchpad (R324). -/
def arrNotify (s : State) (bk : Nat) : State :=
  match s.band? bk with
  | none => s
  | some b =>
    { s with groups := s.groups.map (fun (p : Nat × Group) =>
        if p.2.gc == b.gc && p.2.b == b.b then
          (p.1, { p.2 with w := arrSee b p.2.w, splits := p.2.splits.map (fun x => x.map (fun y => { y with w := arrSee b y.w })) })
        else p) }

/-- Write bytes of a band's scratchpad as one step. -/
def scrStore (s : State) (bk off : Nat) (bs : List Byte) (poi : Bool) : State := arrNotify (scrWrite s bk off bs poi) bk

/-- Write an arrival word as one step. -/
def arrPut (s : State) (bk off : Nat) (w : ArrWord) : State := scrStore s bk off (arrBytes w) false

end Sys2Proof.Machine
end

