-- ==== Sys2Proof/Machine/Formats.lean ====
section
/-! DEFINITION. Number formats and rounding (R154, R275 to R286): exact values, what a pattern stands for, and the nearest
pattern of an exact value. -/

namespace Sys2Proof.Machine

/-- An exact value: a NaN or NaR, an infinity, or (−1)^s · m · 2^e, zero with its sign. -/
inductive FV where
  | nan
  | inf (s : Bool)
  | fin (s : Bool) (m : Nat) (e : Int)
  deriving DecidableEq, Repr

/-- 2 to an integer power times a number, as a fraction. -/
def scale2 (n : Nat) (e : Int) : Nat × Nat := if 0 ≤ e then (n * 2 ^ e.toNat, 1) else (n, 2 ^ (-e).toNat)

/-- A fraction rounded to the nearest integer, ties to even. -/
def rneDiv (n d : Nat) : Nat :=
  let q := n / d
  let r := n % d
  if 2 * r < d then q else if d < 2 * r then q + 1 else q + q % 2

/-- The greatest l with 2^l ≤ n / d. -/
def log2Frac (n d : Nat) : Int :=
  let l : Int := (n.log2 : Int) - d.log2
  let (a, b) := scale2 d l
  if a ≤ n * b then l else l - 1

/-- An integer as an exact value. -/
def FV.ofInt (v : Int) : FV := .fin (decide (v < 0)) v.natAbs 0

/-! ## IEEE formats (R276) -/

/-- An IEEE format: significand bits, exponent field width. -/
structure Ieee where
  p  : Nat
  ew : Nat
  deriving DecidableEq, Repr

/-- F32. -/
def ieee32 : Ieee := ⟨24, 8⟩
/-- F64. -/
def ieee64 : Ieee := ⟨53, 11⟩

/-- The IEEE format of a type; 32-bit unless F64. -/
def ieeeOf (t : Ty) : Ieee := if t = .f64 then ieee64 else ieee32

/-- The exponent of the last place of a subnormal. -/
def Ieee.qmin (f : Ieee) : Int := -(2 ^ (f.ew - 1) : Nat) - (f.p : Int) + 3

/-- The largest exponent field: infinities and NaNs. -/
def Ieee.top (f : Ieee) : Nat := 2 ^ f.ew - 1

/-- The sign bit's weight. -/
def Ieee.sgn (f : Ieee) (s : Bool) : Nat := b2n s * 2 ^ (f.p - 1 + f.ew)

/-- ±∞. -/
def Ieee.infBits (f : Ieee) (s : Bool) : Nat := f.sgn s + f.top * 2 ^ (f.p - 1)

/-- The canonical NaN. -/
def Ieee.nanBits (f : Ieee) : Nat := f.top * 2 ^ (f.p - 1) + 2 ^ (f.p - 2)

/-- What a pattern stands for. -/
def Ieee.dec (f : Ieee) (x : Nat) : FV :=
  let s := bitOf x (f.p - 1 + f.ew)
  let e := bitsOf x (f.p - 2 + f.ew) (f.p - 1)
  let m := x % 2 ^ (f.p - 1)
  if e = f.top then (if m = 0 then .inf s else .nan)
  else if e = 0 then .fin s m f.qmin
  else .fin s (m + 2 ^ (f.p - 1)) (f.qmin + e - 1)

/-- The pattern of n units of 2^q, n at most 2^p, where q is qmin or n is at least 2^(p−1): overflow gives ±∞. -/
def Ieee.pack (f : Ieee) (s : Bool) (n : Nat) (q : Int) : Nat :=
  let (n, q) := if n = 2 ^ f.p then (2 ^ (f.p - 1), q + 1) else (n, q)
  let x := (q - f.qmin).toNat * 2 ^ (f.p - 1) + n
  if f.top * 2 ^ (f.p - 1) ≤ x then f.infBits s else f.sgn s + x

/-- The exponent of the last place where n / d · 2^e is rounded. -/
def Ieee.grid (f : Ieee) (n d : Nat) (e : Int) : Int := max f.qmin (log2Frac n d + e - (f.p - 1))

/-- round_rne of (−1)^s · n / d · 2^e (R154, R281). -/
def Ieee.roundQ (f : Ieee) (s : Bool) (n d : Nat) (e : Int) : Nat :=
  if n = 0 then f.sgn s
  else
    let q := f.grid n d e
    let (a, b) := scale2 n (e - q)
    f.pack s (rneDiv a (d * b)) q

/-- round_rne of an exact value (R154, R281). -/
def Ieee.round (f : Ieee) : FV → Nat
  | .nan => f.nanBits
  | .inf s => f.infBits s
  | .fin s m e => f.roundQ s m 1 e

/-! ## Tapered formats (R277, R282) -/

/-- Width and exponent width of a tapered type. -/
def taperOf : Ty → Nat × Nat
  | .t6 => (6, 1) | .t8 => (8, 1) | _ => (16, 2)

/-- Length of the run of bits equal to b from bit i − 1 downward. -/
def runLen (y : Nat) (b : Bool) : Nat → Nat
  | 0 => 0
  | i + 1 => if bitOf y i = b then runLen y b i + 1 else 0

/-- The decode of R277. -/
def taperDec (n es x : Nat) : FV :=
  let x := x % 2 ^ n
  if x = 0 then .fin false 0 0
  else if x = 2 ^ (n - 1) then .nan
  else
    let s := bitOf x (n - 1)
    let y := if s then (2 ^ n - x) % 2 ^ n else x
    let fb := bitOf y (n - 2)
    let m := runLen y fb (n - 1)
    let k : Int := if fb then (m : Int) - 1 else -(m : Int)
    let left := n - 1 - m - 1
    let el := min es left
    let e := bitsOf y (left - 1) (left - el) % 2 ^ el * 2 ^ (es - el)
    let fl := left - el
    .fin s (2 ^ fl + y % 2 ^ fl) (k * (2 ^ es : Nat) + e - fl)

/-- The encoding of R282: the leading n − 1 bits of the pattern string, rounded by the rest, ties to an even pattern. -/
def taperEnc (n es : Nat) : FV → Nat
  | .nan => 2 ^ (n - 1)
  | .inf s => let mag := 2 ^ (n - 1) - 1; if s then 2 ^ n - mag else mag
  | .fin _ 0 _ => 0
  | .fin s m e =>
    let l := m.log2
    let x : Int := (l : Int) + e
    let k := x.fdiv (2 ^ es : Nat)
    let ee := (x.fmod (2 ^ es : Nat)).toNat
    let mag : Nat :=
      if (n : Int) ≤ k then 2 ^ (n - 1) - 1
      else if k < -(n : Int) then 1
      else
        let (pre, len) : Nat × Nat := if 0 ≤ k then ((2 ^ (k.toNat + 1) - 1) * 2, k.toNat + 2) else (1, (-k).toNat + 1)
        let str := (pre * 2 ^ es + ee) * 2 ^ l + (m - 2 ^ l)
        let total := len + es + l
        if total ≤ n - 1 then str * 2 ^ (n - 1 - total) else rneDiv str (2 ^ (total - (n - 1)))
    let mag := min (max mag 1) (2 ^ (n - 1) - 1)
    if s then 2 ^ n - mag else mag

/-! ## scale16 (R280, R283) -/

/-- The decode of R280. -/
def scDec (x : Nat) : FV :=
  let e := bitsOf x 14 7
  if e = 255 then .nan
  else if e = 0 then .fin (bitOf x 15) 0 0
  else .fin (bitOf x 15) (128 + x % 128) (e - 127 - 7)

/-- The encoding of R283. -/
def scEnc : FV → Nat
  | .nan => 0x7FC0
  | .inf s => b2n s * 0x8000 + 0x7F7F
  | .fin s m e =>
    let sg := b2n s * 0x8000
    if m = 0 then sg
    else if log2Frac m 1 + e < -126 then
      (let (a, b) := scale2 m (e + 127)
       if b < a then sg + 0x80 else sg)
    else
      let q := log2Frac m 1 + e - 7
      let (a, b) := scale2 m (e - q)
      let n := rneDiv a b
      let (n, q) := if n = 256 then (128, q + 1) else (n, q)
      if 120 < q then sg + 0x7F7F else sg + (q + 134).toNat * 128 + (n - 128)

/-! ## Conversions (R284) -/

/-- What an element of a type stands for. -/
def decTy (t : Ty) (x : W64) : FV :=
  match t with
  | .f32 => ieee32.dec (x.toNat % 2 ^ 32)
  | .f64 => ieee64.dec x.toNat
  | .t6 | .t8 | .t16 => taperDec (taperOf t).1 (taperOf t).2 x.toNat
  | .sc16 => scDec (x.toNat % 2 ^ 16)
  | t => let w := 8 * tyBytes t; FV.ofInt (intOf (tySigned t) (x.setWidth w))

/-- An exact value in a float, tapered or scale16 type (R284). -/
def encTy (t : Ty) (v : FV) : Nat :=
  match t with
  | .t6 | .t8 | .t16 => taperEnc (taperOf t).1 (taperOf t).2 v
  | .sc16 => scEnc v
  | t => (ieeeOf t).round v

/-- The nearest integer, ties to even. -/
def rneInt (s : Bool) (m : Nat) (e : Int) : Int :=
  let (a, b) := scale2 m e
  let n : Int := rneDiv a b
  if s then -n else n

/-- An exact value in an integer type, clamped or wrapped (R284). -/
def encInt (t : Ty) (wrap : Bool) (v : FV) : W64 :=
  let w := 8 * tyBytes t
  let g := tySigned t
  match v with
  | .nan => 0
  | .inf s => if wrap then 0 else (BitVec.ofInt w (if s then minOf g w else maxOf g w)).setWidth 64
  | .fin s m e => (narrow (!wrap) g w (rneInt s m e)).setWidth 64

/-- A converted element as its register holds it: narrow signed types sign-extend (R259, R284). -/
def regOf (t : Ty) (x : Nat) : W64 := extend (tySigned t) (tyBytes t) x

/-! ## Exact arithmetic (R154, R156) -/

/-- Bring a value's digits to an exponent at or below its own. -/
def digitsAt (s : Bool) (m : Nat) (e q : Int) : Int :=
  let n : Int := (m * 2 ^ (e - q).toNat : Nat)
  if s then -n else n

/-- The exact sum; an exact zero is +0 unless both are −0. -/
def FV.add : FV → FV → FV
  | .nan, _ | _, .nan => .nan
  | .inf s, .inf t => if s = t then .inf s else .nan
  | .inf s, _ => .inf s
  | _, .inf s => .inf s
  | .fin s m e, .fin t n f =>
    if m = 0 ∧ n = 0 then .fin (s && t) 0 0
    else if m = 0 then .fin t n f
    else if n = 0 then .fin s m e
    else
      let q := min e f
      let v := digitsAt s m e q + digitsAt t n f q
      .fin (decide (v < 0)) v.natAbs q

/-- The exact product. -/
def FV.mul : FV → FV → FV
  | .nan, _ | _, .nan => .nan
  | .inf s, .inf t => .inf (s != t)
  | .inf s, .fin t n _ => if n = 0 then .nan else .inf (s != t)
  | .fin s m _, .inf t => if m = 0 then .nan else .inf (s != t)
  | .fin s m e, .fin t n f => .fin (s != t) (m * n) (e + f)

/-- The opposite value. -/
def FV.neg : FV → FV
  | .nan => .nan
  | .inf s => .inf (!s)
  | .fin s m e => .fin (!s) m e

/-- Whether a value is a NaN or NaR. -/
def FV.isNan : FV → Bool
  | .nan => true
  | _ => false

/-- Order of two values that are no NaN, with −0 equal to +0. -/
def FV.lt : FV → FV → Bool
  | .nan, _ | _, .nan => false
  | .inf s, .inf t => s && !t
  | .inf s, .fin _ _ _ => s
  | .fin _ _ _, .inf t => !t
  | .fin s m e, .fin t n f =>
    let q := min e f
    decide (digitsAt s m e q < digitsAt t n f q)

/-- round(a / b) (R155, R156). -/
def divF (f : Ieee) (a b : FV) : Nat :=
  match a, b with
  | .nan, _ | _, .nan => f.nanBits
  | .inf _, .inf _ => f.nanBits
  | .inf s, .fin t _ _ => f.infBits (s != t)
  | .fin s _ _, .inf t => f.sgn (s != t)
  | .fin s m e, .fin t n g =>
    if n = 0 then (if m = 0 then f.nanBits else f.infBits (s != t))
    else f.roundQ (s != t) m n (e - g)

/-- The integer square root, bit by bit from bit k − 1. -/
def isqrtBits (n : Nat) : Nat → Nat → Nat
  | 0, r => r
  | k + 1, r => let c := r + 2 ^ k; isqrtBits n k (if c * c ≤ n then c else r)

/-- The integer square root. -/
def isqrt (n : Nat) : Nat := isqrtBits n (n.log2 / 2 + 1) 0

/-- √(n / d) rounded to the nearest integer, ties to even. -/
def rneSqrt (n d : Nat) : Nat :=
  let r := isqrt (n / d)
  let m := (2 * r + 1) * (2 * r + 1) * d
  if 4 * n < m then r else if m < 4 * n then r + 1 else r + r % 2

/-- round of the square root of n / d · 2^e with n nonzero. -/
def Ieee.roundSqrt (f : Ieee) (n d : Nat) (e : Int) : Nat :=
  let l := (log2Frac n d + e).fdiv 2
  let q := max f.qmin (l - (f.p - 1))
  let (a, b) := scale2 n (e - 2 * q)
  f.pack false (rneSqrt a (d * b)) q

/-- FSQRT (R155, R156). -/
def sqrtF (f : Ieee) (a : FV) : Nat :=
  match a with
  | .nan => f.nanBits
  | .inf s => if s then f.nanBits else f.infBits false
  | .fin s m e => if m = 0 then f.sgn s else if s then f.nanBits else f.roundSqrt m 1 e

/-- FRSQ (R155, R156). -/
def rsqF (f : Ieee) (a : FV) : Nat :=
  match a with
  | .nan => f.nanBits
  | .inf s => if s then f.nanBits else 0
  | .fin s m e => if m = 0 then f.infBits s else if s then f.nanBits else f.roundSqrt 1 m (-e)

/-! ## Powers and logarithms (log 7) -/

/-- Fraction bits of the evaluation of FEXP2. -/
def expBits : Nat := 320

/-- ln 2 in units of 2^−320: the sum of 1 / (k · 2^k). -/
def ln2Fix : Nat := (List.range 330).foldl (fun a k => a + 2 ^ expBits / ((k + 1) * 2 ^ (k + 1))) 0

/-- 2^x for x in units of 2^−320 below 1: the series of exp (x · ln 2). -/
def exp2Fix (x : Nat) : Nat :=
  let y := x * ln2Fix / 2 ^ expBits
  ((List.range 80).foldl (fun (p : Nat × Nat) k =>
    let t := p.2 * y / (2 ^ expBits * (k + 1))
    (p.1 + t, t)) (2 ^ expBits, 2 ^ expBits)).1

/-- FEXP2 (R155, R156): exact for integers, else the series, whose error is far below what rounding can see. -/
def exp2F (f : Ieee) (a : FV) : Nat :=
  match a with
  | .nan => f.nanBits
  | .inf s => if s then 0 else f.infBits false
  | .fin s m e =>
    if (12 : Int) < (m.log2 : Int) + e ∧ m ≠ 0 then (if s then 0 else f.infBits false)
    else
      let x := digitsAt s m (e + expBits) (min 0 (e + expBits))
      let x := x.fdiv (2 ^ (-(min 0 (e + expBits))).toNat : Nat)
      let n := x.fdiv (2 ^ expBits : Nat)
      let r := (x.fmod (2 ^ expBits : Nat)).toNat
      if r = 0 then f.roundQ false 1 1 n
      else f.roundQ false (2 * exp2Fix r + 1) 1 (n - expBits - 1)

/-- Fraction bits of the result of FLOG2. -/
def logBits : Nat := 300

/-- Bits of the logarithm of y / 2^700 in [1, 2), by squaring. -/
def log2Fix : Nat → Nat → Nat → Nat
  | 0, _, r => r
  | k + 1, y, r =>
    let z := y * y / 2 ^ 700
    if 2 ^ 701 ≤ z then log2Fix k (z / 2) (2 * r + 1) else log2Fix k z (2 * r)

/-- FLOG2 (R155, R156): exact for powers of two, else 300 bits and a half unit. -/
def log2F (f : Ieee) (a : FV) : Nat :=
  match a with
  | .nan => f.nanBits
  | .inf s => if s then f.nanBits else f.infBits false
  | .fin s m e =>
    if m = 0 then f.infBits true
    else if s then f.nanBits
    else
      let l := m.log2
      let n : Int := (l : Int) + e
      if m = 2 ^ l then f.round (FV.ofInt n)
      else
        let v : Int := n * (2 ^ (logBits + 1) : Nat) + (2 * log2Fix logBits (m * 2 ^ 700 / 2 ^ l) 0 + 1 : Nat)
        f.roundQ (decide (v < 0)) v.natAbs 1 (-(logBits : Int) - 1)

/-! ## Planes (R285, R286) -/

/-- A plane element: sign, exponent, and p planes with plane 0 as the leading bit. -/
structure PlaneEl where
  s : Bool
  e : Nat
  m : Nat
  deriving DecidableEq, Repr

/-- The decode of R286 to p planes. -/
def planeDec (p : Nat) (v : FV) : PlaneEl :=
  match v with
  | .nan => ⟨false, 0x7FF, 2 ^ (p - 1)⟩
  | .inf s => ⟨s, 0x7FF, 0⟩
  | .fin s m e =>
    if m = 0 then ⟨s, 0, 0⟩
    else
      let q := max (-1022 - ((p : Int) - 1)) ((m.log2 : Int) + e - (p - 1))
      let (a, b) := scale2 m (e - q)
      let n := rneDiv a b
      let (n, q) := if n = 2 ^ p then (2 ^ (p - 1), q + 1) else (n, q)
      if n < 2 ^ (p - 1) then ⟨s, 0, n⟩
      else
        let x := q + (p - 1) + 1023
        if 0x7FF ≤ x then ⟨s, 0x7FF, 0⟩ else ⟨s, x.toNat, n⟩

/-- The value of a plane element of p planes (R285). -/
def PlaneEl.val (x : PlaneEl) (p : Nat) : FV :=
  if x.e = 0x7FF then (if x.m = 0 then .inf x.s else .nan)
  else .fin x.s x.m ((max x.e 1 : Nat) - 1023 - ((p : Int) - 1))

/-- The bits of a plane element: S, E, PL from the top (R285). -/
def PlaneEl.bits (x : PlaneEl) (p : Nat) : Nat := (b2n x.s * 2 ^ 11 + x.e) * 2 ^ p + x.m

/-- A plane element from its bits. -/
def PlaneEl.ofBits (v p : Nat) : PlaneEl := ⟨bitOf v (p + 11), v / 2 ^ p % 2 ^ 11, v % 2 ^ p⟩

/-- The sum of exact values with the special cases of R288: a NaN, or opposite infinities, give NaN; an exact zero is +0
unless every term is −0. -/
def sumFV (l : List FV) : FV :=
  match l with
  | [] => .fin false 0 0
  | x :: r => r.foldl FV.add x

end Sys2Proof.Machine
end

