-- ==== Sys2Proof/Machine/Lanes.lean ====
section
/-! DEFINITION. What register instructions share: reading sources and writing a destination in a context (R139, R27) and in
the active lanes (R140, R141), with the residue check and the cloning of R187 to R190. -/

namespace Sys2Proof.Machine

/-- An element operation at the width of a type (R140). -/
def un (t : Ty) (f : (w : Nat) → BitVec w → BitVec w) (a : W64) : W64 :=
  let w := tyW t
  (f w (a.setWidth w)).setWidth 64

/-- A two-operand element operation at the width of a type. -/
def bin (t : Ty) (f : (w : Nat) → BitVec w → BitVec w → BitVec w) (a b : W64) : W64 :=
  let w := tyW t
  (f w (a.setWidth w) (b.setWidth w)).setWidth 64

/-! ## Contexts -/

/-- Check the sources and the destination of a context's instruction, and go on (R112, R113, R139, R195). -/
def ctxReady (s : State) (h : Hdr) (srcs : List (Nat × Src)) (d : Option Opd) (k : Nat → Ctx → Act) : Act :=
  atCtx s h (fun ck c =>
    match checkAll s s.cur.u (Hdr.lv h) 0 (usesOf 1 1 srcs) ((d.toList.map (fun o => (⟨o, 1, 0⟩ : DUse)))) with
    | some a => a
    | none => k ck c)

/-- The value of a context's source. -/
def ctxVal (s : State) (h : Hdr) (imm : W64) (a : Src) : W64 := opdVal s s.cur.u (Hdr.lv h) 2 0 imm a.o

/-- Write an own scalar, full and logged, or wait for room in the log (R27). -/
def putScal (s : State) (ck : Nat) (c : Ctx) (d : Opd) (v : W64) : Act :=
  match d with
  | .scal _ r => if c.logRoom then .next (s.updCtx ck (fun c => c.write r ⟨v, true, false⟩)) else .wait
  | _ => .next s

/-- A scalar instruction of sources and a value (R139, R144). -/
def scalRun (s : State) (h : Hdr) (srcs : List Src) (d : Opd) (imm : W64) (f : List W64 → W64) : Act :=
  ctxReady s h (srcs.zipIdx.map (fun p => (p.2 + 1, p.1))) (some d) (fun ck c => putScal s ck c d (f (srcs.map (ctxVal s h imm))))

/-! ## Lanes -/

/-- Write the value of each active lane to a destination of n registers. -/
def writeLanes (s : State) (gk : Nat) (d : Opd) (n : Nat) (m : Lanes) (v : Nat → W64) : State :=
  s.updGrp gk (fun g => (lanesOf m).foldl (fun g i => g.setDst d n i (v i) false) g)

/-- The residue check of a checked instruction (R187), an upset of the surroundings (log 15). -/
def residueHit (s : State) (gk : Nat) (m : Lanes) : Option (Upset × Lanes) :=
  s.upsets.findSome? (fun x => match x with
    | .residue k l => if k = gk ∧ l &&& m ≠ 0 then some (x, l &&& m) else none
    | _ => none)

/-- An in-lane clone that differs (R189), an upset of the surroundings (log 15). -/
def cloneHit (s : State) (gk : Nat) (m : Lanes) : Option (Upset × Lanes) :=
  s.upsets.findSome? (fun x => match x with
    | .cloneNow k l => if k = gk ∧ l &&& m ≠ 0 then some (x, l &&& m) else none
    | _ => none)

/-- The number under which an event of a quarter is counted (R217). -/
def evQuarter (ev q : Nat) : Nat := ev + 16 * q

/-- The values that an operand holds in some lanes, two registers of it: what a replay entry keeps. An immediate counts as its field. -/
def replayVal (s : State) (m : Lanes) (o : Opd) : List W64 :=
  (lanesOf m).map (fun i => opdVal s s.cur.u 0 2 i ((Decode.wImm s.cur.insn).setWidth 64) o)

/-- The entry of an instruction that has committed (R189): its sources as read in `s`, in every lane, since a shuffle reads inactive ones too
(R151), and its results as they stand in `t`. -/
def replayEnt (s t : State) (gk : Nat) (m : Lanes) : Replay :=
  let i := (Decode.decode s.cur.insn).toOption
  ⟨gk, s.cur.ia, s.cur.insn, m, ((i.map srcsOf).getD []).map (fun p => replayVal s (BitVec.allOnes 32) p.2.o),
   match i.bind dstOf with | some d => replayVal t m d | none => []⟩

/-- The replay queue of a group's quarter (R189). -/
def replayQueue (s : State) (g : Group) : List Replay := (nth? (s.core (coreOfGrp s g)).replay (g.slot % 4)).getD []

/-- Whether a lane instruction passes the residue check and the checking mode of its group, and the state in which it commits, the event
of its check counted (R187 to R190). -/
def gate (s : State) (gk : Nat) (g : Group) (m : Lanes) (resid : Bool) : Act :=
  match (if resid then residueHit s gk m else none) with
  | some (x, l) => .fault { s with upsets := s.upsets.erase x } { FaultReq.mk0 0x32 0 with lanes := l, opf := 0x08 }
  | none =>
    let count := fun (ev : Nat) => Act.next (s.count (coreOfGrp s g) ev 1)
    if g.chk = 0 then .next s
    else if laneCount m ≤ 16 then
      match cloneHit s gk m with
      | some (x, l) => flt { s with upsets := s.upsets.erase x } 0x31 0 l
      | none => count 1
    else if (replayQueue s g).length < 8 then count (evQuarter 2 (g.slot % 4))
    else if g.chk = 2 then .wait
    else count (evQuarter 3 (g.slot % 4))

/-- The state `t` of a lane instruction that has committed, with the entry that the replay queue takes for it (R189). -/
def logged (s : State) (gk : Nat) (g : Group) (m : Lanes) (t : State) : State :=
  if g.chk ≠ 0 ∧ 16 < laneCount m ∧ (replayQueue s g).length < 8 then
    t.updCore (coreOfGrp s g) (fun c =>
      { c with replay := setNth c.replay (g.slot % 4) (replayQueue s g ++ [replayEnt s t gk m]) })
  else t

/-- Commit a lane instruction of groups 0x4 to 0x7 under the residue check and its group's checking mode (R187 to R190). -/
def checked (s : State) (gk : Nat) (g : Group) (m : Lanes) (resid : Bool) (k : State → State) : Act :=
  match gate s gk g m resid with
  | .next u => .next (logged s gk g m (k u))
  | x => x

/-- Check the sources and the destination of a lane instruction, then commit it under R187 to R190. -/
def laneReady (s : State) (h : Hdr) (uses : Lanes → List Use) (d : Opd) (dn : Nat) (resid : Bool)
    (k : State → Nat → Group → Lanes → State) : Act :=
  atLanes s h (fun gk g m =>
    match checkAll s s.cur.u 0 m (uses m) [⟨d, dn, m⟩] with
    | some a => a
    | none => checked s gk g m resid (fun s => k s gk g m))

/-- The value of a source of n registers in a lane. -/
def laneVal (s : State) (n lane : Nat) (imm : W64) (a : Src) : W64 := opdVal s s.cur.u 0 n lane imm a.o

/-- A lane instruction whose result in a lane depends on that lane's operands alone (R140, R141). `dn` registers are
written. -/
def laneRun (s : State) (h : Hdr) (n dn : Nat) (srcs : List Src) (d : Opd) (imm : W64) (resid : Bool)
    (f : List W64 → W64) : Act :=
  laneReady s h (fun m => usesOf m n (srcs.zipIdx.map (fun p => (p.2 + 1, p.1)))) d dn resid
    (fun s gk _ m => writeLanes s gk d dn m (fun i => f (srcs.map (laneVal s n i imm))))

/-- The predicate form: pD is written in each active lane. -/
def lanePred (s : State) (h : Hdr) (n : Nat) (srcs : List Src) (d : Opd) (imm : W64) (f : List W64 → Bool) : Act :=
  laneReady s h (fun m => usesOf m n (srcs.zipIdx.map (fun p => (p.2 + 1, p.1)))) d 1 false
    (fun s gk _ m => match d with
      | .pred p => s.updGrp gk (fun g => g.setPred p m (maskOf (fun i => f (srcs.map (laneVal s n i imm)))))
      | _ => s)

/-- The first and second of a list of values. -/
def v0 (l : List W64) : W64 := l.headD 0
/-- The second value. -/
def v1 (l : List W64) : W64 := (l.drop 1).headD 0
/-- The third value. -/
def v2 (l : List W64) : W64 := (l.drop 2).headD 0

end Sys2Proof.Machine
end

