-- ==== Sys2Proof/Machine/Memory.lean ====
section
/-! DEFINITION. The memory instructions (R258 to R271): addresses, the choice of one fault among the lanes, and the accesses
that enter the pending sets (R243 step 1). -/

namespace Sys2Proof.Machine

/-! ## Shared pieces -/

/-- The scope of an instruction: LVL resolves to its level's, and a scratchpad scope wider than BAND acts as BAND (R261). -/
def scopeOf (s : State) (lev : Nat) (sc : BitVec 3) (scr : Bool) : Nat :=
  let v := if sc.toNat = 7 then ((s.lrec (gcOf s s.cur.u)).lvl lev).scope else sc.toNat
  if scr then min v 2 else v

/-- The operand `k` registers further on. -/
def opdPlus (k : Nat) : Opd → Opd
  | .vec r => .vec (r + BitVec.ofNat 8 k)
  | .near r => .near (r + BitVec.ofNat 3 k)
  | .scal l r => .scal l (r + BitVec.ofNat 5 k)
  | o => o

/-- An index operand as 64 bits: a register as signed, a scalar whole, none as 0 (R260). -/
def indexVal (s : State) (lev lane : Nat) (o : Opd) : W64 :=
  match o with
  | .vec _ | .near _ => (lo32 (opdVal s s.cur.u lev 1 lane 0 o)).signExtend 64
  | .scal _ _ => opdVal s s.cur.u lev 2 lane 0 o
  | _ => 0

/-- The global address of a lane, or of a context (R260). -/
def globalEa (s : State) (lev : Nat) (m : OpM) (idx : Bool) (lane : Nat) : W64 :=
  opdVal s s.cur.u lev 2 lane 0 m.a.o + (if idx then indexVal s lev lane m.b.o else 0) + m.off.signExtend 64

/-- The scratchpad offset of a lane, exact (R260, R224). -/
def scrEa (s : State) (m : OpM) (lane : Nat) : Int :=
  ((lo32 (opdVal s s.cur.u 0 2 lane 0 m.a.o)).toNat : Int) + m.off.toInt

/-- The bytes of a data operand of a type (R259, R265). -/
def dataBytes (s : State) (lev lane : Nat) (t : Ty) (o : Opd) : List Byte :=
  if t = .none then
    ((List.range 4).map (fun k => leBytes 4 (lo32 (opdVal s s.cur.u lev 1 lane 0 (opdPlus k o))).toNat)).flatten
  else leBytes (tyBytes t) (opdVal s s.cur.u lev 2 lane 0 o).toNat

/-- A word's lanes in a record: none above L0. -/
def laneBit (lev lane : Nat) : Lanes := if lev = 0 then BitVec.twoPow 32 lane else 0

/-- The fault that some accesses of an instruction meet: their lanes, the first one's address, and the range of all (R168,
R171). Addresses are 64-bit values. -/
def accFault (s : State) (code lev : Nat) (d : AccDesc) (bad all : List (Nat × Nat)) : Act :=
  .fault s (memFault code lev (bad.foldl (fun m p => m ||| laneBit lev p.1) 0) d ((bad.head?.map (·.2)).getD 0)
    ((all.map (·.2)).foldl min ((all.head?.map (·.2)).getD 0)) (maxL (all.map (·.2))))

/-- log2 of the size of the page that maps an address, as the caches or the tables say now; of one that nothing maps, that of the smallest
page (log 8). -/
def pageLog (s : State) (u : UnitRef) (va : Nat) : Nat :=
  let t := s.task (gcOf s u)
  match coreTlb s (placeOf s u) t.space va, clusTlb s (placeOf s u) t.space va with
  | some e, _ => e.bits
  | none, some e => e.bits
  | none, none => match walk s t.space t.top va with | (.leaf e, _) => e.bits | (.fail _, _) => 16

/-- Translate the distinct pages of an instruction's accesses, at the size of the entries that map them: one look-up each (R237). -/
def xlate (s : State) (u : UnitRef) (need : Need) (es : List (Nat × Nat)) : List (Nat × Except Nat Nat) × State :=
  let r := es.foldl (fun (x : List (Nat × Except Nat Nat) × List ((Nat × Nat) × Except Nat Nat) × State) p =>
    let (out, memo, s) := x
    match memo.find? (fun q => p.2 / 2 ^ q.1.2 == q.1.1) with
    | some (k, .ok base) => (out ++ [(p.1, .ok (base + p.2 % 2 ^ k.2))], memo, s)
    | some (_, .error c) => (out ++ [(p.1, .error c)], memo, s)
    | none =>
      let n := pageLog s u p.2
      let (e, s) := transOne s u p.2 need
      let b : Except Nat Nat := e.map (fun pa => pa - p.2 % 2 ^ n)
      (out ++ [(p.1, e)], ((p.2 / 2 ^ n, n), b) :: memo, s)) ([], [], s)
  (r.1, r.2.2)

/-- The checks of a global access after those of its registers: address form, alignment, translation and poison, each over
every lane, in the order of R168. `deny` names the physical addresses that R269 refuses. -/
def globalGo (s : State) (lev : Nat) (d : AccDesc) (al : Nat) (need : Need) (es : List (Nat × W64)) (uses : List Use)
    (deny : Nat → Bool) (k : State → List (Nat × Nat) → Act) : Act :=
  let ns := es.map (fun p => (p.1, p.2.toNat))
  let f := fun (t : State) (code : Nat) (l : List (Nat × Nat)) => accFault t code lev d l ns
  match ns.filter (fun p => !vaOk (BitVec.ofNat 64 p.2)), ns.filter (fun p => p.2 % al != 0) with
  | x :: xs, _ => f s 0x22 (x :: xs)
  | [], x :: xs => f s 0x12 (x :: xs)
  | [], [] =>
    let (rs, t) := xlate s s.cur.u need ns
    let hit := fun (c : Nat) => ns.filter (fun p => rs.any (fun r => r.1 == p.1 && (match r.2 with
      | .error e => e == c
      | .ok pa => c == 0x21 && deny pa)))
    match hit 0x20, hit 0x21 with
    | x :: xs, _ => f t 0x20 (x :: xs)
    | [], x :: xs => f t 0x21 (x :: xs)
    | [], [] =>
      match checkPoison t t.cur.u lev uses with
      | some a => a
      | none => k t (rs.filterMap (fun r => match r.2 with | .ok pa => some (r.1, pa) | .error _ => none))

/-- The checks of a scratchpad access: alignment, bounds and poison (R168, R224). -/
def scrGo (s : State) (d : AccDesc) (al : Nat) (es : List (Nat × Int)) (uses : List Use) (k : List (Nat × Nat) → Act) : Act :=
  let size : Int := 1024 * (s.lrec (gcOf s s.cur.u)).scrg
  let n := fun (v : Int) => (BitVec.ofInt 64 v).toNat
  let lo := (es.map (·.2)).foldl min ((es.head?.map (·.2)).getD 0)
  let hi := (es.map (·.2)).foldl max ((es.head?.map (·.2)).getD 0)
  let f := fun (code : Nat) (l : List (Nat × Int)) =>
    Act.fault s (memFault code 0 (l.foldl (fun m p => m ||| laneBit 0 p.1) 0) d (n ((l.head?.map (·.2)).getD 0)) (n lo) (n hi))
  match es.filter (fun (p : Nat × Int) => p.2 % (al : Int) != 0), es.filter (fun (p : Nat × Int) => decide (p.2 < 0) || decide (size < p.2 + d.width)) with
  | x :: xs, _ => f 0x12 (x :: xs)
  | [], x :: xs => f 0x11 (x :: xs)
  | [], [] =>
    match checkPoison s s.cur.u 0 uses with
    | some a => a
    | none => k (es.map (fun p => (p.1, p.2.toNat)))

/-- The split that issues, as the mask of its accesses (R249). -/
def splitMask (s : State) (g : Group) : Lanes := match curSplit s g with | some x => x.mask &&& g.live | none => g.live

/-- A home atomic makes its bytes unheld in its core's view when it issues (R230, R248). -/
def unholdAtomics (s : State) (l : List Access) : State :=
  l.foldl (fun s a => match a.loc, a.core with
    | .mem pa, some c => if homeAtomic a then unhold s c pa a.width else s
    | _, _ => s) s

/-- Issue the accesses of an instruction (R243 step 1). -/
def issueAccs (s : State) (l : List Access) : State := unholdAtomics (s.addAccs l) l

/-- Mark a load's destination empty in some lanes (R110). -/
def emptyDest (s : State) (gk : Nat) (d : Opd) (t : Ty) (m : Lanes) : State :=
  match d with
  | .vec r => s.updGrp gk (fun g => (lanesOf m).foldl (fun g i => (List.range (tyRegs t)).foldl (fun g k => g.emptyV (r.toNat + k) i) g) g)
  | _ => s

/-- Where the value of a lane of a load goes. -/
def laneDest (gk lane : Nat) (d : Opd) (t : Ty) : Dest := match d with | .vec r => .vec gk r.toNat lane t | _ => .none

/-- Mark a context's destination empty and log the mark and the write that will follow (R27, R110), or wait for room in the log. Both records
are made at issue, in the entry that an undo of the instruction undoes: the write's own says that the scalar was empty (log 23). -/
def emptyScal (s : State) (ck : Nat) (c : Ctx) (d : Opd) (k : State → BitVec 5 → Act) : Act :=
  match d with
  | .scal _ r =>
    let void : Cell := ⟨(c.cell r).v, false, false⟩
    let c' := c.write r void
    if c.logRoom ∧ c'.logRoom then k (s.updCtx ck (fun c => (c.write r void).write r void)) r else .wait
  | _ => .next s

/-- The band whose scratchpad a group uses. -/
def scrLoc (g : Group) (off : Nat) : Loc := .scr (bandKey g.gc g.b) off

/-- Passes of a scratchpad access (R223): parts of the lanes, distinct words in each bank of a part. `alone` says that lanes
on one word do not share its pass (R267). -/
def scrPasses (w : Nat) (es : List (Nat × Nat)) (alone : Bool) : Nat :=
  let per := if w ≤ 4 then 32 else if w ≤ 8 then 16 else 8
  sumL ((List.range (32 / per)).map (fun p =>
    let words := ((es.filter (fun e => e.1 / per == p)).map (fun e =>
      (List.range (max 1 (w / 4))).map (fun i => e.2 / 4 + i))).flatten
    let words := if alone then words else words.dedup
    maxL ((List.range 32).map (fun b => (words.filter (fun x => x % 32 == b)).length))))

/-- Count the passes beyond the first in event 0x06 (R217, R223). -/
def countPasses (s : State) (g : Group) (w : Nat) (es : List (Nat × Nat)) (alone : Bool) : State :=
  s.count (coreOfGrp s g) 6 (scrPasses w es alone - 1)

/-! ## Loads (R262 to R264) -/

/-- Uses of an address operand and its index. -/
def addrUses (m : OpM) (act : Lanes) (n : Nat) (idx : Bool) : List Use :=
  usesOf act n [(1, m.a)] ++ (if idx then usesOf act 1 [(2, m.b)] else [])

/-- LD and LDK in the active lanes. -/
def loadAct (s : State) (h : Hdr) (m : OpM) (konst : Bool) : Act :=
  atLanes s h (fun gk g act =>
    let us := addrUses m act 2 true
    match checkUses s s.cur.u 0 act us [⟨m.d, tyRegs m.t, act⟩] with
    | some a => a
    | none =>
      let sc := scopeOf s 0 m.sc false
      let w := tyBytes m.t
      globalGo s 0 ⟨w, sc, false, false⟩ w .read ((lanesOf act).map (fun i => (i, globalEa s 0 m true i))) us (fun _ => false)
        (fun s ps =>
          let s := emptyDest s gk m.d m.t act
          .next (issueAccs s (ps.map (fun p =>
            let win := !isMem s.floor p.2
            { mkAcc s s.cur.u (laneBit 0 p.1) (splitMask s g) (locOf s.floor p.2) w .read m.ord
                (if konst && win then 6 else sc) [] false (laneDest gk p.1 m.d m.t) with konst := konst && !win })))))

/-- LD (R262). -/
def execLd (h : Hdr) (m : OpM) (s : State) : Host.Outcome State Fault Refusal := fin s h true (loadAct s h m false)

/-- LDK (R263): at a window it is LD.WEAK.SYS. -/
def execLdk (h : Hdr) (m : OpM) (s : State) : Host.Outcome State Fault Refusal := fin s h true (loadAct s h m true)

/-- LDS (R262). -/
def execLds (h : Hdr) (m : OpM) (s : State) : Host.Outcome State Fault Refusal :=
  fin s h true (atLanes s h (fun gk g act =>
    let us := addrUses m act 1 false
    match checkUses s s.cur.u 0 act us [⟨m.d, tyRegs m.t, act⟩] with
    | some a => a
    | none =>
      let sc := scopeOf s 0 m.sc true
      let w := tyBytes m.t
      scrGo s ⟨w, sc, false, false⟩ w ((lanesOf act).map (fun i => (i, scrEa s m i))) us (fun ps =>
        let s := countPasses (emptyDest s gk m.d m.t act) g w ps false
        .next (issueAccs s (ps.map (fun p =>
          mkAcc s s.cur.u (laneBit 0 p.1) (splitMask s g) (scrLoc g p.2) w .read m.ord sc [] false (laneDest gk p.1 m.d m.t)))))))

/-- SLD (R262). -/
def execSld (h : Hdr) (m : OpM) (s : State) : Host.Outcome State Fault Refusal :=
  fin s h true (atCtx s h (fun ck c =>
    let lev := Hdr.lv h
    let us := addrUses m 1 1 true
    match checkUses s s.cur.u lev 0 us [⟨m.d, 1, 0⟩] with
    | some a => a
    | none =>
      let sc := scopeOf s lev m.sc false
      let w := tyBytes m.t
      globalGo s lev ⟨w, sc, false, false⟩ w .read [(0, globalEa s lev m true 0)] us (fun _ => false) (fun s ps =>
        emptyScal s ck c m.d (fun s r => .next (issueAccs s (ps.map (fun p =>
          mkAcc s s.cur.u 0 0 (locOf s.floor p.2) w .read m.ord sc [] false (.scal ck r m.t))))))))

/-- The lines that a PREF of scope `sc` fetches into a core view, of lanes with their addresses and the answers of their look-ups; a line
that is to go into its home slice leaves no trace (R264). -/
def prefLines (s : State) (sc : Nat) (rs : List (Nat × Except Nat Nat)) (mask : Lanes) : List Access :=
  rs.filterMap (fun r => match r.2 with
    | .ok pa => if sc ≤ 2 ∧ isMem s.floor pa ∧ (viewOf s s.cur.u).isSome then
        some (mkAcc s s.cur.u (laneBit 0 r.1) mask (.mem (pa / 128 * 128)) 128 .pref .weak sc [] false .none) else none
    | .error _ => none)

/-- The fetches of a PREF in some lanes (R264): a lane whose address fails is dropped, without a fault. -/
def prefGo (s : State) (lev : Nat) (m : OpM) (lanes mask : Lanes) : State :=
  let eas := ((lanesOf lanes).map (fun i => (i, globalEa s lev m true i))).filter (fun p => vaOk p.2)
  let (rs, s) := xlate s s.cur.u .read (eas.map (fun p => (p.1, p.2.toNat)))
  s.addAccs (prefLines s (scopeOf s lev m.sc false) rs mask)

/-- PREF (R264): a lane whose operands are empty under FEB = 1 or poisoned is dropped; an operand beyond %vcount makes it
have no effect; an empty operand under FEB = 0 waits, and so does an ancestor's scalar that a resumed child may not read yet (R32). -/
def execPref (h : Hdr) (m : OpM) (s : State) : Host.Outcome State Fault Refusal :=
  let lev := Hdr.lv h
  let go := fun (act mask : Lanes) (past : Bool) =>
    let us := addrUses m act 2 true
    let soft := us.any (fun x => useStalls s s.cur.u lev x || (!x.o.feb && useEmpty s s.cur.u lev x != 0))
    let drop := us.foldl (fun (a : Lanes) x => a ||| usePoison s s.cur.u lev x |||
      (if x.o.feb then (match x.o.o with | .scal _ _ => (if useEmpty s s.cur.u lev x != 0 then act else 0) | _ => useEmpty s s.cur.u lev x) else 0)) 0
    if past then Act.next s
    else if soft then .wait
    else .next (prefGo s lev m (act &&& ~~~drop) mask)
  if lev = 0 then
    fin s h false (atLanes s h (fun _ g act => go act (splitMask s g) (g.overOp m.a.o 2 || g.overOp m.b.o 1)))
  else fin s h false (atCtx s h (fun _ _ => go 1 0 false))

/-! ## Stores (R265) -/

/-- Lanes that write the same bytes make one write with the data of the highest of them (R245). -/
def mergeStores (ps : List (Nat × Nat)) : List (Nat × Nat × Lanes) :=
  (ps.filter (fun p => ps.all (fun q => q.2 != p.2 || decide (q.1 ≤ p.1)))).map (fun p =>
    (p.1, p.2, (ps.filter (fun q => q.2 == p.2)).foldl (fun m q => m ||| laneBit 0 q.1) 0))

/-- Whether store data is poison-marked in a lane (R195). -/
def dataPoi (s : State) (lev lane n : Nat) (o : Src) : Bool := usePoison s s.cur.u lev ⟨2, o, spanOf n o.o, BitVec.twoPow 32 lane, true⟩ != 0

/-- Uses of store data: it is written poisoned, not consumed. -/
def dataUses (act : Lanes) (n : Nat) (b : Src) : List Use := (usesOf act n [(2, b)]).map (fun u => { u with poi := false })

/-- ST (R265). -/
def execSt (h : Hdr) (m : OpM) (s : State) : Host.Outcome State Fault Refusal :=
  fin s h true (atLanes s h (fun _ g act =>
    let us := addrUses m act 2 false ++ dataUses act (tyRegs m.t) m.b
    match checkUses s s.cur.u 0 act us [] with
    | some a => a
    | none =>
      let sc := scopeOf s 0 m.sc false
      let w := tyBytes m.t
      globalGo s 0 ⟨w, sc, true, false⟩ w .write ((lanesOf act).map (fun i => (i, globalEa s 0 m false i))) us (fun _ => false)
        (fun s ps => .next (issueAccs s ((mergeStores ps).map (fun p =>
          mkAcc s s.cur.u p.2.2 (splitMask s g) (locOf s.floor p.2.1) w .write m.ord sc
            (dataBytes s 0 p.1 m.t m.b.o) (dataPoi s 0 p.1 (tyRegs m.t) m.b) .none))))))

/-- STS (R265). -/
def execSts (h : Hdr) (m : OpM) (s : State) : Host.Outcome State Fault Refusal :=
  fin s h true (atLanes s h (fun _ g act =>
    let us := addrUses m act 1 false ++ dataUses act (tyRegs m.t) m.b
    match checkUses s s.cur.u 0 act us [] with
    | some a => a
    | none =>
      let sc := scopeOf s 0 m.sc true
      let w := tyBytes m.t
      scrGo s ⟨w, sc, true, false⟩ w ((lanesOf act).map (fun i => (i, scrEa s m i))) us (fun ps =>
        let s := countPasses s g w ps false
        .next (issueAccs s ((mergeStores ps).map (fun p =>
          mkAcc s s.cur.u p.2.2 (splitMask s g) (scrLoc g p.2.1) w .write m.ord sc
            (dataBytes s 0 p.1 m.t m.b.o) (dataPoi s 0 p.1 (tyRegs m.t) m.b) .none))))))

/-- SST (R265). -/
def execSst (h : Hdr) (m : OpM) (s : State) : Host.Outcome State Fault Refusal :=
  fin s h true (atCtx s h (fun _ _ =>
    let lev := Hdr.lv h
    let us := addrUses m 1 1 false ++ dataUses 1 1 m.b
    match checkUses s s.cur.u lev 0 us [] with
    | some a => a
    | none =>
      let sc := scopeOf s lev m.sc false
      let w := tyBytes m.t
      globalGo s lev ⟨w, sc, true, false⟩ w .write [(0, globalEa s lev m false 0)] us (fun _ => false) (fun s ps =>
        .next (issueAccs s (ps.map (fun p =>
          mkAcc s s.cur.u 0 0 (locOf s.floor p.2) w .write m.ord sc (dataBytes s lev 0 m.t m.b.o) (dataPoi s lev 0 1 m.b) .none))))))

/-! ## Atomics and reductions (R266 to R269) -/

/-- Uses of atomic data: one element, or the two of CAS (R266); poison on any of them is consumed (R195). -/
def atomUses (act : Lanes) (op : Aop) (t : Ty) (b : Src) : List Use :=
  [⟨2, b, match b.o with | .scal _ _ => (if op = .cas then 2 else 1) | _ => aopRegs op t, act, true⟩]

/-- The data of an atomic: b, and the new value of a CAS (R266). -/
def atomData (s : State) (lev lane : Nat) (op : Aop) (t : Ty) (o : Opd) : W64 × W64 :=
  (opdVal s s.cur.u lev 2 lane 0 o,
   if op = .cas then opdVal s s.cur.u lev 2 lane 0 (opdPlus (match o with | .scal _ _ => 1 | _ => tyRegs t) o) else 0)

/-- What the host window refuses (R269): every operation but ADD, XCHG and CAS, and every RED. -/
def hostRefuses (s : State) (op : Aop) (red : Bool) (pa : Nat) : Bool :=
  regionOf s.floor pa == .host && (red || !(op == .add || op == .xchg || op == .cas))

/-- ATOM and RED in the active lanes. -/
def atomAct (s : State) (h : Hdr) (op : Aop) (m : OpM) (ret : Bool) : Act :=
  atLanes s h (fun gk g act =>
    let us := addrUses m act 2 false ++ atomUses act op m.t m.b
    match checkUses s s.cur.u 0 act us (if ret then [⟨m.d, tyRegs m.t, act⟩] else []) with
    | some a => a
    | none =>
      let sc := scopeOf s 0 m.sc false
      let w := tyBytes m.t
      globalGo s 0 ⟨w, sc, true, true⟩ w .write ((lanesOf act).map (fun i => (i, globalEa s 0 m false i))) us
        (hostRefuses s op (!ret)) (fun s ps =>
          let acc := ps.map (fun p =>
            let d := atomData s 0 p.1 op m.t m.b.o
            mkAcc s s.cur.u (laneBit 0 p.1) (splitMask s g) (locOf s.floor p.2) w (.atomic op m.t d.1 d.2 ret) m.ord sc [] false
              (if ret then laneDest gk p.1 m.d m.t else .none))
          .next (issueAccs (if ret then emptyDest s gk m.d m.t act else s) acc)))

/-- ATOM (R267). -/
def execAtom (h : Hdr) (op : Aop) (m : OpM) (s : State) : Host.Outcome State Fault Refusal := fin s h true (atomAct s h op m true)

/-- RED (R268). -/
def execRed (h : Hdr) (op : Aop) (m : OpM) (s : State) : Host.Outcome State Fault Refusal := fin s h true (atomAct s h op m false)

/-- ATOMS (R267). -/
def execAtoms (h : Hdr) (op : Aop) (m : OpM) (s : State) : Host.Outcome State Fault Refusal :=
  fin s h true (atLanes s h (fun gk g act =>
    let us := addrUses m act 1 false ++ atomUses act op m.t m.b
    match checkUses s s.cur.u 0 act us [⟨m.d, tyRegs m.t, act⟩] with
    | some a => a
    | none =>
      let sc := scopeOf s 0 m.sc true
      let w := tyBytes m.t
      scrGo s ⟨w, sc, true, true⟩ w ((lanesOf act).map (fun i => (i, scrEa s m i))) us (fun ps =>
        let acc := ps.map (fun p =>
          let d := atomData s 0 p.1 op m.t m.b.o
          mkAcc s s.cur.u (laneBit 0 p.1) (splitMask s g) (scrLoc g p.2) w (.atomic op m.t d.1 d.2 true) m.ord sc [] false
            (laneDest gk p.1 m.d m.t))
        .next (issueAccs (countPasses (emptyDest s gk m.d m.t act) g w ps true) acc))))

/-- SATOM (R267). -/
def execSatom (h : Hdr) (op : Aop) (m : OpM) (s : State) : Host.Outcome State Fault Refusal :=
  fin s h true (atCtx s h (fun ck c =>
    let lev := Hdr.lv h
    let us := addrUses m 1 1 false ++ atomUses 1 op m.t m.b
    match checkUses s s.cur.u lev 0 us [⟨m.d, 1, 0⟩] with
    | some a => a
    | none =>
      let sc := scopeOf s lev m.sc false
      let w := tyBytes m.t
      globalGo s lev ⟨w, sc, true, true⟩ w .write [(0, globalEa s lev m false 0)] us (hostRefuses s op false) (fun s ps =>
        let d := atomData s lev 0 op m.t m.b.o
        emptyScal s ck c m.d (fun s r => .next (issueAccs s (ps.map (fun p =>
          mkAcc s s.cur.u 0 0 (locOf s.floor p.2) w (.atomic op m.t d.1 d.2 true) m.ord sc [] false (.scal ck r m.t))))))))

/-! ## Fences (R270) -/

/-- FENCE (R270): at scope LANE one fence for each active lane. -/
def execFence (h : Hdr) (ord : Ord) (sc : BitVec 3) (s : State) : Host.Outcome State Fault Refusal :=
  let lev := Hdr.lv h
  let k := scopeOf s lev sc false
  let add := fun (lanes mask : Lanes) => Act.next (s.addAcc (mkAcc s s.cur.u lanes mask .nowhere 0 .fence ord k [] false .none))
  if lev = 0 then
    fin s h true (atLanes s h (fun _ g act =>
      if k = 0 then
        .next (s.addAccs ((lanesOf act).map (fun i => mkAcc s s.cur.u (laneBit 0 i) (splitMask s g) .nowhere 0 .fence ord 0 [] false .none)))
      else add act (splitMask s g)))
  else fin s h true (atCtx s h (fun _ _ => add 0 0))

end Sys2Proof.Machine
end

