-- ==== Sys2Proof/Machine/Once.lean ====
section
/-! DEFINITION. What instructions share that act once for their group or context (R308): running, operands read in the
lowest active lane, checks, and results. -/

namespace Sys2Proof.Machine

/-- Run once: at L0 with the active lanes of the split, above with the guard of the context and no lanes (R308). -/
def onceRun (s : State) (h : Hdr) (f : Lanes → Act) : Act :=
  if h.lev = 0 then atLanes s h (fun _ _ m => f m) else atCtx s h (fun _ _ => f 0)

/-- A split or context waits for something that is neither an empty register nor a memory reply; a split beside it that waits at an RJOIN
may then wait for ever (R130). -/
def standBy (s : State) (h : Hdr) (w : WaitSt) : Act :=
  match s.cur.u with
  | .grp gk => if h.lev = 0 ∧ waitOf s (Hdr.lv h) ≠ w then .stay (rejoinCheck (haltWaiting (setWait s (Hdr.lv h) w)) gk) else .wait
  | .ctx _ => .wait

/-- The agent has begun to wait at a barrier or an arrival record, where a split that waits at an RJOIN beside it may wait for ever (R130). -/
def stayAt (s : State) (h : Hdr) (w : WaitSt) : Act :=
  let s' := setWait s (Hdr.lv h) w
  match s.cur.u with
  | .grp gk => .stay (if h.lev = 0 then rejoinCheck s' gk else s')
  | .ctx _ => .stay s'

/-- The active lanes in the record of any fault of an instruction of the matrix and copy chapters (R308). -/
def Act.lanes (m : Lanes) : Act → Act
  | .fault s f => .fault s { f with lanes := m }
  | a => a

/-- Run an instruction of those chapters once: a fault of it names the active lanes of its split, or none above L0 (R308). -/
def onceAll (s : State) (h : Hdr) (f : Lanes → Act) : Act := onceRun s h (fun m => (f m).lanes (if h.lev = 0 then m else 0))

/-- The value of an operand read once, in the lowest active lane (R323). -/
def onceVal (s : State) (h : Hdr) (m : Lanes) (imm : W64) (o : Opd) : W64 := opdVal s s.cur.u (Hdr.lv h) 2 (lowLane m) imm o

/-- The emptiness and range checks of operands read once: every active lane counts (R112). `n` registers each. -/
def onceUses (h : Hdr) (m : Lanes) (n : Nat) (srcs : List (Nat × Src)) : List Use := usesOf (if h.lev = 0 then m else 1) n srcs

/-- The poison check of operands read once: only the lane that is read counts (R195). -/
def oncePoison (s : State) (h : Hdr) (m : Lanes) (n : Nat) (srcs : List (Nat × Src)) : Option Act :=
  checkPoison s s.cur.u (Hdr.lv h) (usesOf (if h.lev = 0 then BitVec.twoPow 32 (lowLane m) else 1) n srcs)

/-- The checks of sources and destinations read and written once, before an effect. -/
def onceChecked (s : State) (h : Hdr) (n : Nat) (srcs : List (Nat × Src)) (dst : Lanes → List DUse) (f : Lanes → Act) (m : Lanes) : Act :=
  match checkUses s s.cur.u (Hdr.lv h) m (onceUses h m n srcs) (dst m) with
  | some a => a
  | none => f m

/-- Check sources and destinations read and written once; the poison check follows the instruction's own checks (R168). -/
def onceReady (s : State) (h : Hdr) (n : Nat) (srcs : List (Nat × Src)) (dst : Lanes → List DUse) (f : Lanes → Act) : Act :=
  onceRun s h (onceChecked s h n srcs dst f)

/-- Go on unless a poison mark is consumed. -/
def unlessPoison (s : State) (h : Hdr) (m : Lanes) (n : Nat) (srcs : List (Nat × Src)) (k : Unit → Act) : Act :=
  match oncePoison s h m n srcs with | some a => a | none => k ()

/-- Write a predicate: at L0 in every active lane, above it the context's bit; p15 takes nothing (R103). -/
def putPred (s : State) (h : Hdr) (m : Lanes) (p : BitVec 4) (v : Bool) : State :=
  if h.lev = 0 then
    (match s.cur.u with
     | .grp gk => s.updGrp gk (fun g => g.setPred p m (if v then m else 0))
     | .ctx _ => s)
  else s.updCtx (ownKey s s.cur.u (Hdr.lv h)) (fun c => c.setPred p v)

/-- Write a value of n registers: at L0 in every active lane, above it the own scalar, logged (R27). -/
def putOnce (s : State) (h : Hdr) (m : Lanes) (d : Opd) (n : Nat) (v : W64) : Act :=
  if h.lev = 0 then
    (match s.cur.u with
     | .grp gk => .next (writeLanes s gk d n m (fun _ => v))
     | .ctx _ => .next s)
  else
    let ck := ownKey s s.cur.u (Hdr.lv h)
    match s.ctx? ck with
    | some c => putScal s ck c d v
    | none => .next s

/-- Destinations of an instruction that acts once. -/
def onceDst (h : Hdr) (d : Opd) (n : Nat) (m : Lanes) : List DUse := [⟨d, if h.lev = 0 then n else 1, m⟩]

/-- The mask under which an instruction that acts once waits for its own agent (R249). -/
def onceMask (s : State) (h : Hdr) : Lanes :=
  match s.cur.u with
  | .grp gk => if h.lev = 0 then (match s.grp? gk with | some g => splitMask s g | none => 0) else BitVec.allOnes 32
  | .ctx _ => 0

/-- Whether every access of the issuing agent is performed at a scope: the release of an instruction that acts once. -/
def onceDrained (s : State) (h : Hdr) (sc : Nat) : Bool := drained s s.cur.u (onceMask s h) sc

/-- The band of the unit in hand, as a key. -/
def bandHere (s : State) : Nat :=
  match bandOfUnit s s.cur.u with | some b => bandKey (gcOf s s.cur.u) b | none => 0

/-- The size of the scratchpad of the unit in hand. -/
def scrSize (s : State) : Nat := 1024 * (s.lrec (gcOf s s.cur.u)).scrg

/-- A scratchpad fault of an instruction that acts once on `n` bytes, as accesses of the width described (R171). -/
def areaFault (s : State) (h : Hdr) (code : Nat) (m : Lanes) (d : AccDesc) (off n : Nat) : Act :=
  .fault s (memFault code (Hdr.lv h) (if h.lev = 0 then m else 0) d off off (off + n - d.width))

/-- A scratchpad fault of a single access. -/
def scrFault (s : State) (h : Hdr) (code : Nat) (m : Lanes) (d : AccDesc) (off : Nat) : Act := areaFault s h code m d off d.width

end Sys2Proof.Machine
end

