-- ==== Sys2Proof/Machine/Barriers.lean ====
section
/-! DEFINITION. The barrier instructions (R349 to R353). -/

namespace Sys2Proof.Machine

/-- The barrier that an instruction of level k names: barrier j of the unit of level k + 1 (R351). -/
def barHere (s : State) (h : Hdr) : Nat := ancKey s s.cur.u (Hdr.lv h + 1)

/-- The members that an instruction arrives for: the active lanes, or the context (R353). -/
def barOwn (s : State) (h : Hdr) (m : Lanes) : List Nat :=
  match s.cur.u with
  | .grp gk => if h.lev = 0 then (lanesOf m).map (laneMember gk) else [ownKey s s.cur.u (Hdr.lv h)]
  | .ctx ck => [ck]

/-- The lanes among the active ones that have arrived in the current phase already; any bit stands for a context. -/
def barBefore (s : State) (h : Hdr) (ck j : Nat) (m : Lanes) : Lanes :=
  let arr := (s.bar ck j).arrived
  match s.cur.u with
  | .grp gk => if h.lev = 0 then maskOf (fun i => m.getLsbD i && arr.contains (laneMember gk i))
      else if (barOwn s h m).any arr.contains then 1 else 0
  | .ctx _ => if (barOwn s h m).any arr.contains then 1 else 0

/-- Those of the active lanes, or the context, that have not arrived. -/
def barFresh (s : State) (h : Hdr) (ck j : Nat) (m : Lanes) : List Nat :=
  (barOwn s h m).filter (fun x => !(s.bar ck j).arrived.contains x)

/-- PHASE of a barrier. -/
def barPhase (s : State) (ck j : Nat) : Nat := (s.bar ck j).phase.toNat

/-- Members arrive and the agent waits for the phase; with the phase completed and nobody left to arrive it goes on. -/
def barWait (s : State) (h : Hdr) (ck j : Nat) (ms : List Nat) (rest : Lanes) : Act :=
  let t := barPhase s ck j
  let s := barArrive s ck j ms
  if barPhase s ck j ≠ t ∧ rest = 0 then .next s else stayAt s h (.bar j t rest)

/-- The members of the lanes that still had to arrive. -/
def barRest (s : State) (h : Hdr) (rest : Lanes) : List Nat := barOwn s h rest

/-- BAR (R353): arrive, and wait until PHASE has moved on. -/
def execBar (h : Hdr) (j : BitVec 3) (s : State) : Host.Outcome State Fault Refusal :=
  fin s h true (onceRun s h (fun m =>
    let ck := barHere s h
    match waitOf s (Hdr.lv h) with
    | .bar _ t rest =>
      if barPhase s ck j.toNat = t then .wait
      else if rest = 0 then .next s
      else barWait s h ck j.toNat (barRest s h rest) 0
    | _ => barWait s h ck j.toNat (barFresh s h ck j.toNat m) (barBefore s h ck j.toNat m)))

/-- Write the phase at arrival: in given lanes, or to the own scalar (R353). -/
def baraPut (s : State) (h : Hdr) (m : Lanes) (d : Opd) (t : Nat) : Act := putOnce s h m d 1 (BitVec.ofNat 64 t)

/-- BARA (R353): write PHASE and arrive; who has arrived in this phase already waits for its end and then does the same. -/
def execBara (h : Hdr) (d : Opd) (j : BitVec 3) (s : State) : Host.Outcome State Fault Refusal :=
  fin s h true (onceReady s h 1 [] (onceDst h d 1) (fun m =>
    let ck := barHere s h
    let t := barPhase s ck j.toNat
    let arrive := fun (l : Lanes) (ms : List Nat) (rest : Lanes) =>
      match baraPut s h l d t with
      | .next s' =>
        let s' := barArrive s' ck j.toNat ms
        if rest = 0 then .next s' else stayAt s' h (.bar j.toNat t rest)
      | a => a
    match waitOf s (Hdr.lv h) with
    | .bar _ t0 rest => if t = t0 then .wait else arrive rest (barRest s h rest) 0
    | _ =>
      let rest := barBefore s h ck j.toNat m
      if h.lev ≠ 0 ∧ rest ≠ 0 then .wait else arrive (m &&& ~~~rest) (barFresh s h ck j.toNat m) rest))

/-- BARW (R353): wait until PHASE differs from A[3:0]. -/
def execBarw (h : Hdr) (a : Src) (j : BitVec 3) (s : State) : Host.Outcome State Fault Refusal :=
  fin s h true (onceReady s h 1 [(1, a)] (fun _ => []) (fun m =>
    unlessPoison s h m 1 [(1, a)] (fun _ =>
      let b := (onceVal s h m 0 a.o).toNat % 16
      if barPhase s (barHere s h) j.toNat = b then standBy s h (.barw j.toNat b) else .next s)))

end Sys2Proof.Machine
end

