-- ==== Sys2Proof/Machine/Control.lean ====
section
/-! DEFINITION. The control, level and region instructions (R118 to R137). -/

namespace Sys2Proof.Machine

/-! ## Conditions (R119, R33 to R35) -/

/-- What a condition resolves to: a wait, a value (none where every report is empty) with its poison, or a fault. -/
inductive Cond where
  | wait
  | val (v : Option W64) (poi : Bool)
  | fault (s : State) (f : FaultReq)
  deriving Repr

/-- The value of a report of truth, or the non-uniformity fault with its record (R33, R34). -/
def condOfRep (s : State) (lev : Nat) (reps : List (Nat × Report)) (r : Report) : Cond :=
  match r.k with
  | .empty => .val none false
  | .allTrue => .val (some 1) false
  | .allFalse => .val (some 0) false
  | .value v => .val (some v) false
  | .mixed => .fault s { FaultReq.mk0 0x07 lev with det := nonUniDetail reps r }

/-- Resolve the condition of the instruction in hand (R119): an own or ancestor operand by its value, lower-level data by
the reports of the children, and at the group-domain level by the group's own lanes. -/
def resolve (s : State) (lev : Nat) (a : Src) (val own : Bool) : Cond :=
  let u := s.cur.u
  if isLower lev a.o && !own then
    match u with
    | .grp gk =>
      match grpRep s gk ⟨a, val, s.cur.ia, s.cur.insn⟩ with
      | .wait => .wait
      | .fault _ f => .fault s f
      | .rep r => condOfRep s lev [(0, r)] r
    | .ctx ck =>
      match s.ctx? ck with
      | none => .wait
      | some c => condOfRep s lev c.reports (combineReps (c.reports.map (·.2)))
  else
    let us := ownUses a 1
    match checkUses s u lev 0 us [] with
    | some (.fault t f) => .fault t f
    | some _ => .wait
    | none => .val (some (opdVal s u lev 2 0 0 a.o)) (us.any (fun x => usePoison s u lev x != 0))

/-- Resolve a condition, test the IAs named whether or not the transfer is taken (R50, R121), consume poison last (R168),
and go on with the value; with every report empty nothing is transferred. -/
def onCond (s : State) (h : Hdr) (a : Src) (val own : Bool) (ts : Option W64 → List W64) (k : State → Option W64 → Act) : Act :=
  let lev := Hdr.lv h
  match resolve s lev a val own with
  | .wait => .wait
  | .fault t f => .fault t f
  | .val v poi => transfer s lev 0 (ts v) (fun t => if poi then flt t 0x30 lev 0 else k t v)

/-- Whether a conditional transfer takes (R59, R121): never where every report is empty. -/
def takes (cc : Cc) (v : Option W64) : Bool := match v with | none => false | some x => ccTakes cc (x != 0)

/-- The IA of a slot offset from the instruction in hand (R52). -/
def tgtIa (s : State) (off : BitVec 24) : W64 := iaAdd s.cur.ia off

/-- BR and BRA (R121). -/
def branch (s : State) (h : Hdr) (cc : Cc) (a : Src) (tgt : BitVec 24) (own : Bool) : Act :=
  atCtx s h (fun _ _ =>
    onCond s h a false own (fun _ => [tgtIa s tgt]) (fun t v => if takes cc v then .jump t (tgtIa s tgt) else .next t))

/-! ## The call stack (R21, R28) -/

/-- The virtual address of slot k of a unit's spilled stack, sign-extended at bit 56 (R16, R21). -/
def stackVa (s : State) (c : Ctx) (k : Nat) : Nat :=
  let a := ((s.lrec c.gc).lvl c.lvl).stk % 2 ^ 48 * 512 + 1024 * c.g + 16 * k
  let a := a % 2 ^ 57
  if a / 2 ^ 56 % 2 = 1 then a + 0x7F * 2 ^ 57 else a

/-- The access that a spill or a reload makes (R21). -/
def stackDesc (s : State) (c : Ctx) (w : Bool) : AccDesc := ⟨16, ((s.lrec c.gc).lvl c.lvl).scope, w, false⟩

/-- A translation fault of the stack area. -/
def stackFault (s : State) (c : Ctx) (code va : Nat) (w : Bool) : Act :=
  .fault s (memFault code c.lvl 0 (stackDesc s c w) va va va)

/-- Push a call entry, spilling the oldest resident one where sixteen are resident; a poisoned callee faults after the spill's
translation has been tested (R21, R168). -/
def pushCall (s : State) (ck : Nat) (c : Ctx) (poi : Bool) (e : CallEnt) (k : State → Act) : Act :=
  let put := fun (s : State) (sp : Nat) => s.updCtx ck (fun c => { c with
    calls := tabSet c.calls c.depth e, depth := c.depth + 1, spilled := sp })
  if c.depth - c.spilled < 16 then (if poi then flt s 0x30 c.lvl 0 else k (put s c.spilled))
  else
    let va := stackVa s c c.spilled
    match transOne s s.cur.u va .write with
    | (.error code, t) => stackFault t c code va true
    | (.ok pa, t) =>
      if poi then flt t 0x30 c.lvl 0
      else
        let o := tabGet ⟨0, 0⟩ c.calls c.spilled
        let a := mkAcc t t.cur.u 0 0 (locOf t.floor pa) 16 .write .weak ((t.lrec c.gc).lvl c.lvl).scope
          (leBytes 8 o.ret.toNat ++ leBytes 8 o.loops) false .none
        k (put (t.addAcc a) (c.spilled + 1))

/-- Whether the trail lets a CALL write its resident slot and, where it spills, the spilled one (R28). -/
def callRoom (c : Ctx) : Bool :=
  c.trail.all (fun e => decide (e.depth ≤ c.depth) && (decide (c.depth - c.spilled < 16) || decide (e.depth ≤ c.spilled)))

/-- CALL and CALLI once the callee is known (R125). -/
def callTo (s : State) (h : Hdr) (ck : Nat) (c : Ctx) (poi : Bool) (t : W64) : Act :=
  let lev := Hdr.lv h
  let ret := iaNext s.cur.ia
  transfer s lev 0 [t, ret] (fun s =>
    if 80 ≤ c.depth then flt s 0x08 lev 0
    else if !callRoom c then .wait
    else pushCall s ck c poi ⟨ret, c.loops.length⟩ (fun s => .jump s t))

/-- Pop the newest entry. Where that empties the resident ones while spilled ones remain, the newest spilled one is first read back
with a weak access of the context at its level's scope, and the RET waits for it (R21, R126). -/
def popCall (s : State) (ck : Nat) (c : Ctx) (d : Nat) (k : State → Act) : Act :=
  let pop := fun (s : State) (sp : Nat) => s.updCtx ck (fun c => { c with
    depth := c.depth - 1, spilled := sp, loops := c.loops.drop (c.loops.length - d) })
  if c.depth - 1 = c.spilled ∧ 0 < c.spilled then
    match waitOf s c.lvl with
    | .reload none => .wait
    | .reload (some poi) => if poi then flt (setWait s c.lvl .none) 0x30 c.lvl 0 else k (setWait (pop s (c.spilled - 1)) c.lvl .none)
    | _ =>
      let va := stackVa s c (c.spilled - 1)
      match transOne s s.cur.u va .read with
      | (.error code, t) => stackFault t c code va false
      | (.ok pa, t) =>
        let a := mkAcc t t.cur.u 0 0 (locOf t.floor pa) 16 .read .weak ((t.lrec c.gc).lvl c.lvl).scope [] false (.stack ck (c.spilled - 1))
        .stay (setWait (t.addAcc a) c.lvl (.reload none))
  else k (pop s c.spilled)

/-- The loop depth below which the running call may not go (R127). -/
def loopFloor (c : Ctx) : Nat := if c.depth = 0 then 0 else (tabGet ⟨0, 0⟩ c.calls (c.depth - 1)).loops

/-! ## Level control -/

/-- NOP (R132). -/
def execNop (h : Hdr) (s : State) : Host.Outcome State Fault Refusal := fin s h false (.next s)

/-- BR (R121). -/
def execBr (h : Hdr) (cc : Cc) (a : Src) (tgt : BitVec 24) (s : State) : Host.Outcome State Fault Refusal :=
  fin s h true (branch s h cc a tgt false)

/-- BRA (R121): an own or ancestor condition. -/
def execBra (h : Hdr) (cc : Cc) (a : Src) (tgt : BitVec 24) (s : State) : Host.Outcome State Fault Refusal :=
  fin s h true (branch s h cc a tgt true)

/-- JMPI (R123). -/
def execJmpi (h : Hdr) (a : Src) (s : State) : Host.Outcome State Fault Refusal :=
  fin s h true (atCtx s h (fun _ _ =>
    onCond s h a true false (fun v => v.toList) (fun t v => match v with | some x => .jump t x | none => .next t)))

/-- CALL (R125). -/
def execCall (h : Hdr) (tgt : BitVec 24) (s : State) : Host.Outcome State Fault Refusal :=
  fin s h true (atCtx s h (fun ck c => callTo s h ck c false (tgtIa s tgt)))

/-- CALLI (R125). -/
def execCalli (h : Hdr) (a : Src) (s : State) : Host.Outcome State Fault Refusal :=
  fin s h true (atCtx s h (fun ck c =>
    match resolve s (Hdr.lv h) a true false with
    | .wait => .wait
    | .fault t f => .fault t f
    | .val none _ => .next s
    | .val (some v) poi => callTo s h ck c poi v))

/-- RET (R126). -/
def execRet (h : Hdr) (s : State) : Host.Outcome State Fault Refusal :=
  fin s h true (atCtx s h (fun ck c =>
    let lev := Hdr.lv h
    let e := tabGet ⟨0, 0⟩ c.calls (c.depth - 1)
    if c.depth = 0 then flt s 0x09 lev 0
    else if c.loops.length < e.loops then flt s 0x0A lev 0
    else transfer s lev 0 [e.ret] (fun s => popCall s ck c e.loops (fun s => .jump s e.ret))))

/-- LOOP (R127). -/
def execLoop (h : Hdr) (a : Src) (exit : BitVec 24) (s : State) : Host.Outcome State Fault Refusal :=
  fin s h true (atCtx s h (fun ck c =>
    let lev := Hdr.lv h
    match resolve s lev a true true with
    | .wait => .wait
    | .fault t f => .fault t f
    | .val v poi =>
      let n := (v.getD 0).toNat
      let body := iaNext s.cur.ia
      transfer s lev 0 [tgtIa s exit, body] (fun s =>
        if poi then flt s 0x30 lev 0
        else if 2 ^ 32 ≤ n ∨ (n ≠ 0 ∧ c.loops.length = 8) then flt s 0x0A lev 0
        else if n = 0 then .jump s (tgtIa s exit)
        else .jump (s.updCtx ck (fun c => { c with loops := ⟨BitVec.ofNat 32 n, body⟩ :: c.loops })) body)))

/-- ENDL (R127). -/
def execEndl (h : Hdr) (s : State) : Host.Outcome State Fault Refusal :=
  fin s h true (atCtx s h (fun ck c =>
    let lev := Hdr.lv h
    match c.loops with
    | [] => flt s 0x0A lev 0
    | top :: rest =>
      if c.loops.length ≤ loopFloor c then flt s 0x0A lev 0
      else if top.count - 1 ≠ 0 then
        transfer s lev 0 [top.start] (fun s =>
          .jump (s.updCtx ck (fun c => { c with loops := ⟨top.count - 1, top.start⟩ :: rest })) top.start)
      else .next (s.updCtx ck (fun c => { c with loops := rest }))))

/-- BRK (R127). -/
def execBrk (h : Hdr) (cc : Cc) (a : Src) (exit : BitVec 24) (s : State) : Host.Outcome State Fault Refusal :=
  fin s h true (atCtx s h (fun ck c =>
    let lev := Hdr.lv h
    let t := tgtIa s exit
    match resolve s lev a false false with
    | .wait => .wait
    | .fault t f => .fault t f
    | .val v poi =>
      if takes cc v && !poi && decide (c.loops.length ≤ loopFloor c) then flt s 0x0A lev 0
      else transfer s lev 0 [t] (fun s =>
        if poi then flt s 0x30 lev 0
        else if takes cc v then .jump (s.updCtx ck (fun c => { c with loops := c.loops.tail })) t
        else .next s)))

/-- CONT (R127). -/
def execCont (h : Hdr) (cc : Cc) (a : Src) (cont : BitVec 24) (s : State) : Host.Outcome State Fault Refusal :=
  fin s h true (atCtx s h (fun _ c =>
    let lev := Hdr.lv h
    let t := tgtIa s cont
    match resolve s lev a false false with
    | .wait => .wait
    | .fault t f => .fault t f
    | .val v poi =>
      if takes cc v && !poi && decide (c.loops.length ≤ loopFloor c) then flt s 0x0A lev 0
      else transfer s lev 0 [t] (fun s =>
        if poi then flt s 0x30 lev 0 else if takes cc v then .jump s t else .next s)))

/-- UNIF (R124): an own or ancestor operand has no effect but to end the segment. -/
def execUnif (h : Hdr) (a : Src) (s : State) : Host.Outcome State Fault Refusal :=
  fin s h true (atCtx s h (fun _ _ =>
    onCond s h a (isScal a.o) false (fun _ => []) (fun t _ => .next t)))

/-! ## LEVSYNC (R133) -/

/-- Whether an access is by a unit of the subtree of a context. -/
def ofSubtree (s : State) (gc lvl g : Nat) (a : Access) : Bool :=
  let r := s.lrec gc
  match a.by_ with
  | .unit (.grp k) => k % 64 == gc && r.anc (k / 1024 * r.gpb + k / 64 % 16) lvl == g
  | .unit (.ctx k) =>
    let l := k / 64 % 8
    k % 64 == gc && decide (l ≤ lvl) && r.ancFrom l (k / 512) lvl == g
  | _ => false

/-- LEVSYNC: it waits until every access of the subtree is performed at the level's scope, and is then an acquire there. -/
def execLevsync (h : Hdr) (s : State) : Host.Outcome State Fault Refusal :=
  fin s h true (atCtx s h (fun _ c =>
    let sc := ((s.lrec c.gc).lvl c.lvl).scope
    let as := s.accs.filter (ofSubtree s c.gc c.lvl c.g)
    if as.all (fun a => performedAt a sc || a.kind == .fence) then
      .next (if 3 ≤ sc then acquireView s s.cur.u else s)
    else .wait))

/-! ## Lane control -/

/-- A divergence of entry e (R12, R36): the token is pushed where the reconvergence address is new, the false lanes stay,
and the true lanes take the lowest free entry or wait in a deferred record. None: more than 64 records (R37). -/
def diverge (g : Group) (e : Nat) (x : Split) (t : Lanes) (tgt rcv nxt : W64) : Option (List (Option Split) × Tab Rec) :=
  let same := x.token == some rcv
  let keep := x.mask &&& ~~~t
  let push := fun (recs : Tab Rec) (k : RecKind) (below : Option Nat) =>
    (freeRec recs).map (fun i => (some i, pushRec recs i k below))
  let p1 := if same then some (x.top, g.recs) else push g.recs (.token x.token) x.top
  match p1 with
  | none => none
  | some (top, recs) =>
    let d := if same then x.depth else x.depth + 1
    let me : Split := { x with pc := nxt, mask := keep, token := some rcv, depth := d, top := top, w := .none }
    match (List.range 4).find? (fun i => (nth? g.splits i) == some none) with
    | some i =>
      let other : Split := { me with pc := tgt, mask := t, yl := false }
      some (setNth (setNth g.splits e (some me)) i (some other), recs)
    | none => (push recs (.deferred tgt t) top).map (fun p => (setNth g.splits e (some { me with top := p.1 }), p.2))

/-- BRL in the issuing split (R12, R122): both IAs are tested while a lane is active; guard-false lanes never take. -/
def brlAct (s : State) (h : Hdr) (cc : Cc) (a : Src) (tgt rcv : BitVec 24) (gk : Nat) (g : Group) (x : Split) : Act :=
  let m := x.mask &&& g.live
  let act := guardLanes g h m
  let t1 := tgtIa s tgt
  let t2 := tgtIa s rcv
  let us := vecUses a act
  if act = 0 then .next s
  else match checkUses s (.grp gk) 0 act us [] with
    | some y => y
    | none => transfer s 0 act [t1, t2] (fun s =>
        let p := poisonLanes s (.grp gk) 0 us
        if p ≠ 0 then flt s 0x30 0 p
        else
          let t := takenLanes cc (condLanes g a.o act) act
          if t = 0 then .next s
          else if t = m then .jump s t1
          else match diverge g s.cur.e x t t1 t2 (iaNext s.cur.ia) with
            | none => flt s 0x0B 0 act
            | some (sp, recs) => .done (rejoinCheck (settle (putTable s gk sp recs) gk) gk))

/-- BRL (R122). -/
def execBrl (h : Hdr) (cc : Cc) (a : Src) (tgt rcv : BitVec 24) (s : State) : Host.Outcome State Fault Refusal :=
  fin s h true (match s.cur.u with
    | .ctx _ => .next s
    | .grp gk =>
      match s.grp? gk with
      | none => .next s
      | some g => match curSplit s g with
        | some x => brlAct s h cc a tgt rcv gk g x
        | none => .next s)

/-- RJOIN (R130): the split waits; it fuses when the table settles. -/
def execRjoin (h : Hdr) (s : State) : Host.Outcome State Fault Refusal :=
  fin s h true (atLanes s h (fun gk _ _ =>
    .done (rejoinCheck (settle (s.updGrp gk (fun g => { g with splits := (g.splits.zipIdx).map (fun p =>
      if p.2 = s.cur.e then p.1.map (fun x => { x with rj := true }) else p.1) })) gk) gk)))

/-- EXIT (R128, R129). -/
def execExit (h : Hdr) (s : State) : Host.Outcome State Fault Refusal :=
  if h.lev = 0 then
    fin s h true (atLanes s h (fun gk _ m => .done (exitLanes s gk s.cur.e m (iaNext s.cur.ia))))
  else fin s h true (atCtx s h (fun _ c => .done (endUnit s c.gc c.lvl c.g)))

/-- YIELD (R131). -/
def execYield (h : Hdr) (s : State) : Host.Outcome State Fault Refusal :=
  if h.lev = 0 then
    fin s h true (match s.cur.u with
      | .ctx _ => .next s
      | .grp gk => atLanes s h (fun _ _ _ => .next (s.updGrp gk (fun g => { g with splits := (g.splits.zipIdx).map (fun p =>
          if p.2 = s.cur.e then p.1.map (fun x => { x with yl := true }) else p.1) }))))
  else fin s h true (atCtx s h (fun _ c =>
    if c.dom ≤ domGroup then .next s
    else
      let bs := if c.dom = domBand then [(s.lrec c.gc).bandOf c.lvl c.g] else (bandsUnder s c.gc c.lvl c.g).map (fun p => p.2.b)
      let want := bs.filter (fun b => wantedBy s c.gc b)
      .next (want.foldl (fun s b => requestPark s c.gc b 2 (decide (domBand < c.dom))) s)))

/-- SAFEPT (R134). -/
def execSafept (h : Hdr) (entry : BitVec 49) (s : State) : Host.Outcome State Fault Refusal :=
  fin s h true (atLanes s h (fun gk g _ =>
    let asked := match s.band? (bandKey g.gc g.b) with
      | some b => b.park.isSome && b.cause == 1 && !handling s g.gc g.b
      | none => false
    if asked && g.single && g.handler.isNone then
      let e := entry.toNat
      .next (s.updGrp gk (fun g => { g with
        stop := .safept, live94 := if e < (s.lrec g.gc).lmcount then some e else none }))
    else .next s))

/-- IDEM (R135). -/
def execIdem (h : Hdr) (kind : IdemKind) (index : BitVec 16) (s : State) : Host.Outcome State Fault Refusal :=
  fin s h true (atLanes s h (fun gk g m =>
    if !g.single then flt s 0x0D 0 m
    else
      let mask := match curSplit s g with | some x => x.mask &&& g.live | none => 0
      let keep := g.region.valid && g.region.index == index && g.region.entry == s.cur.ia
      .next (s.updGrp gk (fun g => { g with
        region := ⟨true, kind, index, s.cur.ia, mask, if keep then g.region.restarts else 0⟩ }))))

/-- IDEMX (R135). -/
def execIdemx (h : Hdr) (index : BitVec 16) (s : State) : Host.Outcome State Fault Refusal :=
  fin s h true (atLanes s h (fun gk _ _ =>
    if index.toNat < 2 ^ 16 then .next (s.updGrp gk (fun g => { g with region := { g.region with valid := false } })) else .next s))

/-! ## Registers at run time (R136, R41) -/

/-- Run VGROW or VGIVE once for the group, at L0 or at the group-domain level. -/
def atGroup (s : State) (h : Hdr) (f : Nat → Group → Lanes → Act) : Act :=
  match s.cur.u with
  | .ctx _ => .next s
  | .grp gk =>
    match s.grp? gk with
    | none => .next s
    | some g =>
      if h.lev = 0 then atLanes s h f
      else match s.ctx? (grpAnc s g (Hdr.lv h)) with
        | some c => if guardCtx c h then f gk g 0 else .next s
        | none => .next s

/-- The count operand of VGROW and VGIVE, checked. -/
def countOf (s : State) (h : Hdr) (a : Src) (imm : BitVec 27) (m : Lanes) (k : Nat → Act) : Act :=
  let lev := Hdr.lv h
  let us := ownUses a (if lev = 0 then m else 1)
  match checkAll s s.cur.u lev (if lev = 0 then m else 0) us [] with
  | some x => x
  | none => k (opdVal s s.cur.u lev 2 0 (imm.signExtend 64) a.o).toNat

/-- Whether a group's quarter has n/8 free slices for each of its columns. -/
def growRoom (s : State) (g : Group) (n : Nat) : Bool :=
  decide (usedQuarter s (coreOfGrp s g) (g.slot % 4) + (g.nlive + 7) / 8 * (n / 8) ≤ 512)

/-- When a group's band was placed or resumed. -/
def bornOf (s : State) (g : Group) : Nat := match s.band? (bandKey g.gc g.b) with | some x => x.born | none => 0

/-- Whether a request of n registers is granted now: it has room, and no request of an older band in the quarter that has
room stands before it (R41). -/
def growFits (s : State) (g : Group) (n : Nat) : Bool :=
  growRoom s g n &&
  !s.groups.any (fun p => p.2.vwant != 0 && coreOfGrp s p.2 == coreOfGrp s g && p.2.slot % 4 == g.slot % 4 &&
    decide (bornOf s p.2 < bornOf s g) && growRoom s p.2 p.2.vwant)

/-- Grant a VGROW: the new registers read 0 and are full, and %vcount grows (R106, R136). -/
def growGroup (g : Group) (n : Nat) : Group :=
  let lo := vkey g.vcount 0
  let hi := vkey (g.vcount + n) 0
  let out := fun (k : Nat) => !(decide (lo ≤ k) && decide (k < hi))
  { g with vr := g.vr.filter (fun p => out p.1), ve := g.ve.filter (fun p => out p.1), vp := g.vp.filter (fun p => out p.1),
           vcount := g.vcount + n, vwant := 0 }

/-- Whether a group waits in VGROW for a grant that it can take now. -/
def growDue (s : State) (g : Group) : Bool := g.vwant != 0 && g.stop == .run && growFits s g g.vwant

/-- Grant the VGROW in which a group waits (R41): its instruction is done. -/
def growNow (s : State) (gk : Nat) : State :=
  match s.grp? gk with
  | none => s
  | some g =>
    let ia := match nth? g.splits g.vent with | some (some x) => x.pc | _ => g.pc0
    let c := s.cur
    let s := { s with cur := ⟨.grp gk, g.vent, ia, c.insn⟩ }
    let t := goOn s (if (entries g.splits).isEmpty then 1 else 0) false (s.updGrp gk (fun g => growGroup g g.vwant)) (iaNext ia)
    { t with cur := c }

/-- Grant the slices that a park has freed on a core to the VGROWs that wait there, oldest band first (R41): the groups whose
requests fit, one after another. -/
def growAll : Nat → State → Nat → State
  | 0, s, _ => s
  | n + 1, s, core =>
    match s.groups.find? (fun p => coreOfGrp s p.2 == core && growDue s p.2) with
    | some p => growAll n (growNow s p.1) core
    | none => s

/-- Whether a group of a core cannot go on for want of slices, or stands stopped (R41). -/
def stuckGroup (g : Group) : Bool := g.vwant != 0 || g.stop != .run

/-- When every resident group of a core is blocked in VGROW or stopped, the youngest resident band, but never the oldest nor
one with a handler, is asked to park (R41, R180). -/
def growPark (s : State) (core : Nat) : State :=
  let bs := (coreBands s core).filter (fun p => p.2.st == .resident)
  let gs := (bs.map (fun p => grpsOf s p.2.gc p.2.b)).flatten
  if gs.isEmpty || !gs.all (fun p => stuckGroup p.2) || bs.any (fun p => p.2.park.isSome) then s
  else
    let older := fun (x y : Nat × Band) => decide (x.2.born < y.2.born) || (x.2.born == y.2.born && decide (x.1 < y.1))
    let cand := bs.filter (fun p => bs.any (fun q => older q p) && !p.2.passed &&
      (grpsOf s p.2.gc p.2.b).all (fun q => q.2.handler.isNone))
    match cand.find? (fun p => cand.all (fun q => !older p q)) with
    | some (_, x) => requestPark s x.gc x.b 5 false
    | none => s

/-- VGROW (R136). -/
def execVgrow (h : Hdr) (a : Src) (imm : BitVec 27) (s : State) : Host.Outcome State Fault Refusal :=
  fin s h true (atGroup s h (fun gk g m => countOf s h a imm m (fun n =>
    if n = 0 ∨ n % 8 ≠ 0 ∨ (s.lrec g.gc).vmax < g.vcount + n then flt s 0x0E (Hdr.lv h) m
    else if growFits s g n then .next (s.updGrp gk (fun g => growGroup g n))
    else .stay (growPark (haltWaiting (s.updGrp gk (fun g => { g with vwant := n, vent := s.cur.e }))) (coreOfGrp s g)))))

/-- VGROW_GRANT (R41): a blocked request that fits now is granted and its instruction is done; where it does not fit, the core parks
its youngest band if every group there is blocked or stopped. -/
def execVgrowGrant (gk : Nat) (s : State) : Host.Outcome State Fault Refusal :=
  match s.grp? gk with
  | none => .next s
  | some g =>
    if g.vwant = 0 then .next s
    else if growDue s g then .next (growNow s gk)
    else .next (growPark s (coreOfGrp s g))

/-- VGIVE (R136). -/
def execVgive (h : Hdr) (a : Src) (imm : BitVec 27) (s : State) : Host.Outcome State Fault Refusal :=
  fin s h true (atGroup s h (fun gk g m => countOf s h a imm m (fun n =>
    if n = 0 ∨ n % 8 ≠ 0 ∨ g.vcount < n + 8 then flt s 0x0E (Hdr.lv h) m
    else if (List.range n).any (fun i => (lanesOf (lowMask g.nlive)).any (fun l => g.vempty (g.vcount - n + i) l)) then .wait
    else
      let lo := vkey (g.vcount - n) 0
      .next (s.updGrp gk (fun g => { g with
        vr := g.vr.filter (fun p => decide (p.1 < lo)), ve := g.ve.filter (fun p => decide (p.1 < lo)),
        vp := g.vp.filter (fun p => decide (p.1 < lo)), vcount := g.vcount - n })))))

end Sys2Proof.Machine
end

