-- ==== Sys2Proof/Machine/Wakes.lean ====
section
/-! DEFINITION. Futures and lock words (R356, R361), the wake-up tables of the home slices (R330, R362), task lookup (R338) and
taking in (R327 to R329, R346). -/

namespace Sys2Proof.Machine

/-! ## The wake-up tables -/

/-- The waiting state of a context: a group-domain context's stands in its group. -/
def ctxWait (s : State) (ck : Nat) : WaitSt :=
  match s.ctx? ck with
  | some c => if c.dom = domGroup then (match s.grp? (grpOfCtx s c) with | some g => g.w | none => .none) else c.w
  | none => .none

/-- Set the waiting state of a context. -/
def setCtxWait (s : State) (ck : Nat) (w : WaitSt) : State :=
  match s.ctx? ck with
  | some c => if c.dom = domGroup then s.updGrp (grpOfCtx s c) (fun g => { g with w := w }) else s.updCtx ck (fun c => { c with w := w })
  | none => s

/-- Whether a slice's table has room for one more entry (R362). -/
def wakeRoom (s : State) (pa : Nat) : Bool :=
  decide ((s.wakes.filter (fun w => homeOf s.floor w.pa == homeOf s.floor pa)).length < 16384)

/-- Whether a context sleeps on a word without a full slot: its wake-up or its place among the overflow waiters stands, or its
task's slot is still empty. -/
def asleep (s : State) (ck pa task : Nat) : Bool :=
  s.wakes.any (fun w => w.pa == pa && (if w.slot then w.task == task && !w.full else w.ck == ck)) ||
  s.ovf.any (fun w => w.pa == pa && w.ck == ck)

/-- Register a wake-up of a context on a word, a future or a counter, or make it an overflow waiter (R358, R360, R362). -/
def addWake (s : State) (pa task ck : Nat) (fut : Bool) : State :=
  if s.wakes.any (fun w => w.pa == pa && !w.slot && w.ck == ck) then s
  else if wakeRoom s pa then { s with wakes := s.wakes ++ [⟨pa, task, false, false, ck, fut⟩] }
  else { s with ovf := s.ovf ++ [⟨pa, task, false, false, ck, fut⟩] }

/-- A waiting bit of a future is set by an entry of the table, not by an overflow waiter (R356, R362). -/
def wakeStands (s : State) (pa ck : Nat) : Bool := s.wakes.any (fun w => w.pa == pa && !w.slot && w.ck == ck)

/-- Drop what a context has registered on a word. -/
def dropWake (s : State) (pa ck : Nat) : State :=
  let s := unregister s (fun w => w.pa == pa && !w.slot && w.ck == ck)
  { s with ovf := s.ovf.filter (fun w => !(w.pa == pa && w.ck == ck)) }

/-- Release every wake-up of a future's word (R330, R357). -/
def wakeAll (s : State) (pa : Nat) : State :=
  wakeOvf { s with wakes := s.wakes.filter (fun w => w.slot || w.pa != pa) } pa

/-- Whether a waiting context may go on: what it sleeps on has been released (R330, R360, R363). -/
def woken (s : State) (ck : Nat) : Bool :=
  match ctxWait s ck with
  | .fwait pa _ _ _ => !asleep s ck pa 0x3FFFFFFF
  | .lock pa => !asleep s ck pa (s.task (ck % 64)).id
  | .cntwt pa tgt => decide (tgt ≤ homeGet s pa 8)
  | _ => false

/-- The contexts of a band: those of its domain and of its groups. -/
def ctxsOfBand (s : State) (gc b : Nat) : List (Nat × Ctx) :=
  s.ctxs.filter (fun p => p.2.gc == gc && decide (p.2.dom ≤ domBand) && (s.lrec gc).bandOf p.2.lvl p.2.g == b)

/-- Whether a unit stands in a ready queue. -/
def unitReady (s : State) (gc b : Nat) : Bool :=
  s.ready.any (fun e => match e.what with | .unit g x => g == gc && x == b | _ => false)

/-- Unresolved records of the bands that park together (R179). -/
def unresolved (s : State) (gc : Nat) (bs : List Nat) : Nat :=
  sumL (bs.map (fun b => match s.band? (bandKey gc b) with | some x => x.unres | none => 0))

/-- Put a parked unit in the ready queue of its task's priority, unless it stands there (R337, R342) or records of it are unresolved:
whatever began the park, it then becomes ready when the host has resolved them (R179, R180). While the queues are full it waits for
room (R342). -/
def makeReady (s : State) (gc b : Nat) : State :=
  if unitReady s gc b || unresolved s gc (bandsWith s gc b) != 0 then s
  else if s.ready.length < 65536 then readyAdd s (.unit gc b) (s.task gc).prio
  else s.updBand (bandKey gc b) (fun x => { x with due := true })

/-- Units that wait for room in the ready queues enter them (R342). -/
def dueScan (s : State) : State :=
  s.bands.foldl (fun (s : State) (p : Nat × Band) =>
    if p.2.due then makeReady (s.updBand p.1 (fun x => { x with due := false })) p.2.gc p.2.b else s) s

/-- Bands that were parked idle in a wait (R330), internal cause 7, become ready once a wait of theirs is released. -/
def wakeScan (s : State) : State :=
  s.bands.foldl (fun (s : State) (p : Nat × Band) =>
    if p.2.st == .parked && p.2.cause == 7 && (ctxsOfBand s p.2.gc p.2.b).any (fun q => woken s q.1) then makeReady s p.2.gc p.2.b
    else s) s

/-! ## Futures (R356) -/

/-- Register a wake-up of a context on a future, with its WREG (R358). -/
def futWait (s : State) (pa task ck : Nat) : State :=
  let t := addWake s pa task ck true
  if wakeStands t pa ck then futPut t pa { futGet t pa with wreg := true } else t

/-- Make a future full: every registered waiter becomes ready (R340, R357). -/
def futFill (s : State) (pa : Nat) (v : W64) (orph : Bool) : State :=
  let f := futGet s pa
  wakeScan (wakeAll (futPut s pa { f with value := v, full := true, orph := orph, wreg := false }) pa)

/-! ## Tasks (R336, R338) -/

/-- The address of a task's record by its id, through a directory; none where it cannot be resolved (R338). -/
def taskOfId (s : State) (t : Task) (id : Nat) : Option Nat :=
  if t.tdlim ≤ id then none
  else ((feRead s t.space t.top (t.tdir.toNat + 8 * id) 8).map leNat).filter (fun va => va != 0)

/-- The physical address of the record of a task named by id. -/
def recOfId (s : State) (t : Task) (id : Nat) : Option Nat :=
  (taskOfId s t id).bind (fun va => feAddr s t.space t.top va .write)

/-- Whether a task named by id has retired; one that cannot be resolved has not (R338, R364). -/
def retiredId (s : State) (t : Task) (id : Nat) : Bool :=
  match recOfId s t id with | some pa => taskState s pa == 5 | none => false

/-- Write ADOPTED or HELPER of a record. -/
def putLink (s : State) (pa off id : Nat) : State := devPut s (pa + off) 4 id

/-- Write HELPER or ADOPTED of a running task's own record, where it can be written. -/
def putOwnLink (s : State) (gc off id : Nat) : State :=
  match taskPa s (s.task gc) with | some pa => putLink s pa off id | none => s

/-! ## Chains (R346) -/

/-- The tasks of a chain from a waiting task up, itself not included: who took it in, who took that one in, at most n. ADOPTED keeps its
value when an adopter is gone, so the chain stands as the take-in made it (R346). -/
def chainUp (s : State) (n gc : Nat) : List Nat := match s.launch? gc with | some l => l.ups.take n | none => []

/-- Pad a list of 4-byte ids to a DETAIL field. -/
def idDetail (l : List Nat) : List Byte := (((l ++ List.replicate 16 0x3FFFFFFF).take 16).map (leBytes 4)).flatten

/-- The wait-cycle fault of a waiting task (R171, R346). -/
def cycleFault (s : State) (gc lev : Nat) : FaultReq :=
  let ch := chainUp s 4 gc
  { FaultReq.mk0 0x16 lev with aux := BitVec.ofNat 32 ch.length, det := idDetail (ch.reverse ++ [(s.task gc).id]) }

/-! ## Taking in (R327, R346) -/

/-- Whether a READY task's launch is one band and fits what a band holds: in which group slots (R327). -/
def takeNew (s : State) (x : Band) (r : LRec) : Option (List Nat) := if r.bands = 1 then fitsNew s x r else none

/-- Whether a parked unit is one band and fits what a band holds: in which group slots (R327). -/
def takeOld (s : State) (x : Band) (gc b : Nat) : Option (List Nat) := if (s.lrec gc).bands = 1 then fitsOld s x gc b else none

/-- Whether two tasks are the same record. -/
def sameTask (s : State) (t : Task) (pa : Nat) : Bool := taskPa s t == some pa

/-- The ready-queue entry of an owner by the address of its record, with its place; one that is taken in already does not count. -/
def ownerEntry (s : State) (pa : Nat) : Option (Nat × ReadyEnt) :=
  (((s.ready.zipIdx).map (fun p => (p.2, p.1))).filter (fun p => !p.2.taken)).find? (fun p => match p.2.what with
    | .task t _ => sameTask s t pa
    | .unit gc _ => sameTask s (s.task gc) pa
    | .more _ => false)

/-- Mark, or clear, the ready entry of something as taken in. -/
def markTaken (s : State) (what : ReadyItem) (b : Bool) : State :=
  { s with ready := s.ready.map (fun e => if e.what = what then { e with taken := b } else e) }

/-- A take-in is agreed: the owner is RUNNING, the links are written, and the waiter's band is asked to park with CAUSE 4 (R327, R346). -/
def agreeTake (s : State) (gcW b pa idO : Nat) (e : ReadyEnt) (gcO : Nat) : State :=
  let s := markTaken s e.what true
  let s := s.updLaunch gcO (fun l => { l with helper := (s.task gcW).id, ups := (s.task gcW).id :: chainUp s 3 gcW })
  let s := putLink (setTaskState s pa 3) pa 0x68 (s.task gcW).id
  let s := putOwnLink s gcW 0x6C idO
  requestPark (s.updBand (bandKey gcW b) (fun x => { x with take := some ⟨gcO, e⟩ })) gcW b 4 false

/-- Take in an owner that is READY, if it fits and a grid context is free. -/
def takeReady (s : State) (gcW b pa : Nat) (x : Band) (e : ReadyEnt) (t : Task) : Option State :=
  match launchOf s t, freeGc s with
  | some l, some gcO =>
    if (takeNew s x l.r).isSome then
      some (agreeTake { s with launches := tabSet s.launches gcO l } gcW b pa (bitsOf (devGet s pa 8) 29 0) e gcO)
    else none
  | _, _ => none

/-- Take in the parked unit of an owner, if it fits. -/
def takeParked (s : State) (gcW b pa : Nat) (x : Band) (e : ReadyEnt) (gcO bO : Nat) : Option State :=
  if (takeOld s x gcO bO).isSome then some (agreeTake s gcW b pa (bitsOf (devGet s pa 8) 29 0) e gcO) else none

/-- Take an owner's entry in for a waiting context's band, if it is READY or parked and fits (R327, R346). Its entry leaves the ready
queue once that band has parked. -/
def takeIn (s : State) (gcW b pa : Nat) : Option State :=
  match s.band? (bandKey gcW b), ownerEntry s pa with
  | some x, some (_, e) =>
    if x.park.isSome || x.take.isSome then none
    else match e.what with
      | .task t _ => if taskState s pa ≠ 2 then none else takeReady s gcW b pa x e t
      | .unit gcO bO => if taskState s pa ≠ 4 then none else takeParked s gcW b pa x e gcO bO
      | .more _ => none
  | _, _ => none

/-- Undo a take-in whose park was abandoned or whose helper is gone (R346, R370). -/
def undoTake (s : State) (bk : Nat) : State :=
  match (s.band? bk).bind (fun x => x.take.map (fun t => (x, t))) with
  | none => s
  | some (x, t) =>
    let pa := taskPa s (s.task t.gc)
    let st := match t.ent.what with | .task _ _ => 2 | _ => 4
    let s := match pa with | some pa => putLink (setTaskState s pa st) pa 0x68 0x3FFFFFFF | none => s
    let s := putOwnLink s x.gc 0x6C 0x3FFFFFFF
    let s := match t.ent.what with
      | .task _ _ => { s with launches := tabDel s.launches t.gc }
      | _ => s.updLaunch t.gc (fun l => { l with helper := 0x3FFFFFFF, ups := [] })
    (markTaken s t.ent.what false).updBand bk (fun x => { x with take := none })

/-- Undo the take-ins of bands that no longer run (R346). -/
def sweepTakes (s : State) : State :=
  s.bands.foldl (fun (s : State) (p : Nat × Band) => if p.2.take.isSome && p.2.st != .resident then undoTake s p.1 else s) s

/-- Place the owner in the resources of the band that has just parked for it (R327): lowest-numbered freed group slots first. Where the
owner has been aborted meanwhile there is nothing to wait for, and the band becomes ready again. -/
def placeOwner (s : State) (bk : Nat) : State :=
  match (s.band? bk).bind (fun x => x.take.map (fun t => (x, t))) with
  | none => s
  | some (x, t) =>
    let s := { s with ready := s.ready.filter (fun e => !(e.taken && e.what == t.ent.what)) }
    if (match s.launch? t.gc with | some l => l.done | none => true) then
      makeReady (putOwnLink (s.updBand bk (fun y => { y with take := none })) x.gc 0x6C 0x3FFFFFFF) x.gc x.b
    else
    let done := fun (s : State) (gcO bO : Nat) =>
      s.updBand bk (fun y => { y with take := none, helps := some gcO, reserve := some (bandKey gcO bO) })
    match t.ent.what with
    | .task tO bkO =>
      let r := s.lrec t.gc
      let s := placeBandAt s t.gc 0 x.core x.slot ((slotsOf s x).take r.gpb)
      let s := match r.wholeLev with
        | some k => addCtxs (addCtxs s t.gc k 0 domCluster (clusOfCore s.floor x.core)) t.gc k 0 domDie (dieOfCore s.floor x.core)
        | none => s
      let s := s.updLaunch t.gc (fun l => { l with placed := chunks l.r })
      done (startTops (freePend s bkO tO.rcd) t.gc (chunkLev r) 0) t.gc 0
    | .unit gcO bO =>
      let s := reoccupy s gcO bO x.core x.slot ((slotsOf s x).take (s.lrec gcO).gpb)
      done (match wholeUnit s gcO bO with
        | some (k, g) => movePlace (movePlace s gcO k g domCluster (clusOfCore s.floor x.core)) gcO k g domDie (dieOfCore s.floor x.core)
        | none => s) gcO bO
    | .more _ => s.updBand bk (fun y => { y with take := none })

/-- What a wait on an owner comes to (R346). -/
inductive WaitRes where
  | cycle | taken (s : State) | sleep
  deriving Repr

/-- Apply the first row of R346 that holds for a context that waits on an owner. -/
def ownerTest (s : State) (ck idO : Nat) : WaitRes :=
  match s.ctx? ck with
  | none => .sleep
  | some c =>
    let w := s.task c.gc
    let ch := chainUp s 4 c.gc
    if idO = w.id ∨ ch.contains idO then .cycle
    else if 4 ≤ ch.length ∨ domBand < c.dom then .sleep
    else match recOfId s w idO with
      | none => .sleep
      | some pa =>
        match takeIn s c.gc ((s.lrec c.gc).bandOf c.lvl c.g) pa with
        | some t => .taken t
        | none => .sleep

end Sys2Proof.Machine
end

