-- ==== Sys2Proof/Machine/Spawn.lean ====
section
/-! DEFINITION. The checks of a task at its spawn step (R18, R335), the spawn step (R339), retirement (R328, R331, R340), and the
push of a reclaimed object (R373, R374). -/

namespace Sys2Proof.Machine

/-! ## The checks of R18 -/

/-- Condition 1: L0 alone is bound to the lane. -/
def cond1 (r : LRec) : Bool :=
  (r.lvl 0).dom == 0 && ((List.range r.levels.length).all (fun k => k == 0 || (r.lvl k).dom != 0))

/-- Condition 2: domains do not decrease. -/
def cond2 (r : LRec) : Bool := (List.range (r.levels.length - 1)).all (fun k => decide ((r.lvl k).dom ≤ (r.lvl (k + 1)).dom))

/-- Condition 3: one group-domain level; consecutive levels share a domain only at band or above. -/
def cond3 (r : LRec) : Bool :=
  decide (((List.range r.levels.length).filter (fun k => (r.lvl k).dom = domGroup)).length ≤ 1) &&
  (List.range (r.levels.length - 1)).all (fun k => (r.lvl k).dom != (r.lvl (k + 1)).dom || decide (domBand ≤ (r.lvl k).dom))

/-- Condition 4 of one level: reserved bits of its entry, counts and extents in range. `v` is the entry. -/
def cond4At (k v : Nat) (l : Level) : Bool :=
  decide (l.dom ≤ 5) && decide (l.scope ≤ 6) && !bitOf v 7 && bitsOf v 31 18 == 0 && decide (l.nbar ≤ 8) && decide (l.nscal ≤ 32) &&
  (k != 0 || (l.nbar == 0 && l.nscal == 0 && decide (l.ext ≤ 32))) &&
  decide (1 ≤ l.e0) && decide (1 ≤ l.e1) && decide (1 ≤ l.e2)

/-- Condition 4. -/
def cond4 (bs : List Byte) (r : LRec) : Bool :=
  (List.range r.levels.length).all (fun k => cond4At k (bfld bs (0x80 + 16 * k) 16) (r.lvl k))

/-- Condition 5: the scope of a level is at least its domain's. -/
def cond5 (r : LRec) : Bool := (List.range r.levels.length).all (fun k => (r.lvl k).dom == 0 || decide ((r.lvl k).dom ≤ (r.lvl k).scope))

/-- The highest level of a domain. -/
def highLev (r : LRec) (dom : Nat) : Option Nat := ((List.range r.levels.length).filter (fun k => (r.lvl k).dom = dom)).getLast?

/-- Condition 6: bands and groups of one unit of each domain fit it as one piece. -/
def cond6 (r : LRec) : Bool :=
  decide (r.gpb ≤ 16) &&
  (match highLev r domCluster with | some k => decide (r.bandsOf k ≤ 64) | none => true) &&
  (match highLev r domDie with | some k => decide (r.bandsOf k ≤ 320) | none => true)

/-- Condition 7: contexts of one unit of each domain (R19). -/
def cond7 (r : LRec) : Bool :=
  let ok := fun (dom n : Nat) => match highLev r dom with | some k => decide (ctxNeed r k dom ≤ n) | none => true
  ok domBand 4 && ok domCluster 8 && ok domDevice 64 &&
  (match highLev r domDie with
   | some k => decide (ctxNeed r k domDie ≤ 16) && decide (ctxNeed r k domCluster ≤ 40)
   | none => true)

/-! ## The checks of R335 -/

/-- Slices of the groups that land in a quarter on an empty core, at a register count (R100). -/
def landSlices (r : LRec) (q cnt : Nat) : Nat := slotSlices r (List.range r.gpb) q cnt

/-- Codes 0x0B: VREGS breaks R39, or the maximum slices do not fit. `v` is the field as read. -/
def vregsOk (v : Nat) (r : LRec) : Bool :=
  let ok := fun (n : Nat) => n % 8 == 0 && decide (8 ≤ n) && decide (n ≤ 256)
  ok r.vbase && ok r.vmax && decide (r.vbase ≤ r.vmax) && decide (v < 2 ^ 64) &&
  decide (r.gpb * slices r.nlive r.vmax ≤ 2048) && (List.range 4).all (fun q => decide (landSlices r q r.vmax ≤ 512))

/-- Code 0x0A: whether every band of a resident launch fits on the enabled units with no other work (R43). -/
def residFits (s : State) (l : Launch) : Bool :=
  let e := { s with bands := [], groups := [], ctxs := [], clusters := [], launches := [(0, { l with placed := 0 })] }
  (placeMore e 0 0).isSome

/-- Code 0x0E: fields in range, and zero fields zero. -/
def fieldsOk (bs : List Byte) (r : LRec) : Bool :=
  let h := bfld bs 0 8
  !(r.prodv && decide (r.gpb ≤ r.prod)) && decide (r.pins ≤ 4) && decide (r.scrg ≤ 256) && decide (r.lmcount ≤ 1024) &&
  bitsOf h 63 41 == 0 && bitsOf h 31 19 == 0 && bitsOf (bfld bs 0x18 8) 15 9 == 0 && bitsOf (bfld bs 0x18 8) 63 25 == 0 &&
  bitsOf (bfld bs 0x28 8) 63 11 == 0 && ((bs.drop 0x40).take 64).all (fun b => b == 0)

/-- Code 0x0F: the save bases. -/
def savesOk (r : LRec) (save usavex : W64) : Bool :=
  let al := fun (v : W64) => v.toNat % 4096 == 0
  let base := if save ≠ 0 then save else r.bsave
  let ubase := if usavex ≠ 0 then usavex else r.usave
  base != 0 && al base && al save &&
  (if r.wholeLev.isSome then ubase != 0 && al ubase else r.usave == 0)

/-- Whether a task record keeps R336, its STATE apart. -/
def taskRecOk (bs : List Byte) (va : Nat) : Bool :=
  let h := bfld bs 0 8
  va % 128 == 0 && bitsOf h 47 38 == 0 && !bitOf h 35 && bitsOf h 31 30 == 0 && bitsOf h 29 0 != 0x3FFFFFFF &&
  bfld bs 8 4 == 0 && bfld bs 0x0C 4 == 0 && ((bs.drop 0x70).take 16).all (fun b => b == 0)

/-- The first code of the launch record's checks, in table order (R335). -/
def launchCode (s : State) (bs : List Byte) (l : Launch) (priv : Bool) : Option Nat :=
  let r := l.r
  let n := bitsOf (bfld bs 0 8) 3 0
  let zeros := (List.range 8).all (fun k => decide (k < n) || bfld bs (0x80 + 16 * k) 16 == 0)
  if n < 2 ∨ 8 < n ∨ !zeros then some 0x01
  else if !cond1 r then some 0x02
  else if !cond2 r then some 0x03
  else if !cond3 r then some 0x04
  else if !cond4 bs r then some 0x05
  else if !cond5 r then some 0x06
  else if !cond6 r then some 0x07
  else if !cond7 r then some 0x08
  else if (r.lvl r.top).dom ≤ domGroup then some 0x09
  else if r.resid ∧ !residFits s l then some 0x0A
  else if !vregsOk (bfld bs 0x18 8) r then some 0x0B
  else if r.chk = 3 then some 0x0C
  else if r.priv ∧ !priv then some 0x0D
  else if !fieldsOk bs r then some 0x0E
  else if !savesOk r l.save l.usavex then some 0x0F
  else none

/-- A task and its launch as a record describes them. -/
def taskAt (va space top : Nat) (tdir : W64) (tdlim : Nat) (bs : List Byte) : Task :=
  let h := bfld bs 0 8
  ⟨BitVec.ofNat 64 va, bitsOf h 29 0, bitsOf h 37 36, space, top, tdir, tdlim⟩

/-! ## Retirement (R340) -/

/-- Raise the completion counter of a record by one at its home slice (R331). -/
def bumpCounter (s : State) (t : Task) (va : Nat) : State :=
  if va = 0 then s
  else match feAddr s t.space t.top va .write with
    | some pa => wakeScan (devPut s pa 8 ((devGet s pa 8 + 1) % 2 ^ 64))
    | none => walked s t.space t.top va

/-- Add a READY task to the ready queues (R337). -/
def readyTask (s : State) (t : Task) (bk : Option Nat) : State := readyAdd s (.task t bk) t.prio

/-- A BLOCKED task by the address of its record, as its own spawner made it: with that one's space and directory (R338, R339). -/
def blockedTask (s : State) (pa : Nat) : Option Task := (s.blocked.find? (fun p => p.1 == pa)).map (·.2)

/-- Keep a BLOCKED task. -/
def blockTask (s : State) (pa : Nat) (t : Task) : State := { s with blocked := (pa, t) :: s.blocked.filter (fun p => p.1 != pa) }

/-- The state after an id could not be looked up in a directory (R235, R338). -/
def idFailed (s : State) (t : Task) (id : Nat) : State :=
  if id < t.tdlim ∧ (feRead s t.space t.top (t.tdir.toNat + 8 * id) 8).isNone then feFailed s t.space t.top (t.tdir.toNat + 8 * id) 8 .read
  else s

/-- Decrement the PRED of one successor: the state, and whether LOST is set (R340 step 5). A BLOCKED one that becomes READY is the task
that its spawner made, in that one's space. -/
def decSucc (s : State) (t : Task) (id : Nat) : State × Bool :=
  match taskOfId s t id with
  | none => (idFailed s t id, true)
  | some va =>
    match feAddr s t.space t.top va .write with
    | none => (walked s t.space t.top va, true)
    | some pa =>
      let h := devGet s pa 8
      let pred := bitsOf h 63 48
      if pred = 0 then (s, true)
      else
        let s := devPut s pa 8 (h - 2 ^ 48)
        if bitsOf h 34 32 = 1 ∧ pred = 1 then
          (readyTask (setTaskState { s with blocked := s.blocked.filter (fun p => p.1 != pa) } pa 2)
            ((blockedTask s pa).getD (taskAt va t.space t.top t.tdir t.tdlim (leBytes 8 h))) none, false)
        else (s, false)

/-- The ids of the OVERFLOW list, at most 1,024, and whether it ended as it should. -/
def overflowIds (s : State) (t : Task) : Nat → Nat → List Nat × Bool
  | 0, _ => ([], true)
  | n + 1, va =>
    match feRead s t.space t.top va 4 with
    | none => ([], false)
    | some bs => if leNat bs = 0x3FFFFFFF then ([], true)
      else let (l, ok) := overflowIds s t n (va + 4); (leNat bs :: l, ok)

/-- Every successor id of a record: inline, then OVERFLOW. -/
def succIds (s : State) (t : Task) (bs : List Byte) : List Nat × Bool :=
  let inl := ((List.range 6).map (fun i => bfld bs (0x50 + 4 * i) 4)).filter (fun id => id != 0x3FFFFFFF)
  let ov := bfld bs 0x10 8
  let (l, ok) := if ov = 0 then ([], true) else overflowIds s t 1024 ov
  (inl ++ l, ok)

/-- Whether a change that may add to the ready queues adds nothing, or leaves no more in them than they can hold (R342). -/
def readyFits (s t : State) : Bool := decide (t.ready.length ≤ s.ready.length) || decide (t.ready.length ≤ 65536)

/-- STATUS of a record at its retirement (R340 step 2). -/
def retStatus (s : State) (pa out code : Nat) : State := devPut s (pa + 8) 4 (out * 256 + code)

/-- A successor could not be updated (R340 step 5). -/
def retLost (s : State) (pa : Nat) : State := devPut s (pa + 8) 4 (devGet s (pa + 8) 4 ||| 1024)

/-- The result future that is still empty becomes full, orphaned (R340 step 3). -/
def retFuture (s : State) (t : Task) (bs : List Byte) : State :=
  let fva := bfld bs 0x30 8
  if fva = 0 then s
  else match feAddr s t.space t.top fva .write with
    | some fp => if (futGet s fp).full then s else futFill s fp 0 true
    | none => walked s t.space t.top fva

/-- One successor's decrement (R340 step 5). -/
def retSucc (s : State) (t : Task) (pa id : Nat) : State :=
  let (s, lost) := decSucc s t id
  if lost then retLost s pa else s

/-- Steps 2 to 6 of R340 at once on the record of a task that is rejected: STATUS, the future unless it is not its own, COUNTER,
successors, STATE. -/
def retireRec (s : State) (t : Task) (pa : Nat) (bs : List Byte) (out code : Nat) (own : Bool) : State :=
  let s := retStatus s pa out code
  let s := if own then retFuture s t bs else s
  let s := bumpCounter s t (bfld bs 0x38 8)
  let (ids, ok) := succIds s t bs
  let s := ids.foldl (fun s id => retSucc s t pa id) (if ok then s else retLost s pa)
  setTaskState s pa 5

/-! ## The spawn step (R339) -/

/-- What a spawn step answers: its code, or that it waits for room in the ready queues. -/
inductive SpawnRes where
  | wait
  | done (code : Nat) (s : State)
  deriving Repr

/-- Spawn the task of a record for a queue or a band: `bk` is the band whose pending-launch entry stands for it (R326). A
rejection retires the task at once, but for a record that cannot be read or is not NEW (R335). -/
def spawn (s : State) (va space top : Nat) (tdir : W64) (tdlim : Nat) (priv : Bool) (bk : Option Nat) : SpawnRes :=
  match feRead s space top va 128, feAddr s space top va .read with
  | some bs, some pa =>
    let t := taskAt va space top tdir tdlim bs
    let h := bfld bs 0 8
    -- the record and its launch record are read: the events of their sectors (R194)
    let seen := fun (s : State) => match feAddr s space top (bfld bs 0x20 8) .read with
      | some lpa => (readCheck (readCheck s pa 128).2 lpa 256).2
      | none => (readCheck s pa 128).2
    let done := fun (code : Nat) (u : State) => if readyFits s u then SpawnRes.done code u else .wait
    if bitsOf h 34 32 ≠ 0 then .done 0x10 (readCheck s pa 128).2
    else
      let s := seen s
      let drop := fun (s : State) => freePend s bk t.rcd
      let reject := fun (code : Nat) => done code (drop (retireRec s t pa bs 3 code (code != 0x12)))
      match feRead s space top (bfld bs 0x20 8) 256, launchOf s t with
      | some lb, some l =>
        match launchCode s lb l priv with
        | some c => reject c
        | none =>
          if !taskRecOk bs va then reject 0x10
          else
            let fva := bfld bs 0x30 8
            let f? := if fva = 0 then none else feAddr s space top fva .write
            let taken := match f? with | some fp => (futGet s fp).ownv || (futGet s fp).full | none => false
            if taken then reject 0x12
            else
              let s := match f? with | some fp => futPut s fp { futGet s fp with ownv := true, owner := t.id } | none => s
              if bitsOf h 63 48 = 0 then done 0 (readyTask (setTaskState s pa 2) t bk)
              else .done 0 (drop (blockTask (setTaskState s pa 1) pa t))
      | _, _ =>
        let code := if bfld bs 0x48 8 % 4096 ≠ 0 then 0x0F else if taskRecOk bs va then 0x11 else 0x10
        done code (drop (retireRec (feFailed s space top (bfld bs 0x20 8) 256 .read) t pa bs 3 code true))
  | _, _ => .done 0x11 (freePend (feFailed s space top va 128 .read) bk (BitVec.ofNat 64 va))

/-- SPAWN_STEP (R339, R354): the front end takes the oldest entry of a band's pending-launch queue that it has not. -/
def execSpawnStep (gc b : Nat) (s : State) : Host.Outcome State Fault Refusal :=
  .next (match s.band? (bandKey gc b) with
  | none => s
  | some x =>
    match x.pend.find? (fun p => !p.2) with
    | none => s
    | some (va, _) =>
      let t := s.task gc
      let i := x.pend.findIdx (fun p => !p.2)
      let s1 := s.updBand (bandKey gc b) (fun x => { x with pend := setNth x.pend i (va, true) })
      match spawn s1 va.toNat t.space t.top t.tdir t.tdlim (s.lrec gc).priv (some (bandKey gc b)) with
      | .wait => s
      | .done 0x10 s' => freePend s' (some (bandKey gc b)) va
      | .done _ s' => s')

end Sys2Proof.Machine
end

