-- ==== Sys2Proof/Machine/Tasks.lean ====
section
/-! DEFINITION. The task, future and lock instructions (R349, R350, R354 to R364). -/

namespace Sys2Proof.Machine

/-! ## Shared pieces -/

/-- What the records of faults on a synchronisation word say: the word's width, scope DEV (R350). -/
def wordDesc (width : Nat) (wr : Bool) : AccDesc := ⟨width, 5, wr, false⟩

/-- The steps of R350 on a word: address form, alignment, translation (a window gives 0x21), poison of the operands listed. -/
def wordGo (s : State) (h : Hdr) (width : Nat) (wr : Bool) (uses : List Use) (va : W64) (k : State → Nat → Act) : Act :=
  globalGo s (Hdr.lv h) (wordDesc width wr) width (if wr then .write else .read) [(0, va)] uses (fun pa => !isMem s.floor pa)
    (fun t l => match l with | (_, pa) :: _ => k t pa | [] => .wait)

/-- Code 0x30 for a word in a poisoned sector: the word is left unchanged (R350). -/
def badWord (s : State) (h : Hdr) (pa width : Nat) : Option Act :=
  if badRange s pa width then some (flt (sectorEvents s pa width) 0x30 (Hdr.lv h) 0) else none

/-- The context that issues. -/
def ctxHere (s : State) (h : Hdr) : Nat := ownKey s s.cur.u (Hdr.lv h)

/-- The id of the task that issues. -/
def taskHere (s : State) : Nat := (s.task (gcOf s s.cur.u)).id

/-- An acquire at DEV of the unit in hand (R254). -/
def acquireHere (s : State) : State := acquireView s s.cur.u

/-- Run an instruction on scalar operands at its context, once they are ready; a wait under way skips the checks. -/
def atWord (s : State) (h : Hdr) (srcs : List (Nat × Src)) (dst : List DUse) (f : Act) : Act :=
  onceRun s h (fun m => match checkUses s s.cur.u (Hdr.lv h) m (onceUses h m 1 srcs) dst with
    | some a => a
    | none => f)

/-- The value of a scalar operand. -/
def scalHere (s : State) (h : Hdr) (a : Src) : W64 := onceVal s h 0 0 a.o

/-- The uses of scalar operands, for the poison check. -/
def scalUses (h : Hdr) (srcs : List (Nat × Src)) : List Use := onceUses h 1 1 srcs

/-- The poison check of operands where the step at the home slice may raise a code that goes before it: 0x16 wins (R168). -/
def poisonLast (s : State) (h : Hdr) (srcs : List (Nat × Src)) (a : Act) : Act :=
  let cycle := match a with | .fault _ f => f.code == 0x16 | _ => false
  if cycle then a else (checkPoison s s.cur.u (Hdr.lv h) (scalUses h srcs)).getD a

/-! ## Tasks -/

/-- TSPAWN (R354): a release at DEV, then an entry of the band's pending-launch queue, of four (R326). -/
def execTspawn (h : Hdr) (a : Src) (s : State) : Host.Outcome State Fault Refusal :=
  fin s h true (atWord s h [(1, a)] [] (
    let v := scalHere s h a
    let f := fun (code : Nat) => Act.fault s (memFault code (Hdr.lv h) 0 (wordDesc 128 false) v.toNat v.toNat v.toNat)
    if !vaOk v then f 0x22
    else if v.toNat % 128 ≠ 0 then f 0x12
    else match checkPoison s s.cur.u (Hdr.lv h) (scalUses h [(1, a)]) with
      | some x => x
      | none =>
        let full := match s.band? (bandHere s) with | some b => decide (4 ≤ b.pend.length) | none => true
        if !onceDrained s h 5 || full then .wait
        else .next (s.updBand (bandHere s) (fun b => { b with pend := b.pend ++ [(v, false)] }))))

/-- TSELF (R355). -/
def execTself (h : Hdr) (d : Opd) (s : State) : Host.Outcome State Fault Refusal :=
  fin s h true (atWord s h [] [⟨d, 1, 1⟩] (putOnce s h 0 d 1 (s.task (gcOf s s.cur.u)).rcd))

/-! ## Futures -/

/-- FWRITE (R357): a release at DEV, then one step; a full future raises 0x15 after the release. -/
def execFwrite (h : Hdr) (a b : Src) (s : State) : Host.Outcome State Fault Refusal :=
  fin s h true (atWord s h [(1, a), (2, b)] [] (
    wordGo s h 16 true [] (scalHere s h a) (fun t pa =>
      if !onceDrained t h 5 then .wait
      else match badWord t h pa 16 with
        | some x => x
        | none =>
          if (futGet t pa).full then flt t 0x15 (Hdr.lv h) 0
          else match checkPoison t t.cur.u (Hdr.lv h) (scalUses h [(1, a), (2, b)]) with
            | some x => x
            | none => .next (futFill t pa (scalHere s h b) false))))

/-- Withdraw a wait: the destination regains what it had, and nothing stays registered (R330, for a fault of the wait). -/
def unwait (s : State) (ck : Nat) : State :=
  match ctxWait s ck with
  | .fwait pa r old full =>
    setCtxWait (dropWake (s.updCtx ck (fun c => { c with
      sc := tabPut 0 c.sc r.toNat old, se := tabPut false c.se r.toNat (!full) })) pa ck) ck .none
  | .lock pa => setCtxWait (dropWake s pa ck) ck .none
  | .cntwt pa _ => setCtxWait (dropWake s pa ck) ck .none
  | _ => s

/-- The register of a scalar destination. -/
def regNo : Opd → BitVec 5
  | .scal _ r => r
  | _ => 0

/-- One step of FWAIT at the home slice (R358): the value, a take-in, the wait cycle, or a registered wake-up. The destination
has been marked empty. -/
def fwaitStep (s : State) (h : Hdr) (ck pa : Nat) (r : BitVec 5) : Act :=
  match badWord s h pa 16 with
  | some (.fault t f) => .fault (unwait t ck) f
  | some x => x
  | none =>
    let f := futGet s pa
    if f.full then
      .next (acquireHere (setCtxWait (s.updCtx ck (fun c => c.put r ⟨f.value, true, false⟩)) ck .none))
    else
      let sleep := fun (s : State) => Act.stay (futWait s pa (taskHere s) ck)
      if !f.ownv then sleep s
      else match ownerTest s ck f.owner with
        | .cycle => .fault (unwait s ck) (cycleFault s (gcOf s s.cur.u) (Hdr.lv h))
        | .taken t => .stay t
        | .sleep => sleep s

/-- FWAIT (R358): mark sD empty, then step until the future is full. -/
def execFwait (h : Hdr) (d : Opd) (a : Src) (s : State) : Host.Outcome State Fault Refusal :=
  fin s h true (
    let ck := ctxHere s h
    match waitOf s (Hdr.lv h) with
    | .fwait pa r _ _ => onceRun s h (fun _ => if asleep s ck pa 0x3FFFFFFF then .wait else fwaitStep s h ck pa r)
    | _ =>
      atWord s h [(1, a)] [⟨d, 1, 1⟩] (
        wordGo s h 16 false [] (scalHere s h a) (fun t pa =>
          match t.ctx? ck with
          | none => .wait
          | some c =>
            let x := c.cell (regNo d)
            poisonLast t h [(1, a)] (emptyScal t ck c d (fun t r =>
              fwaitStep (setWait t (Hdr.lv h) (.fwait pa r x.v x.full)) h ck pa r)))))

/-- FTEST (R359): FULL or ORPH in one step; an acquire at DEV when FULL writes 1. -/
def execFtest (h : Hdr) (c : FtestCond) (d : BitVec 4) (a : Src) (s : State) : Host.Outcome State Fault Refusal :=
  fin s h true (atWord s h [(1, a)] [] (
    wordGo s h 16 false (scalUses h [(1, a)]) (scalHere s h a) (fun t pa =>
      match badWord t h pa 16 with
      | some x => x
      | none =>
        let f := futGet t pa
        let v := match c with | .full => f.full | .orph => f.orph
        let t := putPred t h 0 d v
        .next (if c = .full ∧ v then acquireHere t else t))))

/-- CNTWT (R360): wait until the word is at least the target; an acquire at DEV. -/
def execCntwt (h : Hdr) (a b : Src) (s : State) : Host.Outcome State Fault Refusal :=
  fin s h true (
    let ck := ctxHere s h
    let step := fun (s : State) (pa tgt : Nat) =>
      match badWord s h pa 8 with
      | some (.fault t f) => Act.fault (unwait t ck) f
      | some x => x
      | none =>
        if tgt ≤ homeGet s pa 8 then Act.next (acquireHere (setCtxWait (dropWake s pa ck) ck .none))
        else match ctxWait s ck with
          | .cntwt _ _ => .wait
          | _ => .stay (setCtxWait (addWake s pa (taskHere s) ck false) ck (.cntwt pa tgt))
    match waitOf s (Hdr.lv h) with
    | .cntwt pa tgt => onceRun s h (fun _ => step s pa tgt)
    | _ =>
      atWord s h [(1, a), (2, b)] [] (
        wordGo s h 8 false (scalUses h [(1, a), (2, b)]) (scalHere s h a) (fun t pa => step t pa (scalHere s h b).toNat)))

/-! ## Locks (R361 to R364) -/

/-- NWAIT of a lock word. -/
def lockWait (v : Nat) : Nat := bitsOf v 47 32
/-- HELD. -/
def lockHeld (v : Nat) : Bool := bitOf v 30
/-- HOLDER. -/
def lockHolder (v : Nat) : Nat := bitsOf v 29 0
/-- A lock word of its fields. -/
def lockWord (nwait : Nat) (held : Bool) (holder : Nat) : Nat := nwait % 65536 * 2 ^ 32 + b2n held * 2 ^ 30 + holder % 2 ^ 30

/-- Write a lock word as one step of its home slice; overflow waiters of the slice issue again (R362). -/
def lockPut (s : State) (pa v : Nat) : State := wakeScan (wakeOvf (homePut s pa 8 v) pa)

/-- Whether a task's slot on a lock is full. -/
def slotFull (s : State) (pa task : Nat) : Bool := s.wakes.any (fun w => w.slot && w.pa == pa && w.task == task && w.full)

/-- Whether a task has a slot on a lock. -/
def hasSlot (s : State) (pa task : Nat) : Bool := s.wakes.any (fun w => w.slot && w.pa == pa && w.task == task)

/-- Try a lock in one step (R363): with success, the state after it. -/
def lockTry (s : State) (pa task : Nat) : Option State :=
  let v := homeGet s pa 8
  if slotFull s pa task then
    some (wakeOvf { s with wakes := s.wakes.filter (fun w => !(w.slot && w.pa == pa && w.task == task)) } pa)
  else if !lockHeld v then some (lockPut s pa (lockWord (lockWait v) true task))
  else none

/-- The step of LOCK for a lock that is held (R363): a queue slot or a place among the overflow waiters, then R346. -/
def lockQueue (s : State) (h : Hdr) (ck pa : Nat) : Act :=
  let v := homeGet s pa 8
  let me := taskHere s
  let queue := fun (s : State) =>
    if hasSlot s pa me then s
    else if wakeRoom s pa ∧ lockWait v < 65535 then
      lockPut { s with wakes := s.wakes ++ [⟨pa, me, true, false, ck, false⟩] } pa (lockWord (lockWait v + 1) true (lockHolder v))
    else { s with ovf := s.ovf ++ [⟨pa, me, false, false, ck, false⟩] }
  let wait := fun (s : State) => setCtxWait (queue s) ck (.lock pa)
  match ownerTest s ck (lockHolder v) with
  | .cycle => .fault (unwait s ck) (cycleFault s (gcOf s s.cur.u) (Hdr.lv h))
  | .taken t => .stay (wait t)
  | .sleep => .stay (wait s)

/-- LOCK (R363): success is an acquire at DEV. -/
def execLock (h : Hdr) (a : Src) (s : State) : Host.Outcome State Fault Refusal :=
  fin s h true (
    let ck := ctxHere s h
    let step := fun (s : State) (pa : Nat) =>
      match badWord s h pa 8 with
      | some (.fault t f) => Act.fault (unwait t ck) f
      | some x => x
      | none =>
        match lockTry s pa (taskHere s) with
        | some t => Act.next (acquireHere (setCtxWait t ck .none))
        | none => lockQueue s h ck pa
    match waitOf s (Hdr.lv h) with
    | .lock pa => onceRun s h (fun _ => if asleep s ck pa (taskHere s) then .wait else step s pa)
    | _ => atWord s h [(1, a)] [] (wordGo s h 8 true [] (scalHere s h a) (fun t pa => poisonLast t h [(1, a)] (step t pa))))

/-- TRYLOCK (R363): never waits and never takes in. -/
def execTrylock (h : Hdr) (d : BitVec 4) (a : Src) (s : State) : Host.Outcome State Fault Refusal :=
  fin s h true (atWord s h [(1, a)] [] (
    wordGo s h 8 true (scalUses h [(1, a)]) (scalHere s h a) (fun t pa =>
      match badWord t h pa 8 with
      | some x => x
      | none =>
        match lockTry t pa (taskHere t) with
        | some t => .next (acquireHere (putPred t h 0 d true))
        | none => .next (putPred t h 0 d false))))

/-- The handover of a lock to its oldest slot, or its release (R364). -/
def unlockStep (s : State) (pa : Nat) : State :=
  let v := homeGet s pa 8
  let me := taskHere s
  let t := s.task (gcOf s s.cur.u)
  if !(lockHeld v && (lockHolder v == me || retiredId s t (lockHolder v))) then s
  else match s.wakes.findIdx? (fun w => w.slot && w.pa == pa && !w.full), s.wakes.find? (fun w => w.slot && w.pa == pa && !w.full) with
    | some i, some w =>
      if lockWait v = 0 then lockPut s pa 0
      else lockPut { s with wakes := setNth s.wakes i { w with full := true } } pa (lockWord (lockWait v - 1) true w.task)
    | _, _ => lockPut s pa 0

/-- UNLOCK (R364): a release at DEV, then one step. -/
def execUnlock (h : Hdr) (a : Src) (s : State) : Host.Outcome State Fault Refusal :=
  fin s h true (atWord s h [(1, a)] [] (
    wordGo s h 8 true (scalUses h [(1, a)]) (scalHere s h a) (fun t pa =>
      if !onceDrained t h 5 then .wait
      else match badWord t h pa 8 with
        | some x => x
        | none => .next (unlockStep t pa))))

end Sys2Proof.Machine
end

