-- ==== Sys2Proof/Machine/Pins.lean ====
section
/-! DEFINITION. Pin registers, the search, reclaim and the deferred list (R255, R367 to R376). -/

namespace Sys2Proof.Machine

/-! ## Pins -/

/-- An empty pin. -/
def PinReg.zero : PinReg := ⟨0, 0⟩

/-- Pin q of a group. -/
def Group.pin (g : Group) (q : Nat) : PinReg := (nth? g.pins q).getD PinReg.zero

/-- Change pin q of a group. -/
def Group.setPin (g : Group) (q : Nat) (p : PinReg) : Group := { g with pins := setNth g.pins q p }

/-- The group whose pins an instruction names: the issuing one (R372). -/
def pinGrp (s : State) : Option (Nat × Group) :=
  match s.cur.u with | .grp gk => (s.grp? gk).map (fun g => (gk, g)) | .ctx _ => none

/-- The fence behind which a pin's old name is withdrawn (R255): every access of the group issued before it is performed at DEV.
It orders nothing else; `pseq` names the pin. -/
def pinFence (s : State) (gk q : Nat) : Access :=
  { Access.fence s (.unit (.grp gk)) (BitVec.allOnes 32) (BitVec.allOnes 32) none .weak 5 with pseq := q + 1 }

/-- Whether a pin's fence is still pending. -/
def pinWaits (s : State) (gk q : Nat) : Bool :=
  s.accs.any (fun a => a.kind == .fence && a.ord == .weak && a.by_ == .unit (.grp gk) && a.pseq == q + 1)

/-- Run a pin instruction that names a value. -/
def withName (s : State) (h : Hdr) (a : Src) (f : Nat → Group → W64 → Act) : Act :=
  onceReady s h 2 [(1, a)] (fun _ => []) (fun m => unlessPoison s h m 2 [(1, a)] (fun _ =>
    match pinGrp s with
    | some (gk, g) => f gk g (onceVal s h m 0 a.o)
    | none => .next s))

/-- PIN (R372): publish, the old value withdrawn at once. -/
def execPin (h : Hdr) (q : BitVec 2) (a : Src) (s : State) : Host.Outcome State Fault Refusal :=
  fin s h true (withName s h a (fun gk g x =>
    .next (s.updGrp gk (fun _ => g.setPin q.toNat { g.pin q.toNat with v := x }))))

/-- PINX (R372): publish, the old value kept as the shadow until the earlier accesses are performed. -/
def execPinx (h : Hdr) (q : BitVec 2) (a : Src) (s : State) : Host.Outcome State Fault Refusal :=
  fin s h true (withName s h a (fun gk g x =>
    let p := g.pin q.toNat
    if p.shadow ≠ 0 then .wait
    else
      let s := s.updGrp gk (fun _ => g.setPin q.toNat ⟨x, p.v⟩)
      .next (if p.v = 0 then s else s.addAcc (pinFence s gk q.toNat))))

/-- UNPIN (R372): the value moves to the shadow. -/
def execUnpin (h : Hdr) (q : BitVec 2) (s : State) : Host.Outcome State Fault Refusal :=
  fin s h true (onceRun s h (fun _ =>
    match pinGrp s with
    | none => .next s
    | some (gk, g) =>
      let p := g.pin q.toNat
      if p.v = 0 then .next s
      else if p.shadow ≠ 0 then .wait
      else
        let s := s.updGrp gk (fun _ => g.setPin q.toNat ⟨0, p.v⟩)
        .next (s.addAcc (pinFence s gk q.toNat))))

/-- Whether a group has ended: by its own EXIT, or with the unit above it. -/
def groupOver (s : State) (g : Group) : Bool :=
  (match s.band? (bandKey g.gc g.b) with | some b => b.st == .ended | none => true) ||
  (match s.ctx? (grpAnc s g 1) with | some c => c.ended | none => true)

/-- The names of a killed group go once its accesses below them are performed at DEV (R198, R367). -/
def dropDead (s : State) (gk : Nat) : State :=
  { s with pins := s.pins.filter (fun p => match p.dead with
      | some n => p.gk != gk || s.accs.any (fun a => a.by_ == .unit (.grp gk) && decide (a.id < n) && a.kind != .fence && !performedAt a 5)
      | none => true) }

/-- SHADOW_WITHDRAW (R372): the shadow's withdrawal step; an ended or killed group withdraws its pins in the same way (R129, R198, R367). -/
def execShadowWithdraw (gk q : Nat) (s : State) : Host.Outcome State Fault Refusal :=
  let s := dropDead s gk
  .next (match s.grp? gk with
  | none => s
  | some g =>
    let own := s.accs.filter (fun a => a.by_ == .unit (.grp gk) && a.kind != .fence)
    let gone := groupOver s g
    if ((g.pin q).shadow = 0 ∧ (!gone ∨ (g.pin q).v = 0)) ∨ pinWaits s gk q ∨ (gone ∧ !own.all (fun a => performedAt a 5)) then s
    else reapBand (s.updGrp gk (fun g => g.setPin q ⟨if gone then 0 else (g.pin q).v, 0⟩)) g.gc g.b)

/-! ## The search (R368, R369) -/

/-- Whether a band's pins stand in its core: it is not parked. -/
def pinsHere (s : State) (g : Group) : Bool :=
  match s.band? (bandKey g.gc g.b) with | some b => b.st != .parked && b.st != .resuming | none => true

/-- Whether a name is published anywhere: in a core's CAM or in the parked-pin table; 0 never is. -/
def searchPins (s : State) (x : W64) : Bool :=
  x != 0 &&
  (s.groups.any (fun p => pinsHere s p.2 && p.2.pins.any (fun q => q.v == x || q.shadow == x)) || s.pins.any (fun p => p.name == x))

/-- PIN_SEARCH (R369): the search step of a RECLAIM or an RCDRAIN that has made its fence. -/
def execPinSearch (u : UnitRef) (_e : Nat) (s : State) : Host.Outcome State Fault Refusal :=
  .next (match u with
  | .grp gk => match s.grp? gk with
    | some g => (match g.w with
      | .search x none _ => s.updGrp gk (fun g => { g with w := .search x (some (searchPins s x)) none })
      | .drain c l t none _ =>
        (match (s.launch? g.gc).bind (fun n => n.defer.find? (fun e => e.id = c)) with
         | some e => s.updGrp gk (fun g => { g with w := .drain c l t (some (searchPins s e.name)) none })
         | none => s)
      | _ => s)
    | none => s
  | .ctx ck => match s.ctx? ck with
    | some k => (match k.w with
      | .search x none _ => s.updCtx ck (fun k => { k with w := .search x (some (searchPins s x)) none })
      | .drain c l t none _ =>
        (match (s.launch? k.gc).bind (fun n => n.defer.find? (fun e => e.id = c)) with
         | some e => s.updCtx ck (fun k => { k with w := .drain c l t (some (searchPins s e.name)) none })
         | none => s)
      | _ => s)
    | none => s)

/-! ## The push (R373) -/

/-- What a step of a push comes to. -/
inductive PushRes where
  /-- its read met a poisoned sector -/
  | bad
  | goes (p : Option (Nat × Bool)) (s : State)
  | finished (s : State)
  deriving Repr

/-- Bytes of a push written at their home slice become unheld in the view of the core that pushes. -/
def pushPut (s : State) (core : Option Nat) (pa v : Nat) : State :=
  wakeScan (match core with | some c => unhold (homePut s pa 8 v) c pa 8 | none => homePut s pa 8 v)

/-- One step of the push of an object on its free list: the head is read, its value goes to the object, and the object's address goes to
the head where that still holds the value, else the push begins again. A read that meets a poisoned sector stops it. -/
def pushStep (s : State) (core : Option Nat) (x : W64) (pax pah : Nat) (p : Option (Nat × Bool)) : PushRes :=
  match p with
  | none => if badRange s pah 8 then .bad else .goes (some (homeGet s pah 8, false)) (readCheck s pah 8).2
  | some (h, false) => .goes (some (h, true)) (pushPut s core pax h)
  | some (h, true) =>
    if badRange s pah 8 then .bad
    else if homeGet s pah 8 = h then .finished (pushPut s core pah x.toNat) else .goes none s

/-- The launch of the unit in hand. -/
def launchHere (s : State) : Nat := gcOf s s.cur.u

/-- Whether the deferred list is full (R374). -/
def deferFull (s : State) (gc : Nat) : Bool := match s.launch? gc with | some l => decide (1024 ≤ l.defer.length) | none => false

/-- Append an entry (R374). -/
def deferAdd (s : State) (gc : Nat) (x : W64) (hd : Option W64) : State :=
  s.updLaunch gc (fun l => { l with dseq := l.dseq + 1, defer := l.defer ++ [⟨l.dseq + 1, x, hd, false, 0⟩] })

/-- What the records of a RECLAIM's faults say: an atomic step of 8 bytes at DEV (R171). -/
def reclaimDesc : AccDesc := ⟨8, 5, true, true⟩

/-- The end of a RECLAIM once its search is done; `p` is how far its push has come. -/
def reclaimEnd (s : State) (h : Hdr) (d : BitVec 4) (x : W64) (hd : Option W64) (found : Bool) (p : Option (Nat × Bool)) : Act :=
  let gc := launchHere s
  let lev := Hdr.lv h
  if found then
    if deferFull s gc then .wait else .next (putPred (setWait (deferAdd s gc x hd) lev .none) h 0 d false)
  else match hd with
    | none => .next (putPred (setWait s lev .none) h 0 d true)
    | some hv =>
      globalGo s lev reclaimDesc 8 .write [(0, x), (1, hv)] [] (fun pa => !isMem s.floor pa) (fun t l =>
        match l.find? (fun p => p.1 == 0), l.find? (fun p => p.1 == 1) with
        | some (_, pax), some (_, pah) =>
          (match pushStep t (viewOf t t.cur.u) x pax pah p with
           | .finished t => .next (putPred (setWait t lev .none) h 0 d true)
           | .goes q t => .stay (setWait t lev (.search x (some false) q))
           | .bad => flt (setWait (sectorEvents t pah 8) lev .none) 0x30 lev 0)
        | _, _ => .wait)

/-- RECLAIM (R373). -/
def execReclaim (h : Hdr) (d : BitVec 4) (a b : Src) (s : State) : Host.Outcome State Fault Refusal :=
  fin s h true (
    let srcs := (1, a) :: (if b.o = .none then [] else [(2, b)])
    let x := scalHere s h a
    let hd := if b.o = .none then none else some (scalHere s h b)
    match waitOf s (Hdr.lv h) with
    | .search _ none _ => .wait
    | .search _ (some m) p => onceRun s h (fun _ => reclaimEnd s h d x hd m p)
    | _ =>
      atWord s h srcs [] (
        let go := fun (t : State) =>
          if deferFull t (launchHere t) || !onceDrained t h 5 then Act.wait
          else .stay (setWait t (Hdr.lv h) (.search x none none))
        match hd with
        | some hv =>
          globalGo s (Hdr.lv h) reclaimDesc 8 .write [(0, x), (1, hv)] (scalUses h srcs) (fun pa => !isMem s.floor pa) (fun t _ => go t)
        | none => (match checkPoison s s.cur.u (Hdr.lv h) (scalUses h srcs) with | some y => y | none => go s)))

/-- What a step of the retry of an entry comes to: it is over, or its push goes on. -/
inductive RetryRes where
  | ended (s : State)
  | goes (p : Nat × Bool) (s : State)
  deriving Repr

/-- One step of the retry of an entry of the deferred list that names no published pin: its removal, or a step of its push; a push that
meets a fault keeps the entry (R375). -/
def retryEnt (s : State) (core : Option Nat) (gc : Nat) (e : DeferEnt) (addr : State → W64 → Option Nat × State) (p : Option (Nat × Bool)) :
    RetryRes :=
  let out := fun (s : State) => s.updLaunch gc (fun l => { l with defer := l.defer.filter (fun x => x.id != e.id) })
  let keep := fun (s : State) => RetryRes.ended (s.updLaunch gc (fun l => { l with defer := l.defer.map (fun x =>
    if x.id = e.id then { x with taken := false } else x) }))
  match e.head with
  | none => .ended (out s)
  | some hv =>
    if !vaOk e.name || !vaOk hv || e.name.toNat % 8 != 0 || hv.toNat % 8 != 0 then keep s
    else
      let (x?, s1) := addr s e.name
      let (h?, s2) := addr s1 hv
      match x?, h? with
      | some pax, some pah =>
        (match pushStep s2 core e.name pax pah p with
         | .finished t => .ended (out t)
         | .goes (some q) t => .goes q t
         | .goes none t => .goes (homeGet t pah 8, false) t
         | .bad => keep (sectorEvents s2 pah 8))
      | _, _ => keep s2

/-- The address of an object as the unit in hand translates it for writing, HBM and far memory only. -/
def pushAddr (s : State) (va : W64) : Option Nat × State :=
  match transOne s s.cur.u va.toNat .write with
  | (.ok pa, t) => (if isMem t.floor pa then some pa else none, t)
  | (.error _, t) => (none, t)

/-- Go on with an RCDRAIN: take the next entry that no other one has taken since it began, or write the count (R375). -/
def drainNext (s : State) (h : Hdr) (d : Opd) (todo : List Nat) (t0 : Nat) : Act :=
  let gc := launchHere s
  let es := match s.launch? gc with | some l => l.defer | none => []
  match todo.dropWhile (fun i => !es.any (fun e => e.id == i && !e.taken && decide (e.tk ≤ t0))) with
  | c :: rest =>
    .stay (setWait (s.updLaunch gc (fun l => { l with
      dseq := l.dseq + 1
      defer := l.defer.map (fun x => if x.id = c then { x with taken := true, tk := l.dseq + 1 } else x) })) (Hdr.lv h) (.drain c rest t0 none none))
  | [] => putOnce (setWait s (Hdr.lv h) .none) h 0 d 1 (BitVec.ofNat 64 es.length)

/-- RCDRAIN (R375). -/
def execRcdrain (h : Hdr) (d : Opd) (s : State) : Host.Outcome State Fault Refusal :=
  fin s h true (
    let gc := launchHere s
    match waitOf s (Hdr.lv h) with
    | .drain _ _ _ none _ => .wait
    | .drain c todo t0 (some m) p =>
      (match (s.launch? gc).bind (fun l => l.defer.find? (fun e => e.id = c)) with
       | none => drainNext s h d todo t0
       | some e =>
         if m then drainNext (s.updLaunch gc (fun l => { l with defer := l.defer.map (fun x =>
             if x.id = e.id then { x with taken := false } else x) })) h d todo t0
         else match retryEnt s (viewOf s s.cur.u) gc e pushAddr p with
           | .ended t => drainNext t h d todo t0
           | .goes q t => .stay (setWait t (Hdr.lv h) (.drain c todo t0 (some false) (some q))))
    | _ =>
      atWord s h [] [⟨d, 1, 1⟩] (
        if !onceDrained s h 5 then .wait
        else match s.launch? gc with
          | some l => drainNext s h d ((l.defer.filter (fun e => !e.taken)).map (fun e => e.id)) l.dseq
          | none => drainNext s h d [] 0))

end Sys2Proof.Machine
end

