-- ==== Sys2Proof/Machine/Saddle.lean ====
section
/-! DEFINITION. The routers of the Saddle network: their links (R378), the routers of the endpoints (R379), the routing tables that
start-up loads and the route of a packet (R380). -/

namespace Sys2Proof.Machine

/-! ## Topology (R378) -/

/-- Whether router c is one of the P routers. -/
def routerP (c : Nat) : Bool := decide (c < 25)
/-- The coordinate a of router c. -/
def routerA (c : Nat) : Nat := c / 5 % 5
/-- The coordinate b of router c. -/
def routerB (c : Nat) : Nat := c % 5

/-- Whether two routers are joined by a link (R378). -/
def joined (c d : Nat) : Bool :=
  let step := (routerB d + 5 - routerB c) % 5
  match routerP c, routerP d with
  | true, true => routerA c == routerA d && (step == 1 || step == 4)
  | false, false => routerA c == routerA d && (step == 2 || step == 3)
  | true, false => routerB d == (routerA c * routerA d + routerB c) % 5
  | false, true => routerB c == (routerA d * routerA c + routerB d) % 5

/-- The first hop from router c to router d: the direct link, or the link to the common neighbour (R380). -/
def firstHop (c d : Nat) : Nat :=
  if c = d ∨ joined c d then d else ((List.range 50).find? (fun n => joined c n && joined n d)).getD d

/-- The table of router c, one entry for each router (R380). -/
def routeTable (c : Nat) : List Nat := (List.range 50).map (firstHop c)

/-- Load the table of every router, as start-up stage 3 does (R380, R401). -/
def loadRoutes (s : State) : State := { s with routes := (List.range 50).map (fun c => (c, routeTable c)) }

/-! ## Endpoints (R379) -/

/-- The two routers of a destination endpoint numbered as `locTarget` numbers it: a cellar slice, the host port, a peer port. Cluster c is
number 64 + c. -/
def attached (t : Nat) : Nat × Nat :=
  if t < 32 then (5 * (t / 4) + t % 4, 5 * (t / 4 + 2) + t % 4)
  else if t = 32 then (44, 49)
  else let w := t - 33; (5 * (w % 10) + 4, 5 * ((w + 5) % 10) + 4)

/-- The router where an endpoint injects: a cluster's own; for one attached to two, which of them is free (log 25). -/
def sourceRouter (s : State) (ep : Nat) : Nat :=
  if ep < 50 then ep
  else
    let r := attached (if ep = 50 then 32 else ep - 18)
    if (freeNow s 1).getLsbD 0 then r.2 else r.1

/-! ## Routes (R380) -/

/-- The route from router c to router d by the table of c: the routers after c; none where no table is loaded. -/
def routeTo (s : State) (c d : Nat) : Option (List Nat) :=
  if c = d then some []
  else ((tabGet? s.routes c).bind (fun l => nth? l d)).map (fun n => if n = d then [d] else [n, d])

/-- The key of the queue at the first link of a route from router c; a route without a link has none. -/
def linkKey (c : Nat) (r : List Nat) : Option Nat := r.head?.map (fun n => 64 * c + n)

/-- Packets in the queue of a first link. -/
def linkLen (s : State) (k : Option Nat) : Nat := match k with | some k => (tabGet [] s.links k).length | none => 0

/-- Packets leave the queue of a first link from its front; how many have gone over the link by now is free (R378: 64 bytes a cycle;
log 12). -/
def linkDrain (s : State) (k : Option Nat) : State :=
  match k with
  | some k => let l := tabGet [] s.links k
              { s with links := tabPut [] s.links k (l.drop ((freeNow s 16).toNat % (l.length + 1))) }.tick1
  | none => s

/-- The route of a packet to a cluster, its own router; or to a two-router endpoint: the attachment whose first link has the shorter queue, the
first of R379 in a tie. -/
def pickRoute (s : State) (c t : Nat) : Option (List Nat × State) :=
  let (x, y) := attached t
  if 64 ≤ t then (routeTo s c (t - 64)).map (fun p => (p, s))
  else (routeTo s c x).bind (fun p => (routeTo s c y).map (fun q =>
    let s := linkDrain (linkDrain s (linkKey c p)) (linkKey c q)
    (if linkLen s (linkKey c q) < linkLen s (linkKey c p) then q else p, s)))

/-- Queue a packet at the first link of its route. -/
def linkAdd (s : State) (c id : Nat) (r : List Nat) : State :=
  match linkKey c r with
  | some k => { s with links := tabPut [] s.links k (tabGet [] s.links k ++ [id]) }
  | none => s

/-- Choose the route of a packet with a number as it is injected at an endpoint for a target: the routers it crosses, its own first. It is
never changed afterwards. -/
def inject (s : State) (ep t id : Nat) : Option (List Nat × State) :=
  let c := sourceRouter s ep
  (pickRoute s c t).map (fun p => (c :: p.1, linkAdd p.2.tick1 c id p.1))

end Sys2Proof.Machine
end

