-- ==== Sys2Proof/Machine/Ordering.lean ====
section
/-! DEFINITION. The steps of the ordering machine (R243), of the network (R381 to R383), of the producers (R111) and of the
translation caches (R236). A step whose conditions do not hold changes nothing. -/

namespace Sys2Proof.Machine

/-- A step without an encoding: it changes nothing where it may not be taken. -/
def ev (s : State) (o : Option State) : Host.Outcome State Fault Refusal := .next (o.getD s)

/-- A pending access. -/
def accOf (s : State) (id : Nat) : Option Access := s.accs.find? (fun a => a.id = id)

/-! ## Injection -/

/-- Whether a read is served by its core's view without the network: no earlier copy of the core has still to write its bytes (R244). -/
def viewServes (s : State) (a : Access) : Bool :=
  readsView a && !copyAhead s a && (match a.loc, a.core with | .mem pa, some c => !someUnheld s c pa a.width | _, _ => false)

/-- Whether a line may be filled into a core view for an access (R230, R243, R244): no write of the core to the line is on its way, and no
earlier copy of the core has still to write the bytes of the access. -/
def mayFill (s : State) (a : Access) (core pa : Nat) : Bool := !inTransit s core (pa / 128 * 128) 128 && !copyAhead s a

/-- Whether an access waits at injection now (R243, R382): what it must wait for before leaving has happened. -/
def wantsInject (s : State) (a : Access) : Bool :=
  !a.inj && needsInject a && (a.taken.isNone || isWriteK a.kind) && !a.atHome &&
  (match a.kind with
   | .fence | .copy .. | .mat .. => false
   | .pref => ordersAllow s a && !viewServes s a
   | .read => ordersAllow s a && readInOrder s a && !viewServes s a
   | .write => if writesView a then a.atView else ordersAllow s a && releaseAllows s a && applyInOrder s a
   | .atomic .. => if writesView a then a.atView else ordersAllow s a && releaseAllows s a && applyInOrder s a)

/-- The bucket register of a class at an endpoint (R382). -/
def bucketReg (s : State) (ep cls : Nat) : Nat := (tabGet (0 : W64) s.host.buckets (ep * 4 + cls)).toNat

/-- RATE and capacity of a bucket (R382). -/
def bucketRate (r : Nat) : Nat := bitsOf r 23 0
/-- The capacity. -/
def bucketCap (r : Nat) : Nat := if bitsOf r 47 32 = 0 then bucketRate r else 64 * bitsOf r 47 32

/-- Take f flits of a class at an endpoint: none where the bucket holds too little (R383). -/
def bucketTake (s : State) (ep cls f : Nat) : Option State :=
  let r := bucketReg s ep cls
  if bucketRate r = 0 then some s
  else
    let l := tabGet (0 : Int) s.host.levels (ep * 4 + cls)
    if l < 64 * f then none
    else some { s with host := { s.host with levels := tabPut (0 : Int) s.host.levels (ep * 4 + cls) (l - 64 * f) } }

/-- A reply, acknowledgement, NACK or marker never waits; the bucket may fall to minus its capacity (R383). -/
def bucketDebit (s : State) (ep cls f : Nat) : State :=
  let r := bucketReg s ep cls
  if bucketRate r = 0 then s
  else
    let l := tabGet (0 : Int) s.host.levels (ep * 4 + cls)
    { s with host := { s.host with levels := tabPut (0 : Int) s.host.levels (ep * 4 + cls) (max (-(bucketCap r : Int)) (l - 64 * f)) } }

/-- Whether the sequence window of a pair has room for its next number (R381). -/
def windowRoom (s : State) (pair : Nat) : Bool :=
  let n := tabGet 0 s.pairSeq pair
  s.accs.all (fun b => !(undelivered b && pairOf s b == pair) || decide ((n + 65536 - b.pseq) % 65536 < 4096)) &&
  s.msgs.all (fun m => m.pair != pair || decide ((n + 65536 - m.pseq) % 65536 < 4096))

/-- A request packet of f flits that is no access of its own leaves an endpoint for a target (R380 to R383): its number in its pair and the
routers it crosses; none where it must wait. -/
def sendPacket (s : State) (ep t cls f id : Nat) : Option (Nat × List Nat × State) :=
  let pair := ep * 128 + t
  let n := tabGet 0 s.pairSeq pair
  if windowRoom s pair then
    (bucketTake s ep cls f).bind (fun s => (inject s ep t id).map (fun r =>
      (n, r.1, { r.2 with pairSeq := tabPut 0 r.2.pairSeq pair ((n + 1) % 65536) })))
  else none

/-- The order in which requests stand in the queue: issue order, none among those of one instruction, and for its atomics on a core view
the order of their steps (R243 step 2, R244, R245). -/
def queuedBefore (b a : Access) : Bool :=
  if b.batch = a.batch then (b.atView || a.atView) && decide (b.vord < a.vord) else decide (b.id < a.id)

/-- PACKET_INJECT (R381, R383): requests of one class of one endpoint leave in order, when the bucket and the window allow
it; overlapping writes of one core keep their order (R244). The route is chosen here (R380). -/
def execPacketInject (id : Nat) (s : State) : Host.Outcome State Fault Refusal :=
  ev s ((accOf s id).bind (fun a =>
    let ep := endpointOf s a
    let p := pairOf s a
    let first := s.accs.all (fun b => !(queuedBefore b a && endpointOf s b == ep && b.cls == a.cls && wantsInject s b))
    let own := (sameLoc s a).all (fun b => !isWriteK b.kind || !isWriteK a.kind || b.inj || b.atHome || !needsInject b)
    if wantsInject s a && first && own && windowRoom s p then
      (bucketTake s ep a.cls (flitsOf a)).bind (fun s => (inject s ep (targetOf s a) id).map (fun r =>
        let n := tabGet 0 r.2.pairSeq p
        updAcc { r.2 with pairSeq := tabPut 0 r.2.pairSeq p ((n + 1) % 65536) } id (fun a => { a with inj := true, pseq := n, route := r.1 })))
    else none))

/-- BUCKET_REFILL (R383): RATE bytes at a window boundary, up to the capacity. Which boundary of network time it is, is free
(log 12). -/
def execBucketRefill (ep cls : Nat) (s : State) : Host.Outcome State Fault Refusal :=
  let r := bucketReg s ep cls
  ev s (if cls < 4 ∧ bucketRate r ≠ 0 then
    let l := tabGet (0 : Int) s.host.levels (ep * 4 + cls)
    some { s with host := { s.host with levels := tabPut (0 : Int) s.host.levels (ep * 4 + cls) (min (bucketCap r) (l + bucketRate r)) } }
  else none)

/-! ## Reads -/

/-- A read has taken its value: it is performed, its acquire acts, and its producer is due (R243 step 4, R246). -/
def tookValue (s : State) (a : Access) (bs : List Byte) (poi : Bool) : State :=
  let s := updAcc s a.id (fun a => { a with taken := some bs, poi := poi })
  (acquireOf s a).addProd a.dest bs poi

/-- The line of the constant path that holds an address, filled from the home slice where it is not held (R263). Lines with
a bad sector are not kept. -/
def konstRead (s : State) (core pa n : Nat) : List Byte × State :=
  let la := pa / 128 * 128
  let line := match (s.core core).kv.find? (fun p => p.1 == la) with | some p => p.2 | none => memRead s.mem la 128
  let held := (s.core core).kv.any (fun p => p.1 == la)
  let s := if held || badRange s la 128 then s else s.updCore core (fun c => { c with kv := (la, line) :: c.kv })
  ((line.drop (pa - la)).take n, s)

/-- MISC0 and MISC1 of an event that an access leads to (R202). An access of a context has no lanes; which instruction of a group made one, its
destination tells. -/
def accWho (s : State) (a : Access) : W64 × W64 :=
  match a.by_ with
  | .unit u =>
    let lev := match a.dest with | .scal ck _ _ | .stack ck _ => (match s.ctx? ck with | some c => c.lvl | none => 0) | _ => 0
    let m1 := match u with
      | .grp gk => (match s.grp? gk with | some g => misc1Of (if lev = 0 then a.lanes else 0) g.r lev | none => 0)
      | .ctx ck => (match s.ctx? ck with | some c => misc1Of 0 0xFF c.lvl | none => 0)
    (whoOf s (gcOf s u), m1)
  | _ => (0, 0)

/-- A held line of a core's L1 that the surroundings have upset (log 15) is invalidated, and the event counts as corrected at the struck
sector (R193, R202). -/
def l1Struck (s : State) (a : Access) (core pa : Nat) : Option State :=
  let l := pa / 128 * 128
  if (List.range 128).any (fun i => (tabGet? (s.core core).view (l + i)).isSome) then
    (s.upsets.findSome? (fun u => match u with | .l1 c q => if c = core ∧ q / 128 = pa / 128 then some (u, q) else none | _ => none)).map (fun p =>
      ((unhold { s with upsets := s.upsets.erase p.1 } core l 128).count core 9 1).bankEvent (bankOfCore s core) 0 0 0 0x05
        (BitVec.ofNat 64 (p.2 / 32 * 32)) (accWho s a).1 (accWho s a).2)
  else none

/-- Fill the line of an address into a core view from the home slice (R230, R243 step 4): the bytes that are not held. -/
def fillView (s : State) (core pa : Nat) : State := (viewRead (readCheck s (pa / 128 * 128) 128).2 core (pa / 128 * 128) 128).2

/-- A read at a core view, once the core's earlier copies have written its bytes (R244): a line that is not wholly there for it is filled
first. Bytes of a bad sector stay unheld, and return poison. -/
def readView (s : State) (a : Access) (core pa : Nat) : Option State :=
  match l1Struck s a core pa with
  | some s => some s
  | none =>
    if copyAhead s a then none
    else if someUnheld s core pa a.width then
      (if a.inj && mayFill s a core pa then
        let s := fillView s core pa
        let (bs, t) := viewRead s core pa a.width
        some (tookValue t a bs (someUnheld s core pa a.width))
      else none)
    else let (bs, s) := viewRead s core pa a.width; some (tookValue s a bs false)

/-- A read at the home slice. -/
def readHome (s : State) (a : Access) (pa : Nat) : State :=
  let (bad, s) := readCheck s pa a.width
  tookValue s a (memRead s.mem pa a.width) bad

/-- A read of HBM or far memory. -/
def readMem (s : State) (a : Access) (pa : Nat) : Option State :=
  match a.core with
  | some c =>
    if a.konst then
      (if a.inj then
        let held := (s.core c).kv.any (fun p => p.1 == pa / 128 * 128)
        let (bad, s) := if held then (false, s) else readCheck s pa a.width
        let (bs, s) := konstRead s c pa a.width
        some (tookValue s a bs bad)
      else none)
    else if readsView a then readView s a c pa
    else if a.inj && !copyAhead s a then some (readHome (unhold s c pa a.width) a pa)
    else none
  | none => if a.inj then some (readHome s a pa) else none

/-- A PREF fetches its line into the core view, unless the view holds it (R264). -/
def prefLine (s : State) (a : Access) (core pa : Nat) : Option State :=
  let done := fun (s : State) => updAcc s a.id (fun a => { a with taken := some [] })
  if !someUnheld s core pa a.width then some (done s)
  else if a.inj && mayFill s a core pa then some (done (fillView s core pa))
  else none

/-- A scratchpad word that the surroundings have upset is marked as a read finds it, and the error recorded, with what MISC0 and MISC1 say of
the read (R193, R202, log 15). -/
def scrStruck (s : State) (who : W64 × W64) (bk off n : Nat) : State :=
  (s.upsets.filter (fun u => match u with | .scrWord k o => k == bk && decide (off / 4 ≤ o / 4) && decide (o / 4 ≤ (off + n - 1) / 4) | _ => false)).foldl
    (fun s u => match u with
      | .scrWord _ o =>
        let s := { s with upsets := s.upsets.erase u }
        (s.updBand bk (fun b => { b with scrP := tabPut false b.scrP (o / 4) true })).bankEvent (bankOfCore s (coreAt s bk)) 1 0 0 0x04
          (BitVec.ofNat 64 (o / 4 * 4)) who.1 who.2
      | _ => s) s

/-- READ_PERFORM (R243 step 4): a pending read takes its value from its point. A window's value comes with the answer of the
host or the peer. -/
def execReadPerform (id : Nat) (s : State) : Host.Outcome State Fault Refusal :=
  ev s ((accOf s id).bind (fun a =>
    if a.kind = .pref then
      (match a.loc, a.core with
       | .mem pa, some c => if a.taken.isNone && ordersAllow s a then prefLine s a c pa else none
       | _, _ => none)
    else if a.kind = .read ∧ a.taken.isNone ∧ ordersAllow s a ∧ readInOrder s a then
      match a.loc with
      | .mem pa => readMem s a pa
      | .scr bk off =>
        let s := scrStruck s (accWho s a) bk off a.width
        (s.band? bk).map (fun b => tookValue s a (scrRead b off a.width) (scrBad b off a.width))
      | _ => none
    else none))

/-! ## Writes and atomics -/

/-- FADD of a type (R266). -/
def faddV (t : Ty) (a b : W64) : W64 :=
  let f := ieeeOf t
  let d := fun (x : W64) => f.dec (x.toNat % 2 ^ (8 * tyBytes t))
  BitVec.ofNat 64 (f.round (FV.add (d a) (d b)))

/-- The new bytes that an atomic writes over old ones (R266). -/
def atomBytes (op : Aop) (t : Ty) (old : List Byte) (b c : W64) : List Byte :=
  leBytes (tyBytes t) (atomicNew (faddV t) op t (BitVec.ofNat 64 (leNat old)) b c).toNat

/-- The step of an atomic at memory: a poisoned target keeps its data and returns poison (R269). -/
def atomHome (s : State) (a : Access) (pa : Nat) (op : Aop) (t : Ty) (b c : W64) : State :=
  let (bad, s) := readCheck s pa a.width
  let old := memRead s.mem pa a.width
  let s := if bad then s else homeWrite s pa (atomBytes op t old b c) false
  tookValue (updAcc s a.id (fun a => { a with atView := true, atHome := true })) a old bad

/-- The step of a band-scope atomic on a core view (R248): its new value is then delivered as an ordinary write. -/
def atomView (s : State) (a : Access) (core pa : Nat) (op : Aop) (t : Ty) (b c : W64) : State :=
  let s := if someUnheld s core pa a.width then fillView s core pa else s
  let bad := someUnheld s core pa a.width
  let (old, s) := viewRead s core pa a.width
  if bad then tookValue (updAcc s a.id (fun a => { a with atView := true, atHome := true })) a old true
  else
    let new := atomBytes op t old b c
    let s := viewWrite s core pa new false
    tookValue (updAcc s a.id (fun a => { a with atView := true, vord := s.tick, data := new })) a old false

/-- The step of an atomic at a scratchpad (R269). -/
def atomScr (s : State) (a : Access) (bk off : Nat) (op : Aop) (t : Ty) (b c : W64) : Option State :=
  let s := scrStruck s (accWho s a) bk off a.width
  (s.band? bk).map (fun x =>
    let bad := scrBad x off a.width
    let old := scrRead x off a.width
    let s := if bad then s else scrStore s bk off (atomBytes op t old b c) false
    tookValue (updAcc s a.id (fun a => { a with atView := true, atHome := true })) a old bad)

/-- Apply a write or an atomic at its first point. -/
def applyFirst (s : State) (a : Access) : Option State :=
  match a.loc, a.kind with
  | .mem pa, .write =>
    match a.core with
    | some c => some (updAcc (viewWrite s c pa a.data a.poi) a.id (fun a => { a with atView := true, vord := s.tick }))
    | none => if a.inj && lineInOrder s a then
        some (updAcc (homeWrite s pa a.data a.poi) a.id (fun a => { a with atView := true, atHome := true }))
      else none
  | .mem pa, .atomic op t b c _ =>
    if homeAtomic a then (if a.inj && lineInOrder s a then some (atomHome s a pa op t b c) else none)
    else match a.core with
      | some k => (match l1Struck s a k pa with
        | some s => some s
        | none => if copyAhead s a || someUnheld s k pa a.width && !mayFill s a k pa then none else some (atomView s a k pa op t b c))
      | none => none
  | .scr bk off, .write =>
    (s.band? bk).map (fun _ => updAcc (scrStore s bk off a.data a.poi) a.id (fun a => { a with atView := true, atHome := true }))
  | .scr bk off, .atomic op t b c _ => atomScr s a bk off op t b c
  | .hostWin _, .write | .peerWin _ _, .write =>
    if a.inj then some (updAcc s a.id (fun a => { a with atView := true, atHome := true })) else none
  | .hostWin _, .atomic .. | .peerWin _ _, .atomic .. =>
    if a.inj then some (updAcc s a.id (fun a => { a with atView := true, atHome := true })) else none
  | _, _ => none

/-- WRITE_APPLY (R243 step 2): a pending write or atomic is applied at its first point. -/
def execWriteApply (id : Nat) (s : State) : Host.Outcome State Fault Refusal :=
  ev s ((accOf s id).bind (fun a =>
    let own := match a.kind with | .write => true | .atomic .. => true | _ => false
    if own && !a.atView && !a.atHome && ordersAllow s a && releaseAllows s a && applyInOrder s a then applyFirst s a else none))

/-- Whether the writes of a core to common bytes that issued before are already at the home slice (R244). -/
def homeInOrder (s : State) (a : Access) : Bool := !copyAhead s a && (sameLoc s a).all (fun b => !isWriteK b.kind || b.core != a.core || b.atHome)

/-- WRITE_DELIVER (R243 step 3): a write in transit is applied at its home slice. -/
def execWriteDeliver (id : Nat) (s : State) : Host.Outcome State Fault Refusal :=
  ev s ((accOf s id).bind (fun a =>
    match a.loc with
    | .mem pa =>
      if a.atView && !a.atHome && a.inj && homeInOrder s a && lineInOrder s a then
        some (updAcc (homeWrite s pa a.data a.poi) id (fun a => { a with atHome := true }))
      else none
    | _ => none))

/-! ## Views -/

/-- VIEW_REFRESH (R243 step 5): a held byte takes the home slice's value. -/
def execViewRefresh (core pa : Nat) (s : State) : Host.Outcome State Fault Refusal :=
  ev s (if (tabGet? (s.core core).view pa).isSome && !inTransit s core pa 1 then
    let new := fun (v : Tab Byte) => if badSector s pa then tabDel v pa else tabSet v pa (memByte s.mem pa)
    some (s.updCore core (fun c => { c with view := new c.view }))
  else none)

/-- VIEW_EVICT (R243 step 6): a held byte becomes unheld; the constant path drops its line too (R263). -/
def execViewEvict (core pa : Nat) (s : State) : Host.Outcome State Fault Refusal :=
  .next (s.updCore core (fun c => { c with view := tabDel c.view pa, kv := c.kv.filter (fun p => p.1 != pa / 128 * 128) }))

/-- CELLAR_EVICT (R193, R232): writing a line back has no visible effect except on time, but for what an error in the cellar does to
the sectors of the line. -/
def execCellarEvict (pa : Nat) (s : State) : Host.Outcome State Fault Refusal :=
  .next ((cellarHits s (pa / 128 * 128) 128).foldl cellarHit s)

/-! ## Completion -/

/-- Whether an access is by a member of a unit's barrier (R254): the lanes' group of a level-1 unit, else the children. -/
def byMember (s : State) (ck : Nat) (b : Access) : Bool :=
  match s.ctx? ck, b.by_ with
  | some c, .unit u =>
    if c.lvl = 1 then u == .grp (grpKeyOf (s.lrec c.gc) c.gc c.g) else (children s c).any (fun p => p.2 == u)
  | _, _ => false

/-- Whether a fence is performed (R247, R249, R254): ACQ waits for reads alone, the others for every access; LDK is not ordered by a fence
(R263), but a pin's fence, the one without an order, waits for it too (R372). -/
def fenceDone (s : State) (a : Access) : Bool :=
  let es := if a.konst then s.accs.filter (fun b => decide (b.id < a.id) && byMember s a.pseq b) else earlier s a a.sc
  (es.filter (fun b => a.ord == .weak || !(b.kind == .read && b.konst))).all (fun b =>
    if a.ord == .acq then !isReadK b.kind || readsDone b else performedFor s b a.sc || b.kind == .fence)

/-- The view is cleared by an acquire fence at CLU or wider (R247). -/
def fenceAcquire (s : State) (a : Access) : State :=
  match a.core with
  | some c => if (a.ord == .acq || a.ord == .ar) && decide (3 ≤ a.sc) then clearView s c else s
  | none => s

/-- Whether an access has been performed everywhere it reaches (R243 step 7). -/
def accDone (a : Access) : Bool :=
  match a.kind with
  | .fence => false
  | .read | .pref => a.taken.isSome
  | .atomic .. => a.atHome && a.taken.isSome
  | .write => a.atHome && (!locIsWin a || a.rept)
  | .copy .. => a.atHome && a.owes.isEmpty
  | .mat .. => a.atHome

/-- ACCESS_COMPLETE (R243 step 7). An access whose packets have overtaken others of their pair stays until those are delivered, since a marker
of its agent would wait for them (R256). -/
def execAccessComplete (id : Nat) (s : State) : Host.Outcome State Fault Refusal :=
  ev s ((accOf s id).bind (fun a =>
    let out := fun (s : State) => { s with accs := s.accs.filter (fun b => b.id != id) }
    if a.kind = .fence then (if fenceDone s a then some (out (fenceAcquire s a)) else none)
    else if accDone a && acked s a then some (out s) else none))

/-! ## Producers -/

/-- Where a destination's unit stands after its value has come: an ended band may now be cleared (R40, R129). -/
def afterFill (s : State) (d : Dest) : State :=
  match d with
  | .vec gk _ _ _ => reapBand s (gk % 64) (gk / 1024)
  | _ => s

/-- PRODUCER_COMPLETION (R111): the value is written and its destination is full. -/
def execProducerCompletion (n : Nat) (s : State) : Host.Outcome State Fault Refusal :=
  ev s ((s.prods.find? (fun p => p.n = n)).map (fun p =>
    afterFill (fillDest { s with prods := s.prods.filter (fun q => q.n != n) } p.dest p.val p.poi) p.dest))

/-! ## Windows -/

/-- A port whose link has not trained. -/
def PeerPort.fresh : PeerPort := ⟨false, 0, 0⟩

/-- A peer port. -/
def State.peer (s : State) (w : Nat) : PeerPort := tabGet PeerPort.fresh s.peers w

/-- Whether a port has a link that is up. -/
def peerUp (s : State) (w : Nat) : Bool := decide (w < 12) && s.floor.peers.getLsbD w && (s.peer w).up && !s.host.halted

/-- Answer an access at a window: a read takes its data, an atomic its result, a write is reported visible (R242). -/
def winAnswer (s : State) (a : Access) (bs : List Byte) (poi : Bool) : Option State :=
  match a.kind with
  | .read => if a.inj && a.taken.isNone && ordersAllow s a && readInOrder s a then
      some (tookValue s a ((bs ++ List.replicate a.width 0).take a.width) poi) else none
  | .atomic .. => if a.atHome && a.taken.isNone then
      some (updAcc (tookValue s a ((bs ++ List.replicate a.width 0).take a.width) poi) a.id (fun a => { a with rept := true })) else none
  | .write => if a.atHome then some (updAcc s a.id (fun a => { a with rept := true })) else none
  | _ => none

/-- One write of a copy is reported visible, or given up, at a window's port (R242, R400). -/
def copyReport (s : State) (a : Access) (port : Nat) : Option State :=
  if tabGet 0 a.owes port = 0 then none
  else some (updAcc s a.id (fun a => { a with owes := tabPut 0 a.owes port (tabGet 0 a.owes port - 1) }))

/-- The answer to an access at a window: an acknowledgement has one flit, a reply a header and its data (R399). It takes them from the
bucket of the access's class at the port, the host's or the peer's, and never waits (R382, R383). -/
def replyDebit (s : State) (a : Access) : State :=
  let f := match a.kind with | .write => 1 | _ => (16 + a.width + 63) / 64
  match a.loc with
  | .hostWin _ => bucketDebit s 50 a.cls f
  | .peerWin w _ => bucketDebit s (51 + w) a.cls f
  | _ => s

/-- HOST_COMPLETION (R242): the host answers a device access to the host window, or reports a write of a copy there. -/
def execHostCompletion (id : Nat) (data : List (BitVec 8)) (s : State) : Host.Outcome State Fault Refusal :=
  ev s ((accOf s id).bind (fun a => match a.kind, a.loc with
    | .copy .., _ => copyReport (bucketDebit s 50 a.cls 1) a 32
    | _, .hostWin _ => winAnswer (replyDebit s a) a data false
    | _, _ => none))

/-! ## Translations and lines -/

/-- PAGE_WALK (R235, R236): a walk for an address of a launch fills both caches where it yields an allowed translation. -/
def execPageWalk (core gc : Nat) (va : W64) (s : State) : Host.Outcome State Fault Refusal :=
  ev s ((s.launch? gc).bind (fun l =>
    if vaOk va && decide (core < s.floor.allCores.length) then
      match walk s l.t.space l.t.top va.toNat with
      | (.leaf e, t) =>
        if leafAllows t e va.toNat .read l.r.priv || leafAllows t e va.toNat .fetch l.r.priv then
          let t := t.updCore core (fun c => { c with tlb := tlbAdd c.tlb 128 e })
          some (t.updCluster (clusOfCore t.floor core) (fun c => { c with tlb := tlbAdd c.tlb 4096 e }))
        else some t
      | (.fail _, t) => some t
    else none))

/-- TLB_DROP (R236): an entry of a core's or a cluster's cache is dropped. -/
def execTlbDrop (core : Bool) (n idx : Nat) (s : State) : Host.Outcome State Fault Refusal :=
  let cut := fun (t : List TlbEnt) => t.eraseIdx idx
  .next (if core then s.updCore n (fun c => { c with tlb := cut c.tlb }) else s.updCluster n (fun c => { c with tlb := cut c.tlb }))

/-- LINE_FILL (R47): a unit's place fills a line ahead of the unit's walk. -/
def execLineFill (u : UnitRef) (va : W64) (s : State) : Host.Outcome State Fault Refusal :=
  ev s (if vaOk va then
    match s.launch? (gcOf s u) with
    | some _ =>
      (match fillLine s (placeOf s u) (gcOf s u) (va.toNat / 64 * 64) with
       | (_, t) => some t)
    | none => none
  else none)

end Sys2Proof.Machine
end

