-- ==== Sys2Proof/Machine/Copy.lean ====
section
/-! DEFINITION. Arrival words (R304, R322 to R324), tile copies (R298 to R303, R319 to R321) and the drover's steps. -/

namespace Sys2Proof.Machine

/-! ## Arrival-word instructions -/

/-- An arrival word's access as a fault record describes it. -/
def arrDesc (w : Bool) : AccDesc := ⟨16, 2, w, false⟩

/-- Check an arrival word's offset: 0x12, then 0x11 (R323). -/
def arrCheck (s : State) (h : Hdr) (m : Lanes) (w : Bool) (off : Nat) (k : Unit → Act) : Act :=
  if off % 16 ≠ 0 then scrFault s h 0x12 m (arrDesc w) off
  else if scrSize s < off + 16 then scrFault s h 0x11 m (arrDesc w) off
  else k ()

/-- The offset operand: the low 32 bits (R323). -/
def arrOff (s : State) (h : Hdr) (m : Lanes) (imm : BitVec 27) (o : Opd) : Nat := (lo32 (onceVal s h m (imm.signExtend 64) o)).toNat

/-- ARVI (R322). -/
def execArvi (h : Hdr) (off16 : BitVec 14) (n : BitVec 13) (s : State) : Host.Outcome State Fault Refusal :=
  fin s h true (onceAll s h (fun m =>
    let off := 16 * off16.toNat
    arrCheck s h m true off (fun _ =>
      let bk := bandHere s
      if (arrGet s bk off).psec ≠ 0 then .wait
      else .next (arrPut s bk off ⟨0, false, n.toNat, n.toNat, 0⟩))))

/-- ARV (R323): a release at band scope, then one arrival. -/
def execArv (h : Hdr) (a : Src) (imm : BitVec 27) (s : State) : Host.Outcome State Fault Refusal :=
  fin s h true (onceAll s h (onceChecked s h 1 [(1, a)] (fun _ => []) (fun m =>
    let off := arrOff s h m imm a.o
    arrCheck s h m true off (fun _ => unlessPoison s h m 1 [(1, a)] (fun _ =>
      let bk := bandHere s
      if !onceDrained s h 2 then .wait
      else match arrArrive (arrGet s bk off) with
        | some w => if (arrGet s bk off).exp = 0 then .next s else .next (arrPut s bk off w)
        | none => .wait)))))

/-- ARWT (R324): it waits for a phase other than b and returns POIS of the step that ended it. -/
def execArwt (h : Hdr) (d : BitVec 4) (a b : Src) (imm : BitVec 27) (s : State) : Host.Outcome State Fault Refusal :=
  fin s h true (onceAll s h (onceChecked s h 1 [(1, a), (2, b)] (fun _ => []) (fun m =>
    let off := arrOff s h m imm a.o
    arrCheck s h m false off (fun _ => unlessPoison s h m 1 [(1, a), (2, b)] (fun _ =>
      let bk := bandHere s
      let ph := (onceVal s h m (imm.signExtend 64) b.o).toNat % 16
      let w := arrGet s bk off
      let done := fun (poi : Bool) => Act.next (putPred s h m d poi)
      match waitOf s (Hdr.lv h) with
      | .arwt _ _ (some poi) => done poi
      | .arwt _ _ none => .wait
      | _ => if w.phase ≠ ph then done w.pois else stayAt s h (.arwt off ph none))))))

/-- ARTST (R324). -/
def execArtst (h : Hdr) (c : ArtstCond) (d : BitVec 4) (a b : Src) (imm : BitVec 27) (s : State) : Host.Outcome State Fault Refusal :=
  let srcs := if c = .done then [(1, a), (2, b)] else [(1, a)]
  fin s h true (onceAll s h (onceChecked s h 1 srcs (fun _ => []) (fun m =>
    let off := arrOff s h m imm a.o
    arrCheck s h m false off (fun _ => unlessPoison s h m 1 srcs (fun _ =>
      let bk := bandHere s
      let w := arrGet s bk off
      match c with
      | .pois => .next (putPred s h m d w.pois)
      | .done =>
        let ph := (onceVal s h m (imm.signExtend 64) b.o).toNat % 16
        let v := decide (w.phase ≠ ph)
        .next (putPred s h m d v))))))

/-! ## Tile descriptors (R299) -/

/-- The copy that a descriptor describes. -/
def descCopy (k : CopyKind) (w : List W64) (arr : Option Nat) (targets : List Nat) (gk bk : Nat) : Copy :=
  let g := fun (i : Nat) => ((nth? w i).getD 0).toNat
  let sh := g 2
  let ty := bitsOf sh 35 32
  { id := 0, gk := gk, bk := bk, k := k, base := (nth? w 0).getD 0, stride := g 1, rows := bitsOf sh 15 0, cols := bitsOf sh 31 16,
    ty := ty, sgn4 := bitOf sh 42, prec := if bitsOf sh 41 36 = 0 then (maxPrec ty).getD 0 else bitsOf sh 41 36, other := g 3,
    arr := arr, targets := targets, sectors := [], started := false, acc := 0, m1 := 0 }

/-! ## The checks at issue (R301, R320, R321) -/

/-- The band numbers that a CPYM mask names (R303): the bands of the issuer's unit of the lowest cluster-domain level. None
where one does not exist, any more included (R129), or, for plane buffers, owns no matrix state. -/
def copyTargets (s : State) (gc b : Nat) (mask : W64) (plane : Bool) : Option (List Nat) :=
  let r := s.lrec gc
  let bits := (List.range 16).filter (fun i => mask.getLsbD i)
  let lowClus := (List.range r.levels.length).find? (fun k => (r.lvl k).dom = domCluster)
  let key := fun (i : Nat) => match lowClus with
    | some k => bandKey gc (r.anc (b * r.gpb) k * r.bandsOf k + i)
    | none => bandKey gc b
  let ok := fun (i : Nat) => (match lowClus with | some k => decide (i < r.bandsOf k) | none => decide (i = 0)) && (!plane || r.mat) &&
    (match s.band? (key i) with | some x => x.st != .ended || holdsSlot s (key i) x | none => false)
  if bits.all ok then some (bits.map key) else none

/-- Zero fields of a descriptor (R299): the source offset of CPYS is BASE's low half, whatever the high half holds. -/
def descZero (k : CopyKind) (w : List W64) : Bool :=
  let g := fun (i : Nat) => ((nth? w i).getD 0).toNat
  decide (bitsOf (g 2) 63 43 = 0) && (toPlane k || decide (bitsOf (g 2) 41 36 = 0)) &&
  (if toPlane k then decide (g 3 < 8) else decide (g 3 < 2 ^ 32))

/-- The conditions of code 0x17 (R301, R302, R321). -/
def descBad (s : State) (k : CopyKind) (w : List W64) (c : Copy) (n : Nat) : Bool :=
  let g := fun (i : Nat) => ((nth? w i).getD 0).toNat
  let ty := copyTy c.ty false
  !descZero k w || c.ty = 0 || c.ty = 0xF && c.cols % 2 = 1 || c.rows = 0 || c.cols = 0 || 4096 < c.cols ||
  (toPlane k && ((maxPrec c.ty).isNone || decide ((maxPrec c.ty).getD 0 < bitsOf (g 2) 41 36) || c.rows % 8 != 0 ||
    c.cols % 8 != 0 || decide (64 < c.cols) || decide (16384 < c.rows / 8 * (c.cols / 8) * blkBytes c.prec))) ||
  (match k with
   | .red op => (match op with
     | .add | .min | .max | .and | .or | .xor => !(c.ty != 0xF && tyBits ty && (ty != .none))) ||
       ((op = .and || op = .or || op = .xor) && !(tyBits ty))
   | _ => false) ||
  (match c.arr with
   | some off => c.targets.any (fun bk => decide (2 ^ 32 ≤ (arrGet s bk off).psec + n))
   | none => false)

/-- The fault record's description of the strided side. -/
def copyDesc (c : Copy) : AccDesc := ⟨elSize c.ty, 5, toGlobal c.k, match c.k with | .red _ => true | _ => false⟩

/-- A copy's fault with the lowest and highest element start addresses of the side that faults (R171). -/
def copyFault (s : State) (h : Hdr) (m : Lanes) (code : Nat) (c : Copy) (scr : Bool) (addr : Nat) : Act :=
  let es := elSize c.ty
  let lo := if scr then c.other else (c.rowAt 0)
  let hi := if scr then c.other + c.dense - es else maxL ((List.range c.rows).map (fun r => c.rowAt r)) + c.rowBytes - es
  let d : AccDesc := if scr then ⟨es, 2, !toGlobal c.k, false⟩ else copyDesc c
  .fault s (memFault code (Hdr.lv h) (if h.lev = 0 then m else 0) d addr lo hi)

/-- Translate the pages of the strided side, one look-up for each 64 KiB (R301, R237). -/
def copyXlate (s : State) (c : Copy) (secs : List Nat) : List (Nat × Except Nat Nat) × State :=
  xlate s s.cur.u (if toGlobal c.k then .write else .read) (secs.map (fun x => (x, x * 32)))

/-- The group that a copy belongs to: the issuing group. -/
def hereGrp (s : State) : Nat := match s.cur.u with | .grp gk => gk | .ctx _ => 0

/-- The group's number and the active lanes, as MISC1 of an event that the instruction in hand leads to holds them (R202). -/
def misc1Here (s : State) : W64 :=
  match s.cur.u with
  | .grp gk => match s.grp? gk with
    | some g => misc1Of (if levOf s.cur.insn = 0 then (match curSplit s g with | some x => x.mask &&& g.live | none => 0) else 0) g.r (levOf s.cur.insn)
    | none => 0
  | .ctx _ => misc1Of 0 0xFF (levOf s.cur.insn)

/-- Enter a copy in the drover's queue (R320). Its global writes make their bytes unheld in the core's view (R300). -/
def enterCopy (s : State) (h : Hdr) (c : Copy) (secs : List (Nat × Nat)) : State :=
  match s.grp? c.gk with
  | none => s
  | some g =>
    let core := coreOfGrp s g
    let id := (s.core core).dseq
    let acc := s.accSeq
    let s := s.addAcc (mkAcc s s.cur.u (onceMask s h) (onceMask s h) .nowhere 0 (.copy core id true) .weak 5 [] false .none)
    let s := match c.arr with
      | some off => c.targets.foldl (fun (s : State) bk => let w := arrGet s bk off; arrPut s bk off { w with psec := w.psec + secs.length }) s
      | none => s
    let secL : List Sector := (c.targets.map (fun bk => secs.map (fun p => (⟨p.1 * 32, p.2, bk, none, false⟩ : Sector)))).flatten
    let s := if toGlobal c.k then secL.foldl (fun (s : State) (x : Sector) => (c.parts x.va).foldl (fun (s : State) p =>
      if isMem s.floor x.pa then unhold s core (x.pa + (p.2.2.1 - x.va)) p.2.2.2 else s) s) s else s
    if secL.isEmpty then updAcc s acc (fun a => { a with atHome := true })
    else s.updCore core (fun k => { k with dseq := id + 1, drover := k.drover ++ [{ c with id := id, sectors := secL, acc := acc, m1 := misc1Here s }] })

/-- The four descriptor words that operand A names (R299). -/
def copyWords (s : State) (h : Hdr) (a : Src) : List W64 :=
  (List.range 4).map (fun i => opdVal s s.cur.u (Hdr.lv h) 2 0 0 (opdPlus i a.o))

/-- The offset of the arrival word that operand B names, if any (R319). -/
def copyArr (s : State) (h : Hdr) (m : Lanes) (imm : BitVec 27) (b : Src) : Option Nat :=
  match b.o with | .none => none | o => some (lo32 (onceVal s h m (imm.signExtend 64) o)).toNat

/-- The bands that a copy writes: those of CPYM's mask, or the issuer's own (R303). -/
def copyTo (s : State) (h : Hdr) (k : CopyKind) (msk : Option Src) : Option (List Nat) :=
  match msk with
  | some x => copyTargets s (gcOf s s.cur.u) ((bandOfUnit s s.cur.u).getD 0) (opdVal s s.cur.u (Hdr.lv h) 2 0 0 x.o) (toPlane k)
  | none => some [bandKey (gcOf s s.cur.u) ((bandOfUnit s s.cur.u).getD 0)]

/-- The copy that an instruction describes. -/
def copyOf (s : State) (h : Hdr) (m : Lanes) (k : CopyKind) (a b : Src) (msk : Option Src) (imm : BitVec 27) : Copy :=
  let bk := bandKey (gcOf s s.cur.u) ((bandOfUnit s s.cur.u).getD 0)
  descCopy k (copyWords s h a) (copyArr s h m imm b) ((copyTo s h k msk).getD [bk]) (hereGrp s) bk

/-- The operands that a copy reads: four scalars, the arrival word and the mask (R299, R319). -/
def copyUses (h : Hdr) (m : Lanes) (a b : Src) (msk : Option Src) : List Use :=
  let act : Lanes := if h.lev = 0 then m else 1
  [⟨1, a, 4, act, true⟩] ++ usesOf act 1 ([(2, b)] ++ (match msk with | some x => [(3, x)] | none => []))

/-- Whether some element of the strided global side starts at an address that does not have the form of R226. -/
def copyBadVa (c : Copy) : Bool :=
  c.k != .s2s && (List.range c.rows).any (fun i => !vaOk (BitVec.ofNat 64 (c.rowAt i)) ||
    !vaOk (BitVec.ofNat 64 (c.rowAt i + c.rowBytes - elSize c.ty)))

/-- The physical address, or the code, of each sector of the strided side; CPYS reads its scratchpad untranslated (R301). -/
def copyMap (s : State) (c : Copy) : List (Nat × Except Nat Nat) × State :=
  if c.k = .s2s then (c.sectorList.map (fun x => (x, Except.ok (x * 32))), s) else copyXlate s c c.sectorList

/-- Whether the issuing group is the band's producer group (R43, R320). -/
def isProducer (s : State) (c : Copy) : Bool :=
  let r := s.lrec (gcOf s s.cur.u)
  r.prodv && (match s.grp? c.gk with | some g => g.r | none => 16) == r.prod

/-- Whether a core's drover can take one more command: sixteen wait at most (R320). -/
def droverRoom (s : State) (bk : Nat) : Bool :=
  let core := coreAt s bk
  decide (((s.core core).drover.filter (fun d => !d.started)).length < 16)

/-- What CPYR may not touch: anything but HBM and far memory (R302). -/
def redDenies (s : State) (k : CopyKind) (pa : Nat) : Bool := match k with | .red _ => !isMem s.floor pa | _ => false

/-- A copy command of a kind (R320): its checks in the order of R168, then its place in the queue. -/
def copyCmd (s : State) (h : Hdr) (k : CopyKind) (a b : Src) (msk : Option Src) (imm : BitVec 27) : Act :=
  let lev := Hdr.lv h
  onceAll s h (fun m =>
    match checkUses s s.cur.u lev m (copyUses h m a b msk) [] with
    | some x => x
    | none =>
      let c := copyOf s h m k a b msk imm
      let es := elSize c.ty
      let size := scrSize s
      let arr := c.arr.getD 0
      if copyBadVa c then copyFault s h m 0x22 c false (c.rowAt 0)
      else if c.base.toNat % es ≠ 0 ∨ c.stride % es ≠ 0 then copyFault s h m 0x12 c false (c.rowAt 0)
      else if c.ty = 0xF ∧ c.cols % 2 = 1 then copyFault s h m 0x12 c false (c.rowAt 0)
      else if arr % 16 ≠ 0 then scrFault s h 0x12 m (arrDesc true) arr
      else if !toPlane k && decide (size < c.other % 2 ^ 32 + c.dense) then copyFault s h m 0x11 c true (c.other % 2 ^ 32)
      else if k = .s2s ∧ (List.range c.rows).any (fun i => decide (size < c.rowAt i + c.rowBytes)) then copyFault s h m 0x11 c false (c.rowAt 0)
      else if c.arr.isSome ∧ size < arr + 16 then scrFault s h 0x11 m (arrDesc true) arr
      else
        let (rs, t) := copyMap s c
        let first := fun (code : Nat) => rs.find? (fun (p : Nat × Except Nat Nat) => match p.2 with
          | .error e => e == code
          | .ok pa => code == 0x21 && redDenies t k pa)
        match first 0x20, first 0x21 with
        | some p, _ => copyFault t h m 0x20 c false (max (p.1 * 32) (c.rowAt 0))
        | none, some p => copyFault t h m 0x21 c false (max (p.1 * 32) (c.rowAt 0))
        | none, none =>
          if !isProducer s c then flt t 0x13 lev m
          else if (copyTo s h k msk).isNone then flt t 0x14 lev m
          else if descBad t k (copyWords s h a) c c.sectorList.length then flt t 0x17 lev m
          else match checkPoison t t.cur.u lev (copyUses h m a b msk) with
            | some x => x
            | none =>
              if !droverRoom t c.bk then .wait
              else .next (enterCopy t h c (rs.filterMap (fun p => match p.2 with | .ok pa => some (p.1, pa) | .error _ => none))))

/-- CPY (R300, R320). -/
def execCpy (h : Hdr) (dir : CpyDir) (a b : Src) (imm : BitVec 27) (s : State) : Host.Outcome State Fault Refusal :=
  fin s h true (copyCmd s h (match dir with | .g2s => .g2s | .s2g => .s2g) a b none imm)

/-- CPYP (R300, R320). -/
def execCpyp (h : Hdr) (a b : Src) (imm : BitVec 27) (s : State) : Host.Outcome State Fault Refusal :=
  fin s h true (copyCmd s h .plane a b none imm)

/-- CPYM (R300, R303, R320). -/
def execCpym (h : Hdr) (tgt : CpymTo) (a b c : Src) (imm : BitVec 27) (s : State) : Host.Outcome State Fault Refusal :=
  fin s h true (copyCmd s h (match tgt with | .s => .mScr | .p => .mPlane) a b (some c) imm)

/-- CPYS (R300, R321). -/
def execCpys (h : Hdr) (a b : Src) (imm : BitVec 27) (s : State) : Host.Outcome State Fault Refusal :=
  fin s h true (copyCmd s h .s2s a b none imm)

/-- CPYR (R302, R321). -/
def execCpyr (h : Hdr) (op : RedOp) (a b : Src) (imm : BitVec 27) (s : State) : Host.Outcome State Fault Refusal :=
  fin s h true (copyCmd s h (.red op) a b none imm)

/-! ## The drover's steps -/

/-- Whether a copy's reads may be performed (R252, R273): every earlier write of its group is performed at the source's point, and the acquires
and fences before it let a read be performed. Of an earlier copy of the group only the writes to the bytes that it reads count (R244): several
commands are in progress at once (R320). -/
def copyMayRead (s : State) (d : Copy) : Bool :=
  match accOf s d.acc with
  | none => true
  | some a =>
    let sc := match d.k with | .s2g | .s2s | .red _ => 2 | _ => 5
    ordersAllow s { a with kind := .read } &&
    s.accs.all (fun b => !(decide (b.id < a.id) && b.by_ == a.by_ && isWriteK b.kind) || (match b.kind with | .copy .. => true | _ => performedAt b sc))

/-- Whether a copy's writes may be applied: the acquires and fences before it let a write be (R246, R247, R273). -/
def copyMayWrite (s : State) (d : Copy) : Bool :=
  match accOf s d.acc with | none => true | some a => ordersAllow s { a with kind := .write }

/-- DROVER_START (R320): the drover starts its commands in queue order. -/
def execDroverStart (core : Nat) (s : State) : Host.Outcome State Fault Refusal :=
  ev s (match (s.core core).drover.find? (fun d => !d.started) with
    | some d => if copyMayRead s d then
        some (s.updCore core (fun c => { c with drover := c.drover.map (fun x => if x.id = d.id then { x with started := true } else x) }))
      else none
    | none => none)

/-- One bit of a plane buffer byte. -/
def pbBit (pb : Tab Byte) (d : Byte) (a bit : Nat) (v : Bool) : Tab Byte :=
  let x := tabGet d pb a
  tabSet pb a (if v then x ||| BitVec.twoPow 8 bit else x &&& ~~~(BitVec.twoPow 8 bit))

/-- The free value of a plane byte that nothing has written since the placement (R106). -/
def pbFree (c : Core) (a : Nat) : Byte := Config.freeBits 8 (2 ^ 64 * (c.accTag + 1) + 2 ^ 32 + a)

/-- A plane byte: byte a of buffer b stands at 16,384·b + a. -/
def pbGet (c : Core) (a : Nat) : Byte := tabGet (pbFree c a) c.pb a

/-- Where element (row, col) of a tile of W block columns at precision p stands in its buffer: block start and e (R291). -/
def elPlace (w p row col : Nat) : Nat × Nat := (blkBytes p * (row / 8 * w + col / 8), 8 * (row % 8) + col % 8)

/-- The bits of a plane element: byte of the plane store, bit and value (R291). -/
def elBits (buf w p row col : Nat) (x : PlaneEl) : List (Nat × Nat × Bool) :=
  let (blk, e) := elPlace w p row col
  let at_ := 16384 * buf + blk
  let se := b2n x.s * 2 ^ 11 + x.e % 2 ^ 11
  (List.range 12).map (fun i => (at_ + (12 * e + i) / 8, (12 * e + i) % 8, bitOf se i)) ++
    (List.range p).map (fun i => (at_ + 96 + 8 * i + e / 8, e % 8, bitOf x.m (p - 1 - i)))

/-- Write a plane element (R291). -/
def putEl (c : Core) (buf w p row col : Nat) (x : PlaneEl) : Core :=
  { c with pb := (elBits buf w p row col x).foldl (fun t q => pbBit t (pbFree c q.1) q.1 q.2.1 q.2.2) c.pb }

/-- A 32-bit word of the plane store. -/
def pbWord (c : Core) (k : Nat) : W32 := BitVec.ofNat 32 (leNat ((List.range 4).map (fun i => pbGet c (4 * k + i))))

/-- Keep a value that a word held, for the operations that may still read it (R297). -/
def keepWord (c : Core) (key : Nat) (v : W32) : Core :=
  let x : OldWord := ⟨key, c.fences, v⟩
  { c with old := if c.old.contains x then c.old else c.old ++ [x] }

/-- Keep the older values of the plane words of a list that a write has changed; a word that is written holds no error. -/
def keepOld (was c : Core) (ks : List Nat) : Core :=
  ks.foldl (fun c k => { (if pbWord was k = pbWord c k then c else keepWord c k (pbWord was k)) with pbErr := tabPut false c.pbErr k false }) c

/-- Read a plane element at the geometry of a map: bits beyond the buffer read 0 (R291, R293). -/
def getEl (c : Core) (buf w p row col : Nat) : PlaneEl :=
  let (blk, e) := elPlace w p row col
  let bit := fun (a i : Nat) => if a < 16384 then (pbGet c (16384 * buf + a)).getLsbD i else false
  let se := (List.range 12).foldl (fun v i => if bit (blk + (12 * e + i) / 8) ((12 * e + i) % 8) then v + 2 ^ i else v) 0
  let m := (List.range p).foldl (fun v i => if bit (blk + 96 + 8 * i + e / 8) (e % 8) then v + 2 ^ (p - 1 - i) else v) 0
  ⟨bitOf se 11, se % 2 ^ 11, m⟩

/-- Whether an operation uses a plane buffer (R308). -/
def MatOp.usesBuf (o : MatOp) (bk buf : Nat) : Bool :=
  o.bk == bk && (match o.k with
    | .mma _ _ _ _ ma mb _ _ _ =>
      let u := fun (m : W64) => let b := bitsOf m.toNat 3 1; b == buf || (m.getLsbD 6 && b + 1 == buf)
      u ma || u mb
    | _ => false)

/-- The value of element `i` of the bytes of a row (R275, R277); I4 takes a half byte, the first in [3:0]. -/
def elValue (ty : Nat) (sgn4 : Bool) (row : List Byte) (i : Nat) : FV :=
  if ty = 0xF then
    let b := ((nth? row (i / 2)).getD 0).toNat
    let n := if i % 2 = 0 then b % 16 else b / 16
    FV.ofInt (if sgn4 && decide (8 ≤ n) then (n : Int) - 16 else n)
  else
    let es := tyBytes (copyTy ty false)
    decTy (copyTy ty false) (BitVec.ofNat 64 (leNat ((row.drop (i * es)).take es)))

/-- Bytes of a scratchpad with their poison, read for the unit that `who` names (R202). -/
def scrTake (s : State) (who : W64 × W64) (bk off n : Nat) : (List Byte × Bool) × State :=
  let s := scrStruck s who bk off n
  match s.band? bk with
  | some b => ((scrRead b off n, scrBad b off n), s)
  | none => ((List.replicate n 0, false), s)

/-- Where a piece stands on the dense side (R299). -/
def Copy.denseAt (c : Copy) (p : Piece) : Nat := c.denseOff p.row p.off

/-- The physical address of an element on the global side. -/
def Sector.paOf (x : Sector) (p : Piece) : Nat := x.pa + (p.va - x.va)

/-- Whether the earlier copies of a copy's group have written a range of its band's scratchpad (R244). -/
def scrClear (s : State) (core : Nat) (c : Copy) (off n : Nat) : Bool :=
  !(s.core core).drover.any (fun d => decide (d.acc < c.acc) && d.gk == c.gk && !toGlobal d.k && !toPlane d.k && d.sectors.any (fun x =>
    x.bk == c.bk && (x.todo.getD (d.elements x.va)).any (fun p => decide (d.denseAt p < off + n) && decide (off < d.denseAt p + p.n))))

/-- Whether a physical address lies in the window of a peer port whose link is down. -/
def portDown (s : State) (pa : Nat) : Bool := match locOf s.floor pa with | .peerWin w _ => !peerUp s w | _ => false

/-- Read an element of a copy with its poison (R300): from the dense side, for CPYS from the strided one, once the group's earlier copies
have written it; from its home slice once every earlier write of the core to it is there (R244). In a window it is free (log 17), and
poisoned where a peer's link is down (R400). None: it must wait. -/
def readPiece (s : State) (core : Nat) (c : Copy) (x : Sector) (p : Piece) : Option ((List Byte × Bool) × State) :=
  let pa := x.paOf p
  let who := (whoOf s (c.bk % 64), c.m1)
  if toGlobal c.k then (if scrClear s core c (c.denseAt p) p.n then some (scrTake s who c.bk (c.denseAt p) p.n) else none)
  else if c.k = .s2s then (if scrClear s core c p.va p.n then some (scrTake s who c.bk p.va p.n) else none)
  else if !isMem s.floor pa then some ((leBytes p.n (freeNow s 64).toNat, portDown s pa), s.tick1)
  else if coreClear s core c.acc pa p.n then
    let (bad, s) := readCheck s pa p.n
    some ((memRead s.mem pa p.n, bad), s)
  else none

/-- Write an element of a plane buffer: decoded, or NaN where it is poisoned (R300, R305). -/
def pieceToPlane (s : State) (c : Copy) (x : Sector) (p : Piece) (bs : List Byte) (poi : Bool) : State :=
  let buf := c.other % 8
  let per := fun (n : Nat) => if c.ty = 0xF then 2 * n else n / elSize c.ty
  s.updCore (coreAt s x.bk) (fun k =>
    let put := fun (k : Core) (i : Nat) =>
      let v := if poi then FV.nan else elValue c.ty c.sgn4 bs i
      let e := planeDec c.prec v
      let t := putEl k buf (c.cols / 8) c.prec p.row (per p.off + i) e
      keepOld k t ((elBits buf (c.cols / 8) c.prec p.row (per p.off + i) e).map (fun q => q.1 / 4)).dedup
    (List.range (per p.n)).foldl put k)

/-- The network's part of a copy's write at a home slice: the next number of its pair, none where the window is full or an earlier packet
of the source to the line is on its way (R256, R381). -/
def copyPacket (s : State) (c : Copy) (pa : Nat) : Option State :=
  match accOf s c.acc with
  | none => some s
  | some a =>
    let pair := endpointOf s a * 128 + locTarget s (locOf s.floor pa)
    let n := tabGet 0 s.pairSeq pair
    if windowRoom s pair && lineClear s pair n (pa / 128) then
      (inject s (endpointOf s a) (pair % 128) c.acc).map (fun r => let s := r.2; updAcc { s with pairSeq := tabPut 0 s.pairSeq pair ((n + 1) % 65536) } c.acc (fun a =>
        { a with marks := a.marks.filter (fun p => p.1 != pair) ++ [(pair, n)] }))
    else none

/-- The element operation of CPYR (R302). -/
def redEl (op : RedOp) (t : Ty) (old new : W64) : W64 :=
  if tyFloat t then
    let f := ieeeOf t
    let d := fun (v : W64) => f.dec (v.toNat % 2 ^ (8 * tyBytes t))
    let pick := fun (keep : Bool) =>
      match (d old).isNan, (d new).isNan with
      | true, true => BitVec.ofNat 64 f.nanBits
      | true, false => new
      | false, true => old
      | false, false => if keep then old else new
    let below := fun (a b : W64) => match d a, d b with
      | .fin s 0 _, .fin u 0 _ => s && !u
      | x, y => FV.lt x y
    match op with
    | .add => BitVec.ofNat 64 (f.round (FV.add (d old) (d new)))
    | .min => pick (!below new old)
    | .max => pick (!below old new)
    | .and => old &&& new
    | .or => old ||| new
    | .xor => old ^^^ new
  else
    let w := 8 * tyBytes t
    (combine op (tySigned t) (old.setWidth w) (new.setWidth w)).setWidth 64

/-- Apply the operation of CPYR to an element at its home slice (R302): a poisoned target keeps its data; a marked source word poisons it. -/
def reducePiece (s : State) (c : Copy) (op : RedOp) (pa n : Nat) (bs : List Byte) (poi : Bool) : State :=
  let (bad, s) := readCheck s pa n
  if bad then s
  else if poi then poisonSec s (pa / 32)
  else homePut s pa n (redEl op (copyTy c.ty false) (BitVec.ofNat 64 (homeGet s pa n)) (BitVec.ofNat 64 (leNat bs))).toNat

/-- A copy writes a sector whole, and this is its first write there: from here on its writes replace the sector (R194). -/
def coverSec (s : State) (c : Copy) (x : Sector) : State :=
  if c.k = .s2g ∧ c.whole x.va ∧ (x.todo.map (fun l => l.length)) = some (c.elements x.va).length then
    { s with covers := tabPut [] s.covers (x.pa / 32) (tabGet [] s.covers (x.pa / 32) ++ [c.acc]) }
  else s

/-- Whether a copy is writing a sector whole, and nobody has set poison there since its first write. -/
def covering (s : State) (c : Copy) (x : Sector) : Bool := (tabGet [] s.covers (x.pa / 32)).contains c.acc

/-- A piece of a copy is written, or reduced, at its home slice: the bytes become unheld in the view of the core that copies. A piece of a
sector that is written whole merges with nothing (R194). Beyond HBM and far memory nothing of this machine changes but what the copy is
owed: a report of the write, unless a peer's link is down (R242, R400). -/
def pieceToHome (s : State) (core : Nat) (c : Copy) (x : Sector) (pa n : Nat) (bs : List Byte) (poi : Bool) : State :=
  if isMem s.floor pa then
    let s := coverSec s c x
    unhold (match c.k with
      | .red op => reducePiece s c op pa n bs poi
      | _ => if covering s c x && !poi then homeBytes s pa bs else homeWrite s pa bs poi) core pa n
  else if portDown s pa then s
  else updAcc s c.acc (fun a => let t := locTarget s (locOf s.floor pa); { a with owes := tabPut 0 a.owes t (tabGet 0 a.owes t + 1) })

/-- Write an element of a copy at its destination (R300); none where it must wait. A window takes it at its port (R242). -/
def writePiece (s : State) (core : Nat) (c : Copy) (x : Sector) (p : Piece) (bs : List Byte) (poi : Bool) : Option State :=
  if !copyMayWrite s c then none
  else if toPlane c.k then some (pieceToPlane s c x p bs poi)
  else if toGlobal c.k then
    let pa := x.paOf p
    if !coreClear s core c.acc pa p.n then none
    else (copyPacket s c pa).map (fun s => pieceToHome s core c x pa p.n bs poi)
  else some (scrStore s x.bk (c.denseAt p) bs poi)

/-- A sector is counted at its arrival word (R300, R305). -/
def countSector (s : State) (c : Copy) (x : Sector) (poi : Bool) : State :=
  match c.arr with
  | some off => arrPut s x.bk off (arrSector (arrGet s x.bk off) poi)
  | none => s

/-- Whether every read of a copy is performed. -/
def Copy.allRead (c : Copy) : Bool := c.sectors.all (fun x => match x.todo with | some l => l.all (fun p => p.got.isSome) | none => false)

/-- Put a sector of a copy back with what is left of it; once every read of the copy is performed its access says so (R247, R273). -/
def putSector (s : State) (core : Nat) (c : Copy) (i : Nat) (x : Sector) : State :=
  let c' := { c with sectors := setNth c.sectors i x }
  let s := s.updCore core (fun k => { k with drover := k.drover.map (fun d => if d.id = c.id then c' else d) })
  if c'.allRead then updAcc s c.acc (fun a => { a with taken := some [] }) else s

/-- A sector of the global side that a copy has written whole loses its poison and its errors, unless poison was set there meanwhile
(R194). -/
def cleanSector (s : State) (c : Copy) (x : Sector) : State :=
  if covering s c x then
    let s := clearSec s (x.pa / 32)
    { s with covers := tabPut [] s.covers (x.pa / 32) ((tabGet [] s.covers (x.pa / 32)).filter (fun i => i != c.acc)) }
  else s

/-- The last element of a sector is written: the sector is counted, and with the last sector the copy is complete (R300). -/
def endSector (s : State) (core : Nat) (c : Copy) (i : Nat) (x : Sector) : State :=
  let s := countSector (cleanSector s c x) c x x.poi
  let rest := c.sectors.eraseIdx i
  if rest.isEmpty then
    let s := updAcc s c.acc (fun a => { a with atHome := true })
    let s := s.updCore core (fun k => { k with drover := k.drover.filter (fun d => d.id != c.id) })
    c.targets.foldl (fun s bk => reapBand s (bk % 64) (bk / 64)) s
  else s.updCore core (fun k => { k with drover := k.drover.map (fun d => if d.id = c.id then { d with sectors := rest } else d) })

/-- One step of an element: it is read, or written where it was read before. -/
def movePiece (s : State) (core : Nat) (c : Copy) (i : Nat) (x : Sector) (l : List Piece) (k : Nat) (p : Piece) : Option State :=
  match p.got with
  | none => (readPiece s core c x p).map (fun r =>
      putSector r.2 core c i { x with todo := some (setNth l k { p with got := some r.1 }), poi := x.poi || r.1.2 })
  | some (bs, poi) => (writePiece s core c x p bs poi).map (fun s =>
      let rest := l.eraseIdx k
      if rest.isEmpty then endSector s core c i x else putSector s core c i { x with todo := some rest })

/-- The request of a sector of a copy leaves (R380 to R383): a flit of its class, after the requests of earlier accesses; a read takes a
number of its pair, the writes take theirs one by one. -/
def sectorPacket (s : State) (core : Nat) (c : Copy) (x : Sector) : Option State :=
  let ep := physCore s.floor core / 16
  let cls := (s.task (c.bk % 64)).prio
  if c.k = .s2s then some s
  else if s.accs.any (fun b => decide (b.id < c.acc) && endpointOf s b == ep && b.cls == cls && wantsInject s b) then none
  else if toGlobal c.k then bucketTake s ep cls 1
  else (sendPacket s ep (locTarget s (locOf s.floor x.pa)) cls 1 c.acc).map (fun r => r.2.2)

/-- SECTOR_COMPLETE (R300): a step of one sector of a started copy, whose elements are accesses of their own (R243, R273). Its first step
sends the sector's request; each further one reads or writes an element, which one being free (R252). -/
def execSectorComplete (core copy sector : Nat) (s : State) : Host.Outcome State Fault Refusal :=
  ev s (((s.core core).drover.find? (fun d => d.id = copy && d.started)).bind (fun c =>
    (nth? c.sectors sector).bind (fun x =>
      match x.todo with
      | none =>
        (sectorPacket s core c x).map (fun s => putSector s core c sector { x with todo := some (c.elements x.va) })
      | some l =>
        let may := (l.zipIdx).filterMap (fun p => movePiece s.tick1 core c sector x l p.2 p.1)
        nth? may ((freeNow s 32).toNat % may.length))))

end Sys2Proof.Machine
end

