-- ==== Sys2Proof/Machine/Matrix.lean ====
section
/-! DEFINITION. The matrix unit (R287 to R297, R308 to R317): operand maps, the matrix queue, and what each queued operation
computes. -/

namespace Sys2Proof.Machine

/-! ## Operand maps (R292) -/

/-- FMT of a map. -/
def mapFmt (m : W64) : Nat := bitsOf m.toNat 51 48
/-- P of a map. -/
def mapP (m : W64) : Nat := bitsOf m.toNat 57 52
/-- W of a map. -/
def mapW (m : W64) : Nat := bitsOf m.toNat 43 40
/-- KBASE of a map. -/
def mapK (m : W64) : Nat := bitsOf m.toNat 36 32
/-- BUF of a map. -/
def mapBuf (m : W64) : Nat := bitsOf m.toNat 3 1
/-- Lines of a map in units of 64: 1 or 2. -/
def mapLines (m : W64) : Nat := 1 + b2n (m.getLsbD 6)
/-- V of a map. -/
def mapV (m : W64) : Bool := m.getLsbD 0

/-- An operand map of a band (R104). -/
def bandMap (b : Band) (m : BitVec 4) : W64 := tabGet 0 b.maps m.toNat

/-- Whether a map may be written (R292). -/
def mapOk (role : Bool) (m : W64) : Bool :=
  (match maxPrec (mapFmt m) with | some x => decide (1 ≤ mapP m) && decide (mapP m ≤ x) | none => false) &&
  decide (1 ≤ mapW m) && decide (mapW m ≤ 8) && !(mapLines m == 2 && mapBuf m % 2 == 1) && (!role || mapW m == 8)

/-- The map that an OMAP describes (R309). -/
def omapWord (lines i4 : Bool) (t : Ty) (buf : BitVec 3) (p : BitVec 6) (w : BitVec 3) (kb : BitVec 5) : W64 :=
  let fmt := if i4 then 0xF else (Decode.tyCode t).toNat
  let pp := if p = 0 then (maxPrec fmt).getD 0 else p.toNat
  BitVec.ofNat 64 (pp * 2 ^ 52 + fmt * 2 ^ 48 + (w.toNat + 1) * 2 ^ 40 + kb.toNat * 2 ^ 32 + b2n (i4 && t = .s8) * 2 ^ 7 +
    b2n lines * 2 ^ 6 + buf.toNat * 2 + 1)

/-- Whether an operation reads an operand map (R308). -/
def MatOp.usesMap (o : MatOp) (bk m : Nat) : Bool :=
  o.bk == bk && (match o.k with | .mma _ _ ra rb _ _ _ _ _ => ra == m || rb == m | _ => false)

/-- The key of half `i` of map m among the words of R297. -/
def mapKey (m i : Nat) : Nat := 32768 + 2 * m + i

/-- Half `i` of a map's value. -/
def mapHalf (x : W64) (i : Nat) : W32 := x.extractLsb' (32 * i) 32

/-- Write a map: its older words are kept for operations that no MFENCE separates from it (R297), and a queued operation that reads the map
is touched (R253, R308, R325). -/
def writeMap (s : State) (bk : Nat) (d : BitVec 4) (x : W64) : State :=
  match s.band? bk with
  | none => s
  | some b =>
    let was := bandMap b d
    let s := s.updCore b.core (fun c => (List.range 2).foldl (fun c i =>
      if mapHalf was i = mapHalf x i then c else keepWord c (mapKey d.toNat i) (mapHalf was i))
      { c with mq := c.mq.map (fun o => if o.usesMap bk d.toNat then { o with taint := true } else o) })
    s.updBand bk (fun b => { b with maps := tabPut 0 b.maps d.toNat x })

/-- OMAP (R309): applied at issue. -/
def execOmap (h : Hdr) (role lines i4 : Bool) (t : Ty) (d : BitVec 4) (buf : BitVec 3) (p : BitVec 6) (w : BitVec 3) (kb : BitVec 5)
    (s : State) : Host.Outcome State Fault Refusal :=
  fin s h true (onceAll s h (fun m =>
    let x := omapWord lines i4 t buf p w kb
    let bk := bandHere s
    if !mapOk role x then flt s 0x17 (Hdr.lv h) m else .next (writeMap s bk d x)))

/-! ## PLST (R310) -/

/-- Rows and columns of the tile that PLST takes. -/
def plstShape (role : Bool) (m : W64) : Nat × Nat := if role then (64, 64 * mapLines m) else (64 * mapLines m, 8 * mapW m)

/-- Decode a dense tile of the scratchpad into the buffers of a map. A queued operation that uses one of them is touched (R308). -/
def plstTile (s : State) (bk : Nat) (role : Bool) (m : W64) (off : Nat) : State :=
  match s.band? bk with
  | none => s
  | some b =>
    let (rows, cols) := plstShape role m
    let ty := mapFmt m
    let w := if role then 8 else mapW m
    let rb := elBytes ty cols
    let els := ((List.range rows).map (fun r =>
      let row := scrRead b (off + r * rb) rb
      (List.range cols).map (fun c => (r, c,
        if scrBad b (off + r * rb + elBytes ty (c / 2 * 2) + (if ty = 0xF then 0 else elBytes ty (c % 2))) (elSize ty) then FV.nan
        else elValue ty (m.getLsbD 7) row c)))).flatten
    s.updCore b.core (fun k =>
      let t := els.foldl (fun k e =>
        let hi := if role then e.2.1 / 64 else e.1 / 64
        putEl k (mapBuf m + hi) w (mapP m) (if role then e.1 else e.1 % 64) (if role then e.2.1 % 64 else e.2.1) (planeDec (mapP m) e.2.2)) k
      let t := keepOld k t ((List.range (4096 * mapLines m)).map (fun i => 4096 * mapBuf m + i))
      { t with mq := t.mq.map (fun o => if (List.range (mapLines m)).any (fun i => o.usesBuf bk (mapBuf m + i)) then { o with taint := true } else o) })

/-- Whether every earlier access of the issuing group lets one of a scratchpad range be performed now. -/
def scrFree (s : State) (h : Hdr) (bk off n : Nat) (w : Bool) : Bool :=
  let a := { mkAcc s s.cur.u (onceMask s h) (onceMask s h) (.scr bk off) n (if w then .write else .read) .weak 2 [] false .none with
    id := s.accSeq, batch := s.accSeq }
  ordersAllow s a && (if w then applyInOrder s a else readInOrder s a)

/-- PLST (R310): it waits for earlier accesses of the same bytes, and its tile is written at issue. -/
def execPlst (h : Hdr) (role : Bool) (m : BitVec 4) (off : BitVec 27) (s : State) : Host.Outcome State Fault Refusal :=
  fin s h true (onceAll s h (fun l =>
    let bk := bandHere s
    match s.band? bk with
    | none => .next s
    | some b =>
      let x := bandMap b m
      let es := if mapV x then elSize (mapFmt x) else 1
      let (rows, cols) := plstShape role x
      let n := rows * elBytes (mapFmt x) cols
      let o := off.toNat
      let w := if role then 8 else mapW x
      let d : AccDesc := ⟨es, 2, false, false⟩
      if o % es ≠ 0 then areaFault s h 0x12 l d o n
      else if mapV x ∧ scrSize s < o + n then areaFault s h 0x11 l d o n
      else if !mapV x ∨ 16384 < 8 * w * blkBytes (mapP x) then flt s 0x17 (Hdr.lv h) l
      else if !scrFree s h bk o n false then .wait
      else .next (plstTile (scrStruck s (whoOf s (bk % 64), misc1Here s) bk o n) bk role x o)))

/-! ## Accumulators (R104, R294) -/

/-- The key of an accumulator word. -/
def accKey (a i j : Nat) : Nat := 4096 * a + 64 * i + j

/-- The free value of an accumulator word under a tag (R106). -/
def accFree (tag k : Nat) : W32 := Config.freeBits 32 (2 ^ 64 * (tag + 1) + k)

/-- An accumulator word. -/
def accGet (c : Core) (k : Nat) : W32 := match tabGet? c.acc k with | some w => w | none => accFree c.accTag k

/-- Write an accumulator word; it holds no error then. -/
def accPut (c : Core) (k : Nat) (w : W32) : Core := { c with acc := tabSet c.acc k w, accErr := tabPut false c.accErr k false }

/-- The positions of a tile. -/
def tile64 : List (Nat × Nat) := ((List.range 64).map (fun i => (List.range 64).map (fun j => (i, j)))).flatten

/-- The bits of an element: one word, or the pair of an FP64 one. -/
def accBits (c : Core) (f64 : Bool) (a i j : Nat) : Nat :=
  (accGet c (accKey a i j)).toNat + (if f64 then (accGet c (accKey (a + 1) i j)).toNat * 2 ^ 32 else 0)

/-- Whether an element holds an uncorrectable error. -/
def accBad (c : Core) (f64 : Bool) (a i j : Nat) : Bool :=
  tabGet false c.accErr (accKey a i j) || (f64 && tabGet false c.accErr (accKey (a + 1) i j))

/-- Write an element's bits. -/
def accSetBits (c : Core) (f64 : Bool) (a i j v : Nat) : Core :=
  let c := accPut c (accKey a i j) (BitVec.ofNat 32 v)
  if f64 then accPut c (accKey (a + 1) i j) (BitVec.ofNat 32 (v / 2 ^ 32)) else c

/-- The value of an element in a format (R312). -/
def accVal (c : Core) (f : AccFmt) (a i j : Nat) : FV :=
  let v := accBits c (f = .fp64) a i j
  match f with
  | .fp32 => ieee32.dec v
  | .fp64 => ieee64.dec v
  | .i32 => FV.ofInt (BitVec.ofNat 32 v).toInt

/-- The accumulators that one element format spans. -/
def accSpan (f64 : Bool) (a : Nat) : List Nat := if f64 then [a, a + 1] else [a]

/-- Undefined values in accumulators: free ones (R188, R253). -/
def accUndef (s : State) (core : Nat) (as : List Nat) : State :=
  let s' := s.updCore core (fun c => as.foldl (fun c a => tile64.foldl (fun c p =>
    accPut c (accKey a p.1 p.2) (accFree (s.fresh + 1) (accKey a p.1 p.2))) c) c)
  s'.tick1.tick1

/-- Bits of a value in an accumulator format. A NaN gives the canonical NaN in every format: its row of R288 comes first (R290), and R305
lets a poisoned integer element give it; an I32 accumulator then holds the pattern of FP32 (R276, log 18). An infinite sum, which planes of
another type can give it, likewise holds FP32's infinity (R288, log 18). -/
def accRound (f : AccFmt) (v : FV) : Nat :=
  match f with
  | .fp32 => ieee32.round v
  | .fp64 => ieee64.round v
  | .i32 => match v with
    | .fin s m e =>
      let (a, b) := scale2 m e
      (BitVec.ofInt 32 (if s then -((a / b : Nat) : Int) else (a / b : Nat))).toNat
    | x => ieee32.round x

/-! ## The queue (R295, R308) -/

/-- The accumulator format of an MMA (R312). -/
def mmaFmt : Ty → AccFmt
  | .f64 => .fp64 | .s32 => .i32 | _ => .fp32

/-- The accumulators that an MMA writes: n of them from D (R294). -/
def mmaAccs (t : Ty) (d : Nat) (ma mb : W64) : List Nat :=
  (List.range (mapLines ma * mapLines mb * (if t = .f64 then 2 else 1))).map (fun i => d + i)

/-- Whether an operation passes the checks of R293, R294 and R312. -/
def mmaOk (t : Ty) (d : Nat) (ma mb : W64) (steps ai bi : Nat) : Bool :=
  let n := mapLines ma * mapLines mb * (if t = .f64 then 2 else 1)
  let int := fun (m : W64) => mapFmt m == 1 || mapFmt m == 2 || mapFmt m == 0xF
  mapV ma && mapV mb && mapW mb == 8 &&
  (List.range steps).all (fun i =>
    let ca := mapK ma + i * ai
    let cb := mapK mb + i * bi
    decide (ca < mapW ma) && decide (blkBytes (mapP ma) * (7 * mapW ma + ca + 1) ≤ 16384) &&
    decide (blkBytes (mapP mb) * (8 * cb + 8) ≤ 16384)) &&
  d % n == 0 && (t != .s32 || (int ma && int mb))

/-- Whether a band's matrix queue has a free entry (R295). -/
def mqRoom (s : State) (core : Nat) : Bool := decide ((s.core core).mq.length < 4)

/-- Enter an operation in the queue of its band's core. -/
def enqMat (s : State) (bk : Nat) (k : MatKind) (rd wr : List Nat) (acc : Option Nat) : State :=
  let core := coreAt s bk
  let c := s.core core
  let o : MatOp := {
    id := c.mseq, bk := bk, k := k, rd := rd, wr := wr, run := false, taint := false, acc := acc, fence := c.fences,
    ia := s.cur.ia, m0 := whoOf s (bk % 64), m1 := misc1Here s, todo := none }
  s.updCore core (fun c => { c with mseq := c.mseq + 1, mq := c.mq ++ [o] })

/-- A map word as an operation issued now reads it: the word that stands there, or a value that it held since the band's last MFENCE
(R297). Which one is free. -/
def mapWordNow (s : State) (b : Band) (m : BitVec 4) (i : Nat) : W32 :=
  let c := s.core b.core
  let k := mapKey m.toNat i
  let vs := mapHalf (bandMap b m) i :: ((c.old.filter (fun o => o.key = k && o.fence = c.fences)).map (fun o => o.val))
  (nth? vs ((Config.freeBits 32 (2 ^ 64 * (s.fresh + 1) + k)).toNat % vs.length)).getD 0

/-- A map as an operation issued now reads it. -/
def mapNow (s : State) (b : Band) (m : BitVec 4) : W64 := mapWordNow s b m 1 ++ mapWordNow s b m 0

/-- Defer a fault of an operation with a number to the next MWAIT that covers it (R314). -/
def deferFault (s : State) (core id : Nat) (f : MatFault) : State := s.updCore core (fun c => { c with mfault := tabSet c.mfault id f })

/-- One band's part of an operation, checked: the operation enters, or its fault is deferred (R296). -/
def mmaPart (s : State) (bk : Nat) (b : Band) (o : OpMma) (steps : Nat) : State :=
  let ma := mapNow s b o.a
  let mb := mapNow s b o.b
  let d := o.d.toNat
  let wr := mmaAccs o.t d ma mb
  let s := s.tick1
  if mmaOk o.t d ma mb steps o.ai.toNat o.bi.toNat then
    enqMat s bk (.mma o.t d o.a.toNat o.b.toNat ma mb steps o.ai.toNat o.bi.toNat) wr wr none
  else
    let id := (s.core b.core).mseq
    deferFault (s.updCore b.core (fun c => { c with mseq := c.mseq + 1 })) b.core id ⟨0x17, wr.filter (fun a => decide (a < 8)), bk, 0⟩

/-- MMA and MMALOOP (R311): in a group for its band, or at a cluster-domain level for every owning band of the unit (R296). -/
def mmaAct (s : State) (h : Hdr) (o : OpMma) (steps : Nat) : Act :=
  if h.lev = 0 then
    onceAll s h (fun m =>
      let bk := bandHere s
      match s.band? bk with
      | none => .next s
      | some b =>
        let ok := mmaOk o.t o.d.toNat (mapNow s b o.a) (mapNow s b o.b) steps o.ai.toNat o.bi.toNat
        if !ok then flt s 0x17 0 m else if !mqRoom s b.core then .wait else .next (mmaPart s bk b o steps))
  else atCtx s h (fun _ c =>
    let bs := (bandsUnder s c.gc c.lvl c.g).filter (fun p => p.2.st == .resident && (s.lrec c.gc).mat)
    if bs.all (fun p => mqRoom s p.2.core) then .next (bs.foldl (fun s p => mmaPart s p.1 p.2 o steps) s) else .wait)

/-- MMA (R311): one K-step. -/
def execMma (h : Hdr) (o : OpMma) (s : State) : Host.Outcome State Fault Refusal := fin s h true (mmaAct s h o 1)

/-- MMALOOP (R311). -/
def execMmaloop (h : Hdr) (o : OpMma) (s : State) : Host.Outcome State Fault Refusal := fin s h true (mmaAct s h o (o.ks.toNat + 1))

/-- MFENCE (R253, R297, R313): operations issued from now on read no plane or map word older than it stands now, and start once the
accumulator writes issued before are applied. The older values stay for the operations that were issued before it. -/
def execMfence (h : Hdr) (s : State) : Host.Outcome State Fault Refusal :=
  fin s h true (onceAll s h (fun _ =>
    .next (s.updCore (coreAt s (bandHere s)) (fun c => { c with
      fences := c.fences + 1, old := c.old.filter (fun o => c.mq.any (fun p => decide (p.fence ≤ o.fence))) }))))

/-- MWAIT (R297, R314): it waits for the covered operations, and raises their deferred faults one at a time: a residue mismatch without
lanes (R188), the others in the lanes of its split (R296, R308). -/
def execMwait (h : Hdr) (a : Option (BitVec 3)) (s : State) : Host.Outcome State Fault Refusal :=
  fin s h true (onceRun s h (fun m =>
    let bk := bandHere s
    let core := coreAt s bk
    let c := s.core core
    if c.mq.any (fun o => o.bk == bk && (match a with | some x => o.wr.contains x.toNat | none => true)) then standBy s h (.mats (a.map (fun x => x.toNat)))
    else
      match c.mfault.find? (fun p => p.2.bk == bk && (match a with | some x => p.2.accs.contains x.toNat | none => true)) with
      | none => .next s
      | some (k, f) =>
        let s := s.updCore core (fun c => { c with mfault := tabDel c.mfault k })
        .fault s { FaultReq.mk0 f.code (Hdr.lv h) with lanes := if f.src = 0x09 ∨ h.lev ≠ 0 then 0 else m, opf := f.src }))

/-- Issue a queued operation once its checks have passed (R295): it enters the queue, or waits for room. -/
def queueAct (s : State) (bk : Nat) (k : MatKind) (rd wr : List Nat) (acc : Option Nat) (pre : State → State) : Act :=
  let core := coreAt s bk
  if mqRoom s core then .next (enqMat (pre s) bk k rd wr acc) else .wait

/-- ACLR (R315). -/
def execAclr (h : Hdr) (d : BitVec 3) (s : State) : Host.Outcome State Fault Refusal :=
  fin s h true (onceAll s h (fun _ => queueAct s (bandHere s) (.aclr d.toNat) [] [d.toNat] none id))

/-- The 64 scales that an operand supplies (R315). -/
def scalesOf (s : State) (h : Hdr) (o : Opd) : List (BitVec 16) :=
  let pick := fun (w : W32) (i : Nat) => if i % 2 = 0 then w.extractLsb' 0 16 else w.extractLsb' 16 16
  (List.range 64).map (fun i =>
    match o with
    | .vec _ | .near _ => match s.cur.u with
      | .grp gk => (match s.grp? gk with
        | some g => if i / 2 < g.nlive then pick (lo32 (g.getVN o 1 (i / 2))) i else 0x3F80
        | none => 0x3F80)
      | .ctx _ => 0x3F80
    | .scal _ _ => pick (lo32 (opdVal s s.cur.u (Hdr.lv h) 2 0 0 o)) i
    | _ => 0x3F80)

/-- The lanes whose scales ASCL captures: every live lane position (R315). -/
def scaleLanes (s : State) : Lanes :=
  match s.cur.u with | .grp gk => (match s.grp? gk with | some g => lowMask g.nlive | none => 0) | .ctx _ => 1

/-- ASCL (R315): its scales are captured at issue from every live lane position. -/
def execAscl (h : Hdr) (f : AccFmt) (t : Ty) (d a : BitVec 3) (b c : Src) (s : State) : Host.Outcome State Fault Refusal :=
  fin s h true (onceAll s h (fun m =>
    let us := usesOf (if h.lev = 0 then scaleLanes s else 1) 1 [(2, b), (3, c)]
    match checkAll s s.cur.u (Hdr.lv h) m us [] with
    | some x => x
    | none =>
      let wr := accSpan (t = .f64) d.toNat
      queueAct s (bandHere s) (.ascl f t d.toNat a.toNat (scalesOf s h b.o) (scalesOf s h c.o))
        (wr ++ accSpan (f = .fp64) a.toNat) wr none id))

/-- The row that AMOVV and the V forms of ACVT read (R317). -/
def accRow (s : State) (b : Src) (row : BitVec 6) : Nat := ((opdVal s s.cur.u 0 2 0 0 b.o).toNat + row.toNat) % 64

/-- Registers that a V form writes: two elements of a type. -/
def rowRegs (t : Ty) : Nat := 2 * tyRegs t

/-- A V form: the destination goes empty at issue (R110, R317). `t` gives the elements written. -/
def rowAct (s : State) (h : Hdr) (t : Ty) (d : Opd) (a : BitVec 3) (b : Src) (row : BitVec 6) (k : Nat → Nat → Lanes → Nat → MatKind)
    (f64 : Bool) : Act :=
  atLanes s h (fun gk _ m => Act.lanes m (
    match checkAll s s.cur.u 0 m (usesOf m 1 [(2, b)]) [⟨d, rowRegs t, m⟩] with
    | some x => x
    | none =>
      let r := match d with | .vec r => r.toNat | _ => 0
      let pre := fun (s : State) => s.updGrp gk (fun g => (lanesOf m).foldl (fun g i =>
        (List.range (rowRegs t)).foldl (fun g j => g.emptyV (r + j) i) g) g)
      queueAct s (bandHere s) (k gk r m (accRow s b row)) (accSpan f64 a.toNat) [] none pre))

/-- AMOVV (R317). -/
def execAmovv (h : Hdr) (t : Ty) (d : Opd) (a : BitVec 3) (b : Src) (row : BitVec 6) (s : State) : Host.Outcome State Fault Refusal :=
  let e : Ty := if t = .f64 then .f64 else .u32
  fin s h true (rowAct s h e d a b row (fun gk r m n => .amovv t gk r m a.toNat n) (t = .f64))

/-- A scratchpad form: its area is checked, and its access entered as one of the group (R273, R316). -/
def areaAct (s : State) (h : Hdr) (es : Nat) (off : BitVec 27) (w : Bool) (k : MatKind) (rd wr : List Nat) : Act :=
  onceAll s h (fun m =>
    let bk := bandHere s
    let n := 4096 * es
    let d : AccDesc := ⟨es, 2, w, false⟩
    if off.toNat % es ≠ 0 then areaFault s h 0x12 m d off.toNat n
    else if scrSize s < off.toNat + n then areaFault s h 0x11 m d off.toNat n
    else
      let core := coreAt s bk
      let a := mkAcc s s.cur.u (onceMask s h) (onceMask s h) (.scr bk off.toNat) n (.mat core (s.core core).mseq w) .weak 2 [] false .none
      queueAct s bk k rd wr (some s.accSeq) (fun s => s.addAcc a))

/-- ASTS (R316). -/
def execAsts (h : Hdr) (t : Ty) (d : BitVec 3) (off : BitVec 27) (s : State) : Host.Outcome State Fault Refusal :=
  fin s h true (areaAct s h (if t = .f64 then 8 else 4) off true (.asts t d.toNat off.toNat) (accSpan (t = .f64) d.toNat) [])

/-- ALDS (R316). -/
def execAlds (h : Hdr) (t : Ty) (d : BitVec 3) (off : BitVec 27) (s : State) : Host.Outcome State Fault Refusal :=
  fin s h true (areaAct s h (if t = .f64 then 8 else 4) off false (.alds t d.toNat off.toNat) [] (accSpan (t = .f64) d.toNat))

/-- ACVT (R317): a row to registers, or the whole tile to the scratchpad. -/
def execAcvt (h : Hdr) (sform : Bool) (f : AccFmt) (wrap : Bool) (t : Ty) (d : Opd) (a : BitVec 3) (b : Src) (row : BitVec 6)
    (off : BitVec 27) (s : State) : Host.Outcome State Fault Refusal :=
  if sform then
    fin s h true (areaAct s h (tyBytes t) off true (.acvtS f wrap t a.toNat off.toNat) (accSpan (f = .fp64) a.toNat) [])
  else fin s h true (rowAct s h t d a b row (fun gk r m n => .acvtV f wrap t gk r m a.toNat n) (f = .fp64))

/-! ## What the operations compute -/

/-- The elements of one K-step for output (i, j): eight products (R287, R311). -/
def kProducts (c : Core) (ma mb : W64) (ca cb i j : Nat) : List FV :=
  (List.range 8).map (fun k =>
    FV.mul ((getEl c (mapBuf ma + i / 64) (mapW ma) (mapP ma) (i % 64) (8 * ca + k)).val (mapP ma))
      ((getEl c (mapBuf mb + j / 64) 8 (mapP mb) (8 * cb + k) (j % 64)).val (mapP mb)))

/-- One K-step of one element: the exact sum of the accumulator and eight products, rounded once (R287, R288). -/
def kStep (c : Core) (f : AccFmt) (d : Nat) (ma mb : W64) (ca cb i j : Nat) : Core :=
  let w := if f = .fp64 then 2 else 1
  let a := d + w * (i / 64 * mapLines mb + j / 64)
  let v := sumFV (accVal c f a (i % 64) (j % 64) :: kProducts c ma mb ca cb i j)
  accSetBits c (f = .fp64) a (i % 64) (j % 64) (accRound f v)

/-- An MMALOOP of some K-steps (R311). -/
def mmaRun (c : Core) (f : AccFmt) (d : Nat) (ma mb : W64) (steps ai bi : Nat) : Core :=
  (List.range steps).foldl (fun c t =>
    (List.range (64 * mapLines ma)).foldl (fun c i => (List.range (64 * mapLines mb)).foldl (fun c j =>
      kStep c f d ma mb (mapK ma + t * ai) (mapK mb + t * bi) i j) c) c) c

/-- ASCL of one element (R289). -/
def asclEl (c : Core) (f g : AccFmt) (d a : Nat) (sa sb : BitVec 16) (i j : Nat) : Core :=
  let p := FV.mul (FV.mul (scDec sa.toNat) (scDec sb.toNat)) (accVal c f a i j)
  let v := FV.add (accVal c g d i j) p
  accSetBits c (g = .fp64) d i j (accRound g v)

/-- A row element converted for a V form (R317). -/
def acvtEl (c : Core) (f : AccFmt) (wrap : Bool) (t : Ty) (a i j : Nat) : W64 :=
  let v := accVal c f a i j
  regOf t (if tyIsInt t then (encInt t wrap v).toNat else encTy t v)

/-- Due values of a row: elements (r, l) and (r, l + 32) of each lane, the second `gap` registers on (R317). -/
def rowProds (s : State) (gk reg gap : Nat) (lanes : Lanes) (t : Ty) (v : Nat → Nat) (bad : Nat → Bool) : State :=
  (lanesOf lanes).foldl (fun s l =>
    let s := s.addProd (.vec gk reg l t) (leBytes (tyBytes t) (v l)) (bad l)
    s.addProd (.vec gk (reg + gap) l t) (leBytes (tyBytes t) (v (l + 32))) (bad (l + 32))) s

/-- Defer a fault of an operation to the next MWAIT that covers it (R314), with its source of R201. -/
def deferMat (s : State) (core : Nat) (o : MatOp) (code src : Nat) : State := deferFault s core o.id ⟨code, o.wr, o.bk, src⟩

/-- The accumulator and plane words of a core that the surroundings have upset hold errors from now on (R193, log 15). -/
def strikeMat (s : State) (core : Nat) : State :=
  let mine := fun (u : Upset) => match u with | .accWord c _ | .planeWord c _ => c == core | _ => false
  (s.upsets.filter mine).foldl (fun s u =>
    let s := { s with upsets := s.upsets.erase u }
    match u with
    | .accWord _ k => s.updCore core (fun c => { c with accErr := tabPut false c.accErr k true })
    | .planeWord _ k => s.updCore core (fun c => { c with pbErr := tabPut false c.pbErr k true })
    | _ => s) s

/-- A plane word set to a value. -/
def pbSet (c : Core) (k : Nat) (v : W32) : Core :=
  { c with pb := ((leBytes 4 v.toNat).zipIdx).foldl (fun t q => tabSet t (4 * k + q.2) q.1) c.pb }

/-- The plane store as an operation reads it (R297): each word as it stands, or a value that it held since the operation's MFENCE. Which one
is free. -/
def planesFor (c : Core) (o : MatOp) (tag : Nat) : Core :=
  let old := c.old.filter (fun x => decide (o.fence ≤ x.fence) && decide (x.key < 32768))
  (old.map (fun x => x.key)).dedup.foldl (fun t k =>
    let vs := pbWord c k :: ((old.filter (fun x => x.key = k)).map (fun x => x.val))
    pbSet t k ((nth? vs ((Config.freeBits 32 (2 ^ 64 * (tag + 1) + k)).toNat % vs.length)).getD 0)) c

/-- The buffers that the two maps of an operation name. -/
def mapBufs (ma mb : W64) : List Nat := ([ma, mb].map (fun m => (List.range (mapLines m)).map (fun i => mapBuf m + i))).flatten

/-- Whether an operation reads an accumulator word that holds an error, or a plane word of its buffers that does (R193). -/
def readsBad (c : Core) (o : MatOp) : Bool :=
  o.rd.any (fun a => tile64.any (fun p => accBad c false a p.1 p.2)) ||
  (match o.k with | .mma _ _ _ _ ma mb _ _ _ => c.pbErr.any (fun p => p.2 && (mapBufs ma mb).contains (p.1 / 4096)) | _ => false)

/-- The effect of an operation that is not one of a scratchpad, as it completes. A word in error leaves its results undefined, with code
0x32 at the next MWAIT (R193, R314); AMOVV and the V forms of ACVT mark their registers (R317). -/
def matEffect (s : State) (core : Nat) (o : MatOp) : State :=
  let c := s.core core
  let orBad := fun (f : Core → Core) => if readsBad c o then deferMat (accUndef s core o.wr) core o 0x32 0x07 else s.updCore core f
  match o.k with
  | .mma t d _ _ ma mb steps ai bi =>
    orBad (fun c => { mmaRun (planesFor c o s.fresh) (mmaFmt t) d ma mb steps ai bi with pb := c.pb })
  | .aclr d => s.updCore core (fun c => tile64.foldl (fun c p => accPut c (accKey d p.1 p.2) 0) c)
  | .ascl f t d a sa sb =>
    let g : AccFmt := if t = .f64 then .fp64 else .fp32
    orBad (fun c => tile64.foldl (fun c p => asclEl c f g d a ((nth? sa p.1).getD 0x3F80) ((nth? sb p.2).getD 0x3F80) p.1 p.2) c)
  | .amovv t gk reg lanes a row =>
    let words := fun (s : State) (k : Nat) => rowProds s gk (reg + k) (if t = .f64 then 2 else 1) lanes .u32
      (fun j => (accGet c (accKey (a + k) row j)).toNat) (fun j => accBad c false (a + k) row j)
    if t = .f64 then words (words s 0) 1 else words s 0
  | .acvtV f wrap t gk reg lanes a row =>
    rowProds s gk reg (tyRegs t) lanes t (fun j => (acvtEl c f wrap t a row j).toNat) (fun j => accBad c (f = .fp64) a row j)
  | .asts .. | .acvtS .. | .alds .. => s

/-- Store an element of an accumulator, word by word; a word that holds an error is marked, and the error recorded in the core's bank with
what the operation keeps of its instruction (R202, R316). -/
def elToScr (s : State) (core : Nat) (o : MatOp) (at_ es v : Nat) (bad : List Bool) : State :=
  let s := if bad.any id then s.bankEvent (bankOfCore s core) 1 0 0x32 0x07 o.ia o.m0 o.m1 else s
  (bad.zipIdx).foldl (fun s p => scrStore s o.bk (at_ + 4 * p.2) (leBytes (min 4 es) (v / 2 ^ (32 * p.2))) p.1) s

/-- One element of a scratchpad form: the n-th of the tile (R316, R317). An element that ALDS takes from a marked word is undefined, with code
0x30 at the next MWAIT. -/
def matElement (s : State) (core : Nat) (o : MatOp) (n : Nat) : State :=
  let c := s.core core
  let i := n / 64
  let j := n % 64
  match o.k with
  | .asts t d off =>
    let es := if t = .f64 then 8 else 4
    elToScr s core o (off + es * n) es (accBits c (t = .f64) d i j)
      (if t = .f64 then [accBad c false d i j, accBad c false (d + 1) i j] else [accBad c false d i j])
  | .acvtS f wrap t a off =>
    let es := tyBytes t
    elToScr s core o (off + es * n) es (acvtEl c f wrap t a i j).toNat (List.replicate (max 1 (es / 4)) (accBad c (f = .fp64) a i j))
  | .alds t d off =>
    let f64 : Bool := t = .f64
    let es := if f64 then 8 else 4
    let ((bs, poi), s) := scrTake s (o.m0, o.m1) o.bk (off + es * n) es
    if poi then
      deferMat (s.updCore core (fun c => accSetBits c f64 d i j
        ((accFree s.fresh (accKey d i j)).toNat + (accFree s.fresh (accKey (d + 1) i j)).toNat * 2 ^ 32))).tick1 core o 0x30 0
    else s.updCore core (fun c => accSetBits c f64 d i j (leNat bs))
  | _ => s

/-- Whether an operation moves a whole tile from or to the scratchpad, element by element. -/
def MatOp.moves (o : MatOp) : Bool := match o.k with | .asts .. | .acvtS .. | .alds .. => true | _ => false

/-- Busy cycles of an operation (R295): by the rate of R4 for MMA and MMALOOP, by the accumulators that it reads or writes for the
others. -/
def matBusy (o : MatOp) : Nat :=
  let n := (o.rd ++ o.wr).dedup.length
  match o.k with
  | .mma _ _ _ _ ma mb steps _ _ =>
    let rate := 32768 / (mapP ma * ((mapP mb + 15) / 16))
    (32768 * steps * mapLines ma * mapLines mb + rate - 1) / rate
  | .aclr _ => 32 * n
  | .ascl f t _ _ _ _ => (if f = .fp64 ∨ t = .f64 then 64 else 32) * n
  | .amovv t .. => (if t = .f64 then 2 else 1) * n
  | .acvtV _ _ t .. => (if tyBytes t = 8 then 2 else 1) * n
  | .asts t .. | .alds t .. => (if t = .f64 then 256 else 128) * n
  | .acvtS f .. => (if f = .fp64 then 256 else 128) * n

/-- Whether an operation may start: the first not yet started, no earlier one in the queue still writes what it reads or
writes (R295), and none that an MFENCE separates from it still writes an accumulator (R253, R313). -/
def mayStart (mq : List MatOp) (o : MatOp) : Bool :=
  mq.all (fun p => decide (o.id ≤ p.id) ||
    (p.run && !p.wr.any (fun a => o.rd.contains a || o.wr.contains a) && (p.fence == o.fence || p.wr.isEmpty)))

/-- Whether an operation may complete: no earlier one in the queue still reads what it writes, and its scratchpad side is in
order with the group's other accesses. -/
def mayComplete (s : State) (mq : List MatOp) (o : MatOp) : Bool :=
  mq.all (fun p => decide (o.id ≤ p.id) || !p.rd.any (fun a => o.wr.contains a)) &&
  (match o.acc.bind (accOf s) with
   | some a => ordersAllow s a && (match a.kind with | .mat _ _ true => applyInOrder s a | _ => readInOrder s a)
   | none => true)

/-- MATRIX_OP_START (R295). -/
def execMatrixOpStart (core : Nat) (s : State) : Host.Outcome State Fault Refusal :=
  let mq := (s.core core).mq
  ev s ((mq.find? (fun o => !o.run)).bind (fun o =>
    if mayStart mq o then
      some (s.updCore core (fun c => { c with mq := c.mq.map (fun p => if p.id = o.id then { p with run := true } else p) }))
    else none))

/-- An operation leaves the queue, and its busy cycles are counted (R217, R295). -/
def endMat (s : State) (core : Nat) (o : MatOp) : State :=
  let s := match o.acc with | some a => updAcc s a (fun a => { a with atHome := true }) | none => s
  (s.count core 8 (matBusy o)).updCore core (fun c => { c with mq := c.mq.filter (fun p => p.id != o.id) })

/-- MATRIX_OP_COMPLETE (R295): a running operation takes effect and leaves the queue; a scratchpad form first moves its elements, one
a step, which one being free (R243, R273). A residue mismatch, an upset of the surroundings (log 15), leaves undefined values and a
deferred fault (R188); maps or buffers touched in use leave them without a fault (R253, R325). -/
def execMatrixOpComplete (core op : Nat) (mismatch : Bool) (s : State) : Host.Outcome State Fault Refusal :=
  let mq := (s.core core).mq
  ev s ((mq.find? (fun o => o.id = op && o.run)).bind (fun o =>
    if mayComplete s mq o then
      let s := strikeMat s core
      let put := fun (s : State) (l : List Nat) =>
        s.updCore core (fun c => { c with mq := c.mq.map (fun p => if p.id = op then { p with todo := some l } else p) })
      let mm := mismatch && (match o.k with | .mma .. => true | _ => false)
      if o.moves then
        match o.todo with
        | none => some (put s (List.range 4096))
        | some [] => some (endMat s core o)
        | some l =>
          let k := (freeNow s 32).toNat % l.length
          some (put (matElement s.tick1 core o ((nth? l k).getD 0)) (l.eraseIdx k))
      else
        let s := if mm || o.taint then accUndef s core o.wr else matEffect s core o
        some (endMat (if mm then deferMat s core o 0x32 0x09 else s) core o)
    else none))

end Sys2Proof.Machine
end

