-- ==== Sys2Proof/Machine/Save.lean ====
section
/-! DEFINITION. Save images (R115, R116, R181 to R186): what a park writes and what a resume reads back. -/

namespace Sys2Proof.Machine

/-! ## Pieces of an image -/

/-- Zero bytes. -/
def zeroBytes (n : Nat) : List Byte := List.replicate n 0

/-- A piece of an image: its offset, its bytes, and whether some register in it carries a poison mark (R195). -/
abbrev Img := List (Nat × List Byte × Bool)

/-- Move an image by an offset. -/
def Img.shift (o : Nat) (l : Img) : Img := l.map (fun p => (o + p.1, p.2))

/-- Write an image into a save area through the launch's tables; none where a page cannot be written (R334). -/
def writeImg (s : State) (gc base : Nat) (l : Img) : Option State :=
  l.foldl (fun (o : Option State) p => o.bind (fun s => virtWrite s gc (base + p.1) p.2.1 p.2.2)) (some s)

/-- Whether a byte of a save area stands in a poisoned sector: a restore marks what it reads there (R195). -/
def areaBad (s : State) (gc va : Nat) : Bool := match virtAddr s gc va .read with | some pa => badSector s pa | none => false

/-- Whether a whole area can be read. -/
def areaOk (s : State) (gc va n : Nat) : Bool :=
  (List.range ((n + 4095) / 4096)).all (fun i => (virtAddr s gc (va + 4096 * i) .read).isSome)

/-! ## Context blocks (R183) -/

/-- The current segment of a child in its 32 bytes (R183, R184). -/
def segBytes (g : Option Seg) : List Byte :=
  match g with
  | none => zeroBytes 32
  | some x =>
    leBytes 8 x.start.toNat ++ leBytes 8 x.stop.toNat ++
    leBytes 2 (match x.rep with | some q => (Decode.srcCode q.a).toNat + 2 ^ 15 | none => 0) ++ leBytes 2 x.id.toNat ++ zeroBytes 12

/-- CTX of a context block (R183). -/
def ctxWord (c : Ctx) (top : Bool) : Nat :=
  c.loops.length % 16 + c.depth % 128 * 2 ^ 4 + (c.depth - c.spilled) % 32 * 2 ^ 16 + c.next.toNat * 2 ^ 32 +
  (if top then 0 else match c.cur with | some g => g.id.toNat * 2 ^ 48 | none => 0)

/-- The loop stack, oldest entry first. -/
def loopBytes (c : Ctx) : List Byte :=
  ((c.loops.reverse.map (fun (e : LoopEnt) => leBytes 4 e.count.toNat ++ leBytes 4 0 ++ leBytes 8 e.start.toNat)).flatten ++ zeroBytes 128).take 128

/-- The resident call stack, oldest entry first. -/
def callBytes (c : Ctx) : List Byte :=
  (((List.range (c.depth - c.spilled)).map (fun i =>
    let e := tabGet (⟨0, 0⟩ : CallEnt) c.calls (c.spilled + i)
    leBytes 8 e.ret.toNat ++ leBytes 8 e.loops)).flatten ++ zeroBytes 256).take 256

/-- The kept trail entry. -/
def trailBytes (c : Ctx) : List Byte :=
  match c.trail with
  | [] => zeroBytes 32
  | e :: _ => leBytes 8 e.seg.start.toNat ++ leBytes 8 e.seg.stop.toNat ++ leBytes 8 e.unfin ++ leBytes 2 e.seg.id.toNat ++
      leBytes 1 1 ++ zeroBytes 5

/-- The scalars of a context from a register on; those that do not exist are stored as 0 (R116). -/
def scalBytes (c : Ctx) (nscal r n : Nat) : List Byte :=
  ((List.range n).map (fun i => leBytes 8 (if r + i < nscal then (tabGet 0 c.sc (r + i)).toNat else 0))).flatten

/-- Whether some scalar of a range is poison-marked. -/
def scalPois (c : Ctx) (nscal r n : Nat) : Bool := (List.range n).any (fun i => decide (r + i < nscal) && tabGet false c.sp (r + i))

/-- A context block of a context with NSCAL scalars; `only` are those that a SAFEPT save writes, none for a full save. -/
def ctxImg (c : Ctx) (nscal : Nat) (top : Bool) (only : Option (List Nat)) : Img :=
  (match only with
   | none => (List.range 8).map (fun i => (32 * i, scalBytes c nscal (4 * i) 4, scalPois c nscal (4 * i) 4))
   | some rs => rs.map (fun r => (8 * r, scalBytes c nscal r 1, scalPois c nscal r 1))) ++
  [(0x100, leBytes 8 (c.preds ||| 0x8000).toNat ++ leBytes 8 c.ia.toNat ++ leBytes 8 (ctxWord c top) ++ leBytes 8 0 ++
      loopBytes c ++ callBytes c ++ trailBytes c ++ segBytes (if top then none else c.cur) ++ zeroBytes 0x120, false)]

/-- Read a current segment back; what the image does not hold stays as it was. -/
def readSeg (s : State) (gc va : Nat) (old : Option Seg) : Option Seg :=
  old.map (fun g => { g with start := BitVec.ofNat 64 (areaNat s gc va 8), stop := BitVec.ofNat 64 (areaNat s gc (va + 8) 8),
                             id := BitVec.ofNat 16 (areaNat s gc (va + 18) 2) })

/-- The index of a free value of one restored register: of class `tag`, of a unit with a key (R115). -/
def restIdx (s : State) (tag key r : Nat) : Nat := 2 ^ 256 * (s.fresh + 1 + tag) + 2 ^ 14 * key + r

/-- Read a context block back (R115, R178): every register full; of the scalars that exist, those that the save did not write take
free values. -/
def readCtx (s : State) (gc va : Nat) (c : Ctx) (only : Option (List Nat)) : Ctx :=
  let w := areaNat s gc (va + 0x110) 8
  let nl := bitsOf w 3 0
  let dep := bitsOf w 10 4
  let res := bitsOf w 20 16
  let sc := (List.range 32).foldl (fun (t : Tab W64) r =>
    let kept := match only with | none => true | some rs => rs.contains r
    tabPut 0 t r (if ((s.lrec gc).lvl c.lvl).nscal ≤ r then 0
      else if kept then BitVec.ofNat 64 (areaNat s gc (va + 8 * r) 8) else Config.freeBits 64 (restIdx s 0 (ctxKey gc c.lvl c.g) r))) []
  let sp := (List.range 32).foldl (fun (t : Tab Bool) r => tabPut false t r (decide (r < ((s.lrec gc).lvl c.lvl).nscal) && areaBad s gc (va + 8 * r))) []
  let loops := ((List.range nl).map (fun k =>
    (⟨BitVec.ofNat 32 (areaNat s gc (va + 0x120 + 16 * k) 4), BitVec.ofNat 64 (areaNat s gc (va + 0x128 + 16 * k) 8)⟩ : LoopEnt))).reverse
  let calls := (List.range res).foldl (fun (t : Tab CallEnt) k =>
    tabSet t (dep - res + k) ⟨BitVec.ofNat 64 (areaNat s gc (va + 0x1A0 + 16 * k) 8), areaNat s gc (va + 0x1A8 + 16 * k) 8⟩) c.calls
  let preds := BitVec.ofNat 16 (areaNat s gc (va + 0x100) 2 % 2 ^ 15)
  let ia := BitVec.ofNat 64 (areaNat s gc (va + 0x108) 8)
  let next := BitVec.ofNat 16 (bitsOf w 47 32)
  let tr := va + 0x2A0
  let trail := match c.trail with
    | e :: _ => if areaNat s gc (tr + 26) 1 = 0 then [] else
        [{ e with
           seg := { e.seg with start := BitVec.ofNat 64 (areaNat s gc tr 8), stop := BitVec.ofNat 64 (areaNat s gc (tr + 8) 8),
                               id := BitVec.ofNat 16 (areaNat s gc (tr + 24) 2) },
           unfin := areaNat s gc (tr + 16) 8, ia := ia, preds := preds, loops := loops, depth := dep, next := next, log := [] }]
    | [] => []
  { c with sc := sc, se := [], sp := sp, preds := preds, ia := ia, loops := loops, depth := dep, spilled := dep - res, calls := calls,
           next := next, trail := trail, cur := readSeg s gc (va + 0x2C0) c.cur }

/-! ## Group blocks (R184) -/

/-- A split entry in its 32 bytes: state 0 free, 1 ready, 2 waiting. -/
def splitBytes (x : Option Split) : List Byte :=
  match x with
  | none => zeroBytes 32
  | some x =>
    leBytes 8 x.pc.toNat ++ leBytes 8 (x.token.getD 0).toNat ++ leBytes 4 x.mask.toNat ++ leBytes 1 x.depth ++
    leBytes 1 (if atToken x || x.rj then 2 else 1) ++ leBytes 1 (x.top.getD 0xFF) ++ leBytes 1 (b2n x.token.isSome) ++ zeroBytes 8

/-- The region register in its 32 bytes. -/
def regionBytes (g : Region) : List Byte :=
  leBytes 8 g.entry.toNat ++ leBytes 4 g.mask.toNat ++ leBytes 2 g.index.toNat ++
  leBytes 1 (match g.kind with | .grp => 0 | .band => 1 | .core => 2) ++ leBytes 1 (b2n g.valid) ++ zeroBytes 16

/-- The 16 predicates of a lane; bit 15 is stored as 1. -/
def predBits (g : Group) (lane : Nat) : Nat :=
  sumL ((List.range 15).map (fun p => if (tabGet (0 : Lanes) g.pr p).getLsbD lane then 2 ^ p else 0)) + 2 ^ 15

/-- The set bits of a number. -/
def bitList (n v : Nat) : List Nat := (List.range n).filter (fun i => bitOf v i)

/-- The live-mask entry that an effective SAFEPT of a group named, where it can be read; else the save is full (R94, R134). -/
def liveOf (s : State) (g : Group) : Option LiveMask :=
  if g.stop ≠ .safept then none
  else g.live94.bind (fun e =>
    let va := (s.lrec g.gc).lmtab.toNat + 48 * e
    if (virtAddr s g.gc va .read).isNone then none
    else some ⟨bitList 256 (areaNat s g.gc (va + 8) 32), bitList 8 (areaNat s g.gc (va + 0x28) 1),
      bitList 15 (areaNat s g.gc (va + 0x2A) 2), bitList 32 (areaNat s g.gc (va + 0x2C) 4)⟩)

/-- Lane columns of a group (R39). -/
def colsOf (g : Group) : Nat := (g.nlive + 7) / 8

/-- The offset of register r of column i in the vector image (R116). -/
def vecOff (g : Group) (i r : Nat) : Nat := 0x1000 + 256 * (i * (g.vcount / 8) + r / 8) + 32 * (r % 8)

/-- The vector image of some registers. -/
def vecImg (g : Group) (rs : List Nat) : Img :=
  ((rs.filter (fun r => decide (r < g.vcount))).map (fun r => (List.range (colsOf g)).map (fun i =>
    (vecOff g i r, ((List.range 8).map (fun l => leBytes 4 (g.vword r (8 * i + l)).toNat)).flatten,
      (List.range 8).any (fun l => tabGet false g.vp (vkey r (8 * i + l))))))).flatten

/-- The near image: whole lanes, or the registers of a SAFEPT save. -/
def nearImg (g : Group) (only : Option (List Nat)) : Img :=
  ((List.range g.nlive).map (fun l => match only with
    | none => [(0x980 + 32 * l, ((List.range 8).map (fun k => leBytes 4 (g.nword k l).toNat)).flatten,
        (List.range 8).any (fun k => tabGet false g.np (vkey k l)))]
    | some ks => ks.map (fun k => (0x980 + 32 * l + 4 * k, leBytes 4 (g.nword k l).toNat, tabGet false g.np (vkey k l))))).flatten

/-- The predicate image; a SAFEPT save changes only the marked bits of what stands in memory. -/
def predImg (s : State) (g : Group) (va : Nat) (only : Option (List Nat)) : Img :=
  (List.range 32).map (fun l =>
    let v := predBits g l
    let w := match only with
      | none => v
      | some ps =>
        let old := areaNat s g.gc (va + 0x900 + 2 * l) 2
        sumL ((List.range 16).map (fun p => if bitOf (if ps.contains p || p == 15 then v else old) p then 2 ^ p else 0))
    (0x900 + 2 * l, leBytes 2 w, false))

/-- The whole block of a group at `va`, with its group-domain context, if one is declared, which stands where the group stands and
holds the group's segment. -/
def grpImg (s : State) (g : Group) (va : Nat) : Img :=
  let lm := g.kept
  let r := s.lrec g.gc
  let full := lm.isNone
  let head := (List.range 4).map (fun k => ((nth? g.splits k).getD none))
  [(0, (head.map splitBytes).flatten ++ regionBytes g.region ++ segBytes g.seg ++
      leBytes 8 (g.live.toNat + g.vcount * 2 ^ 32 + b2n full * 2 ^ 48 + b2n g.pendH.isSome * 2 ^ 49) ++ zeroBytes 0x38 ++
      ((List.range 64).map (fun i => recBytes (tabGet? g.recs i))).flatten, false)] ++
  (match r.grpLev, s.ctx? (grpAnc s g 1) with
   | some _, some c => (ctxImg { c with ia := g.pos, cur := g.seg } (r.lvl 1).nscal (r.top == 1) (lm.map (fun m => m.s))).shift 0x500
   | _, _ => [(0x500, zeroBytes 0x400, false)]) ++
  predImg s g va (lm.map (fun m => m.p)) ++ [(0x940, zeroBytes 0x40, false)] ++ nearImg g (lm.map (fun m => m.n)) ++
  [(0xD80, zeroBytes 0x280, false)] ++ vecImg g (match lm with | none => List.range 256 | some m => m.v)

/-- Read a split entry back; a waiting RJOIN issues again (R177). -/
def readSplit (s : State) (gc va : Nat) (old : Option Split) : Option Split :=
  if areaNat s gc (va + 21) 1 = 0 then none
  else
    let tk := areaNat s gc (va + 23) 1 % 2 == 1
    let tp := areaNat s gc (va + 22) 1
    let w := match old with | some x => (match x.w with | .bar j p rest => WaitSt.bar j p rest | _ => .none) | none => .none
    some ⟨BitVec.ofNat 64 (areaNat s gc va 8), BitVec.ofNat 32 (areaNat s gc (va + 16) 4),
      if tk then some (BitVec.ofNat 64 (areaNat s gc (va + 8) 8)) else none, areaNat s gc (va + 20) 1,
      if tp = 0xFF then none else some tp, false, false, w⟩

/-- The words of a register file read back: free values where the save did not write (R115). -/
def readWords (s : State) (gc gk : Nat) (keys : List (Nat × Nat × Bool)) (tag : Nat) : Tab W32 :=
  keys.foldl (fun t p => tabPut 0 t p.1 (if p.2.2 then BitVec.ofNat 32 (areaNat s gc p.2.1 4)
    else Config.freeBits 32 (restIdx s tag gk p.1))) []

/-- The marks of words read back. -/
def readMarks (s : State) (gc : Nat) (keys : List (Nat × Nat × Bool)) : Tab Bool :=
  keys.foldl (fun t p => tabPut false t p.1 (p.2.2 && areaBad s gc p.2.1)) []

/-- Read a group block back (R115, R178). -/
def readGrp (s : State) (gk va : Nat) (g : Group) : Group :=
  let gc := g.gc
  let lm := g.kept
  let vk := ((List.range g.vcount).map (fun r => (List.range (8 * colsOf g)).map (fun l =>
    (vkey r l, va + vecOff g (l / 8) r + 4 * (l % 8), match lm with | none => true | some m => m.v.contains r)))).flatten
  let nk := ((List.range g.nlive).map (fun l => (List.range 8).map (fun k =>
    (vkey k l, va + 0x980 + 32 * l + 4 * k, match lm with | none => true | some m => m.n.contains k)))).flatten
  let pr := (List.range 15).foldl (fun (t : Tab Lanes) p =>
    let kept := match lm with | none => true | some m => m.p.contains p
    tabPut 0 t p (if kept then maskOf (fun l => bitOf (areaNat s gc (va + 0x900 + 2 * l) 2) p)
      else Config.freeBits 32 (restIdx s 3 gk p))) []
  let recs := g.recs.map (fun p => (p.1, readRec s gc (va + 0x100 + 16 * p.1) p.2))
  let w := match g.w with | .bar j p rest => WaitSt.bar j p rest | _ => .none
  { g with
    splits := (List.range 4).map (fun k => readSplit s gc (va + 32 * k) ((nth? g.splits k).getD none)), recs := recs,
    live := BitVec.ofNat 32 (areaNat s gc (va + 0xC0) 4), seg := readSeg s gc (va + 0xA0) g.seg,
    vr := readWords s gc gk vk 1, ve := [], vp := readMarks s gc vk, nr := readWords s gc gk nk 2, np := readMarks s gc nk, pr := pr,
    stop := .run, chk := (s.lrec gc).chk, clonePend := none, w := w, vwant := 0, live94 := none, kept := none, rep := none }

/-! ## The band's area (R181, R182) -/

/-- The scratchpad image: 32 bytes a piece. -/
def scrImg (x : Band) (size : Nat) : Img :=
  (List.range (size / 32)).map (fun i => (0x92000 + 32 * i, scrRead x (32 * i) 32, scrBad x (32 * i) 32))

/-- The accumulator and plane-buffer images of an owning band (R116). -/
def matImg (c : Core) : Img :=
  ((List.range 4096).map (fun i => (0xD2000 + 32 * i, ((List.range 8).map (fun k => leBytes 4 (accGet c (8 * i + k)).toNat)).flatten,
    (List.range 8).any (fun k => tabGet false c.accErr (8 * i + k))))) ++
  ((List.range 4096).map (fun i => (0xF2000 + 32 * i, (List.range 32).map (fun k => pbGet c (32 * i + k)), false)))

/-- Everything that a park writes into a band's area. -/
def bandImg (s : State) (x : Band) (cause : Nat) : Img :=
  let r := s.lrec x.gc
  let base := bandSave s x.gc x.b
  let cs := bandCtxList s x.gc x.b
  [(0, if x.rcd = [] then zeroBytes 0x80 else x.rcd, false), (0x80, bandHead s x cause, false),
   (0x100, ((List.range 16).map (fun k => leBytes 8 (tabGet 0 x.maps k).toNat)).flatten ++ zeroBytes 0x280, false)] ++
  ((cs.zipIdx).map (fun p => (ctxImg p.1.2 (r.lvl p.1.2.lvl).nscal (p.1.2.lvl == r.top) none).shift (0x400 * (p.2 + 1)))).flatten ++
  [(0x1400, zeroBytes 0xC00, false)] ++
  ((grpsOf s x.gc x.b).map (fun p => (grpImg s p.2 (base + 0x2000 + 0x9000 * p.2.r)).shift (0x2000 + 0x9000 * p.2.r))).flatten ++
  scrImg x (1024 * r.scrg) ++ (if r.mat then matImg (s.core x.core) else [])

/-- The ranges of a band's area that a resume reads: context blocks, group blocks as far as their vector images go, the
scratchpad image, and the matrix images of an owner (R181, R184). -/
def bandRanges (s : State) (gc b : Nat) : List (Nat × Nat) :=
  let r := s.lrec gc
  [(0, 0x1400)] ++ (grpsOf s gc b).map (fun p => (0x2000 + 0x9000 * p.2.r, 0x1000 + 256 * colsOf p.2 * (p.2.vcount / 8))) ++
  [(0x92000, 1024 * r.scrg)] ++ (if r.mat then [(0xD2000, 0x40000)] else [])

/-- Whether what a resume reads of a band's area can be read. -/
def bandAreaOk (s : State) (gc b : Nat) : Bool :=
  (bandRanges s gc b).all (fun p => areaOk s gc (bandSave s gc b + p.1) p.2)

/-- Read a band's area back into its records (R178). -/
def readBand (s : State) (gc b : Nat) : State :=
  match s.band? (bandKey gc b) with
  | none => s
  | some x =>
    let r := s.lrec gc
    let base := bandSave s gc b
    let size := 1024 * r.scrg
    let s0 := s
    let s := ((bandCtxList s gc b).zipIdx).foldl (fun (s : State) p =>
      s.updCtx p.1.1 (fun c => readCtx s0 gc (base + 0x400 * (p.2 + 1)) c none)) s
    let s := (grpsOf s0 gc b).foldl (fun (s : State) p =>
      let va := base + 0x2000 + 0x9000 * p.2.r
      let s := if r.grpLev.isSome then
          s.updCtx (grpAnc s0 p.2 1) (fun c => readCtx s0 gc (va + 0x500) c (p.2.kept.map (fun m => m.s)))
        else s
      s.updGrp p.1 (fun g => readGrp s0 p.1 va g)) s
    let s := s.updBand (bandKey gc b) (fun x => { x with
      maps := (List.range 16).foldl (fun (t : Tab W64) k => tabPut 0 t k (BitVec.ofNat 64 (areaNat s0 gc (base + 0x100 + 8 * k) 8))) [],
      scr := (List.range size).foldl (fun (t : Tab Byte) i => tabPut 0 t i (BitVec.ofNat 8 (areaNat s0 gc (base + 0x92000 + i) 1))) [],
      scrP := (List.range (size / 4)).foldl (fun (t : Tab Bool) i => tabPut false t i (areaBad s0 gc (base + 0x92000 + 4 * i))) [] })
    let s := if !r.mat then s
      else s.updCore x.core (fun c => { c with
        accTag := s0.fresh,
        acc := (List.range 32768).foldl (fun (t : Tab W32) i => tabSet t i (BitVec.ofNat 32 (areaNat s0 gc (base + 0xD2000 + 4 * i) 4))) [],
        accErr := (List.range 32768).foldl (fun (t : Tab Bool) i => tabPut false t i (areaBad s0 gc (base + 0xD2000 + 4 * i))) [],
        pb := (List.range 131072).foldl (fun (t : Tab Byte) i => tabSet t i (BitVec.ofNat 8 (areaNat s0 gc (base + 0xF2000 + i) 1))) [] })
    { s with fresh := s.fresh + 64 }

/-! ## Areas of cluster- and die-level units (R185) -/

/-- The units with an area of their own within a whole unit: those of every cluster- and die-domain level, highest level first (R185,
R334). The area of a unit holds the contexts of its domain at and below it, and a lower unit's own area is read last (log 26). -/
def areaUnits (s : State) (gc k g : Nat) : List (Nat × Nat) :=
  let r := s.lrec gc
  let tops := ((List.range (k + 1)).filter (fun j => (r.lvl j).dom = domCluster ∨ (r.lvl j).dom = domDie)).reverse
  (tops.map (fun j => (List.range (r.extents j k)).map (fun i => (j, g * r.extents j k + i)))).flatten

/-- What a park writes into the area of a unit: the header and one block a context. -/
def unitImg (s : State) (gc j g cause : Nat) : Img :=
  let r := s.lrec gc
  (0x80, unitHead s gc j g cause, false) ::
  (((areaCtxs s gc j g).zipIdx).map (fun p => (ctxImg p.1.2 (r.lvl p.1.2.lvl).nscal (p.1.2.lvl == r.top) none).shift (0x400 * (p.2 + 1)))).flatten

/-- Read the area of a unit back. -/
def readUnit (s : State) (gc j g : Nat) : State :=
  let base := unitSave s gc j g
  let s0 := s
  ((areaCtxs s gc j g).zipIdx).foldl (fun (s : State) p => s.updCtx p.1.1 (fun c => readCtx s0 gc (base + 0x400 * (p.2 + 1)) c none)) s

end Sys2Proof.Machine
end

