-- ==== Sys2Proof/Machine/Park.lean ====
section
/-! DEFINITION. Pre-emption, parking and resuming (R31, R115, R177 to R180, R327, R330, R346, R347, R352, R370). -/

namespace Sys2Proof.Machine

/-! ## What parks together -/

/-- The resident bands that park with a band (R42, R43). -/
def parkBands (s : State) (gc b : Nat) : List Nat :=
  (bandsWith s gc b).filter (fun y => match s.band? (bandKey gc y) with | some z => z.st == .resident | none => false)

/-- The whole units that hold some bands. -/
def parkUnits (s : State) (gc : Nat) (bs : List Nat) : List (Nat × Nat) := (bs.filterMap (wholeUnit s gc)).dedup

/-- The contexts that park with some bands: those of the bands, and those of whole units; grid contexts are never saved
(R185). -/
def parkCtxs (s : State) (gc : Nat) (bs : List Nat) : List (Nat × Ctx) :=
  s.ctxs.filter (fun p => p.2.gc == gc && p.2.dom != domDevice &&
    (if p.2.dom ≤ domBand then bs.contains ((s.lrec gc).bandOf p.2.lvl p.2.g)
     else (bandsUnder s gc p.2.lvl p.2.g).any (fun q => bs.contains q.2.b)))

/-- The groups of some bands. -/
def parkGrps (s : State) (gc : Nat) (bs : List Nat) : List (Nat × Group) := (bs.map (grpsOf s gc)).flatten

/-! ## Steps 1 to 3 of a park (R177) -/

/-- Whether no entry of a group can issue: it waits at its instruction, a VGROW among them, at a stall or at the end of its segment. -/
def grpIdle (s : State) (gk : Nat) (g : Group) : Bool :=
  g.vwant != 0 || (List.range 4).all (fun e => match entrySlot s gk e g with | .idle => true | _ => false)

/-- Whether a group has stopped for a park begun for a cause (R177 step 2). -/
def grpQuiet (s : State) (p : Nat × Group) (cause : Nat) : Bool :=
  p.2.handler.isNone && p.2.clonePend.isNone && p.2.stop != .restart && p.2.stop != .unitFault &&
  (cause != 1 || p.2.stop != .run || grpIdle s p.1 p.2)

/-- Whether a scalar destination is undone by the rollback: it is empty now and full after it (R31, R115). -/
def undoneBy (s : State) (ck : Nat) (r : BitVec 5) : Bool :=
  match s.ctx? ck with | some c => !c.trail.isEmpty && !(c.cell r).full && ((rollback c).cell r).full | none => false

/-- Whether a destination is one that the park of some contexts undoes: a scalar that the rollback restores, or an entry of a call stack,
which its RET reads again. -/
def undoneDest (s : State) (cks : List Nat) (d : Dest) : Bool :=
  match d with | .scal ck r _ => cks.contains ck && undoneBy s ck r | .stack ck _ => cks.contains ck | _ => false

/-- Whether an access is by one of the units that park. -/
def byUnits (gks cks : List Nat) (a : Access) : Bool :=
  match a.by_ with | .unit (.grp k) => gks.contains k | .unit (.ctx k) => cks.contains k | _ => false

/-- Whether everything that a park waits for is done: accesses, producers, replay entries, matrix operations and copies
(R115 step 1, R192, R370). -/
def parkDrained (s : State) (bks gks cks : List Nat) : Bool :=
  s.accs.all (fun a => !byUnits gks cks a || (a.kind == .read && undoneDest s cks a.dest)) &&
  s.prods.all (fun p => match p.dest with
    | .vec gk _ _ _ => !gks.contains gk
    | .scal ck _ _ => !cks.contains ck || undoneDest s cks p.dest
    | _ => true) &&
  gks.all (fun k => !hasReplay s k) &&
  s.cores.all (fun p => p.2.mq.all (fun m => !bks.contains m.bk) &&
    p.2.drover.all (fun d => !bks.contains d.bk && d.targets.all (fun t => !bks.contains t)))

/-- Whether a park of a band may go on to its step 4. -/
def parkReady (s : State) (gc b : Nat) : Bool :=
  match s.band? (bandKey gc b), s.launch? gc with
  | some x, some l =>
    let bs := parkBands s gc b
    let gs := parkGrps s gc bs
    x.st == .resident && x.park.isSome && !s.host.halted && !l.done &&
    bs.all (fun y => match s.band? (bandKey gc y) with
      | some z => z.park.isSome && z.dbg.isNone && z.dying.isNone && !(z.inPlace && z.cause == 3) | none => false) &&
    gs.all (fun p => grpQuiet s p x.cause) &&
    parkDrained s (bs.map (bandKey gc)) (gs.map (·.1)) ((parkCtxs s gc bs).map (·.1))
  | _, _ => false

/-! ## The room check (R352, R370) -/

/-- The pins of some groups, less their shadows, whose withdrawals are due. -/
def pinNames (gs : List (Nat × Group)) : List (Nat × W64) :=
  (gs.map (fun p => (p.2.pins.filter (fun q => q.v != 0)).map (fun q => (p.1, q.v)))).flatten

/-- Every published name of some groups, which the room check counts: their pins and their shadows. -/
def allNames (gs : List (Nat × Group)) : List (Nat × W64) :=
  pinNames gs ++ (gs.map (fun p => (p.2.pins.filter (fun q => q.shadow != 0)).map (fun q => (p.1, q.shadow)))).flatten

/-- The barriers of some contexts: key and name. -/
def barNames (s : State) (cs : List (Nat × Ctx)) : List (Nat × W64) :=
  (cs.map (fun p => (List.range ((s.lrec p.2.gc).lvl p.2.lvl).nbar).map (fun j =>
    (barKey p.1 j, BitVec.ofNat 64 (p.2.gc * 2 ^ 58 + p.2.g % 2 ^ 55 * 8 + j))))).flatten

/-- The slice that holds a parked barrier with a key. -/
def barSlice (s : State) (key : Nat) : Nat :=
  let ck := key / 8
  nameSlice s.floor (BitVec.ofNat 64 (ck % 64 * 2 ^ 58 + ck / 512 % 2 ^ 55 * 8 + key % 8))

/-- Whether every name and every barrier finds a free entry in its slice. -/
def parkRoom (s : State) (names bars : List (Nat × W64)) : Bool :=
  s.floor.allSlices.all (fun sl =>
    decide ((s.pins.filter (fun p => p.dead.isNone && nameSlice s.floor p.name == sl)).length +
      (names.filter (fun p => nameSlice s.floor p.2 == sl)).length ≤ 8192) &&
    decide ((s.parkedBars.filter (fun p => barSlice s p.1 == sl)).length +
      (bars.filter (fun p => nameSlice s.floor p.2 == sl)).length ≤ 2048))

/-- The records of P faults that waited for the save go to the host (R180). -/
def sendOwed (s : State) (gc : Nat) (bs : List Nat) : State :=
  bs.foldl (fun (s : State) b => match s.band? (bandKey gc b) with
    | some x => (x.owed.foldl (fun (s : State) r => toHost s r (.park gc b)) s).updBand (bandKey gc b) (fun x => { x with owed := [] })
    | none => s) s

/-- The handler of a fault that a park kept runs first in its group, in the entry that faulted (R178 step 4, R180). -/
def pendingHandler (s : State) (gk : Nat) : State :=
  match s.grp? gk with
  | some g => (match g.pendH with
    | some p =>
      let there : Bool := match nth? g.splits p.e with | some (some _) => true | _ => false
      let e := if there then p.e else match (entries g.splits).find? (fun q => q.2.pc == p.ia) with | some (e, _) => e | none => 0
      startHandler (s.updGrp gk (fun g => { g with pendH := none })) p.u gk e p.f p.ia p.insn p.seq p.rep412
    | none => s)
  | none => s

/-- A context that stood stopped in place goes on as after a resume: what it had asked of its children it asks anew (R163, R178). -/
def askAnew (s : State) (ck : Nat) : State := s.updCtx ck (fun c => { c with stopped := false, asked := false, reports := [] })

/-- Units that stopped where they stand run again in place, as after R178: kept handlers run first. -/
def runInPlace (s : State) (gc : Nat) (bs : List Nat) : State :=
  let gks := (parkGrps s gc bs).map (·.1)
  let s := gks.foldl (fun (s : State) k => s.updGrp k (fun g => { g with stop := .run })) s
  let s := ((parkCtxs s gc bs).map (·.1)).foldl askAnew s
  gks.foldl pendingHandler s

/-- An abandoned park: by its cause (R370). One that a P fault of a group has joined stays stopped in place until the host has resolved
its records, whatever began it (R179, R180). -/
def abandonPark (s : State) (gc b cause : Nat) (bs : List Nat) : State :=
  let each := fun (s : State) (f : Band → Band) => bs.foldl (fun (s : State) y => s.updBand (bandKey gc y) f) s
  let off := fun (x : Band) => { x with park := none, cause := 0, wanted := none }
  let core := coreAt s (bandKey gc b)
  let s := if cause = 4 then
      let s := undoTake s (bandKey gc b)
      (ctxsOfBand s gc b).foldl (fun (s : State) p => match ctxWait s p.1 with
        | .fwait pa _ _ _ => if (futGet s pa).full then s else futWait s pa (s.task gc).id p.1
        | _ => s) s
    else s
  if cause = 3 ∨ unresolved s gc bs ≠ 0 then
    let s := sendOwed (each s (fun x => { x with inPlace := true, cause := 3, passed := x.passed || cause = 5, wanted := none })) gc bs
    if cause = 5 then growPark s core else s
  else match cause with
  | 4 => runInPlace (each s off) gc bs
  | 5 => growPark (runInPlace (each s (fun x => { off x with passed := true })) gc bs) core
  | _ => runInPlace (each s (fun x => { off x with again := clockAt s (.core x.core) + 65536 })) gc bs

/-! ## Steps 4 to 6 (R31, R177, R330, R391) -/

/-- What a wait that the park withdraws restores in its context (R330): the destination of an FWAIT regains its value. -/
def waitRestore (c : Ctx) (w : WaitSt) : Ctx :=
  match w with
  | .fwait _ r old full => { c with sc := tabPut 0 c.sc r.toNat old, se := tabPut false c.se r.toNat (!full) }
  | _ => c

/-- The RCDRAIN of a unit lets go of the entry it has taken. -/
def untake (s : State) (gc : Nat) (w : WaitSt) : State :=
  match w with
  | .drain cur _ _ _ _ => s.updLaunch gc (fun l => { l with defer := l.defer.map (fun e => if e.id = cur then { e with taken := false } else e) })
  | _ => s

/-- A context as it is saved: its wait withdrawn, a SLEEPC passed (R216), rolled back to its oldest unretired segment. -/
def savedCtx (c : Ctx) : Ctx :=
  let c := waitRestore c c.w
  let c := match c.w with | .sleep _ => { c with ia := iaNext c.ia } | _ => c
  rollback c

/-- A group as it is saved: splits that sleep stand after their SLEEPC (R216). -/
def savedGrp (g : Group) : Group :=
  let g := match g.w with | .sleep _ => g.setPos (iaNext g.pos) | _ => g
  { g with splits := g.splits.map (fun x => x.map (fun y => match y.w with | .sleep _ => { y with pc := iaNext y.pc, w := .none } | _ => y)) }

/-- How many SLEEPCs of a group a save ends: each counts as issued (R216, R217). -/
def sleepsOf (g : Group) : Nat :=
  let n := fun (w : WaitSt) => match w with | .sleep _ => 1 | _ => 0
  n g.w + sumL (g.splits.map (fun x => match x with | some y => n y.w | none => 0))

/-- What the save of each group writes is settled: a live-mask entry, or everything (R94, R115). -/
def keepMasks (s : State) (gks : List Nat) : State :=
  gks.foldl (fun (s : State) k => match s.grp? k with
    | some g => let lm := liveOf s g; s.updGrp k (fun g => { g with kept := lm })
    | none => s) s

/-- Withdraw what the units wait for, and roll their contexts back. -/
def withdraw (s : State) (gc : Nat) (gks cks : List Nat) : State :=
  let mine := fun (u : UnitRef) => match u with | .grp k => gks.contains k | .ctx k => cks.contains k
  let s := { s with msgs := s.msgs.filter (fun m => !mine m.by_) }
  let s := dropDests s (undoneDest s cks)
  let s := gks.foldl (fun (s : State) k => match s.grp? k with
    | some g =>
      let s := (untake s gc g.w).count (coreOfGrp s g) 0 (sleepsOf g)
      let s := if (s.lrec gc).grpLev.isSome then s.updCtx (grpAnc s g 1) (fun c => waitRestore c g.w) else s
      s.updGrp k savedGrp
    | none => s) s
  cks.foldl (fun (s : State) k => match s.ctx? k with
    | some c => (untake s gc c.w).updCtx k savedCtx
    | none => s) s

/-- Move the pins and barriers of the units to the tables of the slices, shadows dropped. A parked group's record keeps which
register holds which name; no search reads it there. -/
def moveOut (s : State) (gc : Nat) (names bars : List (Nat × W64)) (gks : List Nat) : State :=
  let t := (s.task gc).id
  let s := { s with
    pins := s.pins ++ names.map (fun p => ⟨p.2, t, p.1, none⟩),
    parkedBars := bars.foldl (fun (x : Tab Barrier) p => tabSet x p.1 (tabGet Barrier.zero s.bars p.1)) s.parkedBars,
    bars := s.bars.filter (fun p => !(bars.any (fun q => q.1 == p.1))) }
  gks.foldl (fun (s : State) k => s.updGrp k (fun g => { g with pins := g.pins.map (fun q => ⟨q.v, 0⟩) })) s

/-- CAUSE as an image records it: a wait parked by R330 is a pre-emption. -/
def causeCode (c : Nat) : Nat := if c = 7 then 1 else c

/-- The images of a park with their bases: those of its bands, then those of its cluster- and die-level units (R181, R185). -/
def parkImages (s : State) (gc cause : Nat) (bs : List Nat) : List (Nat × Img) :=
  bs.filterMap (fun b => (s.band? (bandKey gc b)).map (fun x =>
    (bandSave s gc b, bandImg s x (causeCode (match x.park with | some p => p.cause | none => cause))))) ++
  (((parkUnits s gc bs).map (fun u => areaUnits s gc u.1 u.2)).flatten).map (fun a =>
    (unitSave s gc a.1 a.2, unitImg s gc a.1 a.2 (causeCode cause)))

/-- Write every image of a park; none where some page cannot be written (R334). -/
def writeImages (s : State) (gc cause : Nat) (bs : List Nat) : Option State :=
  (parkImages s gc cause bs).foldl (fun (o : Option State) p => o.bind (fun t => writeImg t gc p.1 p.2)) (some s)

/-- The state after images of a park could not be written: the event of the walk that failed (R235, R334). -/
def imagesFailed (s : State) (gc cause : Nat) (bs : List Nat) : State :=
  let ps := ((parkImages s gc cause bs).map (fun p => p.2.map (fun q => (p.1 + q.1, q.2.1)))).flatten
  match ps.find? (fun p => (virtWrite s gc p.1 p.2 false).isNone) with
  | some p => virtFailed s gc p.1 p.2.length .write
  | none => s

/-- Free what the units held: what the images hold is kept in the records until the resume. -/
def freeUnits (s : State) (gc cause : Nat) (bs gks cks : List Nat) : State :=
  let s := bs.foldl (fun (s : State) b => s.updBand (bandKey gc b) (fun x => { x with
    st := .parked, park := none, cause := cause, scr := [], scrP := [], maps := [],
    olds := (s.core x.core).old, fen := (s.core x.core).fences })) s
  let s := gks.foldl (fun (s : State) k => s.updGrp k (fun g => { g with
    stop := if g.stop = .safept then .safept else .parked, vr := [], ve := [], vp := [], nr := [], np := [], pr := [], vwant := 0 })) s
  cks.foldl (fun (s : State) k => s.updCtx k (fun c => { c with parked := true, stopped := false, sc := [], se := [], sp := [] })) s

/-- Write STATE of a running launch's record, where it can be written. -/
def launchState (s : State) (gc st : Nat) : State :=
  match taskPa s (s.task gc) with | some pa => setTaskState s pa st | none => s

/-- What follows a park by its cause: the unit is resumable at once, after a wake-up, or after resolution; or the owner is
placed (R179, R327, R330, R337). -/
def afterPark (s : State) (gc cause : Nat) (bs : List Nat) : State :=
  let rep := bs.head?.getD 0
  match cause with
  | 4 => bs.foldl (fun (s : State) b =>
      let kept := match s.band? (bandKey gc b) with | some x => x.kept | none => false
      let s := placeOwner s (bandKey gc b)
      match (s.band? (bandKey gc b)).bind (fun x => x.reserve) with
      | some o => if kept then requestPark (s.updBand (bandKey gc b) (fun x => { x with kept := false })) (o % 64) (o / 64) 1 false else s
      | none => s) s
  | 5 =>
    let core := coreAt s (bandKey gc rep)
    makeReady (growAll 16 { s with bands := s.bands.map (fun (p : Nat × Band) =>
      if p.2.core == core && p.2.park.isNone then (p.1, { p.2 with passed := false }) else p) } core) gc rep
  | 7 => wakeScan (bs.foldl (fun (s : State) b => match s.band? (bandKey gc b) with
      | some x => (match x.wanted with
        | some w => placeWanted (s.updBand (bandKey gc b) (fun x => { x with wanted := none })) w x.core
        | none => s)
      | none => s) s)
  | _ => makeReady s gc rep

/-- A band that parks inside the resources of its helper gives them back, up the whole chain, unless it takes in a task itself (R347). -/
def leaveReserve (s : State) (gc cause : Nat) (bs : List Nat) : State := if cause = 4 then s else freeChain s (bs.map (bandKey gc))

/-- PARK (R177 steps 3 to 6). -/
def execPark (gc b : Nat) (s : State) : Host.Outcome State Fault Refusal :=
  .next (if !parkReady s gc b then s
  else
    let cause := match s.band? (bandKey gc b) with | some x => x.cause | none => 0
    let bs := parkBands s gc b
    let gks := (parkGrps s gc bs).map (·.1)
    let cks := (parkCtxs s gc bs).map (·.1)
    let names := pinNames (parkGrps s gc bs)
    let bars := barNames s (parkCtxs s gc bs)
    if !parkRoom s (allNames (parkGrps s gc bs)) bars then abandonPark s gc b cause bs
    else
      let s := moveOut (withdraw (keepMasks (sendOwed s gc bs) gks) gc gks cks) gc names bars gks
      match writeImages s gc cause bs with
      | none => fatal (imagesFailed s gc cause bs)
      | some s => afterPark (leaveReserve (launchState (freeUnits s gc cause bs gks cks) gc 4) gc cause bs) gc cause bs)

/-! ## Resume (R178) -/

/-- A wait that outlives a park: an arrival at a barrier. -/
def keepWait (w : WaitSt) : WaitSt := match w with | .bar j p r => .bar j p r | _ => .none

/-- Move the pins and barriers of resuming units back. -/
def moveIn (s : State) (gks cks : List Nat) : State :=
  let back := fun (p : Nat × Barrier) => cks.contains (p.1 / 8)
  { s with pins := s.pins.filter (fun p => p.dead.isSome || !gks.contains p.gk),
           bars := (s.parkedBars.filter back).foldl (fun (t : Tab Barrier) p => tabPut Barrier.zero t p.1 p.2) s.bars,
           parkedBars := s.parkedBars.filter (fun p => !back p) }

/-- The bands that resume together. -/
def resumeBands (s : State) (gc b : Nat) : List Nat :=
  (bandsWith s gc b).filter (fun y => match s.band? (bandKey gc y) with | some z => z.st == .resuming | none => false)

/-- The unit areas that a resume reads. -/
def resumeAreas (s : State) (gc : Nat) (bs : List Nat) : List (Nat × Nat) :=
  ((parkUnits s gc bs).map (fun u => areaUnits s gc u.1 u.2)).flatten

/-- Whether every image that a resume reads can be read. -/
def resumeReadable (s : State) (gc : Nat) (bs : List Nat) : Bool :=
  bs.all (fun b => bandAreaOk s gc b) &&
  (resumeAreas s gc bs).all (fun u => areaOk s gc (unitSave s gc u.1 u.2) (0x400 * ((areaCtxs s gc u.1 u.2).length + 1)))

/-- The state after images of a resume could not be read: the event of the walk that failed (R235). -/
def imagesLost (s : State) (gc : Nat) (bs : List Nat) : State :=
  match bs.find? (fun b => !bandAreaOk s gc b) with
  | some b => (match (bandRanges s gc b).find? (fun p => !areaOk s gc (bandSave s gc b + p.1) p.2) with
    | some p => virtFailed s gc (bandSave s gc b + p.1) p.2 .read
    | none => s)
  | none => (match (resumeAreas s gc bs).find? (fun u => !areaOk s gc (unitSave s gc u.1 u.2) (0x400 * ((areaCtxs s gc u.1 u.2).length + 1))) with
    | some u => virtFailed s gc (unitSave s gc u.1 u.2) (0x400 * ((areaCtxs s gc u.1 u.2).length + 1)) .read
    | none => s)

/-- A resuming band is resident, and the caches of its core are empty. -/
def bandBack (s : State) (gc b : Nat) : State :=
  let s := match s.band? (bandKey gc b) with
    | some x => (clearView s x.core).updCore x.core (fun c => { c with kv := [] })
    | none => s
  s.updBand (bandKey gc b) (fun x => { x with
    st := .resident, cause := 0, inPlace := false, unres := 0,
    dbg := ((stopsOver s gc b).head?.map (·.2)).orElse (fun _ => x.dbg), dbgAt := clockAt s (.core x.core) })

/-- A request that a band kept while it could not be asked applies once it is resident. -/
def keptAsk (s : State) (gc b : Nat) : State :=
  match s.band? (bandKey gc b) with
  | some x => if x.kept then requestPark (s.updBand (bandKey gc b) (fun x => { x with kept := false })) gc b 1 false else s
  | none => s

/-- The HELPER field of a task whose band is back in its resources becomes none (R328). -/
def unlinked (s : State) (gc b : Nat) : State :=
  match s.band? (bandKey gc b) with
  | some x => if x.unlink then putOwnLink (s.updBand (bandKey gc b) (fun x => { x with unlink := false })) gc 0x6C 0x3FFFFFFF else s
  | none => s

/-- Read the images of the units that resume, and let them run (R178). A split that stood in a SLEEPC has passed it, and may so have
reached its token (R216, R13). -/
def resumeNow (s : State) (gc : Nat) (bs gks cks : List Nat) (areas : List (Nat × Nat)) : State :=
  let s := areas.foldl (fun (s : State) u => readUnit s gc u.1 u.2) s
  let s := bs.foldl (fun (s : State) b => readBand s gc b) s
  let s := moveIn s gks cks
  let s := cks.foldl (fun (s : State) k => s.updCtx k (fun c => { c with parked := false, w := keepWait c.w })) s
  let s := bs.foldl (fun s b => bandBack s gc b) s
  let s := bs.foldl (fun s b => unlinked s gc b) s
  let s := launchState s gc 3
  let s := gks.foldl (fun (s : State) k => settle s k) s
  let s := gks.foldl pendingHandler s
  bs.foldl (fun s b => keptAsk s gc b) s

/-- UNIT_RESUME (R178): the images of a unit that has its resources back are read, and it runs. -/
def execUnitResume (gc b : Nat) (s : State) : Host.Outcome State Fault Refusal :=
  .next (match s.band? (bandKey gc b) with
  | none => s
  | some x =>
    let waits := (bandsWith s gc b).any (fun y => match s.band? (bandKey gc y) with | some z => z.st == .parked | none => false)
    if x.st != .resuming || waits then s
    else
      let bs := resumeBands s gc b
      if !resumeReadable s gc bs then fatal (imagesLost s gc bs)
      else resumeNow s gc bs ((parkGrps s gc bs).map (·.1)) ((parkCtxs s gc bs).map (·.1)) (resumeAreas s gc bs))

/-! ## Requests -/

/-- PREEMPTION_REQUEST (R177): the scheduler asks a band to park. One addressed to a parked band is dropped; one that comes
while the band parks for another cause, once its groups have all stopped (steps 3 to 6), or while it stands stopped in place, is kept
for the band's next run (R177, R348, R370). -/
def execPreemptionRequest (gc b : Nat) (s : State) : Host.Outcome State Fault Refusal :=
  .next (match s.band? (bandKey gc b) with
  | none => s
  | some x =>
    if x.st != .resident || decide (clockAt s (.core x.core) < x.again) then s
    else if x.park.isSome || x.dbg.isSome then
      (if x.park.isSome && x.cause == 1 && !(grpsOf s gc b).all (fun p => grpQuiet s p 1) then s else s.updBand (bandKey gc b) (fun x => { x with kept := true }))
    else requestPark s gc b 1 false)

/-- PREEMPTION_TIMEOUT (R177 step 2): a group that has not stopped within 2^20 cycles of its core stops at its next issue
boundary and is saved in full. -/
def execPreemptionTimeout (gk : Nat) (s : State) : Host.Outcome State Fault Refusal :=
  .next (match s.grp? gk with
  | none => s
  | some g =>
    match (s.band? (bandKey g.gc g.b)).bind (fun x => x.park.map (fun p => (x, p))) with
    | some (x, p) =>
      if x.cause == 1 && !handling s g.gc g.b && g.stop == .run && decide (p.start + 2 ^ 20 ≤ clockAt s (.core x.core)) then
        s.updGrp gk (fun g => { g with stop := .halted })
      else s
    | none => s)

end Sys2Proof.Machine
end

