-- ==== Sys2Proof/Machine/Faults.lean ====
section
/-! DEFINITION. The steps of segments, reports, held faults, handlers, replay, containment and kills that have no encoding (R23,
R24, R30, R33, R175, R190, R197 to R199, R412), and of walkround (R204). -/

namespace Sys2Proof.Machine

/-! ## Segments and reports -/

/-- SEGMENT_EMIT (R23): a context that stands at an instruction that ends its segment emits it, unless it stalls. -/
def execSegmentEmit (ck : Nat) (s : State) : Host.Outcome State Fault Refusal :=
  .next (match s.ctx? ck, prep s (.ctx ck) 0 with
  | some c, .moved t => (match t.ctx? ck with | some d => if d.next = c.next then s else t | none => s)
  | _, _ => s)

/-- Whether a unit runs: placed, not stopped, and in no handler. -/
def unitRuns (s : State) (u : UnitRef) : Bool :=
  match u with
  | .grp gk => match s.grp? gk with
    | some g => g.stop == .run && g.handler.isNone && !grpEnded s g && bandIssues s g.gc g.b true false
    | none => false
  | .ctx ck => match s.ctx? ck with
    | some c => c.dom != domGroup && ctxIssues s c
    | none => false

/-- SEGMENT_FINISH (R24). -/
def execSegmentFinish (u : UnitRef) (s : State) : Host.Outcome State Fault Refusal :=
  .next (if unitRuns s u && mayFinish s u then finishSeg s u else s)

/-- A fault of a condition operand (R412): its record carries the parent's IA and instruction, and the handler's return moves
nothing. -/
def reportFault (s : State) (u : UnitRef) (f : FaultReq) (q : ReportReq) : State :=
  let s := dropHeld s u
  let (seq, s) := countFault s (gcOf s u)
  if dispOf f.code = .c then contain s u f q.ia q.insn seq 0x0C else takeH s u 0 f q.ia q.insn seq true

/-- Whether no handler runs or is kept in a group below a unit (R412). -/
def noHandlerIn (s : State) (u : UnitRef) : Bool :=
  let clear := fun (l : List (Nat × Group)) => l.all (fun p => p.2.handler.isNone && p.2.pendH.isNone)
  match u with
  | .grp gk => clear (s.groups.filter (fun p => p.1 == gk))
  | .ctx ck => match s.ctx? ck with | some c => clear (grpsUnder s c.gc c.lvl c.g) | none => true

/-- CONDITION_REPORT (R33, R35, R412): a child that has finished the asking segment reports over its subtree, once no handler runs there. -/
def execConditionReport (u : UnitRef) (s : State) : Host.Outcome State Fault Refusal :=
  .next (match parentOf s u, curSeg s u with
  | some (pk, j), some g =>
    (match s.ctx? pk, g.rep with
     | some p, some q =>
       if !unitRuns s u || !noHandlerIn s u || !segIdle s u || !p.asked || g.id + 1 != p.next || (tabGet? p.reports j).isSome then s
       else match evalRep s q 8 u with
         | .wait => s
         | .rep r => s.updCtx pk (fun c => { c with reports := tabSet c.reports j r })
         | .fault v f => reportFault s v f q
     | _, _ => s)
  | _, _ => s)

/-! ## Faults and handlers -/

/-- FAULT_DELIVERY (R30, R172): a fault that a context holds is taken once its earlier segments have retired. -/
def execFaultDelivery (u : UnitRef) (s : State) : Host.Outcome State Fault Refusal :=
  .next (match u with
  | .grp _ => s
  | .ctx ck =>
    match s.ctx? ck with
    | none => s
    | some c =>
      match c.held with
      | none => s
      | some (f, ia, insn) =>
        if c.trail.isEmpty && ctxIssues s { c with held := none } then
          takeFault (s.updCtx ck (fun c => { c with held := none })) u 0 f ia insn (srcOfFault f)
        else s)

/-- HANDLER_TIME_LIMIT (R175): a handler that has run for more than 65,536 cycles of its core kills its band. -/
def execHandlerTimeLimit (gk : Nat) (s : State) : Host.Outcome State Fault Refusal :=
  .next (match s.grp? gk with
  | none => s
  | some g =>
    match g.handler with
    | none => s
    | some h =>
      let b := s.band? (bandKey g.gc g.b)
      let on : Bool := match b with | some x => x.dbg.isNone && x.dying.isNone | none => false
      if !on || decide (clockAt s (.core (coreOfGrp s g)) ≤ h.start + 65536) then s
      else
        let (ia, m) := match entries g.splits with | (_, x) :: _ => (x.pc, x.mask) | [] => (g.pc0, 0)
        let (seq, s) := countFault s g.gc
        killHandler s (.grp gk) 0x34 0 0 m ia 0 seq)

/-! ## Replay (R190) -/

/-- REPLAY_COMPARE (R190): the oldest entry of a quarter is executed again; `diff` are the lanes in which a hardware upset made
the results differ (log 15). -/
def execReplayCompare (core q : Nat) (diff : Lanes) (s : State) : Host.Outcome State Fault Refusal :=
  .next (match (nth? (s.core core).replay q).getD [] with
  | [] => s
  | e :: rest =>
    let busy : Bool := match s.grp? e.gk with | some g => g.clonePend.isSome | none => false
    if busy then s
    else
      let s := s.updCore core (fun c => { c with replay := setNth c.replay q rest })
      if diff &&& e.lanes = 0 then s
      else s.updGrp e.gk (fun g => { g with clonePend := some (diff &&& e.lanes, e.ia, e.insn) }))

/-- REPLAY_MISMATCH (R190, R192): the group takes code 0x31 at its next issue boundary. -/
def execReplayMismatch (gk : Nat) (s : State) : Host.Outcome State Fault Refusal :=
  .next (match (s.grp? gk).bind (fun g => g.clonePend) with
  | none => s
  | some (m, ia, insn) =>
    takeFault (s.updGrp gk (fun g => { g with clonePend := none })) (.grp gk) 0 { FaultReq.mk0 0x31 0 with lanes := m } ia insn 0x0A)

/-! ## Containment -/

/-- REGION_RESTART (R197): once a stopped group's producers are done, and its band's matrix operations where the scope is wider
than the group, it returns to its region's entry. -/
def execRegionRestart (gk : Nat) (s : State) : Host.Outcome State Fault Refusal :=
  .next (match s.grp? gk with
  | none => s
  | some g =>
    let mats := decide (1 ≤ kindNo g.region.kind) && (s.core (coreOfGrp s g)).mq.any (fun m => m.bk == bandKey g.gc g.b)
    if g.stop != .restart || grpBusy s gk || mats then s else restartGroup s gk)

/-- What the host's fault buffer holds about a unit's bands that are killed needs no resolution any more (R395). -/
def forgetBands (s : State) (gc : Nat) (bs : List Nat) : State :=
  let off := fun (k : FbKind) => match k with
    | .park g b => if g = gc ∧ bs.contains b then FbKind.dead else k
    | .bkpt g b => if g = gc ∧ bs.contains b then FbKind.dead else k
    | _ => k
  { s with host := { s.host with
      fbWait := s.host.fbWait.map (fun p => (p.1, off p.2)),
      fbMeta := s.host.fbMeta.map (fun (p : Nat × (FbKind × List Byte)) => (p.1, (off p.2.1, p.2.2))) } }

/-- The contexts that go with some bands of a launch when they are killed: those of the whole unit, or of the band. -/
def killedCtxs (s : State) (gc b : Nat) : List Nat :=
  let r := s.lrec gc
  match wholeUnit s gc b with
  | some (k, g) => (ctxsUnder s gc k g).map (·.1)
  | none => (s.ctxs.filter (fun p => p.2.gc == gc && decide (p.2.dom ≤ domBand) && r.bandOf p.2.lvl p.2.g == b)).map (·.1)

/-- Take a killed unit off its places: its bands, contexts, barriers, messages, matrix operations and waits are gone, and it is
ready to be placed again with the state of R106 (R198). -/
def replaceUnit (s : State) (gc b : Nat) (bs : List Nat) : State :=
  let gone := killedCtxs s gc b
  let gks := (bs.map (fun x => (grpsOf s gc x).map (·.1))).flatten
  let mine := fun (u : UnitRef) => match u with | .grp k => gks.contains k | .ctx k => gone.contains k
  let s := gks.foldl (fun (s : State) k => match s.grp? k with | some g => untake s gc g.w | none => s) s
  let s := gone.foldl (fun (s : State) k => match s.ctx? k with | some c => untake s gc c.w | none => s) s
  let s := forgetBands (bs.foldl (fun (s : State) x => endBand s gc x .unplaced) s) gc bs
  let s := bs.foldl (fun (s : State) x => s.updBand (bandKey gc x) (fun y => { y with kills := y.kills + 1 })) s
  let s := dropDests s (fun d => match d with | .scal ck _ _ => gone.contains ck | .stack ck _ => gone.contains ck | _ => false)
  let s := { s with
    ctxs := s.ctxs.filter (fun p => !gone.contains p.1),
    bars := s.bars.filter (fun p => !gone.contains (p.1 / 8)),
    parkedBars := s.parkedBars.filter (fun p => !gone.contains (p.1 / 8)),
    ovf := s.ovf.filter (fun w => !gone.contains w.ck),
    msgs := s.msgs.filter (fun m => !mine m.by_) }
  let s := unregister s (fun w => !w.slot && gone.contains w.ck)
  makeReady (s.updLaunch gc (fun l => { l with dbg := l.dbg.filter (fun p => !gone.contains p.1) })) gc b

/-- Carry a kill out: an idempotent top-level unit is placed again at most twice, else the launch is aborted with a DISP 3
record (R198). -/
def killNow (s : State) (gc b : Nat) (k : Kill) : State :=
  let r := s.lrec gc
  let isTop := match wholeUnit s gc b with | some (k, _) => k == r.top | none => r.bandLev == some r.top || r.top == 1
  let kills := match s.band? (bandKey gc b) with | some x => x.kills | none => 2
  if isTop && r.idemp && decide (kills < 2) then replaceUnit s gc b (unitBands s gc b)
  else abortLaunch s k.u k.f k.ia k.insn k.seq

/-- BAND_KILL (R198): a band that is to be killed goes once the producers of every band that goes with it are done. -/
def execBandKill (gc b : Nat) (s : State) : Host.Outcome State Fault Refusal :=
  .next (match (s.band? (bandKey gc b)).bind (fun x => x.dying) with
  | none => s
  | some k => if (unitBands s gc b).any (fun x => bandBusy s gc x || copying s (bandKey gc x)) then s else killNow s gc b k)

/-- FATAL_ERROR (R199): an uncorrectable error in state of no unit. Which unit's bank records it is free (log 15). -/
def execFatalError (s : State) : Host.Outcome State Fault Refusal :=
  .next (if s.host.halted then s
  else
    let n := (freeNow s 64).toNat
    let (bank, src) := match n % 4 with
      | 0 => (bankOfSlice (n / 4 % 32), 0x11)
      | 1 => (0x472 + n / 4 % 50, 0x18)
      | 2 => (bankHost, 0x19)
      | _ => (bankPeer (n / 4 % 12), 0x1A)
    fatal (s.tick1.bankEvent bank 2 3 0 src 0 0 0))

/-! ## Walkround (R204) -/

/-- Whether a cluster holds no band, parked resources kept for one included (R204, R405). -/
def clusterFree (s : State) (clu : Nat) : Bool := (coresOfClus s clu).all (fun c => (coreBands s c).isEmpty)

/-- Whether the fourth stage of the start-up is in hand, which tests every enabled cluster once (R401). -/
def startTests (s : State) : Bool := s.boot.st == 0 && s.boot.stage == 4

/-- WALKROUND_START (R204, R401): a test begins on an idle cluster once the interval of WALKINT has passed, or for stage 4 of the start-up. -/
def execWalkroundStart (clu : Nat) (s : State) : Host.Outcome State Fault Refusal :=
  let c := s.cluster clu
  let now := c.now s.nc
  .next (if decide (clu < s.floor.allClus.length) && !c.walk && clusterFree s clu && c.isl == 0 && !s.host.halted &&
      (if startTests s then !s.boot.tested.any (fun p => p.1 == clu)
       else (s.boot.st == 1 || s.boot.st == 2) && s.host.walkInt != 0 && decide (c.walkAt + s.host.walkInt.toNat * 2 ^ 20 ≤ now)) then
    s.updCluster clu (fun c => { c with walk := true, walkAt := now })
  else s)

/-- WALKROUND_ABANDON (R204): a placement that needs the cluster ends the test; it leaves nothing behind. -/
def execWalkroundAbandon (clu : Nat) (s : State) : Host.Outcome State Fault Refusal :=
  let off := s.updCluster clu (fun c => { c with walk := false })
  .next (if (s.cluster clu).walk && s.ready.any (fun e => (tryItem s e.what 0).isNone && (tryItem off e.what 0).isSome) then off else s)

/-- WALKROUND_COMPLETE (R204): `failed` lists the core numbers that fail, each with the number of the failing test (log 15). -/
def execWalkroundComplete (clu : Nat) (failed : List (Nat × Nat)) (s : State) : Host.Outcome State Fault Refusal :=
  .next (if !(s.cluster clu).walk then s
  else
    let s := s.updCluster clu (fun c => { c with walk := false })
    let good := (coresOfClus s clu).all (fun core => !failed.any (fun p => p.1 == core))
    let s := if startTests s then { s with boot := { s.boot with tested := s.boot.tested ++ [(clu, good)] } } else s
    (coresOfClus s clu).foldl (fun (s : State) core =>
      match failed.find? (fun p => p.1 == core) with
      | none => s.updCore core (fun c => { c with wfail := 0 })
      | some (_, n) =>
        let s := s.bankEvent (bankOfCore s core) 1 0 0 0x20 (BitVec.ofNat 64 n) 0 0
        s.updCore core (fun c => { c with wfail := c.wfail + 1, gone := c.gone || decide (2 ≤ c.wfail + 1) })) s)

end Sys2Proof.Machine
end

