-- ==== Sys2Proof/Machine/Frontend.lean ====
section
/-! DEFINITION. The front end's dispatch (R330, R341, R342) and the retirement of a task (R328, R340, R374). -/

namespace Sys2Proof.Machine

/-! ## Dispatch -/

/-- Whether the module takes work: ready, or in floor mode (R402), and not stopped. -/
def takesWork (s : State) : Bool := !s.host.halted && (s.boot.st == 1 || s.boot.st == 2)

/-- Whether a context waits in FWAIT, LOCK or CNTWT (R330). -/
def waitsOn (w : WaitSt) : Bool := match w with | .fwait .. => true | .lock _ => true | .cntwt .. => true | _ => false

/-- Whether a group has finished its segment and has none queued. -/
def groupDone (s : State) (gk : Nat) : Bool :=
  segIdle s (.grp gk) && (match parentOf s (.grp gk) with
    | some (pk, _) => (match s.ctx? pk with | some p => (queueOf p (curSeg s (.grp gk))).isEmpty | none => true)
    | none => false)

/-- Whether a band is idle in a wait (R330). -/
def bandIdle (s : State) (x : Band) : Bool :=
  let gs := grpsOf s x.gc x.b
  x.st == .resident && x.park.isNone && x.dbg.isNone && x.dying.isNone && gs.all (fun p => p.2.handler.isNone) &&
  (ctxsOfBand s x.gc x.b).any (fun p => waitsOn (ctxWait s p.1)) &&
  gs.all (fun p => waitsOn p.2.w || p.2.live == 0 || groupDone s p.1)

/-- DISPATCH (R341, R342): the first entry that fits is placed or resumed; `pick` is the free choice of where (log 10). Where
nothing fits, a band idle in a wait whose own resources an entry fits is asked to park for it (R330). -/
def execDispatch (pick : Nat) (s : State) : Host.Outcome State Fault Refusal :=
  .next (if !takesWork s then s
  else
    let s := dueScan (wakeScan (sweepTakes s))
    match (readyOrder s).findSome? (fun p => (tryItem s p.2.what pick).map (fun t => (p.1, p.2, t))) with
    | some (i, e, t) => leaveReady s t i e
    | none =>
      match s.bands.findSome? (fun p => if bandIdle s p.2 then (idleWant s p.2).map (fun w => (p.2, w)) else none) with
      | some (x, w) => (requestPark s x.gc x.b 7 false).updBand (bandKey x.gc x.b) (fun y => { y with wanted := some w })
      | none => s)

/-! ## Retirement -/

/-- Whether an agent is a unit of a launch. -/
def ofLaunch (gc : Nat) (a : AgentId) : Bool :=
  match a with | .unit (.grp k) => k % 64 == gc | .unit (.ctx k) => k % 64 == gc | _ => false

/-- Whether a destination is a register of a launch's unit. -/
def destOf (gc : Nat) (d : Dest) : Bool :=
  match d with | .vec k _ _ _ => k % 64 == gc | .scal k _ _ => k % 64 == gc | _ => false

/-- Whether a finished launch may retire (R340 step 1): its accesses are performed at SYS, and its spawned records have been read. -/
def mayRetire (s : State) (gc : Nat) (l : Launch) : Bool :=
  l.done && s.accs.all (fun a => !ofLaunch gc a.by_ || a.kind == .fence || performedAt a 6) &&
  s.bands.all (fun p => p.2.gc != gc || p.2.pend.all (fun q => q.2))

/-- What a fault-buffer entry stands for once a launch is gone: nothing that needs resolution (R395). -/
def forget (gc : Nat) (k : FbKind) : FbKind :=
  match k with
  | .park g b => if g = gc then .dead else .park g b
  | .bkpt g b => if g = gc then .dead else .bkpt g b
  | .grid ck => if ck % 64 = gc then .dead else .grid ck
  | .dead => .dead

/-- Free a grid context with everything that names it (R340 step 6). -/
def freeLaunch (s : State) (gc : Nat) : State :=
  let s := (s.bands.filter (fun p => p.2.gc == gc)).foldl (fun s p => clearBand s gc p.2.b .ended) s
  let bk := fun (o : Option Nat) => match o with | some k => if k % 64 = gc then none else some k | none => none
  { s with
    launches := tabDel s.launches gc,
    bands := s.bands.filter (fun p => p.2.gc != gc), groups := s.groups.filter (fun p => p.2.gc != gc),
    ctxs := s.ctxs.filter (fun p => p.2.gc != gc), bars := s.bars.filter (fun p => p.1 / 8 % 64 != gc),
    parkedBars := s.parkedBars.filter (fun p => p.1 / 8 % 64 != gc), pins := s.pins.filter (fun p => p.gk % 64 != gc),
    accs := s.accs.filter (fun a => !ofLaunch gc a.by_), prods := s.prods.filter (fun p => !destOf gc p.dest),
    host := { s.host with
      fbWait := s.host.fbWait.map (fun p => (p.1, forget gc p.2)),
      fbMeta := s.host.fbMeta.map (fun (p : Nat × (FbKind × List Byte)) => (p.1, (forget gc p.2.1, p.2.2))) },
    ready := (s.ready.filter (fun e => match e.what with | .unit g _ => g != gc | .more g => g != gc | .task .. => true)).map
      (fun e => match e.what with | .task t o => { e with what := .task t (bk o) } | _ => e) }

/-- R328 for the bands whose helper ran the retired task: the resources are kept for the band until it is resumed in them, or it
enters the ready queue where they were given up (R347). HELPER becomes none with the resume. -/
def handBack (s : State) (gc : Nat) : State :=
  s.bands.foldl (fun (s : State) (p : Nat × Band) =>
    if p.2.helps != some gc then s
    else
      let x := p.2
      let kept : Bool := match x.reserve with | some o => o % 64 == gc | none => false
      let s := s.updBand p.1 (fun x => { x with
        helps := none, unlink := true, keep := kept && x.st == .parked, reserve := if kept then none else x.reserve })
      if x.st != .parked then s
      else if kept && bandsWith s x.gc x.b == [x.b] && x.unres == 0 then reoccupyKept s x
      else makeReady s x.gc ((parkedWith s x).head?.getD x.b)) s
where
  /-- The parked bands that go with a band. -/
  parkedWith (s : State) (x : Band) : List Nat :=
    (bandsWith s x.gc x.b).filter (fun y => match s.band? (bandKey x.gc y) with | some z => z.st == .parked | none => false)

/-- The next stage of a retirement. -/
def retStage (s : State) (gc n : Nat) (ids : List Nat) (push : Option (Nat × Bool)) : State :=
  s.updLaunch gc (fun l => { l with retire := ⟨n, ids, push⟩ })

/-- One step of the retry of a deferred entry at the end of its launch (R374): a published name keeps it, else its push goes on. -/
def retDefer (s : State) (gc id : Nat) (rest : List Nat) (l : Launch) : State :=
  match l.defer.find? (fun e => e.id = id) with
  | none => retStage s gc 1 rest none
  | some e =>
    let addr := fun (s : State) (va : W64) => ((virtAddr s gc va.toNat .write).filter (isMem s.floor), s)
    if l.retire.push.isNone && searchPins s e.name then retStage s gc 1 rest none
    else match retryEnt s none gc e addr l.retire.push with
      | .ended t => retStage t gc 1 rest none
      | .goes p t => retStage t gc 1 (id :: rest) (some p)

/-- The record of a retiring task and its bytes, where they can be read. -/
def retRec (s : State) (t : Task) : Option (Nat × List Byte) :=
  (feRead s t.space t.top t.rcd.toNat 128).bind (fun bs => (taskPa s t).map (fun pa => (pa, bs)))

/-- The last steps of a retirement: STATE, the grid context freed, and what the task's helper waits for (R340 steps 6 and 7). -/
def retEnd (s : State) (gc : Nat) (t : Task) : State :=
  wakeScan (handBack (freeLaunch (match taskPa s t with | some pa => setTaskState s pa 5 | none => s) gc) gc)

/-- TASK_RETIRE (R340): the next step of the retirement of a launch that is done. The deferred list of a task that completed is retried once
more, entry by entry (R374); then comes the release, then each change of R340 in a step of its own. A decrement that the ready queues
have no room for waits (R342). -/
def execTaskRetire (gc : Nat) (s : State) : Host.Outcome State Fault Refusal :=
  .next (match s.launch? gc with
  | none => s
  | some l =>
    if !l.done then s
    else match l.retire.stage, l.retire.ids with
      | 0, _ => retStage s gc 1 (if l.out = 1 then l.defer.map (fun e => e.id) else []) none
      | 1, id :: rest => retDefer s gc id rest l
      | 1, [] => (retStage s gc 2 [] none).updLaunch gc (fun l => { l with defer := [] })
      | 2, _ =>
        if !mayRetire s gc l then s
        else
          let s := sweepTakes s
          (match retRec s l.t with
           | some (pa, _) => retStage (retStatus s pa l.out l.code) gc 3 [] none
           | none => retEnd s gc l.t)
      | 3, _ => (match retRec s l.t with
         | some (_, bs) => retStage (retFuture s l.t bs) gc 4 [] none
         | none => retEnd s gc l.t)
      | 4, _ => (match retRec s l.t with
         | some (pa, bs) =>
           let (ids, ok) := succIds s l.t bs
           let s := bumpCounter s l.t (bfld bs 0x38 8)
           retStage (if ok then s else retLost s pa) gc 5 ids none
         | none => retEnd s gc l.t)
      | _, id :: rest => (match taskPa s l.t with
         | some pa => let t := retSucc s l.t pa id; if readyFits s t then retStage t gc 5 rest none else s
         | none => retEnd s gc l.t)
      | _, [] => retEnd s gc l.t)

end Sys2Proof.Machine
end

