-- ==== Sys2Proof/Machine/Peers.lean ====
section
/-! DEFINITION. Wayfare peers (R257, R398 to R400) and the host's accesses through the aperture (R257, R392). -/

namespace Sys2Proof.Machine

/-! ## Ports -/

/-- Change a peer port. -/
def State.updPeer (s : State) (w : Nat) (f : PeerPort → PeerPort) : State := { s with peers := tabSet s.peers w (f (s.peer w)) }

/-! ## Headers (R399) -/

/-- The header of a Wayfare request, its zero fields left out. -/
structure Wayfare where
  seq  : BitVec 16
  typ  : BitVec 4
  aop  : BitVec 4
  ty   : BitVec 4
  cls  : BitVec 2
  len  : BitVec 8
  addr : BitVec 46
  deriving DecidableEq, Repr

/-- The 16 bytes of a header (R399). -/
def wayBits (h : Wayfare) : BitVec 128 :=
  h.seq ++ h.typ ++ h.aop ++ h.ty ++ h.cls ++ 0#2 ++ h.len ++ 0#42 ++ h.addr

/-- The header that 16 bytes hold; none with a reserved TYPE, a LEN above 127, an AOP outside an atomic, or a nonzero zero field (R399). -/
def wayfare? (x : BitVec 128) : Option Wayfare :=
  let h : Wayfare := ⟨x.extractLsb' 112 16, x.extractLsb' 108 4, x.extractLsb' 104 4, x.extractLsb' 100 4, x.extractLsb' 98 2,
    x.extractLsb' 88 8, x.extractLsb' 0 46⟩
  if wayBits h = x ∧ h.typ.toNat < 7 ∧ h.len.toNat < 128 ∧ (h.typ = 2 ∨ h.aop = 0) then some h else none

/-- Headers with a reserved TYPE or a nonzero zero field that have come in at a port (log 15) are dropped, and counted in its bank (R399). -/
def dropHeaders (s : State) (w : Nat) : State :=
  (s.upsets.filter (fun u => match u with | .header v x => v == w && (wayfare? x).isNone | _ => false)).foldl (fun s u =>
    ({ s with upsets := s.upsets.erase u }).bankEvent (bankPeer w) 0 0 0 0x1A 0 0 0) s

/-- A flit has come through: the count of consecutive failures ends, and the pair's next number advances (R381, R400). -/
def peerHeard (s : State) (w : Nat) : State :=
  (dropHeaders s w).updPeer w (fun p => { p with crc := 0, inSeq := (p.inSeq + 1) % 65536 })

/-- The header of a request that comes in at a port, in the sequence of its pair (R381, R399). -/
def wayHead (s : State) (w : Nat) (typ aop ty : BitVec 4) (cls : BitVec 2) (len : Nat) (addr : BitVec 46) : BitVec 128 :=
  wayBits ⟨BitVec.ofNat 16 (s.peer w).inSeq, typ, aop, ty, cls, BitVec.ofNat 8 (len - 1), addr⟩

/-! ## Requests of a peer -/

/-- Whether a request may be performed: it lies in HBM or far memory and crosses no 128-byte line; others are refused (R398,
R399). -/
def peerReqOk (s : State) (addr len : Nat) : Bool :=
  decide (1 ≤ len) && decide (len ≤ 128) && decide (addr / 128 = (addr + len - 1) / 128) && isMem s.floor addr && isMem s.floor (addr + len - 1)

/-- An access of the outside at a home slice, at scope SYS (R257). -/
def outAcc (s : State) (by_ : AgentId) (cls pa n : Nat) (k : AccKind) (ord : Ord) (data : List Byte) (dest : Dest) : Access :=
  { Access.fence s by_ 0 0 none ord 6 with cls := cls, loc := .mem pa, width := n, kind := k, data := data, dest := dest }

/-- A request comes in at a port whose link is up: it is dropped and counted if its header is malformed (R399). -/
def peerTakes (s : State) (w : Nat) (x : BitVec 128) (k : State → Wayfare → State) : State :=
  if !peerUp s w then s
  else match wayfare? x with
    | none => s.bankEvent (bankPeer w) 0 0 0 0x1A 0 0 0
    | some h => k (peerHeard s w) h

/-- WAYFARE_READ (R257, R399): a request of a peer enters the pending set at its port; a refused one leaves no effect here. -/
def execWayfareRead (w : Nat) (cls : BitVec 2) (addr : BitVec 46) (len tag : Nat) (s : State) : Host.Outcome State Fault Refusal :=
  .next (peerTakes s w (wayHead s w 0 0 0 cls len addr) (fun s h =>
    if peerReqOk s h.addr.toNat len then
      s.addAcc (outAcc s (.peer w) h.cls.toNat h.addr.toNat len .read .weak [] (.peer w tag)) else s))

/-- WAYFARE_WRITE (R257, R399). -/
def execWayfareWrite (w : Nat) (cls : BitVec 2) (addr : BitVec 46) (data : List (BitVec 8)) (s : State) : Host.Outcome State Fault Refusal :=
  .next (peerTakes s w (wayHead s w 1 0 0 cls data.length addr) (fun s h =>
    if peerReqOk s h.addr.toNat data.length then
      s.addAcc (outAcc s (.peer w) h.cls.toNat h.addr.toNat data.length .write .weak data .none) else s))

/-- WAYFARE_ATOMIC (R257, R266, R399). -/
def execWayfareAtomic (w : Nat) (cls : BitVec 2) (addr : BitVec 46) (op : Aop) (t : Ty) (b c : W64) (tag : Nat) (s : State) :
    Host.Outcome State Fault Refusal :=
  .next (peerTakes s w (wayHead s w 2 (Decode.aopCode op) (Decode.tyCode t) cls (tyBytes t) addr) (fun s h =>
    let n := tyBytes t
    if aopTy op t && decide (h.addr.toNat % n = 0) && peerReqOk s h.addr.toNat n then
      s.addAcc (outAcc s (.peer w) h.cls.toNat h.addr.toNat n (.atomic op t b c true) .weak [] (.peer w tag))
    else s))

/-- WAYFARE_FENCE_MARKER (R256): a marker is delivered after every packet of its pair with a lower number, and acknowledged. -/
def execWayfareFenceMarker (w seq : Nat) (s : State) : Host.Outcome State Fault Refusal :=
  .next (if peerUp s w && decide ((s.peer w).inSeq = seq) && s.accs.all (fun a => a.by_ != .peer w || performedAt a 6) then peerHeard s w
    else s)

/-! ## Answers of a peer -/

/-- An access to the window of a port, for an answer that comes through it. -/
def peerAcc (s : State) (w id : Nat) : Option Access :=
  if !peerUp s w then none
  else (accOf s id).bind (fun a => match a.loc with | .peerWin v _ => if v = w then some a else none | _ => none)

/-- A copy that owes reports of writes to the window of a port (R242). -/
def peerCopy (s : State) (w id : Nat) : Option Access :=
  (accOf s id).bind (fun a => match a.kind with | .copy .. => if tabGet 0 a.owes (33 + w) ≠ 0 then some a else none | _ => none)

/-- WAYFARE_ACK (R242, R399): a write is visible at the peer, one of its own or one of a copy. -/
def execWayfareAck (w id : Nat) (s : State) : Host.Outcome State Fault Refusal :=
  ev s (match peerCopy s w id with
    | some a => if peerUp s w then copyReport (bucketDebit (peerHeard s w) (51 + w) a.cls 1) a (33 + w) else none
    | none => (peerAcc s w id).bind (fun a => match a.kind with
      | .write => winAnswer (replyDebit (peerHeard s w) a) a [] false
      | _ => none))

/-- WAYFARE_READ_REPLY (R242, R399): a read or an atomic takes its value. -/
def execWayfareReadReply (w id : Nat) (data : List (BitVec 8)) (s : State) : Host.Outcome State Fault Refusal :=
  ev s ((peerAcc s w id).bind (fun a => match a.kind with | .write => none | _ => winAnswer (replyDebit (peerHeard s w) a) a data false))

/-- Complete an access that a peer refuses or whose link is down: reads and atomics with a return are poison-marked, writes and
other atomics are discarded (R400). -/
def refuseAcc (s : State) (a : Access) : State := (winAnswer (replyDebit s a) a [] true).getD s

/-- WAYFARE_REFUSAL (R400): the peer refuses a request, or its link is down. -/
def execWayfareRefusal (w id : Nat) (s : State) : Host.Outcome State Fault Refusal :=
  .next (match peerCopy s w id with
  | some a => (copyReport (if peerUp s w then peerHeard s w else s) a (33 + w)).getD s
  | none => match (accOf s id) with
  | some a => (match a.loc with
    | .peerWin v _ => if v = w then refuseAcc (if peerUp s w then peerHeard s w else s) a else s
    | _ => s)
  | none => s)

/-- The writes of a copy to a link that goes down are lost: each is counted in the port's bank, and none is owed any more (R400, R411). -/
def copyLost (s : State) (w : Nat) (a : Access) : State :=
  let s := (List.range (tabGet 0 a.owes (33 + w))).foldl (fun s _ => s.bankEvent (bankPeer w) 0 0 0 0x1A 0 0 0) s
  updAcc s a.id (fun a => { a with owes := tabDel a.owes (33 + w) })

/-- A link goes down (R400, R411): a contained event, and every outstanding request of the link completes; the lost writes are
counted in the port's bank. -/
def linkDown (s : State) (w : Nat) : State :=
  let s := (s.updPeer w (fun p => { p with up := false })).bankEvent (bankPeer w) 1 0 0 0x1A 0 0 0
  let s := (s.accs.filter (fun a => tabGet 0 a.owes (33 + w) != 0)).foldl (fun s a => copyLost s w a) s
  let mine := s.accs.filter (fun a => (match a.loc with | .peerWin v _ => v == w | _ => false) && a.inj)
  mine.foldl (fun (s : State) a =>
    let lost := match a.kind with | .write => !a.rept | _ => false
    let s := if lost then s.bankEvent (bankPeer w) 0 0 0 0x1A 0 0 0 else s
    refuseAcc s a) s

/-- FLIT_CRC_FAILURE (R400): the flit is replayed; after sixteen replays in a row that fail too the link goes down. -/
def execFlitCrcFailure (w : Nat) (s : State) : Host.Outcome State Fault Refusal :=
  .next (if !peerUp s w then s
  else
    let s := s.updPeer w (fun p => { p with crc := p.crc + 1 })
    if 16 < (s.peer w).crc then linkDown s w else s)

/-- PEER_LINK_TRAIN (R401): after stage 6 a link trains, or is marked down in its port's bank. -/
def execPeerLinkTrain (w : Nat) (ok : Bool) (s : State) : Host.Outcome State Fault Refusal :=
  .next (if s.boot.st ≠ 1 ∨ 12 ≤ w ∨ !s.floor.peers.getLsbD w ∨ (tabGet? s.peers w).isSome ∨ s.host.halted then s
  else
    let s := s.updPeer w (fun _ => ⟨ok, 0, 0⟩)
    if ok then s else s.bankEvent (bankPeer w) 1 0 0 0x1A 0 0 0)

/-! ## The aperture -/

/-- The device physical address of an offset of BAR 2 (R392, R393). -/
def aperPa (s : State) (off : Nat) : Nat := bitsOf s.host.aper.toNat 51 30 * 2 ^ 30 + off

/-- The pieces of a range that lie within one 128-byte line each: offset and length. -/
def linePieces (pa n : Nat) : List (Nat × Nat) :=
  (List.range (n / 128 + 2)).filterMap (fun i =>
    let lo := max pa ((pa / 128 + i) * 128)
    let hi := min (pa + n) ((pa / 128 + i + 1) * 128)
    if lo < hi then some (lo - pa, hi - lo) else none)

/-- The atomic of an AtomicOp of the host on n bytes (R392): operation, type and operands. -/
def hostAtom (op : HostOp) (data : List Byte) : Option (Aop × Ty × W64 × W64) :=
  let n := if op == .cas then data.length / 2 else data.length
  let v := fun (o : Nat) => BitVec.ofNat 64 (leNat ((data.drop o).take n))
  let ty := if n = 4 then some Ty.u32 else if n = 8 then some Ty.u64 else none
  ty.bind (fun t => match op with
    | .fetchAdd => some (.add, t, v 0, 0)
    | .swap => some (.xchg, t, v 0, 0)
    | .cas => if data.length = 2 * n then some (.cas, t, v 0, v n) else none
    | _ => none)

/-- What the host receives for `n` bytes that no memory of this machine holds: free ones (log 17). -/
def hostFree (s : State) (n : Nat) : State := (s.addProd .host (leBytes n (freeNow s (8 * n)).toNat) false).tick1

/-- The host writes bytes of one line: a release write at SYS; outside HBM and far memory it is dropped (R257, R392). -/
def hostWrites (s : State) (pa : Nat) (bs : List Byte) : State :=
  if isMem s.floor pa then s.addAcc (outAcc s .host 3 pa bs.length .write .rel bs .none) else s

/-- The host reads bytes of one line (R392). -/
def hostReads (s : State) (pa n : Nat) : State :=
  if isMem s.floor pa then s.addAcc (outAcc s .host 3 pa n .read .weak [] .host) else hostFree s n

/-- The host makes an AtomicOp on its natural boundary (R392). -/
def hostAtomics (s : State) (pa : Nat) (o : Aop) (t : Ty) (b c : W64) : State :=
  if pa % tyBytes t ≠ 0 then s
  else if isMem s.floor pa then s.addAcc (outAcc s .host 3 pa (tyBytes t) (.atomic o t b c true) .weak [] .host)
  else hostFree s (tyBytes t)

/-- HOST_ACCESS (R257, R392): a host access through the aperture, posted writes in order. For a read, `data` only gives its
length. Outside HBM and far memory a write is dropped, and what a read or an AtomicOp returns is not stated: a free value (log 17). An
AtomicOp of another width, or not on its natural boundary, is none that the device completes. -/
def execHostAccess (op : HostOp) (off : BitVec 36) (data : List (BitVec 8)) (s : State) : Host.Outcome State Fault Refusal :=
  .next (if !takesWork s then s
  else
    let pa := aperPa s off.toNat
    match op with
    | .write => (linePieces pa data.length).foldl (fun (s : State) p => hostWrites s (pa + p.1) ((data.drop p.1).take p.2)) s
    | .read => (linePieces pa data.length).foldl (fun (s : State) p => hostReads s (pa + p.1) p.2) s
    | op => match hostAtom op data with
      | some (o, t, b, c) => hostAtomics s pa o t b c
      | none => s)

end Sys2Proof.Machine
end

