-- ==== Sys2Proof/Machine/System.lean ====
section
/-! DEFINITION. The trap, control-register, time, stop, translation and checking instructions (R207 to R221). -/

namespace Sys2Proof.Machine

/-! ## Shared pieces -/

/-- Lanes that a record of an instruction that acts once names. -/
def onceLanes (h : Hdr) (m : Lanes) : Lanes := if h.lev = 0 then m else 0

/-- The handler that runs in the unit's group, if any. -/
def handlerHere (s : State) : Option Handler :=
  match s.cur.u with | .grp gk => (s.grp? gk).bind (fun g => g.handler) | .ctx _ => none

/-- Write a 64-bit value at its destination (R209). -/
def put64 (s : State) (h : Hdr) (d : Opd) (k : State → W64 × State) : Act :=
  onceReady s h 2 [] (onceDst h d 2) (fun m => let (v, t) := k s; putOnce t h m d 2 v)

/-! ## TRAP and RFT (R213, R214) -/

/-- TRAP (R213): code 0x18 with the immediate in AUX. -/
def execTrap (h : Hdr) (imm : BitVec 32) (s : State) : Host.Outcome State Fault Refusal :=
  fin s h true (onceRun s h (fun m =>
    .fault s { FaultReq.mk0 0x18 (Hdr.lv h) with lanes := onceLanes h m, aux := imm }))

/-- RFT (R214, R176). AUX of a failed condition or resume check has the inner code 0x33, which the manual does not state (log 27). -/
def execRft (h : Hdr) (s : State) : Host.Outcome State Fault Refusal :=
  fin s h true (atLanes s h (fun gk g m =>
    match g.handler with
    | none => flt s 0x03 0 m
    | some hd =>
      if !g.single then flt s 0x33 0 m
      else if grpBusy s gk then .wait
      else if !resumeOk s hd then flt s 0x33 0 m
      else .done (returnHandler s gk)))

/-! ## Control registers (R210 to R212) -/

/-- The group whose registers an instruction reads, if it issues in one. -/
def grpHere (s : State) : Option Group := match s.cur.u with | .grp gk => s.grp? gk | .ctx _ => none

/-- MCSEL and the latch of the reader: at L0 the group's, above it the context's (R210). -/
def mcOf (s : State) (h : Hdr) : Nat × List W64 :=
  if h.lev = 0 then (match grpHere s with | some g => (g.mcsel, g.latch) | none => (0, []))
  else match s.ctx? (ownKey s s.cur.u (Hdr.lv h)) with | some c => (c.mcsel, c.latch) | none => (0, [])

/-- Set them. -/
def setMc (s : State) (h : Hdr) (sel : Nat) (l : List W64) : State :=
  if h.lev = 0 then
    (match s.cur.u with | .grp gk => s.updGrp gk (fun g => { g with mcsel := sel, latch := l }) | .ctx _ => s)
  else s.updCtx (ownKey s s.cur.u (Hdr.lv h)) (fun c => { c with mcsel := sel, latch := l })

/-- Core cycles left before the limit of R175. -/
def handlerLeft (s : State) (g : Group) (hd : Handler) : Nat := 65536 - (clockAt s (.core (coreOfGrp s g)) - hd.start)

/-- The checking mode in force and the launch's (R210). Above the group domain no group issues, and the mode in force is the launch's
(log 27). -/
def chkMode (s : State) : Nat :=
  let r := s.lrec (gcOf s s.cur.u)
  (match grpHere s with | some g => g.chk | none => r.chk) + 4 * r.chk

/-- The value of a control register (R210), with the state after the read: MCSTATUS latches the selected bank (R211). -/
def crRead (s : State) (h : Hdr) (cr : Nat) : W64 × State :=
  let r := s.lrec (gcOf s s.cur.u)
  let n := fun (v : Nat) => (BitVec.ofNat 64 v, s)
  if cr < 16 then n (match handlerHere s with | some hd => leNat ((hd.rcd.drop (8 * cr)).take 8) | none => 0)
  else if cr = 0x10 then (match handlerHere s with | some hd => hd.resume | none => 0, s)
  else if cr = 0x11 then n (match grpHere s, handlerHere s with | some g, some hd => handlerLeft s g hd | _, _ => 0)
  else if cr = 0x12 then (r.handler, s)
  else if cr = 0x20 then n (chkMode s)
  else if cr = 0x21 then n (b2n r.priv + 2 * b2n r.debug)
  else if cr = 0x100 then n (mcOf s h).1
  else if cr = 0x101 then
    let sel := (mcOf s h).1
    let b := s.bankRead sel
    (b.status, setMc s h sel [b.status, b.addr, b.misc0, b.misc1])
  else ((nth? (mcOf s h).2 (cr - 0x101)).getD 0, s)

/-- CTLRD (R208 to R211). -/
def execCtlrd (h : Hdr) (d : Opd) (cr : BitVec 12) (s : State) : Host.Outcome State Fault Refusal :=
  fin s h true (put64 s h d (fun s => crRead s h cr.toNat))

/-- Whether a CTLWR of a value is refused with code 0x03 (R210, R211). -/
def crDenied (s : State) (cr : Nat) (v : W64) : Bool :=
  if cr = 0x10 then (handlerHere s).isNone
  else if cr = 0x100 then decide (0x4B0 < v.toNat)
  else decide (cr ≠ 0x101) || v != 0

/-- The write of a control register (R210 to R212). -/
def crWrite (s : State) (h : Hdr) (cr : Nat) (v : W64) : State :=
  if cr = 0x10 then
    (match s.cur.u with
     | .grp gk => s.updGrp gk (fun g => { g with handler := g.handler.map (fun hd => { hd with resume := v }) })
     | .ctx _ => s)
  else
    let (sel, l) := mcOf s h
    if cr = 0x100 then setMc s h v.toNat l
    else if (s.bankRead sel).status == (nth? l 0).getD 0 then s.bankClear sel else s

/-- CTLWR (R212). -/
def execCtlwr (h : Hdr) (a : Src) (cr : BitVec 12) (s : State) : Host.Outcome State Fault Refusal :=
  fin s h true (onceReady s h 2 [(1, a)] (fun _ => []) (fun m =>
    let v := onceVal s h m 0 a.o
    if crDenied s cr.toNat v then flt s 0x03 (Hdr.lv h) (onceLanes h m)
    else unlessPoison s h m 2 [(1, a)] (fun _ => .next (crWrite s h cr.toNat v))))

/-! ## Time and events (R215 to R217) -/

/-- The unit whose clock an instruction of a level reads. -/
def clockHere (s : State) (h : Hdr) : Nat :=
  match s.cur.u with
  | .grp gk => clockOf s (.grp gk)
  | .ctx _ => clockOf s (.ctx (ownKey s s.cur.u (Hdr.lv h)))

/-- The highest values that earlier CYCLE reads of the reader gave, of LOC and of NET. -/
def cycSeen (s : State) (h : Hdr) : Nat × Nat :=
  if h.lev = 0 then (match grpHere s with | some g => (g.locSeen, g.netSeen) | none => (0, 0))
  else match s.ctx? (ownKey s s.cur.u (Hdr.lv h)) with | some c => (c.locSeen, c.netSeen) | none => (0, 0)

/-- Keep them. -/
def sawCyc (s : State) (h : Hdr) (loc net : Nat) : State :=
  if h.lev = 0 then (match s.cur.u with | .grp gk => s.updGrp gk (fun g => { g with locSeen := loc, netSeen := net }) | .ctx _ => s)
  else s.updCtx (ownKey s s.cur.u (Hdr.lv h)) (fun c => { c with locSeen := loc, netSeen := net })

/-- A read of a counter: the reader's own clock, or the network's counter within 2 nc; never below an earlier read of the same context,
which may have run on another clock (R215). -/
def cycRead (s : State) (h : Hdr) (src : CycSrc) : W64 × State :=
  let (loc, net) := cycSeen s h
  match src with
  | .loc => let v := max loc (clockHere s h); (BitVec.ofNat 64 v, sawCyc s h v net)
  | .net => let v := max net (s.nc + (freeNow s 64).toNat % 5); (BitVec.ofNat 64 v, sawCyc s.tick1 h loc v)

/-- CYCLE (R215). -/
def execCycle (h : Hdr) (src : CycSrc) (d : Opd) (s : State) : Host.Outcome State Fault Refusal :=
  fin s h true (put64 s h d (fun s => cycRead s h src))

/-- SLEEPC (R216): the unit issues again once its count has expired. -/
def execSleepc (h : Hdr) (a : Src) (imm : BitVec 27) (s : State) : Host.Outcome State Fault Refusal :=
  fin s h false (
    match waitOf s (Hdr.lv h) with
    | .sleep w => onceRun s h (fun _ => if w = 0 then .next (setWait s (Hdr.lv h) .none) else .wait)
    | _ =>
      onceReady s h 1 [(1, a)] (fun _ => []) (fun m => unlessPoison s h m 1 [(1, a)] (fun _ =>
        let n := min (onceVal s h m (imm.setWidth 64) a.o).toNat (2 ^ 24 - 1)
        if n = 0 then .next s else .stay (setWait s (Hdr.lv h) (.sleep (clockHere s h + n))))))

/-- A sleep that its clock has passed is over. -/
def wakeSleep (clk : Nat) (w : WaitSt) : WaitSt := match w with | .sleep t => if t ≤ clk then .sleep 0 else w | _ => w

/-- SLEEP_EXPIRE (R216). -/
def execSleepExpire (u : UnitRef) (e : Nat) (s : State) : Host.Outcome State Fault Refusal :=
  .next (match u with
  | .ctx ck => s.updCtx ck (fun c => { c with w := wakeSleep (clockOf s u) c.w })
  | .grp gk => s.updGrp gk (fun g => { g with
      w := wakeSleep (clockOf s u) g.w,
      splits := (g.splits.zipIdx).map (fun p => if p.2 = e then p.1.map (fun x => { x with w := wakeSleep (clockOf s u) x.w }) else p.1) }))

/-- An event counter as it reads (R217): those of time gain a free increment first (log 12). -/
def evRead (s : State) (ev : Nat) : W64 × State :=
  let core := match placeOf s s.cur.u with | .core n => n | _ => 0
  let q := match grpHere s with | some g => g.slot % 4 | none => 0
  let k := if 2 ≤ ev ∧ ev ≤ 4 then evQuarter ev q else ev
  let s := if ev = 4 ∨ ev = 5 then (s.count core k (freeNow s 64).toNat).tick1 else s
  (BitVec.ofNat 64 (tabGet 0 (s.core core).ev k), s)

/-- EVRD (R217). -/
def execEvrd (h : Hdr) (d : Opd) (ev : BitVec 8) (s : State) : Host.Outcome State Fault Refusal :=
  fin s h true (put64 s h d (fun s => evRead s ev.toNat))

/-! ## Stops (R218, R219) -/

/-- BKPT (R218): code 0x38 under the launch's debug flag, else no effect. -/
def execBkpt (h : Hdr) (imm : BitVec 32) (s : State) : Host.Outcome State Fault Refusal :=
  fin s h true (onceRun s h (fun m =>
    if (s.lrec (gcOf s s.cur.u)).debug then
      .fault s { FaultReq.mk0 0x38 (Hdr.lv h) with lanes := onceLanes h m, aux := imm }
    else .next s))

/-- HALT (R219): stop as an acting BKPT does, and interrupt the host. -/
def execHalt (h : Hdr) (s : State) : Host.Outcome State Fault Refusal :=
  fin s h true (onceRun s h (fun _ =>
    let t := stopUnit s (faultUnit s (Hdr.lv h)) s.cur.e s.cur.ia
    .done { t with host := { t.host with vectors := t.host.vectors ++ [66] } }))

/-! ## Translation and checking (R220, R221) -/

/-- Whether the accesses of a space that were pending below a number have reached their visibility points (R220). -/
def usedDone (s : State) (upto : Nat) : Bool :=
  s.accs.all (fun a => decide (upto ≤ a.id) || a.kind == .fence || performedAt a a.sc)

/-- TLBINV (R220): a release at DEV, the drop, and the wait for the accesses that used what is dropped. It invalidates every global line of
the core's L1 (R230). It makes no access: AUX of its 0x22 has width 8, scope DEV and a clear write bit (log 27). -/
def execTlbinv (h : Hdr) (k : TlbKind) (a : Src) (s : State) : Host.Outcome State Fault Refusal :=
  fin s h true (
    let srcs := match k with | .page => [(1, a)] | _ => []
    match waitOf s (Hdr.lv h) with
    | .inval n => onceRun s h (fun _ => if usedDone s n then .next (setWait s (Hdr.lv h) .none) else .wait)
    | _ =>
      onceReady s h 1 srcs (fun _ => []) (fun m =>
        let v := onceVal s h m 0 a.o
        if k = .page ∧ !vaOk v then .fault s (memFault 0x22 (Hdr.lv h) 0 ⟨8, 5, false, false⟩ v.toNat v.toNat v.toNat)
        else unlessPoison s h m 1 srcs (fun _ =>
          if !onceDrained s h 5 then .wait
          else
            let sp := (s.task (gcOf s s.cur.u)).space
            let t := tlbDropAll s (fun e => match k with
              | .page => e.space == sp && v.toNat / 2 ^ e.bits * 2 ^ e.bits == e.va
              | .space => e.space == sp
              | .all => true)
            .stay (setWait (acquireView t s.cur.u) (Hdr.lv h) (.inval t.accSeq)))))

/-- CLONE (R221): it has waited for the group's replay entries; then the mode is set. -/
def execClone (h : Hdr) (m : CloneMode) (s : State) : Host.Outcome State Fault Refusal :=
  fin s h true (onceRun s h (fun _ =>
    match s.cur.u with
    | .grp gk => .next (s.updGrp gk (fun g => { g with chk := match m with | .off => 0 | .cnt => 1 | .strict => 2 }))
    | .ctx _ => .next s))

end Sys2Proof.Machine
end

