-- ==== Sys2Proof/Machine/HostPort.lean ====
section
/-! DEFINITION. What the host sees and does through the control space (R343 to R345, R393 to R397): queues and their packets, the
fault buffer, translation drops, the debugger's commands. -/

namespace Sys2Proof.Machine

/-! ## Queues (R343, R345) -/

/-- A descriptor as it stands after reset. -/
def QDesc.zero : QDesc := ⟨0, 0, 0, 0, 0, 0, 0, 0, false⟩

/-- A host queue. -/
def State.queue (s : State) (q : Nat) : QDesc := tabGet QDesc.zero s.host.qs q

/-- Change a host queue. -/
def State.updQueue (s : State) (q : Nat) (f : QDesc → QDesc) : State :=
  { s with host := { s.host with qs := tabPut QDesc.zero s.host.qs q (f (s.queue q)) } }

/-- Raise an MSI-X vector (R397). -/
def raise (s : State) (v : Nat) : State := { s with host := { s.host with vectors := s.host.vectors ++ [v] } }

/-- The packet count of a queue. -/
def QDesc.count (d : QDesc) : Nat := 2 ^ bitsOf d.cfg.toNat 4 0

/-- Packets that wait in a queue (R345). -/
def QDesc.waiting (d : QDesc) : Nat := (d.wr - d.rd).toNat

/-- CFG[9]. -/
def QDesc.on (d : QDesc) : Bool := d.cfg.getLsbD 9

/-- Stop a queue whose indices say that more packets wait than its ring holds (R345). -/
def queueCheck (s : State) (q : Nat) : State :=
  let d := s.queue q
  if d.on && decide (d.count < d.waiting) then
    raise (s.updQueue q (fun d => { d with cfg := (d.cfg &&& ~~~(BitVec.twoPow 64 9)) ||| BitVec.twoPow 64 10, fence := false })) q
  else s

/-- DOORBELL (R345, R394): the value becomes WRIDX; on a disabled queue it is kept. -/
def execDoorbell (q : Nat) (v : W64) (s : State) : Host.Outcome State Fault Refusal :=
  .next (if 64 ≤ q then s else queueCheck (s.updQueue q (fun d => { d with wr := v })) q)

/-- CFG after a write (R343, R345): the count is kept while the queue is enabled, setting the enable clears ERR. -/
def cfgWrite (d : QDesc) (v : W64) : W64 :=
  let n := bitsOf (if d.on then d.cfg else v).toNat 4 0
  let err := d.cfg.getLsbD 10 && !v.getLsbD 9
  BitVec.ofNat 64 (n + b2n (v.getLsbD 8) * 2 ^ 8 + b2n (v.getLsbD 9) * 2 ^ 9 + b2n err * 2 ^ 10)

/-- A descriptor after a write of one of its words; RDIDX is the device's (R343, R345). -/
def descWrite (d : QDesc) (off : Nat) (v : W64) : QDesc :=
  match off with
  | 0x08 => { d with cfg := cfgWrite d v, fence := d.fence && v.getLsbD 9 }
  | 0x18 => { d with wr := v }
  | 0x00 => if d.on then d else { d with base := v }
  | 0x20 => if d.on then d else { d with space := v &&& 0xFFFF }
  | 0x28 => if d.on then d else { d with toptab := v }
  | 0x30 => if d.on then d else { d with tdir := v }
  | 0x38 => if d.on then d else { d with tdlim := v }
  | _ => d

/-- QDESC_WRITE (R345). -/
def execQdescWrite (q off : Nat) (v : W64) (s : State) : Host.Outcome State Fault Refusal :=
  .next (if 64 ≤ q then s else queueCheck (s.updQueue q (fun d => descWrite d off v)) q)

/-! ## Packets (R344) -/

/-- Where the packet in hand stands. -/
def packetPa (d : QDesc) : Nat := d.base.toNat + 256 * (d.rd.toNat % d.count)

/-- The 256 bytes of the packet in hand: a ring in the host window lies in the host, so they are free, one value a packet (log 17). -/
def packetBytes (s : State) (q : Nat) (d : QDesc) : List Byte :=
  if isMem s.floor (packetPa d) then memRead s.mem (packetPa d) 256
  else leBytes 256 (Config.freeBits 2048 (2 ^ 64 * q + d.rd.toNat)).toNat

/-- Whether a queue has a packet to parse. -/
def parses (s : State) (q : Nat) : Bool :=
  let d := s.queue q
  takesWork s && decide (q < 64) && d.on && d.rd != d.wr

/-- Whether a packet is malformed (R344). -/
def packetBad (bs : List Byte) : Bool :=
  let h := bfld bs 0 8
  let ty := bitsOf h 7 0
  let n := bfld bs 0x10 8
  let zero := fun (lo len : Nat) => ((bs.drop lo).take len).all (fun b => b == 0)
  decide (3 < ty) || bitsOf h 63 9 != 0 || !zero 0x0C 4 || !zero 0xE0 32 ||
  (match ty with
   | 2 => decide (12 < n) || !zero 0x18 8 || !zero (0x20 + 16 * n) (192 - 16 * n) ||
       (List.range n).any (fun i => bfld bs (0x20 + 16 * i) 8 % 8 != 0)
   | 3 => n % 8 != 0 || !zero 0x20 192
   | 1 => !zero 0x18 8 || !zero 0x20 192
   | _ => !zero 0x10 16 || !zero 0x20 192)

/-- Consume the packet in hand with a code: COMPL, RDIDX, and the interrupt that it asks for (R344, R397). -/
def consume (s : State) (q : Nat) (bs : List Byte) (code : Nat) : State :=
  let d := s.queue q
  let pa := packetPa d
  let s := if isMem s.floor pa then homePut s (pa + 8) 4 (2 ^ 31 + code) else s
  let s := s.updQueue q (fun d => { d with rd := d.rd + 1, fence := false })
  if bitOf (bfld bs 0 8) 8 then raise s q else s

/-- Parse the packet in hand where it has a type; a malformed one is skipped with code 0x1E, whatever its type. -/
def onPacket (s : State) (q ty : Nat) (f : QDesc → List Byte → State) : Host.Outcome State Fault Refusal :=
  .next (if !parses s q then s
  else
    let d := s.queue q
    let bs := packetBytes s q d
    if d.fence then s
    else if packetBad bs then consume s q bs 0x1E
    else if bitsOf (bfld bs 0 8) 7 0 = ty then f d bs else s)

/-- LAUNCH_PACKET (R339, R344): the spawn step; one that waits for room in the ready queues is tried again (R342). -/
def execLaunchPacket (q : Nat) (s : State) : Host.Outcome State Fault Refusal :=
  onPacket s q 1 (fun d bs =>
    match spawn s (bfld bs 0x10 8) d.space.toNat d.toptab.toNat d.tdir d.tdlim.toNat (d.cfg.getLsbD 8) none with
    | .wait => s
    | .done code t => consume t q bs code)

/-- The physical address of a word that a packet names, in the queue's space; none where it fails (R344). -/
def packetWord (s : State) (d : QDesc) (va : Nat) (need : Need) : Option Nat :=
  match walk s d.space.toNat d.toptab.toNat va with
  | (.leaf e, _) => if leafAllows s e va need true then some (e.pa + va % 2 ^ e.bits) else none
  | _ => none

/-- The counters of a FENCE: address and target. -/
def fenceCounters (bs : List Byte) : List (Nat × Nat) :=
  (List.range (bfld bs 0x10 8)).map (fun i => (bfld bs (0x20 + 16 * i) 8, bfld bs (0x28 + 16 * i) 8))

/-- FENCE_PACKET (R344): it holds parsing; a counter that cannot be translated gives 0x11. -/
def execFencePacket (q : Nat) (s : State) : Host.Outcome State Fault Refusal :=
  onPacket s q 2 (fun d bs =>
    if (fenceCounters bs).all (fun p => (packetWord s d p.1 .read).isSome) then s.updQueue q (fun d => { d with fence := true })
    else consume ((fenceCounters bs).foldl (fun s p => walked s d.space.toNat d.toptab.toNat p.1) s) q bs 0x11)

/-- Whether a counter has reached its target; one in the host or peer window is free (log 17). -/
def counterMet (s : State) (d : QDesc) (p : Nat × Nat) : Bool :=
  match packetWord s d p.1 .read with
  | some pa => decide (p.2 ≤ (if isMem s.floor pa then homeGet s pa 8 else (freeNow s 64).toNat))
  | none => false

/-- FENCE_PACKET_PASS (R344): every counter has reached its target, or one can no longer be translated. -/
def execFencePacketPass (q : Nat) (s : State) : Host.Outcome State Fault Refusal :=
  .next (if !parses s q then s
  else
    let d := s.queue q
    let bs := packetBytes s q d
    if !d.fence then s.tick1
    else if (fenceCounters bs).any (fun p => (packetWord s d p.1 .read).isNone) then
      consume ((fenceCounters bs).foldl (fun s p => walked s d.space.toNat d.toptab.toNat p.1) s.tick1) q bs 0x11
    else if (fenceCounters bs).all (counterMet s d) then consume s.tick1 q bs 0 else s.tick1)

/-- SIGNAL_PACKET (R344): an 8-byte release store at SYS. -/
def execSignalPacket (q : Nat) (s : State) : Host.Outcome State Fault Refusal :=
  onPacket s q 3 (fun d bs =>
    match packetWord s d (bfld bs 0x10 8) .write with
    | none => consume (walked s d.space.toNat d.toptab.toNat (bfld bs 0x10 8)) q bs 0x11
    | some pa => consume (if isMem s.floor pa then wakeScan (homePut s pa 8 (bfld bs 0x18 8)) else s) q bs 0)

/-- NOP_PACKET (R344). -/
def execNopPacket (q : Nat) (s : State) : Host.Outcome State Fault Refusal := onPacket s q 0 (fun _ bs => consume s q bs 0)

/-! ## The fault buffer (R395) -/

/-- Entries of the buffer. -/
def fbCount (s : State) : Nat := 2 ^ bitsOf s.host.fbCfg.toNat 3 0

/-- Whether a waiting record may be written: a P record once its band is saved or stands stopped in place (R179, R180, R370). -/
def fbMay (s : State) (k : FbKind) : Bool :=
  match k with
  | .park gc b => match s.band? (bandKey gc b) with | some x => x.st != .resident || x.inPlace | none => true
  | _ => true

/-- FAULT_BUFFER_WRITE (R395): the oldest record that may be written goes to entry FBTAIL. -/
def execFaultBufferWrite (s : State) : Host.Outcome State Fault Refusal :=
  let i? := s.host.fbWait.findIdx? (fun p => fbMay s p.2)
  .next (match i?.bind (fun i => (nth? s.host.fbWait i).map (fun p => (i, p))) with
  | none => s
  | some (i, rcd, k) =>
    let n := (s.host.fbTail - s.host.fbHead).toNat
    if !s.host.fbCfg.getLsbD 8 || decide (fbCount s ≤ n) then s
    else
      let j := s.host.fbTail.toNat % fbCount s
      let pa := s.host.fbBase.toNat + 128 * j
      let s := if isMem s.floor pa then homeWrite s pa rcd false else s
      let s := { s with host := { s.host with
        fbWait := s.host.fbWait.eraseIdx i, fbTail := s.host.fbTail + 1, fbMeta := tabSet s.host.fbMeta j (k, rcd) } }
      if n = 0 then raise s 64 else s)

/-- FBCFG_WRITE (R395): a write with a count outside 4 to 12 is ignored whole. -/
def execFbcfgWrite (v : W64) (s : State) : Host.Outcome State Fault Refusal :=
  let n := bitsOf v.toNat 3 0
  .next (if 4 ≤ n ∧ n ≤ 12 then { s with host := { s.host with fbCfg := v &&& 0x10F } } else s)

/-- Every record of a park is resolved: a parked unit is ready to resume, one stopped in place goes on (R179, R370, R395). A unit that
waits for a wake-up or for the task that it took in becomes ready when that comes. -/
def parkResolved (s : State) (gc b : Nat) : State :=
  let bs := bandsWith s gc b
  if unresolved s gc bs ≠ 0 then s
  else match s.band? (bandKey gc b) with
  | none => s
  | some x =>
    if x.st == .parked then if x.cause == 7 || x.helps.isSome then s else makeReady s gc ((bs.filter (fun y => match s.band? (bandKey gc y) with | some z => z.st == .parked | none => false)).head?.getD b)
    else if x.st == .resident && x.inPlace then
      let s := bs.foldl (fun (s : State) y => s.updBand (bandKey gc y) (fun z => { z with park := none, inPlace := false, cause := 0 })) s
      bs.foldl (fun s y => keptAsk s gc y) (runInPlace s gc bs)
    else s

/-- Free an entry of the fault buffer. -/
def fbFree (s : State) (idx : Nat) : State := { s with host := { s.host with fbMeta := tabDel s.host.fbMeta idx } }

/-- FBRESOLVE_RESUME (R395). -/
def execFbresolveResume (idx : Nat) (s : State) : Host.Outcome State Fault Refusal :=
  .next (match tabGet? s.host.fbMeta idx with
  | none => s
  | some (k, _) =>
    let s := fbFree s idx
    match k with
    | .park gc b =>
      (match s.band? (bandKey gc b) with
       | some x => if x.unres = 0 then s
           else parkResolved (s.updBand (bandKey gc b) (fun x => { x with unres := x.unres - 1 })) gc b
       | none => s)
    | .grid ck => askAnew s ck
    | _ => s)

/-- Abort a launch with a record that the host has seen (R172, R395): its DISP becomes 3. -/
def abortRecord (s : State) (gc : Nat) (rcd : List Byte) : State :=
  let rcd := setNth rcd 2 3
  let s := match s.launch? gc with
    | some l => (match faultRecAddr s gc l.faultrec with | some pa => homeWrite s pa rcd false | none => toHost s rcd .dead)
    | none => s
  stopLaunch s gc 2 (bfld rcd 0 1)

/-- FBRESOLVE_ABORT (R395). -/
def execFbresolveAbort (idx : Nat) (s : State) : Host.Outcome State Fault Refusal :=
  .next (match tabGet? s.host.fbMeta idx with
  | none => s
  | some (k, rcd) =>
    let s := fbFree s idx
    let live := fun (gc : Nat) => match s.launch? gc with | some l => !l.done | none => false
    match k with
    | .park gc b =>
      let there : Bool := match s.band? (bandKey gc b) with | some x => x.st != .ended | none => false
      if live gc && there then abortRecord s gc rcd else s
    | .grid ck => if live (ck % 64) then abortRecord s (ck % 64) rcd else s
    | _ => s)

/-! ## TLBCMD (R396) -/

/-- A translation command: the drop with busy set, then the clearing of busy once the accesses that used what was dropped have
reached their visibility points. -/
def tlbCommand (s : State) (kind space : Nat) (p : TlbEnt → Bool) : Host.Outcome State Fault Refusal :=
  let cmd := fun (busy : Bool) => BitVec.ofNat 64 (kind + b2n busy * 4 + space * 2 ^ 16)
  .next (if s.host.tlbCmd = cmd true then
      (if usedDone s s.host.tlbUpto then { s with host := { s.host with tlbCmd := cmd false } } else s)
    else if s.host.tlbCmd.getLsbD 2 then s
    else
      let t := tlbDropAll s p
      { t with host := { t.host with tlbCmd := cmd true, tlbUpto := t.accSeq } })

/-- TLBCMD_PAGE (R396): the page is that of the address in TLBVA. The bits of the value written that TLBCMD does not hold have no effect
(R393). -/
def execTlbcmdPage (space : BitVec 16) (_ : W64) (s : State) : Host.Outcome State Fault Refusal :=
  tlbCommand s 0 space.toNat (fun e => e.space == space.toNat && s.host.tlbVa.toNat / 2 ^ e.bits * 2 ^ e.bits == e.va)

/-- TLBCMD_SPACE (R396). -/
def execTlbcmdSpace (space : BitVec 16) (s : State) : Host.Outcome State Fault Refusal :=
  tlbCommand s 1 space.toNat (fun e => e.space == space.toNat)

/-- TLBCMD_ALL (R396). -/
def execTlbcmdAll (s : State) : Host.Outcome State Fault Refusal := tlbCommand s 2 0 (fun _ => true)

/-! ## DBGCMD (R393) -/

/-- Move a group past the BKPT or HALT at which its entry e stopped. -/
def stepGrp (s : State) (gk e : Nat) (ia : W64) : State :=
  match s.grp? gk with
  | none => s
  | some g =>
    let lane := match nth? g.splits e with | some (some x) => x.pc == ia | _ => false
    { moveGrp { s with cur := ⟨.grp gk, e, ia, 0⟩ } gk lane (iaNext ia) with cur := s.cur }

/-- Move the unit that stopped at a BKPT or HALT past it, as the end of the instruction does. -/
def stepPast (s : State) (u : UnitRef) (e : Nat) (ia : W64) : State :=
  match u with
  | .grp gk => stepGrp s gk e ia
  | .ctx ck => match s.ctx? ck with
    | none => s
    | some c => if c.dom = domGroup then stepGrp s (grpOfCtx s c) e ia else moveCtx s ck true (iaNext ia)

/-- Let a stopped band run on, with the bands that stopped with it: the time that it stood does not count for its handlers
(R175, R218). -/
def runOn (s : State) (gc b : Nat) : State :=
  (bandsWith s gc b).foldl (fun (s : State) y =>
    match s.band? (bandKey gc y) with
    | none => s
    | some x =>
      if x.dbg.isNone then s
      else
        let dt := clockAt s (.core x.core) - x.dbgAt
        let s := s.updBand (bandKey gc y) (fun x => { x with dbg := none, dbgUnit := none })
        let s := (grpsOf s gc y).foldl (fun (s : State) p =>
          s.updGrp p.1 (fun g => { g with handler := g.handler.map (fun h => { h with start := h.start + dt }) })) s
        keptAsk s gc y) s

/-- A context that a BKPT or HALT stopped above the band domain runs on, with the bands of its unit. -/
def ctxRunOn (s : State) (gc : Nat) (past : Bool) (p : Nat × W64) : State :=
  let bs := match s.ctx? p.1 with | some c => (bandsUnder s gc c.lvl c.g).map (fun (q : Nat × Band) => q.2.b) | none => []
  let s := if past then stepPast s (.ctx p.1) 0 p.2 else s
  let s := (s.updCtx p.1 (fun c => { c with stopped := false })).updLaunch gc (fun l => { l with dbg := l.dbg.filter (fun q => q.1 != p.1) })
  bs.foldl (fun s b => runOn s gc b) s

/-- A resume of DBGCMD: only a band stopped by BKPT or HALT resumes, whether by its own stop or with its unit (R393). -/
def dbgResume (s : State) (gc b : Nat) (past : Bool) : Host.Outcome State Fault Refusal :=
  let cs := stopsOver s gc b
  let own := match (s.band? (bandKey gc b)).bind (fun x => x.dbg), (s.band? (bandKey gc b)).bind (fun x => x.dbgUnit) with
    | some ia, some (u, e) => if past then stepPast s u e ia else s
    | _, _ => s
  .next (runOn (cs.foldl (fun s p => ctxRunOn s gc past p) own) gc b)

/-- DBGCMD_RESUME_STOP_IA (R393). -/
def execDbgcmdResumeStopIa (gc b : Nat) (s : State) : Host.Outcome State Fault Refusal := dbgResume s gc b false

/-- DBGCMD_RESUME_NEXT (R393). -/
def execDbgcmdResumeNext (gc b : Nat) (s : State) : Host.Outcome State Fault Refusal := dbgResume s gc b true

/-- Some unit of a launch, in the band asked for where it has one. -/
def someUnit (s : State) (gc b : Nat) : UnitRef :=
  match grpsOf s gc b with
  | (k, _) :: _ => .grp k
  | [] => match s.ctxs.find? (fun p => p.2.gc == gc) with
    | some (k, _) => .ctx k
    | none => .grp (grpKey gc b 0)

/-- DBGCMD_KILL (R198, R393): any band of a running launch. No rule gives the record's code; it is free (log 6). -/
def execDbgcmdKill (gc b : Nat) (s : State) : Host.Outcome State Fault Refusal :=
  .next (match s.launch? gc with
  | none => s
  | some l =>
    if l.done || decide (l.r.bands ≤ b) || s.host.halted then s
    else
      let x? := s.band? (bandKey gc b)
      let ended : Bool := match x? with | some x => x.st == .ended | none => false
      if ended then s
      else
        let u := someUnit s gc b
        let ia := match x?.bind (fun x => x.dbg) with | some ia => ia | none => 0
        let code := (freeNow s 8).toNat
        let (seq, s) := countFault s.tick1 gc
        let k : Kill := ⟨u, FaultReq.mk0 code 0, ia, 0, seq⟩
        match x? with
        | some _ => (bandsWith s gc b).foldl (fun (s : State) y => s.updBand (bandKey gc y) (fun z =>
            if z.dying.isSome then z else { z with dying := some k, dbg := none, dbgUnit := none })) s
        | none => abortLaunch s u k.f ia 0 seq)

end Sys2Proof.Machine
end

