-- ==== Sys2Proof/Machine/Rings.lean ====
section
/-! DEFINITION. Rings (R385 to R391): descriptors, home entries, MSEND, RWAIT, RACK, RDESC, and the append of a message. -/

namespace Sys2Proof.Machine

/-! ## Descriptors (R387) -/

/-- The size of a ring. -/
def ringSize (d : W64) : Nat := 2 ^ (bitsOf d.toNat 38 36 + 10)
/-- BASE of a ring. -/
def ringBase (d : W64) : Nat := bitsOf d.toNat 31 0
/-- The arrival word's offset. -/
def ringArr (d : W64) : Nat := 16 * bitsOf d.toNat 55 42
/-- AV. -/
def ringAv (d : W64) : Bool := d.getLsbD 56
/-- EN. -/
def ringEn (d : W64) : Bool := d.getLsbD 32

/-- Bytes in use of a ring: T − H. -/
def Ring.used (r : Ring) : Nat := (r.t - r.h).toNat

/-- Ring r of a band, if it is configured. -/
def ringOf (s : State) (bk r : Nat) : Option Ring := (s.band? bk).bind (fun b => tabGet? b.rings r)

/-- Whether a descriptor's fields may be configured in a scratchpad of some size (R387, R390). -/
def ringOk (d : W64) (size : Nat) : Bool :=
  bitsOf d.toNat 63 57 == 0 && bitsOf d.toNat 41 39 == 0 && bitsOf d.toNat 35 33 == 0 && bitsOf d.toNat 38 36 != 7 &&
  ringBase d % ringSize d == 0 && decide (ringBase d + ringSize d ≤ size) && decide (ringArr d + 16 ≤ size)

/-- The scratchpad offset of a byte count of a ring. -/
def ringAt (d : W64) (n : Nat) : Nat := ringBase d + n % ringSize d

/-! ## Home entries (R385) -/

/-- Whether a band is there to receive messages. -/
def bandLives (s : State) (bk : Nat) : Bool :=
  match s.band? bk with | some b => b.st == .resident || b.st == .parked || b.st == .resuming | none => false

/-- Whether a band has a home entry. -/
def hasHome (s : State) (bk : Nat) : Bool := s.clusters.any (fun p => p.2.homes.contains bk)

/-- Home entries in use in a controller. -/
def homeCount (s : State) (clu : Nat) : Nat := ((s.cluster clu).homes.filter (bandLives s)).length

/-! ## MSEND (R390) -/

/-- What the records of a ring instruction's scratchpad faults say (R171). -/
def ringDesc (wr : Bool) : AccDesc := ⟨8, 2, wr, false⟩

/-- Poison marks of the words of a payload. -/
def payloadPoison (s : State) (bk off n : Nat) : List Bool :=
  match s.band? bk with
  | some b => (List.range (n / 4)).map (fun i => tabGet false b.scrP (off / 4 + i))
  | none => List.replicate (n / 4) false

/-- The payload bytes. -/
def payload (s : State) (bk off n : Nat) : List Byte := match s.band? bk with | some b => scrRead b off n | none => []

/-- The controller that holds the home entry of a band, as a physical cluster (R385). -/
def homeOfBand (s : State) (bk : Nat) : Option Nat :=
  (s.clusters.find? (fun p => p.2.homes.contains bk)).map (fun p => (nth? s.floor.allClus p.1).getD 0)

/-- The band that a handle names. -/
def handleBand (hdl : W64) : Nat := bandKey (bitsOf hdl.toNat 37 32) (bitsOf hdl.toNat 31 2)

/-- Flits of a message with n bytes of payload: a packet header, the ring's header and the payload (R388, R399; log 25). -/
def msgFlits (n : Nat) : Nat := (16 + 8 + n + 63) / 64

/-- Send a message to its home entry and wait for its answer (R385, R390): its request packet leaves when its pair, its bucket and the routing
table let it (R380 to R383). A handle without an entry is answered where the sender is. -/
def sendMsg (s : State) (h : Hdr) (hdl : W64) (off n : Nat) (tag : BitVec 12) : Act :=
  let from_ := endpointAt s s.cur.u
  let dst := ((homeOfBand s (handleBand hdl)).map (fun c => 64 + c)).getD (backTo from_)
  let cls := (s.task (gcOf s s.cur.u)).prio
  let first := s.accs.all (fun b => !(endpointOf s b == from_ && b.cls == cls && wantsInject s b))
  match (if first then sendPacket s from_ dst cls (msgFlits n) s.msgSeq else none) with
  | none => .wait
  | some (k, route, t) =>
    let m : Msg := { route := route, pair := from_ * 128 + dst, pseq := k, id := s.msgSeq, by_ := s.cur.u, e := s.cur.e, hdl := hdl,
                     src := (s.task (gcOf s s.cur.u)).id, tag := tag,
                     data := payload s (bandHere s) off n, poi := payloadPoison s (bandHere s) off n }
    .stay (setWait { t with msgs := t.msgs ++ [m], msgSeq := t.msgSeq + 1 } (Hdr.lv h) (.msend m.id none))

/-- MSEND (R390). -/
def execMsend (h : Hdr) (d : BitVec 4) (a b : Src) (n8 : BitVec 5) (tag : BitVec 12) (s : State) : Host.Outcome State Fault Refusal :=
  fin s h true (
    let n := 8 * n8.toNat
    let srcs := (1, a) :: (if b.o = .none then [] else [(2, b)])
    match waitOf s (Hdr.lv h) with
    | .msend _ none => .wait
    | .msend _ (some ok) => onceRun s h (fun m => .next (putPred (setWait s (Hdr.lv h) .none) h m d ok))
    | _ =>
      onceReady s h 2 srcs (fun _ => []) (fun m =>
        let off := if n = 0 then 0 else (onceVal s h m 0 b.o).toNat
        if off % 8 ≠ 0 then scrFault s h 0x12 m (ringDesc false) off
        else if n ≠ 0 ∧ scrSize s < off + n then scrFault s h 0x11 m (ringDesc false) off
        else unlessPoison s h m 2 srcs (fun _ =>
          if onceDrained s h 5 then sendMsg s h (onceVal s h m 0 a.o) off n tag else .wait)))

/-! ## RWAIT, RACK, RDESC -/

/-- Raise 0x03 unless a ring of the issuing band is configured; with no active lane or a false guard there is no effect. -/
def withRing (s : State) (h : Hdr) (r : Nat) (f : Lanes → Ring → Act) : Act :=
  onceRun s h (fun m => match ringOf s (bandHere s) r with
    | none => flt s 0x03 (Hdr.lv h) (if h.lev = 0 then m else 0)
    | some x => f m x)

/-- RWAIT (R390): wait for a message; an acquire at DEV. -/
def execRwait (h : Hdr) (d : Opd) (r : BitVec 2) (s : State) : Host.Outcome State Fault Refusal :=
  fin s h true (withRing s h r.toNat (fun m x =>
    match checkUses s s.cur.u (Hdr.lv h) m [] (onceDst h d 1 m) with
    | some a => a
    | none =>
      if x.used = 0 then standBy s h (.ring r.toNat)
      else putOnce (acquireView s s.cur.u) h m d 1 (BitVec.ofNat 64 (ringAt x.desc x.h.toNat))))

/-- Zero m bytes of a ring from a count on. -/
def ringZero (s : State) (bk : Nat) (d : W64) (h m : Nat) : State :=
  (List.range (m / 8)).foldl (fun s i => scrStore s bk (ringAt d (h + 8 * i)) (List.replicate 8 0) false) s

/-- RACK (R390): free the oldest bytes, zeroed. -/
def execRack (h : Hdr) (a : Src) (r : BitVec 2) (s : State) : Host.Outcome State Fault Refusal :=
  fin s h true (withRing s h r.toNat (fun m x =>
    let srcs := if a.o = .none then [] else [(1, a)]
    match checkUses s s.cur.u (Hdr.lv h) m (onceUses h m 2 srcs) [] with
    | some y => y
    | none =>
      let bk := bandHere s
      let head := leNat (payload s bk (ringAt x.desc x.h.toNat) 8)
      let n := if a.o = .none then 8 * bitsOf head 5 0 else (onceVal s h m 0 a.o).toNat
      if (a.o = .none ∧ x.used = 0) ∨ n % 8 ≠ 0 ∨ x.used < n then scrFault s h 0x11 m (ringDesc true) (ringAt x.desc x.h.toNat)
      else unlessPoison s h m 2 srcs (fun _ =>
        if !onceDrained s h 2 then .wait
        else
          let s := ringZero s bk x.desc x.h.toNat n
          .next (s.updBand bk (fun b => { b with rings := tabSet b.rings r.toNat { x with h := x.h + BitVec.ofNat 32 n } })))))

/-- Configure a ring, or answer none where it may not be (R385, R387, R390). -/
def ringConfigure (s : State) (bk r : Nat) (d : W64) : Option State :=
  (s.band? bk).bind (fun b =>
    let old := tabGet? b.rings r
    let clu := clusOfCore s.floor b.core
    let busy := match old with | some x => decide (x.used ≠ 0) | none => false
    if !ringOk d (1024 * (s.lrec b.gc).scrg) || busy then none
    else if old.isNone && decide (4 ≤ usedRings s b.core) then none
    else if !hasHome s bk && decide (64 ≤ homeCount s clu) then none
    else
      let s := if hasHome s bk then s else s.updCluster clu (fun c => { c with homes := c.homes ++ [bk] })
      let s := ringZero s bk d 0 (ringSize d)
      some (s.updBand bk (fun b => { b with rings := tabSet b.rings r ⟨d, 0, 0, 0⟩ })))

/-- RDESC (R390): configure or release a ring; pD says whether it did. -/
def execRdesc (h : Hdr) (d : BitVec 4) (a : Src) (r : BitVec 2) (s : State) : Host.Outcome State Fault Refusal :=
  fin s h true (onceReady s h 2 [(1, a)] (fun _ => []) (fun m => unlessPoison s h m 2 [(1, a)] (fun _ =>
    let v := onceVal s h m 0 a.o
    let bk := bandHere s
    if !onceDrained s h 2 then .wait
    else if ringEn v then
      match ringConfigure s bk r.toNat v with
      | some t => .next (putPred t h m d true)
      | none => .next (putPred s h m d false)
    else match ringOf s bk r.toNat with
      | some x =>
        if x.used = 0 then
          .next (putPred (s.updBand bk (fun b => { b with rings := tabDel b.rings r.toNat })) h m d true)
        else .next (putPred s h m d false)
      | none => .next (putPred s h m d false))))

/-! ## The append (R386, R388) -/

/-- The answer reaches the sender, if it still waits for it. -/
def answerMsg (s : State) (m : Msg) (ok : Bool) : State :=
  let f := fun (w : WaitSt) => match w with | .msend i none => if i = m.id then .msend i (some ok) else w | w => w
  let s := { s with msgs := s.msgs.filter (fun x => x.id != m.id) }
  match m.by_ with
  | .ctx ck => s.updCtx ck (fun c => { c with w := f c.w })
  | .grp gk => s.updGrp gk (fun g => { g with w := f g.w, splits := g.splits.map (fun x => x.map (fun y => { y with w := f y.w })) })

/-- The header of a message (R388). -/
def msgHeader (seq : BitVec 16) (m : Msg) : Nat :=
  seq.toNat * 2 ^ 48 + m.src % 2 ^ 30 * 2 ^ 18 + m.tag.toNat * 2 ^ 6 + (m.data.length / 8 + 1)

/-- The 8-byte units of a message with the poison of each, payload first, then the header, each with its place (R388). -/
def msgUnits (x : Ring) (m : Msg) : List (Nat × List Byte × Bool) :=
  ((List.range (m.data.length / 8)).map (fun i =>
    (ringAt x.desc (x.t.toNat + 8 * (i + 1)), (m.data.drop (8 * i)).take 8, ((m.poi.drop (2 * i)).take 2).any id))) ++
  [(ringAt x.desc x.t.toNat, leBytes 8 (msgHeader x.seq m), false)]

/-- Write the words of a unit of a message with their marks: each 4-byte word carries its own (R390). -/
def unitStore (s : State) (bk : Nat) (m : Msg) (x : Ring) : State :=
  let s := (List.range (m.data.length / 4)).foldl (fun s i =>
    scrStore s bk (ringAt x.desc (x.t.toNat + 8 + 4 * i)) ((m.data.drop (4 * i)).take 4) ((nth? m.poi i).getD false)) s
  scrStore s bk (ringAt x.desc x.t.toNat) (leBytes 8 (msgHeader x.seq m)) false

/-- Advance a ring after an append. -/
def ringAdvance (s : State) (bk r : Nat) (x : Ring) (len8 : Nat) : State :=
  s.updBand bk (fun b => { b with rings := tabSet b.rings r { x with t := x.t + BitVec.ofNat 32 (8 * len8), seq := x.seq + 1 } })

/-- The append at the ring's core; none where the arrival must wait for its phase (R304). -/
def appendCore (s : State) (bk r : Nat) (x : Ring) (m : Msg) : Option State :=
  let s1 := ringAdvance (unitStore s bk m x) bk r x (m.data.length / 8 + 1)
  let a := arrGet s1 bk (ringArr x.desc)
  if ringAv x.desc ∧ a.exp ≠ 0 then (arrArrive a).map (fun w => arrPut s1 bk (ringArr x.desc) w) else some s1

/-- The append to the scratchpad image of a parked band (R385). -/
def appendImage (s : State) (bk r : Nat) (x : Ring) (m : Msg) : Option State :=
  (s.band? bk).bind (fun b =>
    let base := bandSave s b.gc b.b + 0x92000
    let o := (msgUnits x m).foldl (fun (o : Option State) u => o.bind (fun s => virtWrite s b.gc (base + u.1) u.2.1 u.2.2)) (some s)
    o.bind (fun s =>
      let s := ringAdvance s bk r x (m.data.length / 8 + 1)
      if ringAv x.desc then
        (virtAddr s b.gc (base + ringArr x.desc) .write).bind (fun pa =>
          let a := arrOf (memRead s.mem pa 16)
          if a.exp = 0 then some s
          else (arrArrive a).bind (fun w => virtWrite s b.gc (base + ringArr x.desc) (arrBytes w) false))
      else some s))

/-- The answer to a message leaves an endpoint: it never waits, and takes a flit of its message's class (R380, R382, R383). -/
def answerFrom (s : State) (ep : Nat) (m : Msg) (ok : Bool) : State :=
  let s := bucketDebit s ep (s.task (gcOf s m.by_)).prio 1
  let c := sourceRouter s ep
  answerMsg (match pickRoute s c (backTo (m.pair / 128)) with | some r => linkAdd r.2.tick1 c m.id r.1 | none => s) m ok

/-- Whether the home entry refuses a message (R386): there is none, the launch has ended, or the cluster is gated. -/
def homeRefuses (s : State) (hdl : W64) : Bool :=
  let bk := handleBand hdl
  bitsOf hdl.toNat 63 38 != 0 || (match s.launch? (bitsOf hdl.toNat 37 32) with | some l => l.done | none => true) ||
  !bandLives s bk || !hasHome s bk || s.clusters.any (fun p => p.2.isl = 2 && p.2.homes.contains bk)

/-- The home entry forwards a message to a resident band's core (R385): a request of its class from the home cluster, if the band stands
elsewhere. -/
def forwardMsg (s : State) (home : Nat) (b : Band) (m : Msg) : Option State :=
  let at_ := physCore s.floor b.core / 16
  if b.st != .resident ∨ at_ = home then some s
  else (sendPacket s home (64 + at_) (s.task (gcOf s m.by_)).prio (msgFlits m.data.length) m.id).map (fun r => r.2.2)

/-- RING_APPEND (R385, R386, R388): a message is forwarded to its ring's current place and appended there in one step, or NACKed. -/
def execRingAppend (n : Nat) (s : State) : Host.Outcome State Fault Refusal :=
  .next (match s.msgs.find? (fun m => m.id = n) with
  | none => s
  | some m =>
    let bk := handleBand m.hdl
    let r := bitsOf m.hdl.toNat 1 0
    let home := (homeOfBand s bk).getD (m.pair / 128)
    match ringOf s bk r, s.band? bk with
    | some x, some b =>
      if homeRefuses s m.hdl then answerFrom s home m false
      else match forwardMsg s home b m with
        | none => s
        | some t =>
          let here := if b.st == .resident then physCore s.floor b.core / 16 else home
          if ringSize x.desc < x.used + 8 * (m.data.length / 8 + 1) then answerFrom t here m false
          else (match (if b.st == .resident then appendCore t bk r x m else appendImage t bk r x m) with
            | some t => answerFrom t here m true
            | none => s)
    | _, _ => answerFrom s home m false)

end Sys2Proof.Machine
end

