-- ==== Sys2Proof/Machine/Shake.lean ====
section
/-! DEFINITION. SHAKE256 with 256 bits of output (R88, R408, R409), as FIPS 202 defines it. -/

namespace Sys2Proof.Machine

/-! ## The permutation on 25 lanes of 64 bits; lane x of plane y is number x + 5·y -/

/-- The lane with a number. -/
def kLane (a : List W64) (i : Nat) : W64 := a.getD i 0

/-- The shift register that gives the bits of the round constants, after n steps: 8 bits, begun at 1; what leaves it comes back at its
bits 0, 4, 5 and 6. -/
def kShift : Nat → Nat
  | 0 => 1
  | n + 1 => let r := kShift n; if r < 128 then 2 * r else (2 * r - 256) ^^^ 113

/-- The constant of round r: bit 2^j − 1 is the register's low bit after j + 7r steps. -/
def kConst (r : Nat) : W64 :=
  BitVec.ofNat 64 (((List.range 7).map (fun j => kShift (j + 7 * r) % 2 * 2 ^ (2 ^ j - 1))).sum)

/-- The place x + 5y that the walk (x, y) to (y, 2x + 3y) from (1, 0) has reached after n steps. -/
def kWalk : Nat → Nat × Nat
  | 0 => (1, 0)
  | n + 1 => let p := kWalk n; (p.2, (2 * p.1 + 3 * p.2) % 5)

/-- How far the lane at a place is rotated: by a triangular number, the one that the walk counts there; the lane at the origin by none. -/
def kRot (i : Nat) : Nat :=
  match (List.range 24).find? (fun n => (kWalk n).1 + 5 * (kWalk n).2 == i) with
  | some n => (n + 1) * (n + 2) / 2 % 64
  | none => 0

/-- The columns of each lane folded into it. -/
def kTheta (a : List W64) : List W64 :=
  let c := (List.range 5).map (fun x => kLane a x ^^^ kLane a (x + 5) ^^^ kLane a (x + 10) ^^^ kLane a (x + 15) ^^^ kLane a (x + 20))
  (List.range 25).map (fun i => kLane a i ^^^ kLane c ((i + 4) % 5) ^^^ (kLane c ((i + 1) % 5)).rotateLeft 1)

/-- The lanes rotated, each at its new place. -/
def kRhoPi (a : List W64) : List W64 :=
  (List.range 25).map (fun j =>
    let i := (3 * (j / 5) + j % 5) % 5 + 5 * (j % 5)
    (kLane a i).rotateLeft (kRot i))

/-- The rows combined, and the round constant added. -/
def kChiIota (rc : W64) (b : List W64) : List W64 :=
  (List.range 25).map (fun i =>
    let at_ := fun (k : Nat) => kLane b (i / 5 * 5 + (i + k) % 5)
    at_ 0 ^^^ (~~~(at_ 1) &&& at_ 2) ^^^ (if i = 0 then rc else 0))

/-- The 24 rounds. -/
def keccakF (a : List W64) : List W64 := (List.range 24).foldl (fun a r => kChiIota (kConst r) (kRhoPi (kTheta a))) a

/-! ## The sponge: 136 bytes a block -/

/-- The lanes of a block: eight bytes each, the first the least significant. -/
def kBlock (bs : List Byte) : List W64 :=
  (List.range 25).map (fun i => if i < 17 then BitVec.ofNat 64 (leNat ((bs.drop (8 * i)).take 8)) else 0)

/-- Absorb n blocks. -/
def kAbsorb : Nat → List W64 → List Byte → List W64
  | 0, a, _ => a
  | n + 1, a, bs => kAbsorb n (keccakF (List.zipWith (· ^^^ ·) a (kBlock bs))) (bs.drop 136)

/-- A message with the pad of SHAKE: bits 1111, then a first and a last one bit. -/
def kPad (m : List Byte) : List Byte :=
  let k := 136 - m.length % 136
  if k = 1 then m ++ [0x9F] else m ++ 0x1F :: List.replicate (k - 2) 0 ++ [0x80]

/-- SHAKE256 of a message, 32 bytes, the first the least significant. -/
def shake256 (m : List Byte) : BitVec 256 :=
  let p := kPad m
  let a := kAbsorb (p.length / 136) (List.replicate 25 0) p
  kLane a 3 ++ kLane a 2 ++ kLane a 1 ++ kLane a 0

end Sys2Proof.Machine
end

