-- ==== Sys2Proof/Machine/Board.lean ====
section
/-! DEFINITION. Control-space registers, islands and power, start-up, security and the Worren port (R203, R205, R393, R401 to
R410). -/

namespace Sys2Proof.Machine

/-! ## Islands and power (R403 to R405) -/

/-- The number of the enabled cluster that stands at a physical place, if one does. -/
def clusNo (f : Floor) (i : Nat) : Option Nat := ((f.allClus.zipIdx).find? (fun p => p.1 == i)).map (·.2)

/-- Change the frequency of a cluster: the cycles that have passed keep their count (R215, R404). -/
def Cluster.setMhz (c : Cluster) (nc mhz : Nat) : Cluster := { c with cyc := c.now nc, nc0 := nc, mhz := mhz }

/-- The highest frequency that ISLCTL allows (R405). -/
def fmaxOf (ctl : W64) : Nat := let f := bitsOf ctl.toNat 15 8; if f = 0 then 1400 else 400 + 25 * f

/-- Whether an island may be gated (R403): a cluster, or peer ports that are all down or disabled. -/
def gatable (s : State) (i : Nat) : Bool :=
  decide (i < 50) ||
  (decide (i = 69) && (List.range 6).all (fun w => !peerUp s w)) ||
  (decide (i = 70) && (List.range 6).all (fun w => !peerUp s (6 + w)))

/-- A write of ISLCTL (R405): FMAX above 40 is not taken; modes 0 and 1 ungate. -/
def islWrite (s : State) (i mode fmax : Nat) : State :=
  if 72 ≤ i ∨ 40 < fmax then s
  else
    let v := BitVec.ofNat 64 (mode + fmax * 2 ^ 8)
    let s := { s with host := { s.host with islCtl := tabPut (0 : W64) s.host.islCtl i v } }
    match (if i < 50 then clusNo s.floor i else none) with
    | none => s
    | some n =>
      s.updCluster n (fun c =>
        let c := { c with ctl := v }
        let c := if mode ≠ 2 ∧ c.isl = 2 then { c with isl := 0, nc0 := s.nc } else c
        if fmaxOf v < c.mhz then c.setMhz s.nc (fmaxOf v) else c)

/-- ISLCTL_AUTOMATIC (R405). -/
def execIslctlAutomatic (i : Nat) (fmax : BitVec 8) (s : State) : Host.Outcome State Fault Refusal := .next (islWrite s i 0 fmax.toNat)

/-- ISLCTL_HOLD_ON (R405). -/
def execIslctlHoldOn (i : Nat) (fmax : BitVec 8) (s : State) : Host.Outcome State Fault Refusal := .next (islWrite s i 1 fmax.toNat)

/-- ISLCTL_GATE (R405): taken by gatable islands only. -/
def execIslctlGate (i : Nat) (fmax : BitVec 8) (s : State) : Host.Outcome State Fault Refusal :=
  .next (if gatable s i then islWrite s i 2 fmax.toNat else s)

/-- Whether a resident-flag launch that still runs has had a band on a cluster: it holds the cluster until it ends (R405). -/
def residentOn (s : State) (clu : Nat) : Bool :=
  s.bands.any (fun p => p.2.st == .ended && clusOfCore s.floor p.2.core == clu && (s.lrec p.2.gc).resid &&
    (match s.launch? p.2.gc with | some l => !l.done | none => false))

/-- ISLAND_GATED (R405): a gate-pending cluster goes off once nothing that needs it remains on it. -/
def execIslandGated (i : Nat) (s : State) : Host.Outcome State Fault Refusal :=
  .next (match (if i < 50 then clusNo s.floor i else none) with
  | none => s
  | some n =>
    let c := s.cluster n
    if bitsOf c.ctl.toNat 1 0 = 2 ∧ c.isl ≠ 2 ∧ !c.walk ∧ clusterFree s n ∧ residentOn s n = false ∧ (c.homes.filter (bandLives s)).isEmpty then
      s.updCluster n (fun c => { c with cyc := c.now s.nc, nc0 := s.nc, isl := 2 })
    else s)

/-- ISLSTAT (R405): islands other than the clusters run unless their gate is taken. -/
def islStat (s : State) (i : Nat) : W64 :=
  match (if i < 50 then clusNo s.floor i else none) with
  | some n =>
    let c := s.cluster n
    BitVec.ofNat 64 ((if c.isl = 2 then 0 else if bitsOf c.ctl.toNat 1 0 = 2 then 2 else 1) + c.mhz * 2 ^ 16)
  | none =>
    if i < 50 then 0
    else BitVec.ofNat 64 ((if bitsOf (tabGet (0 : W64) s.host.islCtl i).toNat 1 0 = 2 then 0 else 1) + 1600 * 2 ^ 16)

/-! ## Registers of the control space (R393) -/

/-- IDENT: the firmware's version is not given (log 6). -/
def identReg (s : State) : W64 :=
  BitVec.ofNat 64 (s.floor.part % 2 ^ 16 + (Config.freeBits 16 (2 ^ 200 + s.flash.ctr)).toNat * 2 ^ 16)

/-- BOOTSTAT. -/
def bootStat (s : State) : W64 := BitVec.ofNat 64 (s.boot.st % 4 + s.boot.reason.toNat * 2 ^ 8 + s.flash.fails % 4 * 2 ^ 16)

/-- The number of ones of a mask. -/
def popW {w : Nat} (v : BitVec w) : Nat := ((List.range w).filter (fun i => v.getLsbD i)).length

/-- UNITCNT. -/
def unitCnt (s : State) : W64 :=
  let f := s.floor
  BitVec.ofNat 64 (f.allCores.length + f.allClus.length * 2 ^ 16 + f.allSlices.length * 2 ^ 24 + f.nchan * 2 ^ 32 + f.nfar * 2 ^ 48 +
    popW f.peers * 2 ^ 56)

/-- The registers that R393 marks W: BOOTCMD, the 64 doorbells, FBRESOLVE and DBGCMD. -/
def writeOnlyOff (off : Nat) : Bool :=
  decide (off = 0x10 ∨ (0x2000 ≤ off ∧ off < 0x2200) ∨ off = 0x3020 ∨ off = 0x3200)

/-- A read of the control space: an offset that R393 does not list reads 0. R393 says nothing of a read of a write-only register; its
value is free (log 6). -/
def controlRead (s : State) (off : Nat) : W64 :=
  let q := fun (d : QDesc) => [d.base, d.cfg, d.rd, d.wr, d.space, d.toptab, d.tdir, d.tdlim]
  let b := fun (k : Bank) => [k.status, k.addr, k.misc0, k.misc1]
  if off = 0 then identReg s
  else if off = 8 then bootStat s
  else if off = 0x18 then unitCnt s
  else if writeOnlyOff off then Config.freeBits 64 s.fresh
  else if off = 0x100 then s.host.pcap
  else if off = 0x200 then s.host.aper
  else if 0x1000 ≤ off ∧ off < 0x2000 then (nth? (q (s.queue ((off - 0x1000) / 64))) (off % 64 / 8)).getD 0
  else if off = 0x3000 then s.host.fbBase
  else if off = 0x3008 then s.host.fbCfg
  else if off = 0x3010 then s.host.fbHead
  else if off = 0x3018 then s.host.fbTail
  else if off = 0x3100 then s.host.tlbCmd
  else if off = 0x3108 then s.host.tlbVa
  else if off = 0x3300 then s.host.walkInt
  else if 0x4000 ≤ off ∧ off < 0x4000 + 576 then tabGet (0 : W64) s.host.islCtl ((off - 0x4000) / 8)
  else if 0x4400 ≤ off ∧ off < 0x4400 + 576 then islStat s ((off - 0x4400) / 8)
  else if 0x10000 ≤ off ∧ off < 0x10000 + 32 * 63 then tabGet (0 : W64) s.host.buckets ((off - 0x10000) / 8)
  else if 0x20000 ≤ off ∧ off < 0x20000 + 32 * 0x4B1 then (nth? (b (s.bankRead ((off - 0x20000) / 32))) (off % 32 / 8)).getD 0
  else if 0x30000 ≤ off ∧ off < 0x30100 then
    BitVec.ofNat 64 (bitsOf (tabGet (0 : BitVec 256) s.host.meas ((off - 0x30000) / 32)).toNat (64 * (off % 32 / 8) + 63) (64 * (off % 32 / 8)))
  else if 0x31000 ≤ off ∧ off < 0x32000 then BitVec.ofNat 64 (leNat ((s.host.mailReq.drop (off - 0x31000)).take 8))
  else 0

/-- Replace bytes of a list from an offset on. -/
def putBytes (l : List Byte) (off : Nat) (bs : List Byte) : List Byte := l.take off ++ bs ++ l.drop (off + bs.length)

/-- A write of a bucket register: reserved windows are ignored, zero fields stay zero (R382). -/
def bucketWrite (s : State) (k : Nat) (v : W64) : State :=
  if 11 ≤ bitsOf v.toNat 27 24 then s
  else
    let v := v &&& 0x0000FFFF0FFFFFFF
    let l := tabGet (0 : Int) s.host.levels k
    { s with host := { s.host with
      buckets := tabPut (0 : W64) s.host.buckets k v, levels := tabPut (0 : Int) s.host.levels k (min l (bucketCap v.toNat)) } }

/-- A write of TLBCMD that does not set busy only stores its kind and space; a drop in progress goes on (R393, R396). -/
def tlbIdleWrite (s : State) (v : W64) : State :=
  if v.getLsbD 2 || s.host.tlbCmd.getLsbD 2 then s else { s with host := { s.host with tlbCmd := v &&& 0xFFFF0003 } }

/-- MCBANK_CLEAR (R203): a write of zero to STATUS. -/
def execMcbankClear (b : Nat) (s : State) : Host.Outcome State Fault Refusal := .next (if b < 0x4B1 then s.bankClear b else s)

/-! ## Floor maps (R205) -/

/-- The first bytes of a floor map. -/
def parseFloor (bs : List Byte) : Floor :=
  { part := bfld bs 6 2, serial := BitVec.ofNat 64 (bfld bs 8 8), clus := BitVec.ofNat 50 (bfld bs 0x10 8),
    cores := (List.range 50).map (fun c => BitVec.ofNat 16 (bfld bs (0x18 + 2 * c) 2)), slices := BitVec.ofNat 32 (bfld bs 0x7C 4),
    chan := BitVec.ofNat 256 (bfld bs 0x80 32), farm := BitVec.ofNat 8 (bfld bs 0xA0 1), peers := BitVec.ofNat 12 (bfld bs 0xA1 2) }

/-- Whether a floor map keeps R205 and the limits of R1. -/
def floorOk (bs : List Byte) : Bool :=
  let f := parseFloor bs
  let n := f.allClus.length
  bfld bs 0 4 == 0x4D46414F && bfld bs 4 2 == 0x0100 && bfld bs 0x10 8 < 2 ^ 50 && bfld bs 0xA1 2 < 2 ^ 12 &&
  ((bs.drop 0xA3).take 93).all (fun b => b == 0) &&
  ((n == 50 && f.part == 800) || (n == 45 && f.part == 720) || (n == 40 && f.part == 640)) &&
  (List.range 50).all (fun c => let k := popW ((nth? f.cores c).getD 0)
    if f.clus.getLsbD c then decide (15 ≤ k) else k == 0) &&
  (List.range 10).all (fun d => (List.range 5).any (fun k => f.clus.getLsbD (5 * d + k))) &&
  (List.range 8).all (fun h => decide (31 ≤ ((List.range 32).filter (fun k => f.chan.getLsbD (32 * h + k))).length) &&
    decide (3 ≤ ((List.range 4).filter (fun k => f.slices.getLsbD (4 * h + k))).length)) &&
  decide (7 ≤ popW f.farm)

/-- The units of floor mode (R402): the lowest cluster that passes walkround, the channels of stack 0 that train with its slices, the host
port. `pass` and `train` are the clusters and channels that do (log 16). A slice of stack 0 that the floor map disables stays out, so
that %nslices can read less than the four slices of R402 (log 27). -/
def floorMode (f : Floor) (pass : BitVec 50) (train : BitVec 256) : Floor :=
  let c := ((f.allClus.filter (fun c => pass.getLsbD c)).head?.orElse (fun _ => f.allClus.head?)).getD 0
  { f with clus := BitVec.twoPow 50 c, slices := f.slices &&& 0xF, chan := f.chan &&& 0xFFFFFFFF &&& train, farm := 0, peers := 0 }

/-! ## Start-up (R401, R402) -/

/-- The machine after a module reset (R401): every register is at its reset value and start-up begins; the module flash keeps what it holds.
What HBM and far memory hold after a reset is not stated; they read as after power-on (log 3). While the failed-start count stands at 3 a
reset brings floor mode up again, which only a full start leaves (R402). -/
def resetState (s : State) : State :=
  let t := { State.reset with
    agenda := s.agenda, tick := s.tick, fresh := s.fresh, cur := s.cur, upsets := s.upsets, flash := s.flash, floor := s.floor }
  if s.flash.fails = 3 then loadRoutes { t with boot := ⟨2, s.boot.reason, 0, 0, []⟩ } else t

/-- A change of BOOTSTAT raises vector 67 (R397). -/
def bootChanged (s t : State) : State := if bootStat s = bootStat t then t else raise t 67

/-- Module reset (R401). -/
def moduleReset (s : State) : State := bootChanged s (resetState s)

/-- MODULE_RESET (R401). -/
def execModuleReset (s : State) : Host.Outcome State Fault Refusal := .next (moduleReset s)

/-- A reset that clears the failed-start count first. -/
def fullStart (s : State) : State := bootChanged s (resetState { s with flash := { s.flash with fails := 0 } })

/-- BOOTCMD_RESET (R393). -/
def execBootcmdReset (s : State) : Host.Outcome State Fault Refusal := .next (moduleReset s)

/-- BOOTCMD_FULL_START (R393). -/
def execBootcmdFullStart (s : State) : Host.Outcome State Fault Refusal := .next (fullStart s)

/-- The bytes of a firmware slot, as far as it is written. -/
def slotBytes (t : Tab Byte) : List Byte :=
  let n := match t.getLast? with | some (k, _) => k + 1 | none => 0
  (List.range n).map (fun i => tabGet (0 : Byte) t i)

/-- Set a measurement register (R409). -/
def setMeas (s : State) (k : Nat) (v : BitVec 256) : State :=
  { s with host := { s.host with meas := tabPut (0 : BitVec 256) s.host.meas k v } }

/-- The limit of a stage in nc, and its codes on failure (R401). -/
def stageLimit (n : Nat) : Nat := match n with | 1 => 2 ^ 31 | 2 => 2 ^ 28 | 3 => 2 ^ 32 | 4 => 2 ^ 32 | 5 => 2 ^ 29 | _ => 2 ^ 31
/-- The codes. -/
def stageCodes (n : Nat) : List (BitVec 8) :=
  match n with | 1 => [0x10] | 2 => [0x11, 0x12] | 3 => [0x20, 0x21, 0x22] | 4 => [0x30] | 5 => [0x40] | _ => [0x50]

/-- A start that fails (R402): the count rises and the module resets itself; the third in a row brings floor mode up. -/
def startFails (s : State) (code : BitVec 8) : State :=
  let n := min 3 (s.flash.fails + 1)
  let t := { s with flash := { s.flash with fails := n }, boot := { s.boot with reason := code } }
  bootChanged s (resetState (if n = 3 then { t with floor := floorMode s.floor (freeNow s 50) (freeNow s.tick1 256) }.tick1.tick1 else t))

/-- A firmware slot: false is A. -/
def slotOfFlash (f : Flash) (b : Bool) : List Byte := slotBytes (if b then f.slotB else f.slotA)

/-- Whether the signature of a firmware image verifies under the key whose digest the boot ROM holds (R407). -/
def imageSigned (img : List Byte) : Bool :=
  let (key, text, sig, _) := Config.imageParts img
  shake256 (leBytes 64 key.toNat) == Config.romDigest && Config.slhVerify key text sig

/-- Whether a firmware image is valid (R407). -/
def imageOk (f : Flash) (img : List Byte) : Bool := imageSigned img && decide (f.ctr ≤ (Config.imageParts img).2.2.2)

/-- The slot that starts: the selected one where it is valid, else the other (R401, R407, R410; log 16). -/
def bootSlot (f : Flash) : Option Bool :=
  if imageOk f (slotOfFlash f f.pick) then some f.pick
  else if imageOk f (slotOfFlash f (!f.pick)) then some (!f.pick) else none

/-- Whether the floor map's signature verifies (R205). -/
def mapSigned (m : List Byte) : Bool :=
  decide (m.length = 0x100 + 29792) && Config.slhVerify Config.mapKey (m.take 0x100) (BitVec.ofNat 238336 (leNat (m.drop 0x100)))

/-- Whether the device certificate verifies, and binds this module's public key and SERIAL (R408). -/
def certOk (s : State) : Bool :=
  let (text, sig, serial, key) := Config.certParts s.flash.cert
  Config.slhVerify Config.identityKey text sig && serial == s.floor.serial && key == s.flash.idPub

/-- The code with which a stage fails by what the flash holds (R401). -/
def stageCode (s : State) (n : Nat) : Option (BitVec 8) :=
  match n with
  | 1 => if (bootSlot s.flash).isSome then none else some 0x10
  | 2 => if !mapSigned s.flash.map then some 0x11 else if !floorOk s.flash.map then some 0x12 else none
  | 5 => if certOk s then none else some 0x40
  | _ => none

/-- What a stage leaves when it passes (R380, R401, R407, R409). -/
def stageWork (s : State) (n : Nat) : State :=
  match n with
  | 1 =>
    let b := (bootSlot s.flash).getD s.flash.pick
    let img := slotOfFlash s.flash b
    setMeas { s with flash := { s.flash with active := b, ctr := (Config.imageParts img).2.2.2 } } 0 (shake256 img)
  | 2 => setMeas { s with floor := parseFloor s.flash.map } 1 (shake256 s.flash.map)
  | 3 => loadRoutes s
  | 5 => setMeas s 2 (shake256 s.flash.cert)
  | _ => s

/-- STARTUP_STAGE_COMPLETE (R401, R402): the stage in hand passes, or fails with one of its codes. What the flash holds decides first, then
the stage's limit;
then `ok` and `code` say what training and tests found. -/
def execStartupStageComplete (ok : Bool) (code : BitVec 8) (s : State) : Host.Outcome State Fault Refusal :=
  let n := s.boot.stage
  .next (if s.boot.st ≠ 0 then s
  else match stageCode s n with
    | some c => startFails s c
    | none =>
      if stageLimit n < s.nc - s.boot.since then startFails s ((stageCodes n).head?.getD 0)
      -- stage 4 ends when every enabled cluster has been tested, and what the tests found decides it
      else if n = 4 ∧ !(List.range s.floor.allClus.length).all (fun c => s.boot.tested.any (fun p => p.1 == c)) then s
      else if n = 4 ∧ !s.boot.tested.any (fun p => p.2) then startFails s 0x30
      else if !ok ∧ n ≠ 4 then startFails s (if (stageCodes n).contains code then code else (stageCodes n).head?.getD 0)
      else
        let s := stageWork s n
        if n < 6 then { s with boot := { s.boot with stage := n + 1, since := s.nc } }
        else raise { s with boot := ⟨1, 0, 0, s.nc, []⟩, flash := { s.flash with fails := 0 } } 67)

/-- STARTUP_STAGE_TIMEOUT (R401). -/
def execStartupStageTimeout (s : State) : Host.Outcome State Fault Refusal :=
  .next (if s.boot.st = 0 ∧ stageLimit s.boot.stage < s.nc - s.boot.since then
      startFails s ((stageCodes s.boot.stage).head?.getD 0)
    else s)

/-! ## The Worren messages (R409, R410) -/

/-- A response: its status, then what it returns. -/
def respond (s : State) (st : Nat) (bs : List Byte) : State :=
  { s with host := { s.host with mailRsp := leBytes 1 st ++ bs } }

/-- Message 0x01. -/
def msgStatus (s : State) : State := respond s 0 (leBytes 8 (identReg s).toNat ++ leBytes 8 (bootStat s).toNat)

/-- Message 0x02, a read: a bank that does not exist is a bad request. -/
def msgBankRead (s : State) (b : Nat) : State :=
  if 0x4B1 ≤ b then respond s 2 []
  else
    let k := s.bankRead b
    respond s 0 (leBytes 8 k.status.toNat ++ leBytes 8 k.addr.toNat ++ leBytes 8 k.misc0.toNat ++ leBytes 8 k.misc1.toNat)

/-- Message 0x02, a clear (R203). -/
def msgBankClear (s : State) (b : Nat) : State := if 0x4B1 ≤ b then respond s 2 [] else respond (s.bankClear b) 0 []

/-- Message 0x03. -/
def msgPowerCap (s : State) (v : W64) : State :=
  if 300 ≤ v.toNat ∧ v.toNat ≤ 1600 then respond { s with host := { s.host with pcap := v } } 0 [] else respond s 2 []

/-- Write bytes into a slot of the flash. -/
def slotWrite (t : Tab Byte) (off : Nat) (bs : List Byte) : Tab Byte :=
  (bs.zipIdx).foldl (fun (t : Tab Byte) p => tabSet t (off + p.2) p.1) t

/-- Message 0x04: the inactive slot (R407). -/
def msgFirmware (s : State) (off : Nat) (data : List Byte) : State :=
  respond { s with flash := if s.flash.active then { s.flash with slotA := slotWrite s.flash.slotA off data }
    else { s.flash with slotB := slotWrite s.flash.slotB off data } } 0 []

/-- Message 0x05: the inactive slot is taken at the next start (R407). The status says whether its signature would verify (log 25). -/
def msgActivate (s : State) : State :=
  respond { s with flash := { s.flash with pick := !s.flash.active } } (if imageSigned (slotOfFlash s.flash (!s.flash.active)) then 0 else 3) []

/-- Message 0x06: the map is verified at the next start (R206, R410). The status says whether its signature would verify (log 25). -/
def msgFloorMap (s : State) (data : List Byte) : State :=
  respond { s with flash := { s.flash with map := data } } (if mapSigned data then 0 else 3) []

/-- Message 0x07 (R409). -/
def msgExtend (s : State) (k : Nat) (data : List Byte) : State :=
  if 4 ≤ k ∧ k ≤ 7 then
    respond (setMeas s k (shake256 (leBytes 32 (tabGet (0 : BitVec 256) s.host.meas k).toNat ++ data))) 0 []
  else respond s 2 []

/-- The signed bytes of a report (R409). -/
def reportHead (s : State) (nonce : List Byte) : List Byte :=
  leBytes 4 0x5241414F ++ leBytes 2 0x0100 ++ leBytes 2 s.floor.part ++ leBytes 8 s.floor.serial.toNat ++ nonce ++
  leBytes 8 (bootStat s).toNat ++ leBytes 8 0 ++
  ((List.range 8).map (fun k => leBytes 32 (tabGet (0 : BitVec 256) s.host.meas k).toNat)).flatten

/-- A report with its signature under the module's identity key (R409). -/
def report (s : State) (nonce : List Byte) : List Byte :=
  let head := reportHead s nonce
  head ++ leBytes 29792 (Config.slhSign s.flash.idKey head).toNat

/-- Message 0x08, through the mailbox or the Worren port (R409, R410, R411): a report is begun; while one is being signed every other request
is answered busy. -/
def msgAttest (s : State) (mail : Bool) (nonce : List Byte) : State :=
  if nonce.length ≠ 32 then respond s 2 []
  else match s.host.attest with
    | none => { s with host := { s.host with attest := some (mail, nonce) } }
    | some _ => respond s 1 []

/-- The signing of a report ends, or goes on: how long it takes is free. The report answers the path that asked for it; its measurements are
those of the end (R410, R411). -/
def attestStep (s : State) : State :=
  match s.host.attest with
  | none => s
  | some (mail, nonce) =>
    if (freeNow s 1).getLsbD 0 then s.tick1
    else
      let bs := leBytes 1 0 ++ report s nonce
      let h := { s.host with attest := none }
      { s with host := if mail then { h with mailReq := bs } else { h with mailRsp := bs } }.tick1

/-- POWER_WINDOW (R404): at the end of a window of 2^21 nc the average power, which the model leaves free (log 22), is compared
with the cap, and every cluster steps down or up by 25 MHz. As time passes, a report that is being signed may be done (R410). -/
def execPowerWindow (s : State) : Host.Outcome State Fault Refusal :=
  let s := attestStep s
  .next (if s.nc / 2 ^ 21 ≤ s.host.window then s
  else
    let high := decide (s.host.pcap.toNat < Config.analog s.tick)
    let s := { s with host := { s.host with window := s.nc / 2 ^ 21 } }
    (List.range s.floor.allClus.length).foldl (fun (s : State) n =>
      s.updCluster n (fun c => c.setMhz s.nc (if high then max 400 (c.mhz - 25) else min (fmaxOf c.ctl) (c.mhz + 25)))) s)

/-- WORREN_STATUS (R410). -/
def execWorrenStatus (s : State) : Host.Outcome State Fault Refusal := .next (msgStatus s)

/-- WORREN_BANK_READ (R410). -/
def execWorrenBankRead (b : Nat) (s : State) : Host.Outcome State Fault Refusal := .next (msgBankRead s b)

/-- WORREN_BANK_CLEAR (R203, R410). -/
def execWorrenBankClear (b : Nat) (s : State) : Host.Outcome State Fault Refusal := .next (msgBankClear s b)

/-- WORREN_POWER_CAP (R410). -/
def execWorrenPowerCap (v : W64) (s : State) : Host.Outcome State Fault Refusal := .next (msgPowerCap s v)

/-- WORREN_FIRMWARE_CHUNK (R410). -/
def execWorrenFirmwareChunk (off : Nat) (data : List (BitVec 8)) (s : State) : Host.Outcome State Fault Refusal := .next (msgFirmware s off data)

/-- WORREN_ACTIVATE (R410). -/
def execWorrenActivate (s : State) : Host.Outcome State Fault Refusal := .next (msgActivate s)

/-- WORREN_FLOOR_MAP (R410). -/
def execWorrenFloorMap (data : List (BitVec 8)) (s : State) : Host.Outcome State Fault Refusal := .next (msgFloorMap s data)

/-- WORREN_EXTEND (R409, R410). -/
def execWorrenExtend (k : Nat) (data : List (BitVec 8)) (s : State) : Host.Outcome State Fault Refusal := .next (msgExtend s k data)

/-- WORREN_ATTEST (R409, R410). -/
def execWorrenAttest (nonce : List (BitVec 8)) (s : State) : Host.Outcome State Fault Refusal := .next (msgAttest s false nonce)

/-- WORREN_START_RESET (R410). -/
def execWorrenStartReset (s : State) : Host.Outcome State Fault Refusal := .next (moduleReset s)

/-- WORREN_FULL_START (R410). -/
def execWorrenFullStart (s : State) : Host.Outcome State Fault Refusal := .next (fullStart s)

/-- Serve the request that the first n bytes of the mailbox hold: the response replaces it, and a report that is begun comes later (R410).
How a message lies in its bytes is not given: its code, then its arguments (log 25). -/
def serveMail (s : State) (n : Nat) : State :=
  let req := s.host.mailReq.take n
  let arg := fun (o n : Nat) => bfld req o n
  let served := fun (t : State) => { t with host := { t.host with mailReq := t.host.mailRsp, mailRsp := s.host.mailRsp } }
  match bfld req 0 1 with
  | 0x01 => served (msgStatus s)
  | 0x02 => served (if arg 1 1 = 0 then msgBankRead s (arg 2 2) else msgBankClear s (arg 2 2))
  | 0x03 => served (msgPowerCap s (BitVec.ofNat 64 (arg 1 2)))
  | 0x04 => served (msgFirmware s (arg 1 4) (req.drop 5))
  | 0x05 => served (msgActivate s)
  | 0x06 => served (msgFloorMap s (req.drop 1))
  | 0x07 => served (msgExtend s (arg 1 1) (req.drop 2))
  | 0x08 =>
    if s.host.attest.isNone && (req.drop 1).length == 32 then msgAttest s true (req.drop 1) else served (msgAttest s true (req.drop 1))
  | 0x09 => if arg 1 1 = 1 then moduleReset s else if arg 1 1 = 2 then fullStart s else served (respond s 2 [])
  | _ => served (respond s 2 [])

/-- Write bytes into the mailbox. -/
def mailWrite (s : State) (off : Nat) (bs : List Byte) : State :=
  { s with host := { s.host with mailReq := putBytes ((s.host.mailReq ++ List.replicate 4096 (0 : Byte)).take 4096) off bs } }

/-- MAILBOX_REQUEST (R393, R410): the host writes a request into the mailbox and rings its last word with the request's length (log 25). -/
def execMailboxRequest (req : List (BitVec 8)) (s : State) : Host.Outcome State Fault Refusal :=
  .next (if req.length ≤ 4088 then serveMail (mailWrite s 0 req) req.length else s)

/-- CONTROL_SPACE_WRITE (R393): a write to a register that has no row of its own; read-only and unlisted offsets take nothing. The
mailbox's last word rings it: the value written is the request's length (log 25). -/
def execControlSpaceWrite (off : Nat) (v : W64) (s : State) : Host.Outcome State Fault Refusal :=
  let h := s.host
  let n := bitsOf v.toNat 10 0
  .next (
    if off = 0x100 then (if 300 ≤ n ∧ n ≤ 1600 ∧ v.toNat = n then { s with host := { h with pcap := v } } else s)
    else if off = 0x200 then { s with host := { h with aper := v &&& 0x000FFFFFC0000000 } }
    else if off = 0x3000 then { s with host := { h with fbBase := v &&& 0xFFFFFFFFFFFFF000 } }
    else if off = 0x3010 then { s with host := { h with fbHead := v } }
    else if off = 0x3100 then tlbIdleWrite s v
    else if off = 0x3108 then { s with host := { h with tlbVa := v } }
    else if off = 0x3300 then { s with host := { h with walkInt := v } }
    else if 0x10000 ≤ off ∧ off < 0x10000 + 32 * 63 ∧ off % 8 = 0 then bucketWrite s ((off - 0x10000) / 8) v
    else if off = 0x31FF8 then serveMail (mailWrite s 0xFF8 (leBytes 8 v.toNat)) (v.toNat % 4096)
    else if 0x31000 ≤ off ∧ off + 8 ≤ 0x32000 then mailWrite s (off - 0x31000) (leBytes 8 v.toNat)
    else s)

end Sys2Proof.Machine
end

