-- ==== Sys2Proof/Machine/VectorFloat.lean ====
section
/-! DEFINITION. The vector float instructions (R154 to R160). -/

namespace Sys2Proof.Machine

/-- What a pattern of F32 or F64 stands for. -/
def fdec (t : Ty) (x : W64) : FV := (ieeeOf t).dec (x.toNat % 2 ^ tyW t)

/-- A pattern as a register value. -/
def fbits (n : Nat) : W64 := BitVec.ofNat 64 n

/-- A one-source float instruction. -/
def float1Act (s : State) (h : Hdr) (t : Ty) (o : Op1) (f : Ieee → FV → Nat) : Host.Outcome State Fault Refusal :=
  fin s h true (laneRun s h (tyRegs t) (tyRegs t) [o.a] o.d (immVal t o.imm) false (fun l => fbits (f (ieeeOf t) (fdec t (v0 l)))))

/-- A two-source float instruction. -/
def float2Act (s : State) (h : Hdr) (t : Ty) (o : Op2) (resid : Bool) (f : Ieee → FV → FV → Nat) :
    Host.Outcome State Fault Refusal :=
  fin s h true (laneRun s h (tyRegs t) (tyRegs t) [o.a, o.b] o.d (immVal t o.imm) resid
    (fun l => fbits (f (ieeeOf t) (fdec t (v0 l)) (fdec t (v1 l)))))

/-- FADD (R154 to R156). -/
def execFadd (h : Hdr) (t : Ty) (o : Op2) (s : State) : Host.Outcome State Fault Refusal :=
  float2Act s h t o true (fun f a b => f.round (FV.add a b))

/-- FSUB (R154 to R156). -/
def execFsub (h : Hdr) (t : Ty) (o : Op2) (s : State) : Host.Outcome State Fault Refusal :=
  float2Act s h t o true (fun f a b => f.round (FV.add a (FV.neg b)))

/-- FMUL (R154 to R156). -/
def execFmul (h : Hdr) (t : Ty) (o : Op2) (s : State) : Host.Outcome State Fault Refusal :=
  float2Act s h t o true (fun f a b => f.round (FV.mul a b))

/-- FFMA (R154 to R156): one rounding. -/
def execFfma (h : Hdr) (t : Ty) (o : Op3) (s : State) : Host.Outcome State Fault Refusal :=
  fin s h true (laneRun s h (tyRegs t) (tyRegs t) [o.a, o.b, o.c] o.d (immVal t o.imm) true
    (fun l => fbits ((ieeeOf t).round (FV.add (FV.mul (fdec t (v0 l)) (fdec t (v1 l))) (fdec t (v2 l))))))

/-- Whether a pattern is below another, with −0 below +0 (R157). -/
def fBelow (t : Ty) (a b : W64) : Bool :=
  match fdec t a, fdec t b with
  | .fin s 0 _, .fin u 0 _ => s && !u
  | x, y => FV.lt x y

/-- FMIN and FMAX (R157): `a` is kept where `keepA` says so. -/
def fPick (t : Ty) (keepA : Bool) (a b : W64) : W64 :=
  match (fdec t a).isNan, (fdec t b).isNan with
  | true, true => fbits (ieeeOf t).nanBits
  | true, false => b
  | false, true => a
  | false, false => if keepA then a else b

/-- A two-source selection of whole patterns. -/
def fSelAct (s : State) (h : Hdr) (t : Ty) (o : Op2) (f : W64 → W64 → W64) : Host.Outcome State Fault Refusal :=
  fin s h true (laneRun s h (tyRegs t) (tyRegs t) [o.a, o.b] o.d (immVal t o.imm) false (fun l => f (v0 l) (v1 l)))

/-- FMIN (R157). -/
def execFmin (h : Hdr) (t : Ty) (o : Op2) (s : State) : Host.Outcome State Fault Refusal :=
  fSelAct s h t o (fun a b => fPick t (!fBelow t b a) a b)

/-- FMAX (R157). -/
def execFmax (h : Hdr) (t : Ty) (o : Op2) (s : State) : Host.Outcome State Fault Refusal :=
  fSelAct s h t o (fun a b => fPick t (!fBelow t a b) a b)

/-- FABS (R155): the sign bit cleared. -/
def execFabs (h : Hdr) (t : Ty) (o : Op1) (s : State) : Host.Outcome State Fault Refusal :=
  fin s h true (laneRun s h (tyRegs t) (tyRegs t) [o.a] o.d (immVal t o.imm) false
    (fun l => un t (fun w a => a &&& ~~~(BitVec.twoPow w (w - 1))) (v0 l)))

/-- FNEG (R155): the sign bit inverted. -/
def execFneg (h : Hdr) (t : Ty) (o : Op1) (s : State) : Host.Outcome State Fault Refusal :=
  fin s h true (laneRun s h (tyRegs t) (tyRegs t) [o.a] o.d (immVal t o.imm) false
    (fun l => un t (fun w a => a ^^^ BitVec.twoPow w (w - 1)) (v0 l)))

/-- The comparisons of R158. -/
def fcmpV (cc : Cmp) (a b : FV) : Bool :=
  let n := a.isNan || b.isNan
  let lt := FV.lt a b
  let gt := FV.lt b a
  match cc with
  | .eq => !n && !lt && !gt
  | .ne => n || lt || gt
  | .lt => !n && lt
  | .le => !n && !gt
  | .gt => !n && gt
  | .ge => !n && !lt
  | .un => n
  | .od => !n

/-- FCMP (R158). -/
def execFcmp (h : Hdr) (cc : Cmp) (t : Ty) (o : Op2) (s : State) : Host.Outcome State Fault Refusal :=
  fin s h true (lanePred s h (tyRegs t) [o.a, o.b] o.d (immVal t o.imm) (fun l => fcmpV cc (fdec t (v0 l)) (fdec t (v1 l))))

/-- The class bit of R159. -/
def fclassV (t : Ty) (x : W64) : Nat :=
  let f := ieeeOf t
  match fdec t x with
  | .nan => if bitOf x.toNat (f.p - 2) then 9 else 8
  | .inf s => if s then 0 else 7
  | .fin s m _ =>
    if m = 0 then (if s then 3 else 4)
    else if m < 2 ^ (f.p - 1) then (if s then 2 else 5)
    else (if s then 1 else 6)

/-- FCLASS (R159). -/
def execFclass (h : Hdr) (t : Ty) (o : Op1) (s : State) : Host.Outcome State Fault Refusal :=
  fin s h true (laneRun s h (tyRegs t) 1 [o.a] o.d (immVal t o.imm) false (fun l => fbits (2 ^ fclassV t (v0 l))))

/-- FDIV (R155, R156). -/
def execFdiv (h : Hdr) (t : Ty) (o : Op2) (s : State) : Host.Outcome State Fault Refusal := float2Act s h t o false divF

/-- FSQRT (R155, R156). -/
def execFsqrt (h : Hdr) (t : Ty) (o : Op1) (s : State) : Host.Outcome State Fault Refusal := float1Act s h t o sqrtF

/-- FRCP (R155, R156). -/
def execFrcp (h : Hdr) (t : Ty) (o : Op1) (s : State) : Host.Outcome State Fault Refusal :=
  float1Act s h t o (fun f a => divF f (.fin false 1 0) a)

/-- FRSQ (R155, R156). -/
def execFrsq (h : Hdr) (t : Ty) (o : Op1) (s : State) : Host.Outcome State Fault Refusal := float1Act s h t o rsqF

/-- FEXP2 (R155, R156; log 7). -/
def execFexp2 (h : Hdr) (t : Ty) (o : Op1) (s : State) : Host.Outcome State Fault Refusal := float1Act s h t o exp2F

/-- FLOG2 (R155, R156; log 7). -/
def execFlog2 (h : Hdr) (t : Ty) (o : Op1) (s : State) : Host.Outcome State Fault Refusal := float1Act s h t o log2F

/-- FSCL (R160): a value times a scale16 value, rounded once. -/
def execFscl (h : Hdr) (t : Ty) (o : Op2) (s : State) : Host.Outcome State Fault Refusal :=
  let n := tyRegs t
  fin s h true (laneReady s h (fun m => usesOf m n [(1, o.a)] ++ usesOf m 1 [(2, o.b)]) o.d n true
    (fun s gk _ m => writeLanes s gk o.d n m (fun i =>
      fbits ((ieeeOf t).round (FV.mul (fdec t (laneVal s n i 0 o.a)) (scDec ((laneVal s 1 i (o.imm.setWidth 64) o.b).toNat % 2 ^ 16)))))))

end Sys2Proof.Machine
end

