-- ==== Sys2Proof/Machine/Convert.lean ====
section
/-! DEFINITION. The vector conversions (R284, R307, R318). -/

namespace Sys2Proof.Machine

/-- A conversion from a type to a type in every active lane. -/
def convAct (s : State) (h : Hdr) (src dst : Ty) (d : Opd) (a : Src) (f : FV → W64) : Host.Outcome State Fault Refusal :=
  fin s h true (laneRun s h (tyRegs src) (tyRegs dst) [a] d 0 false (fun l => f (decTy src (v0 l))))

/-- FCVT (R318, R284). -/
def execFcvt (h : Hdr) (src t : Ty) (d : Opd) (a : Src) (s : State) : Host.Outcome State Fault Refusal :=
  convAct s h src t d a (fun v => regOf t (encTy t v))

/-- ICVT (R318, R284): clamped, or wrapped. -/
def execIcvt (h : Hdr) (src : Ty) (wrap : Bool) (t : Ty) (d : Opd) (a : Src) (s : State) : Host.Outcome State Fault Refusal :=
  convAct s h src t d a (fun v => regOf t (encInt t wrap v).toNat)

/-- A value rounded to an integer and kept as a value: a zero takes the value's sign (R318). -/
def FV.toInteger : FV → FV
  | .fin s m e => .fin s (rneInt false m e).toNat 0
  | v => v

/-- FRND (R318). -/
def execFrnd (h : Hdr) (t : Ty) (d : Opd) (a : Src) (s : State) : Host.Outcome State Fault Refusal :=
  convAct s h t t d a (fun v => fbits ((ieeeOf t).round v.toInteger))

end Sys2Proof.Machine
end

