-- ==== Sys2Proof/Machine/Predicate.lean ====
section
/-! DEFINITION. The predicate instructions and VOTE (R103, R146, R147). -/

namespace Sys2Proof.Machine

/-- A predicate instruction: in every active lane at L0, on the context's bits above (R146). -/
def predAct (s : State) (h : Hdr) (d : BitVec 4) (f : (BitVec 4 → Bool) → Bool) : Host.Outcome State Fault Refusal :=
  if h.lev = 0 then
    fin s h true (atLanes s h (fun gk g m =>
      .next (s.updGrp gk (fun x => x.setPred d m (maskOf (fun i => f (fun p => g.pred p i)))))))
  else fin s h true (atCtx s h (fun ck c => .next (s.updCtx ck (fun x => x.setPred d (f c.pred)))))

/-- PAND (R146). -/
def execPand (h : Hdr) (d a b : BitVec 4) (s : State) : Host.Outcome State Fault Refusal := predAct s h d (fun p => p a && p b)

/-- POR (R146). -/
def execPor (h : Hdr) (d a b : BitVec 4) (s : State) : Host.Outcome State Fault Refusal := predAct s h d (fun p => p a || p b)

/-- PXOR (R146). -/
def execPxor (h : Hdr) (d a b : BitVec 4) (s : State) : Host.Outcome State Fault Refusal := predAct s h d (fun p => p a != p b)

/-- PNOT (R146). -/
def execPnot (h : Hdr) (d a : BitVec 4) (s : State) : Host.Outcome State Fault Refusal := predAct s h d (fun p => !p a)

/-- PMOV (R146). -/
def execPmov (h : Hdr) (d a : BitVec 4) (s : State) : Host.Outcome State Fault Refusal := predAct s h d (fun p => p a)

/-- PSET (R146). -/
def execPset (h : Hdr) (d : BitVec 4) (v : Bool) (s : State) : Host.Outcome State Fault Refusal := predAct s h d (fun _ => v)

/-- The lanes below lane i. -/
def below (i : Nat) : Lanes := lowMask i

/-- The value that VOTE writes in lane i: `m` are the active lanes and `p` those of them that hold pA (R147). -/
def voteVal (v : VoteMode) (t : BitVec 6) (all : Bool) (m p : Lanes) (i : Nat) : Nat :=
  let c := laneCount p
  match v with
  | .quo => b2n (if all then c == laneCount m else decide (t.toNat ≤ c))
  | .same => b2n (c == 0 || c == laneCount m)
  | .cnt => c
  | .rank => laneCount (p &&& below i)
  | .map => p.toNat
  | .lead => if c = 0 then 32 else lowLane p

/-- VOTE (R147). -/
def execVote (h : Hdr) (v : VoteMode) (d : Opd) (a : BitVec 4) (t : BitVec 6) (all : Bool) (s : State) :
    Host.Outcome State Fault Refusal :=
  fin s h true (atLanes s h (fun gk g m =>
    match checkAll s s.cur.u 0 m [] [⟨d, 1, m⟩] with
    | some x => x
    | none =>
      let p := maskOf (fun i => m.getLsbD i && g.pred a i)
      .next (match d with
        | .pred q => s.updGrp gk (fun g => g.setPred q m (maskOf (fun i => voteVal v t all m p i != 0)))
        | _ => writeLanes s gk d 1 m (fun i => BitVec.ofNat 64 (voteVal v t all m p i)))))

end Sys2Proof.Machine
end

