-- ==== Sys2Proof/Machine/Scalar.lean ====
section
/-! DEFINITION. The scalar instructions (R109, R139, R143 to R145, R150). -/

namespace Sys2Proof.Machine

/-- A two-source scalar instruction. -/
def scal2Act (s : State) (h : Hdr) (o : Op2) (f : W64 → W64 → W64) : Host.Outcome State Fault Refusal :=
  fin s h true (scalRun s h [o.a, o.b] o.d (o.imm.signExtend 64) (fun l => f (v0 l) (v1 l)))

/-- A one-source scalar instruction. -/
def scal1Act (s : State) (h : Hdr) (o : Op1) (f : W64 → W64) : Host.Outcome State Fault Refusal :=
  fin s h true (scalRun s h [o.a] o.d (o.imm.signExtend 64) (fun l => f (v0 l)))

/-- SMOV (R144). -/
def execSmov (h : Hdr) (o : Op1) (s : State) : Host.Outcome State Fault Refusal := scal1Act s h o id

/-- SLDI (R145). -/
def execSldi (h : Hdr) (d : Opd) (imm : BitVec 49) (s : State) : Host.Outcome State Fault Refusal :=
  fin s h true (scalRun s h [] d 0 (fun _ => imm.signExtend 64))

/-- SLDIH (R145): the low half of the destination stays, so it is read. -/
def execSldih (h : Hdr) (d : Opd) (imm : BitVec 49) (s : State) : Host.Outcome State Fault Refusal :=
  fin s h true (scalRun s h [⟨false, d⟩] d 0 (fun l => mk64 (lo32 (v0 l)) (imm.setWidth 32)))

/-- Coordinates of unit u (R17, R109). -/
def coords (l : Level) (u : Nat) : Nat × Nat × Nat := (u % l.e0, u / l.e0 % l.e1, u / l.e0 / l.e1)

/-- The value that SID selects (R109). -/
def sidVal (s : State) (h : Hdr) (dim : SidDim) (x : Nat) : W64 :=
  let r := s.lrec (gcOf s s.cur.u)
  let lin := specVal s s.cur.u (Hdr.lv h) 0 x
  let l := r.lvl (x % 8)
  let c : Nat × Nat × Nat := if x < 0x10 then coords l lin.toNat else (l.e0, l.e1, l.e2)
  match dim with
  | .lin => lin
  | .x => BitVec.ofNat 64 c.1
  | .y => BitVec.ofNat 64 c.2.1
  | .z => BitVec.ofNat 64 c.2.2

/-- SID (R109). -/
def execSid (h : Hdr) (dim : SidDim) (d : Opd) (x : BitVec 6) (s : State) : Host.Outcome State Fault Refusal :=
  fin s h true (scalRun s h [] d 0 (fun _ => sidVal s h dim x.toNat))

/-- SADD (R144). -/
def execSadd (h : Hdr) (o : Op2) (s : State) : Host.Outcome State Fault Refusal := scal2Act s h o (fun a b => a + b)

/-- SSUB (R144). -/
def execSsub (h : Hdr) (o : Op2) (s : State) : Host.Outcome State Fault Refusal := scal2Act s h o (fun a b => a - b)

/-- SMUL (R144). -/
def execSmul (h : Hdr) (o : Op2) (s : State) : Host.Outcome State Fault Refusal := scal2Act s h o (fun a b => a * b)

/-- SMULH (R144). -/
def execSmulh (h : Hdr) (t : Ty) (o : Op2) (s : State) : Host.Outcome State Fault Refusal := scal2Act s h o (mulh (tySigned t))

/-- SDIV (R144). -/
def execSdiv (h : Hdr) (t : Ty) (o : Op2) (s : State) : Host.Outcome State Fault Refusal := scal2Act s h o (sdivV (tySigned t))

/-- SREM (R144). -/
def execSrem (h : Hdr) (t : Ty) (o : Op2) (s : State) : Host.Outcome State Fault Refusal := scal2Act s h o (sremV (tySigned t))

/-- SAND (R144). -/
def execSand (h : Hdr) (o : Op2) (s : State) : Host.Outcome State Fault Refusal := scal2Act s h o (fun a b => a &&& b)

/-- SOR (R144). -/
def execSor (h : Hdr) (o : Op2) (s : State) : Host.Outcome State Fault Refusal := scal2Act s h o (fun a b => a ||| b)

/-- SXOR (R144). -/
def execSxor (h : Hdr) (o : Op2) (s : State) : Host.Outcome State Fault Refusal := scal2Act s h o (fun a b => a ^^^ b)

/-- SSHL (R142). -/
def execSshl (h : Hdr) (o : Op2) (s : State) : Host.Outcome State Fault Refusal := scal2Act s h o shl

/-- SSHR (R142). -/
def execSshr (h : Hdr) (o : Op2) (s : State) : Host.Outcome State Fault Refusal := scal2Act s h o shr

/-- SSRA (R142). -/
def execSsra (h : Hdr) (o : Op2) (s : State) : Host.Outcome State Fault Refusal := scal2Act s h o sra

/-- SCMP (R150): the context's predicate, unlogged. -/
def execScmp (h : Hdr) (cc : Cmp) (t : Ty) (o : Op2) (s : State) : Host.Outcome State Fault Refusal :=
  fin s h true (ctxReady s h [(1, o.a), (2, o.b)] none (fun ck _ =>
    let im := o.imm.signExtend 64
    let v := cmpV cc (tySigned t) (ctxVal s h im o.a) (ctxVal s h im o.b)
    .next (match o.d with | .pred p => s.updCtx ck (fun c => c.setPred p v) | _ => s)))

/-- SSEL (R144). -/
def execSsel (h : Hdr) (o : Op3) (s : State) : Host.Outcome State Fault Refusal :=
  fin s h true (scalRun s h [o.a, o.b] o.d (o.imm.signExtend 64)
    (fun l => if opdVal s s.cur.u (Hdr.lv h) 1 0 0 o.c.o = 1 then v0 l else v1 l))

/-- SMIN (R144). -/
def execSmin (h : Hdr) (t : Ty) (o : Op2) (s : State) : Host.Outcome State Fault Refusal := scal2Act s h o (minV (tySigned t))

/-- SMAX (R144). -/
def execSmax (h : Hdr) (t : Ty) (o : Op2) (s : State) : Host.Outcome State Fault Refusal := scal2Act s h o (maxV (tySigned t))

/-- SCLZ (R144). -/
def execSclz (h : Hdr) (o : Op1) (s : State) : Host.Outcome State Fault Refusal := scal1Act s h o (fun a => BitVec.ofNat 64 (clz a))

end Sys2Proof.Machine
end

