-- ==== Sys2Proof/Machine/VectorInt.lean ====
section
/-! DEFINITION. The vector integer instructions (R142, R148 to R153). -/

namespace Sys2Proof.Machine

/-- A two-source lane instruction of a type. -/
def lane2Act (s : State) (h : Hdr) (t : Ty) (o : Op2) (resid : Bool) (f : (w : Nat) → BitVec w → BitVec w → BitVec w) :
    Host.Outcome State Fault Refusal :=
  fin s h true (laneRun s h (tyRegs t) (tyRegs t) [o.a, o.b] o.d (immVal t o.imm) resid (fun l => bin t f (v0 l) (v1 l)))

/-- A one-source lane instruction of a type. -/
def lane1Act (s : State) (h : Hdr) (t : Ty) (o : Op1) (f : (w : Nat) → BitVec w → BitVec w) :
    Host.Outcome State Fault Refusal :=
  fin s h true (laneRun s h (tyRegs t) (tyRegs t) [o.a] o.d (immVal t o.imm) false (fun l => un t f (v0 l)))

/-- VMOV (R149): the bits are copied unchanged. -/
def execVmov (h : Hdr) (t : Ty) (o : Op1) (s : State) : Host.Outcome State Fault Refusal := lane1Act s h t o (fun _ a => a)

/-- VLDI (R149). -/
def execVldi (h : Hdr) (t : Ty) (d : Opd) (imm : BitVec 49) (s : State) : Host.Outcome State Fault Refusal :=
  fin s h true (laneRun s h (tyRegs t) (tyRegs t) [] d 0 false (fun _ => immVal49 t imm))

/-- VADD (R149). -/
def execVadd (h : Hdr) (t : Ty) (sat : Bool) (o : Op2) (s : State) : Host.Outcome State Fault Refusal :=
  lane2Act s h t o true (fun w a b => narrow sat (tySigned t) w (intOf (tySigned t) a + intOf (tySigned t) b))

/-- VSUB (R149). -/
def execVsub (h : Hdr) (t : Ty) (sat : Bool) (o : Op2) (s : State) : Host.Outcome State Fault Refusal :=
  lane2Act s h t o true (fun w a b => narrow sat (tySigned t) w (intOf (tySigned t) a - intOf (tySigned t) b))

/-- VMUL (R149). -/
def execVmul (h : Hdr) (t : Ty) (o : Op2) (s : State) : Host.Outcome State Fault Refusal := lane2Act s h t o true (fun _ a b => a * b)

/-- VMULH (R149). -/
def execVmulh (h : Hdr) (t : Ty) (o : Op2) (s : State) : Host.Outcome State Fault Refusal :=
  lane2Act s h t o true (fun _ a b => mulh (tySigned t) a b)

/-- VMAD (R149): formed exactly, wrapped or clamped once. -/
def execVmad (h : Hdr) (t : Ty) (sat : Bool) (o : Op3) (s : State) : Host.Outcome State Fault Refusal :=
  fin s h true (laneRun s h (tyRegs t) (tyRegs t) [o.a, o.b, o.c] o.d (immVal t o.imm) true (fun l =>
    let w := tyW t
    let g := fun (x : W64) => intOf (tySigned t) (x.setWidth w)
    (narrow sat (tySigned t) w (g (v0 l) * g (v1 l) + g (v2 l))).setWidth 64))

/-- VABS (R149). -/
def execVabs (h : Hdr) (t : Ty) (sat : Bool) (o : Op1) (s : State) : Host.Outcome State Fault Refusal :=
  lane1Act s h t o (fun w a => narrow sat true w (Int.natAbs a.toInt))

/-- VMIN (R149). -/
def execVmin (h : Hdr) (t : Ty) (o : Op2) (s : State) : Host.Outcome State Fault Refusal :=
  lane2Act s h t o false (fun _ a b => minV (tySigned t) a b)

/-- VMAX (R149). -/
def execVmax (h : Hdr) (t : Ty) (o : Op2) (s : State) : Host.Outcome State Fault Refusal :=
  lane2Act s h t o false (fun _ a b => maxV (tySigned t) a b)

/-- VCMP (R150). -/
def execVcmp (h : Hdr) (cc : Cmp) (t : Ty) (o : Op2) (s : State) : Host.Outcome State Fault Refusal :=
  fin s h true (lanePred s h (tyRegs t) [o.a, o.b] o.d (immVal t o.imm) (fun l =>
    let w := tyW t
    cmpV cc (tySigned t) ((v0 l).setWidth w) ((v1 l).setWidth w)))

/-- VSEL (R149). -/
def execVsel (h : Hdr) (t : Ty) (o : Op3) (s : State) : Host.Outcome State Fault Refusal :=
  fin s h true (laneRun s h (tyRegs t) (tyRegs t) [o.a, o.b, o.c] o.d (immVal t o.imm) false (fun l => if v2 l = 1 then v0 l else v1 l))

/-- VAND (R149). -/
def execVand (h : Hdr) (t : Ty) (o : Op2) (s : State) : Host.Outcome State Fault Refusal := lane2Act s h t o false (fun _ a b => a &&& b)

/-- VOR (R149). -/
def execVor (h : Hdr) (t : Ty) (o : Op2) (s : State) : Host.Outcome State Fault Refusal := lane2Act s h t o false (fun _ a b => a ||| b)

/-- VXOR (R149). -/
def execVxor (h : Hdr) (t : Ty) (o : Op2) (s : State) : Host.Outcome State Fault Refusal := lane2Act s h t o false (fun _ a b => a ^^^ b)

/-- VNOT (R149). -/
def execVnot (h : Hdr) (t : Ty) (o : Op1) (s : State) : Host.Outcome State Fault Refusal := lane1Act s h t o (fun _ a => ~~~a)

/-- VSHL (R142). -/
def execVshl (h : Hdr) (t : Ty) (o : Op2) (s : State) : Host.Outcome State Fault Refusal := lane2Act s h t o false (fun _ a b => shl a b)

/-- VSHR (R142). -/
def execVshr (h : Hdr) (t : Ty) (o : Op2) (s : State) : Host.Outcome State Fault Refusal := lane2Act s h t o false (fun _ a b => shr a b)

/-- VSRA (R142). -/
def execVsra (h : Hdr) (t : Ty) (o : Op2) (s : State) : Host.Outcome State Fault Refusal := lane2Act s h t o false (fun _ a b => sra a b)

/-- VCLZ (R149). -/
def execVclz (h : Hdr) (t : Ty) (o : Op1) (s : State) : Host.Outcome State Fault Refusal :=
  lane1Act s h t o (fun w a => BitVec.ofNat w (clz a))

/-- VPOP (R149). -/
def execVpop (h : Hdr) (t : Ty) (o : Op1) (s : State) : Host.Outcome State Fault Refusal :=
  lane1Act s h t o (fun w a => BitVec.ofNat w (popCount a))

/-- VBREV (R149). -/
def execVbrev (h : Hdr) (t : Ty) (o : Op1) (s : State) : Host.Outcome State Fault Refusal := lane1Act s h t o (fun _ a => brev a)

/-! ## Reading other lanes (R151, R152) -/

/-- The lane whose A lane i reads: its own where the source lane is not live or has exited (R151). -/
def srcLane (g : Group) (i s : Nat) : Nat := if s < 32 ∧ g.live.getLsbD s then s else i

/-- The lanes whose A a shuffle checks: every active lane and every source lane that one of them reads; a scalar is read for the
active lanes (R151). -/
def shflLanes (o : Opd) (m read : Lanes) : Lanes := match o with | .scal _ _ => m | _ => m ||| read

/-- A shuffle: lane i receives A of the lane that `sel` names (R151). Emptiness, poison and %vcount are checked in the source lanes
along with the active lanes. While B is not full its source lanes are not known: the checks then cover the active lanes, and the
instruction waits for B. A record of an empty or poisoned A names the source lanes that some active lane reads. -/
def shuffle (s : State) (h : Hdr) (t : Ty) (d : Opd) (a b : Src) (immA immB : W64) (bn : Nat) (sel : Nat → W64 → Nat) :
    Host.Outcome State Fault Refusal :=
  fin s h true (atLanes s h (fun gk g m =>
    let n := tyRegs t
    let u := s.cur.u
    let src := fun (i : Nat) => srcLane g i (sel i (opdVal s u 0 bn i immB b.o))
    let ub : Use := ⟨2, b, spanOf bn b.o, m, true⟩
    let read := if useEmpty s u 0 ub == 0 && !useStalls s u 0 ub then maskOf (fun i => (lanesOf m).any (fun j => src j == i)) else 0
    let ua : Use := ⟨1, a, spanOf n a.o, shflLanes a.o m read, true⟩
    let named := useEmpty s u 0 ub ||| usePoison s u 0 ub ||| (match a.o with | .scal _ _ => m | _ => read)
    match checkAll s u 0 m [ua, ub] [⟨d, n, m⟩] with
    | some (.fault t f) => .fault t (if f.code = 0x10 ∨ f.code = 0x30 then { f with lanes := f.lanes &&& named } else f)
    | some x => x
    | none => checked s gk g m false (fun s => writeLanes s gk d n m (fun i => opdVal s u 0 n (src i) immA a.o))))

/-- VBCAST (R152): the count reads IMM27 as an integer whatever the type. -/
def execVbcast (h : Hdr) (t : Ty) (o : Op2) (s : State) : Host.Outcome State Fault Refusal :=
  shuffle s h t o.d o.a o.b (immVal t o.imm) (o.imm.signExtend 64) 1 (fun _ k => k.toNat % 32)

/-- The source lane of lane i in a segment of 2^z lanes (R152). -/
def shflSel (md : ShflMode) (z i b : Nat) : Nat :=
  let w := 2 ^ z
  let r := i % w
  let base := i - r
  match md with
  | .pick => base + b % w
  | .rot => base + (r + b) % w
  | .mirror => base + (w - 1 - r)
  | .deal => if w = 1 then i else base + r % 2 * (w / 2) + r / 2
  | .undeal => if w = 1 then i else base + 2 * (r % (w / 2)) + r / (w / 2)

/-- VSHFL (R152). -/
def execVshfl (h : Hdr) (md : ShflMode) (t : Ty) (o : Op2) (s : State) : Host.Outcome State Fault Refusal :=
  let z := (o.imm.extractLsb' 24 3).toNat
  let imm : BitVec 24 := o.imm.extractLsb' 0 24
  shuffle s h t o.d o.a o.b 0 (imm.signExtend 64) (tyRegs t) (fun i b => shflSel md z i (b.toNat % 2 ^ tyW t))

/-! ## Reductions and scans (R153) -/

/-- The running combination over the active lanes in rising order: what each lane sees before and after its own value. -/
def scanL {w : Nat} (op : RedOp) (sgn : Bool) (a : Nat → BitVec w) : BitVec w → List Nat → List (Nat × BitVec w × BitVec w)
  | _, [] => []
  | acc, i :: r => (i, acc, combine op sgn acc (a i)) :: scanL op sgn a (combine op sgn acc (a i)) r

/-- The results of a reduction or scan by lane. -/
def scanVal (op : RedOp) (t : Ty) (red excl : Bool) (m : Lanes) (a : Nat → W64) (i : Nat) : W64 :=
  let w := tyW t
  let l := scanL op (tySigned t) (fun j => (a j).setWidth w) (identity op (tySigned t) w) (lanesOf m)
  if red then (match l.getLast? with | some (_, _, x) => x.setWidth 64 | none => 0)
  else match l.find? (fun p => p.1 == i) with
    | some (_, x, y) => (if excl then x else y).setWidth 64
    | none => 0

/-- VRED and VSCAN (R153). -/
def scanAct (s : State) (h : Hdr) (op : RedOp) (t : Ty) (o : Op1) (red excl : Bool) : Host.Outcome State Fault Refusal :=
  let n := tyRegs t
  fin s h true (laneReady s h (fun m => usesOf m n [(1, o.a)]) o.d n false (fun s gk _ m =>
    writeLanes s gk o.d n m (scanVal op t red excl m (fun j => laneVal s n j (immVal t o.imm) o.a))))

/-- VRED (R153). -/
def execVred (h : Hdr) (op : RedOp) (t : Ty) (o : Op1) (s : State) : Host.Outcome State Fault Refusal := scanAct s h op t o true false

/-- VSCAN (R153). -/
def execVscan (h : Hdr) (op : RedOp) (excl : Bool) (t : Ty) (o : Op1) (s : State) : Host.Outcome State Fault Refusal :=
  scanAct s h op t o false excl

end Sys2Proof.Machine
end

