-- ==== Sys2Proof/Machine/Dispatch.lean ====
section
/-! DEFINITION. The meaning of an instruction: one arm per constructor, each one call of a meaning. -/

namespace Sys2Proof.Machine
open Sys2Proof

def exec (i : Instr) (s : State) : Host.Outcome State Fault Refusal :=
  match i with
  -- control, level and region (R118)
  | .nop h => Sys2Proof.Machine.execNop h s
  | .br h cc a tgt => Sys2Proof.Machine.execBr h cc a tgt s
  | .bra h cc a tgt => Sys2Proof.Machine.execBra h cc a tgt s
  | .brl h cc a tgt rcv => Sys2Proof.Machine.execBrl h cc a tgt rcv s
  | .jmpi h a => Sys2Proof.Machine.execJmpi h a s
  | .call h tgt => Sys2Proof.Machine.execCall h tgt s
  | .calli h a => Sys2Proof.Machine.execCalli h a s
  | .ret h => Sys2Proof.Machine.execRet h s
  | .loop h a exit => Sys2Proof.Machine.execLoop h a exit s
  | .endl h => Sys2Proof.Machine.execEndl h s
  | .brk h cc a exit => Sys2Proof.Machine.execBrk h cc a exit s
  | .cont h cc a cont => Sys2Proof.Machine.execCont h cc a cont s
  | .rjoin h => Sys2Proof.Machine.execRjoin h s
  | .exit h => Sys2Proof.Machine.execExit h s
  | .yield h => Sys2Proof.Machine.execYield h s
  | .unif h a => Sys2Proof.Machine.execUnif h a s
  | .levsync h => Sys2Proof.Machine.execLevsync h s
  | .safept h entry => Sys2Proof.Machine.execSafept h entry s
  | .idem h kind index => Sys2Proof.Machine.execIdem h kind index s
  | .idemx h index => Sys2Proof.Machine.execIdemx h index s
  | .vgrow h a imm => Sys2Proof.Machine.execVgrow h a imm s
  | .vgrowGrant gk => Sys2Proof.Machine.execVgrowGrant gk s
  | .vgive h a imm => Sys2Proof.Machine.execVgive h a imm s
  -- scalar (R143)
  | .smov h o => Sys2Proof.Machine.execSmov h o s
  | .sldi h d imm => Sys2Proof.Machine.execSldi h d imm s
  | .sldih h d imm => Sys2Proof.Machine.execSldih h d imm s
  | .sid h dim d x => Sys2Proof.Machine.execSid h dim d x s
  | .sadd h o => Sys2Proof.Machine.execSadd h o s
  | .ssub h o => Sys2Proof.Machine.execSsub h o s
  | .smul h o => Sys2Proof.Machine.execSmul h o s
  | .smulh h t o => Sys2Proof.Machine.execSmulh h t o s
  | .sdiv h t o => Sys2Proof.Machine.execSdiv h t o s
  | .srem h t o => Sys2Proof.Machine.execSrem h t o s
  | .sand h o => Sys2Proof.Machine.execSand h o s
  | .sor h o => Sys2Proof.Machine.execSor h o s
  | .sxor h o => Sys2Proof.Machine.execSxor h o s
  | .sshl h o => Sys2Proof.Machine.execSshl h o s
  | .sshr h o => Sys2Proof.Machine.execSshr h o s
  | .ssra h o => Sys2Proof.Machine.execSsra h o s
  | .scmp h cc t o => Sys2Proof.Machine.execScmp h cc t o s
  | .ssel h o => Sys2Proof.Machine.execSsel h o s
  | .smin h t o => Sys2Proof.Machine.execSmin h t o s
  | .smax h t o => Sys2Proof.Machine.execSmax h t o s
  | .sclz h o => Sys2Proof.Machine.execSclz h o s
  -- predicates and votes (R146, R147)
  | .pand h d a b => Sys2Proof.Machine.execPand h d a b s
  | .por h d a b => Sys2Proof.Machine.execPor h d a b s
  | .pxor h d a b => Sys2Proof.Machine.execPxor h d a b s
  | .pnot h d a => Sys2Proof.Machine.execPnot h d a s
  | .pmov h d a => Sys2Proof.Machine.execPmov h d a s
  | .pset h d v => Sys2Proof.Machine.execPset h d v s
  | .vote h m d a t all => Sys2Proof.Machine.execVote h m d a t all s
  -- vector integer (R148)
  | .vmov h t o => Sys2Proof.Machine.execVmov h t o s
  | .vldi h t d imm => Sys2Proof.Machine.execVldi h t d imm s
  | .vadd h t sat o => Sys2Proof.Machine.execVadd h t sat o s
  | .vsub h t sat o => Sys2Proof.Machine.execVsub h t sat o s
  | .vmul h t o => Sys2Proof.Machine.execVmul h t o s
  | .vmulh h t o => Sys2Proof.Machine.execVmulh h t o s
  | .vmad h t sat o => Sys2Proof.Machine.execVmad h t sat o s
  | .vabs h t sat o => Sys2Proof.Machine.execVabs h t sat o s
  | .vmin h t o => Sys2Proof.Machine.execVmin h t o s
  | .vmax h t o => Sys2Proof.Machine.execVmax h t o s
  | .vcmp h cc t o => Sys2Proof.Machine.execVcmp h cc t o s
  | .vsel h t o => Sys2Proof.Machine.execVsel h t o s
  | .vred h op t o => Sys2Proof.Machine.execVred h op t o s
  | .vscan h op excl t o => Sys2Proof.Machine.execVscan h op excl t o s
  | .vand h t o => Sys2Proof.Machine.execVand h t o s
  | .vor h t o => Sys2Proof.Machine.execVor h t o s
  | .vxor h t o => Sys2Proof.Machine.execVxor h t o s
  | .vnot h t o => Sys2Proof.Machine.execVnot h t o s
  | .vshl h t o => Sys2Proof.Machine.execVshl h t o s
  | .vshr h t o => Sys2Proof.Machine.execVshr h t o s
  | .vsra h t o => Sys2Proof.Machine.execVsra h t o s
  | .vclz h t o => Sys2Proof.Machine.execVclz h t o s
  | .vpop h t o => Sys2Proof.Machine.execVpop h t o s
  | .vbrev h t o => Sys2Proof.Machine.execVbrev h t o s
  | .vbcast h t o => Sys2Proof.Machine.execVbcast h t o s
  | .vshfl h m t o => Sys2Proof.Machine.execVshfl h m t o s
  -- vector float (R155, R160)
  | .fadd h t o => Sys2Proof.Machine.execFadd h t o s
  | .fsub h t o => Sys2Proof.Machine.execFsub h t o s
  | .fmul h t o => Sys2Proof.Machine.execFmul h t o s
  | .ffma h t o => Sys2Proof.Machine.execFfma h t o s
  | .fmin h t o => Sys2Proof.Machine.execFmin h t o s
  | .fmax h t o => Sys2Proof.Machine.execFmax h t o s
  | .fabs h t o => Sys2Proof.Machine.execFabs h t o s
  | .fneg h t o => Sys2Proof.Machine.execFneg h t o s
  | .fcmp h cc t o => Sys2Proof.Machine.execFcmp h cc t o s
  | .fclass h t o => Sys2Proof.Machine.execFclass h t o s
  | .fdiv h t o => Sys2Proof.Machine.execFdiv h t o s
  | .fsqrt h t o => Sys2Proof.Machine.execFsqrt h t o s
  | .frcp h t o => Sys2Proof.Machine.execFrcp h t o s
  | .frsq h t o => Sys2Proof.Machine.execFrsq h t o s
  | .fexp2 h t o => Sys2Proof.Machine.execFexp2 h t o s
  | .flog2 h t o => Sys2Proof.Machine.execFlog2 h t o s
  | .fcvt h src t d a => Sys2Proof.Machine.execFcvt h src t d a s
  | .icvt h src wrap t d a => Sys2Proof.Machine.execIcvt h src wrap t d a s
  | .frnd h t d a => Sys2Proof.Machine.execFrnd h t d a s
  | .fscl h t o => Sys2Proof.Machine.execFscl h t o s
  -- memory (R258)
  | .ld h m => Sys2Proof.Machine.execLd h m s
  | .st h m => Sys2Proof.Machine.execSt h m s
  | .ldk h m => Sys2Proof.Machine.execLdk h m s
  | .lds h m => Sys2Proof.Machine.execLds h m s
  | .sts h m => Sys2Proof.Machine.execSts h m s
  | .sld h m => Sys2Proof.Machine.execSld h m s
  | .sst h m => Sys2Proof.Machine.execSst h m s
  | .pref h m => Sys2Proof.Machine.execPref h m s
  | .atom h op m => Sys2Proof.Machine.execAtom h op m s
  | .atoms h op m => Sys2Proof.Machine.execAtoms h op m s
  | .satom h op m => Sys2Proof.Machine.execSatom h op m s
  | .red h op m => Sys2Proof.Machine.execRed h op m s
  | .fence h ord sc => Sys2Proof.Machine.execFence h ord sc s
  -- copies and arrival words (R307)
  | .cpy h dir a b imm => Sys2Proof.Machine.execCpy h dir a b imm s
  | .cpyp h a b imm => Sys2Proof.Machine.execCpyp h a b imm s
  | .cpym h tgt a b c imm => Sys2Proof.Machine.execCpym h tgt a b c imm s
  | .cpys h a b imm => Sys2Proof.Machine.execCpys h a b imm s
  | .cpyr h op a b imm => Sys2Proof.Machine.execCpyr h op a b imm s
  | .arvi h off16 n => Sys2Proof.Machine.execArvi h off16 n s
  | .arv h a imm => Sys2Proof.Machine.execArv h a imm s
  | .arwt h d a b imm => Sys2Proof.Machine.execArwt h d a b imm s
  | .artst h c d a b imm => Sys2Proof.Machine.execArtst h c d a b imm s
  -- matrix (R307)
  | .omap h role lines i4 t d buf p w kb => Sys2Proof.Machine.execOmap h role lines i4 t d buf p w kb s
  | .plst h role m off => Sys2Proof.Machine.execPlst h role m off s
  | .mma h o => Sys2Proof.Machine.execMma h o s
  | .mmaloop h o => Sys2Proof.Machine.execMmaloop h o s
  | .mfence h => Sys2Proof.Machine.execMfence h s
  | .mwait h a => Sys2Proof.Machine.execMwait h a s
  | .aclr h d => Sys2Proof.Machine.execAclr h d s
  | .ascl h f t d a b c => Sys2Proof.Machine.execAscl h f t d a b c s
  | .amovv h t d a b row => Sys2Proof.Machine.execAmovv h t d a b row s
  | .asts h t d off => Sys2Proof.Machine.execAsts h t d off s
  | .alds h t d off => Sys2Proof.Machine.execAlds h t d off s
  | .acvt h sform f wrap t d a b row off => Sys2Proof.Machine.execAcvt h sform f wrap t d a b row off s
  -- barriers, tasks, futures, locks (R349)
  | .bar h j => Sys2Proof.Machine.execBar h j s
  | .bara h d j => Sys2Proof.Machine.execBara h d j s
  | .barw h a j => Sys2Proof.Machine.execBarw h a j s
  | .tspawn h a => Sys2Proof.Machine.execTspawn h a s
  | .tself h d => Sys2Proof.Machine.execTself h d s
  | .fwrite h a b => Sys2Proof.Machine.execFwrite h a b s
  | .fwait h d a => Sys2Proof.Machine.execFwait h d a s
  | .ftest h c d a => Sys2Proof.Machine.execFtest h c d a s
  | .lock h a => Sys2Proof.Machine.execLock h a s
  | .trylock h d a => Sys2Proof.Machine.execTrylock h d a s
  | .unlock h a => Sys2Proof.Machine.execUnlock h a s
  | .cntwt h a b => Sys2Proof.Machine.execCntwt h a b s
  -- pins and reclaim (R371)
  | .pin h q a => Sys2Proof.Machine.execPin h q a s
  | .unpin h q => Sys2Proof.Machine.execUnpin h q s
  | .pinx h q a => Sys2Proof.Machine.execPinx h q a s
  | .reclaim h d a b => Sys2Proof.Machine.execReclaim h d a b s
  | .rcdrain h d => Sys2Proof.Machine.execRcdrain h d s
  -- rings (R389)
  | .msend h d a b n8 tag => Sys2Proof.Machine.execMsend h d a b n8 tag s
  | .rwait h d r => Sys2Proof.Machine.execRwait h d r s
  | .rack h a r => Sys2Proof.Machine.execRack h a r s
  | .rdesc h d a r => Sys2Proof.Machine.execRdesc h d a r s
  -- system (R208)
  | .trap h imm => Sys2Proof.Machine.execTrap h imm s
  | .rft h => Sys2Proof.Machine.execRft h s
  | .ctlrd h d cr => Sys2Proof.Machine.execCtlrd h d cr s
  | .ctlwr h a cr => Sys2Proof.Machine.execCtlwr h a cr s
  | .cycle h src d => Sys2Proof.Machine.execCycle h src d s
  | .sleepc h a imm => Sys2Proof.Machine.execSleepc h a imm s
  | .evrd h d ev => Sys2Proof.Machine.execEvrd h d ev s
  | .bkpt h imm => Sys2Proof.Machine.execBkpt h imm s
  | .halt h => Sys2Proof.Machine.execHalt h s
  | .tlbinv h k a => Sys2Proof.Machine.execTlbinv h k a s
  | .clone h m => Sys2Proof.Machine.execClone h m s
  -- steps of the sequencers (R23, R24, R33)
  | .segmentEmit ck => Sys2Proof.Machine.execSegmentEmit ck s
  | .segmentFinish u => Sys2Proof.Machine.execSegmentFinish u s
  | .conditionReport u => Sys2Proof.Machine.execConditionReport u s
  -- steps of fetch, producers and faults
  | .lineFill u va => Sys2Proof.Machine.execLineFill u va s
  | .producerCompletion n => Sys2Proof.Machine.execProducerCompletion n s
  | .faultDelivery u => Sys2Proof.Machine.execFaultDelivery u s
  | .handlerTimeLimit gk => Sys2Proof.Machine.execHandlerTimeLimit gk s
  | .preemptionRequest gc b => Sys2Proof.Machine.execPreemptionRequest gc b s
  | .preemptionTimeout gk => Sys2Proof.Machine.execPreemptionTimeout gk s
  | .park gc b => Sys2Proof.Machine.execPark gc b s
  | .unitResume gc b => Sys2Proof.Machine.execUnitResume gc b s
  | .replayCompare core q diff => Sys2Proof.Machine.execReplayCompare core q diff s
  | .replayMismatch gk => Sys2Proof.Machine.execReplayMismatch gk s
  | .regionRestart gk => Sys2Proof.Machine.execRegionRestart gk s
  | .bandKill gc b => Sys2Proof.Machine.execBandKill gc b s
  | .fatalError => Sys2Proof.Machine.execFatalError s
  | .walkroundStart clu => Sys2Proof.Machine.execWalkroundStart clu s
  | .walkroundAbandon clu => Sys2Proof.Machine.execWalkroundAbandon clu s
  | .walkroundComplete clu failed => Sys2Proof.Machine.execWalkroundComplete clu failed s
  -- steps of the ordering machine and of translation (R235, R243)
  | .writeApply id => Sys2Proof.Machine.execWriteApply id s
  | .writeDeliver id => Sys2Proof.Machine.execWriteDeliver id s
  | .readPerform id => Sys2Proof.Machine.execReadPerform id s
  | .viewRefresh core pa => Sys2Proof.Machine.execViewRefresh core pa s
  | .viewEvict core pa => Sys2Proof.Machine.execViewEvict core pa s
  | .accessComplete id => Sys2Proof.Machine.execAccessComplete id s
  | .cellarEvict pa => Sys2Proof.Machine.execCellarEvict pa s
  | .pageWalk core gc va => Sys2Proof.Machine.execPageWalk core gc va s
  | .tlbDrop core n idx => Sys2Proof.Machine.execTlbDrop core n idx s
  -- steps of the drover and the matrix unit
  | .droverStart core => Sys2Proof.Machine.execDroverStart core s
  | .sectorComplete core copy sector => Sys2Proof.Machine.execSectorComplete core copy sector s
  | .matrixOpStart core => Sys2Proof.Machine.execMatrixOpStart core s
  | .matrixOpComplete core op mismatch => Sys2Proof.Machine.execMatrixOpComplete core op mismatch s
  -- steps of the front end, the search fabric and waits
  | .spawnStep gc b => Sys2Proof.Machine.execSpawnStep gc b s
  | .dispatch pick => Sys2Proof.Machine.execDispatch pick s
  | .taskRetire gc => Sys2Proof.Machine.execTaskRetire gc s
  | .pinSearch u e => Sys2Proof.Machine.execPinSearch u e s
  | .shadowWithdraw gk q => Sys2Proof.Machine.execShadowWithdraw gk q s
  | .sleepExpire u e => Sys2Proof.Machine.execSleepExpire u e s
  -- steps of the network and the peers
  | .packetInject id => Sys2Proof.Machine.execPacketInject id s
  | .bucketRefill ep cls => Sys2Proof.Machine.execBucketRefill ep cls s
  | .ringAppend n => Sys2Proof.Machine.execRingAppend n s
  | .wayfareRead w cls addr len tag => Sys2Proof.Machine.execWayfareRead w cls addr len tag s
  | .wayfareWrite w cls addr data => Sys2Proof.Machine.execWayfareWrite w cls addr data s
  | .wayfareAtomic w cls addr op t b c tag => Sys2Proof.Machine.execWayfareAtomic w cls addr op t b c tag s
  | .wayfareFenceMarker w seq => Sys2Proof.Machine.execWayfareFenceMarker w seq s
  | .wayfareAck w id => Sys2Proof.Machine.execWayfareAck w id s
  | .wayfareReadReply w id data => Sys2Proof.Machine.execWayfareReadReply w id data s
  | .wayfareRefusal w id => Sys2Proof.Machine.execWayfareRefusal w id s
  | .flitCrcFailure w => Sys2Proof.Machine.execFlitCrcFailure w s
  -- steps of the host
  | .hostAccess write off data => Sys2Proof.Machine.execHostAccess write off data s
  | .launchPacket q => Sys2Proof.Machine.execLaunchPacket q s
  | .fencePacket q => Sys2Proof.Machine.execFencePacket q s
  | .fencePacketPass q => Sys2Proof.Machine.execFencePacketPass q s
  | .signalPacket q => Sys2Proof.Machine.execSignalPacket q s
  | .nopPacket q => Sys2Proof.Machine.execNopPacket q s
  | .doorbell q v => Sys2Proof.Machine.execDoorbell q v s
  | .qdescWrite q off v => Sys2Proof.Machine.execQdescWrite q off v s
  | .faultBufferWrite => Sys2Proof.Machine.execFaultBufferWrite s
  | .fbcfgWrite v => Sys2Proof.Machine.execFbcfgWrite v s
  | .fbresolveResume idx => Sys2Proof.Machine.execFbresolveResume idx s
  | .fbresolveAbort idx => Sys2Proof.Machine.execFbresolveAbort idx s
  | .tlbcmdPage space rest => Sys2Proof.Machine.execTlbcmdPage space rest s
  | .tlbcmdSpace space => Sys2Proof.Machine.execTlbcmdSpace space s
  | .tlbcmdAll => Sys2Proof.Machine.execTlbcmdAll s
  | .dbgcmdResumeStopIa gc b => Sys2Proof.Machine.execDbgcmdResumeStopIa gc b s
  | .dbgcmdResumeNext gc b => Sys2Proof.Machine.execDbgcmdResumeNext gc b s
  | .dbgcmdKill gc b => Sys2Proof.Machine.execDbgcmdKill gc b s
  | .bootcmdReset => Sys2Proof.Machine.execBootcmdReset s
  | .bootcmdFullStart => Sys2Proof.Machine.execBootcmdFullStart s
  | .mcbankClear b => Sys2Proof.Machine.execMcbankClear b s
  | .islctlAutomatic idx fmax => Sys2Proof.Machine.execIslctlAutomatic idx fmax s
  | .islctlHoldOn idx fmax => Sys2Proof.Machine.execIslctlHoldOn idx fmax s
  | .islctlGate idx fmax => Sys2Proof.Machine.execIslctlGate idx fmax s
  | .islandGated idx => Sys2Proof.Machine.execIslandGated idx s
  | .controlSpaceWrite off v => Sys2Proof.Machine.execControlSpaceWrite off v s
  | .powerWindow => Sys2Proof.Machine.execPowerWindow s
  | .moduleReset => Sys2Proof.Machine.execModuleReset s
  | .startupStageComplete ok code => Sys2Proof.Machine.execStartupStageComplete ok code s
  | .startupStageTimeout => Sys2Proof.Machine.execStartupStageTimeout s
  | .peerLinkTrain w ok => Sys2Proof.Machine.execPeerLinkTrain w ok s
  | .mailboxRequest req => Sys2Proof.Machine.execMailboxRequest req s
  | .worrenStatus => Sys2Proof.Machine.execWorrenStatus s
  | .worrenBankRead b => Sys2Proof.Machine.execWorrenBankRead b s
  | .worrenBankClear b => Sys2Proof.Machine.execWorrenBankClear b s
  | .worrenPowerCap v => Sys2Proof.Machine.execWorrenPowerCap v s
  | .worrenFirmwareChunk off data => Sys2Proof.Machine.execWorrenFirmwareChunk off data s
  | .worrenActivate => Sys2Proof.Machine.execWorrenActivate s
  | .worrenFloorMap data => Sys2Proof.Machine.execWorrenFloorMap data s
  | .worrenExtend k data => Sys2Proof.Machine.execWorrenExtend k data s
  | .worrenAttest nonce => Sys2Proof.Machine.execWorrenAttest nonce s
  | .worrenStartReset => Sys2Proof.Machine.execWorrenStartReset s
  | .worrenFullStart => Sys2Proof.Machine.execWorrenFullStart s
  | .hostCompletion id data => Sys2Proof.Machine.execHostCompletion id data s

end Sys2Proof.Machine
end

