-- ==== Sys2Proof/Machine/Pairs.lean ====
section
/-! DEFINITION. Slots that issue together: what instructions name and write, and the second slot of a pair (R49, R80). -/

namespace Sys2Proof.Machine

/-! ## What an instruction writes and names -/

/-- The registers from a base that an operand of an instruction at a level spans, as class and number: a level field of zero is the
instruction's own level, and every level has predicates of its own (R63). -/
def spanRegs (lev n : Nat) (o : Opd) : List (Nat × Nat) :=
  let up := fun (cls from_ len : Nat) => (List.range len).map (fun j => (cls, from_ + j))
  match o with
  | .vec r => up 0 r.toNat n
  | .near r => up 1 r.toNat n
  | .scal l r => up (32 + (if l == 0 then lev else l.toNat)) r.toNat n
  | .pred p => [(16 + lev, p.toNat)]
  | .map m => [(2, m.toNat)]
  | .acc a => up 3 a.toNat n
  | .buf b => [(4, b.toNat)]
  | .pin q => [(5, q.toNat)]
  | _ => []

/-- The 32-bit registers that the destination of an instruction spans; one scalar holds any element. -/
def dstSpan (i : Instr) (w : Insn) (o : Opd) : Nat :=
  let t := (Decode.wTy w).getD .none
  spanOf (match i with
    | .fclass .. | .vote .. | .rwait .. => 1
    | .amovv .. | .acvt .. => 2 * (if t = .none then 1 else tyRegs t)
    | .ctlrd .. | .cycle .. | .evrd .. => 2
    | .ld .. | .ldk .. | .lds .. | .atom .. | .atoms .. => tyRegs t
    | _ => if t = .none then 1 else tyRegs t) o

/-- The registers that a source of an instruction spans; a copy reads four scalars and a scalar compare-and-swap two. -/
def srcSpan (i : Instr) (w : Insn) (fld : Nat) (o : Opd) : Nat :=
  let t := (Decode.wTy w).getD .none
  let e := if t = .none then 1 else tyRegs t
  let wide := fun (n : Nat) => match o with | .scal _ _ => srcCount i fld | _ => n
  match i with
  | .ld .. | .ldk .. | .pref .. => wide (if fld = 1 then 2 else 1)
  | .st .. => wide (if fld = 1 then 2 else tyRegs t)
  | .lds .. | .sts .. => wide (if fld = 1 then 1 else tyRegs t)
  | .atom _ op _ | .red _ op _ => wide (if fld = 1 then 2 else aopRegs op t)
  | .atoms _ op _ => wide (if fld = 1 then 1 else aopRegs op t)
  | .fcvt _ s .. => wide (tyRegs s)
  | .icvt _ s .. => wide (tyRegs s)
  | .fscl .. => wide (if fld = 1 then e else 1)
  | .ascl .. => wide 1
  | .pin .. | .pinx .. | .rack .. | .rdesc .. | .ctlwr .. | .msend .. => wide 2
  | _ => wide e

/-- Registers, predicates and the like in fields of their own: those written and those read. -/
def ownFields : Instr → List Opd × List Opd
  | .pand _ d a b | .por _ d a b | .pxor _ d a b => ([.pred d], [.pred a, .pred b])
  | .pnot _ d a | .pmov _ d a => ([.pred d], [.pred a])
  | .pset _ d _ => ([.pred d], [])
  | .vote _ _ _ a _ _ => ([], [.pred a])
  | .vsel _ _ o | .ssel _ o => ([], [o.c.o])
  | .arwt _ d _ _ _ | .artst _ _ d _ _ _ | .ftest _ _ d _ | .trylock _ d _ | .reclaim _ d _ _ | .msend _ d _ _ _ _
  | .rdesc _ d _ _ => ([.pred d], [])
  | .omap _ _ _ _ _ d _ _ _ _ => ([.map d], [])
  | .plst _ _ m _ => ([], [.map m])
  | .mma _ o | .mmaloop _ o => ([.acc o.d], [.map o.a, .map o.b])
  | .aclr _ d | .alds _ _ d _ => ([.acc d], [])
  | .ascl _ _ _ d _ _ _ => ([.acc d], [])
  | .pin _ q _ | .pinx _ q _ | .unpin _ q => ([.pin q], [])
  | _ => ([], [])

/-- The accumulators that the destination of an instruction spans: a pair in FP64 (R294, R315). -/
def accDst : Instr → Nat
  | .mma _ o | .mmaloop _ o => if o.t = .f64 then 2 else 1
  | .alds _ t _ _ | .ascl _ _ t _ _ _ _ => if t = .f64 then 2 else 1
  | _ => 1

/-- The accumulators that the source of an instruction spans. -/
def accSrc : Instr → Nat
  | .amovv _ t _ _ _ _ | .asts _ t _ _ => if t = .f64 then 2 else 1
  | .ascl _ f _ _ _ _ _ | .acvt _ _ f _ _ _ _ _ _ _ => if f = .fp64 then 2 else 1
  | _ => 1

/-- What an instruction writes. A write to p15 writes nothing (R105). -/
def writesOf (i : Instr) (w : Insn) : List (Nat × Nat) :=
  let lev := levOf w
  ((((dstOf i).toList.map (fun o => spanRegs lev (dstSpan i w o) o)) ++ ((ownFields i).1.map (spanRegs lev (accDst i)))).flatten).filter
    (fun r => r != (16 + lev, 15))

/-- What an instruction names: its destination, its sources and its guard. -/
def namesIn (i : Instr) (w : Insn) : List (Nat × Nat) :=
  let lev := levOf w
  writesOf i w ++ ((srcsOf i).map (fun p => spanRegs lev (srcSpan i w p.1 p.2.o) p.2.o)).flatten ++
  (((ownFields i).2 ++ extraOpds i).map (spanRegs lev (accSrc i))).flatten ++ [(16 + lev, (Decode.wHdr w).gd.toNat)]

/-! ## Pairs (R49) -/

/-- Whether a slot may stand in a pair: level 0 or the group-domain level, and neither a control nor a level instruction. -/
def pairShape (grp : Nat → Bool) (w : Insn) : Bool :=
  (levOf w == 0 || grp (levOf w)) && decide (2 ≤ (Decode.wOp w).toNat / 16)

/-- Whether the second of two instructions names nothing that the first writes. -/
def pairFree (i : Instr) (v : Insn) (j : Instr) (w : Insn) : Bool :=
  (writesOf i v).all (fun r => !(namesIn j w).contains r)

/-- Whether slot k of a line issues together with the next one. -/
def linePairs (r : LRec) (l : BitVec 512) (k : Nat) : Bool :=
  let grp := fun (x : Nat) => r.grpLev == some x
  let v := slotOf l k
  let w := slotOf l (k + 1)
  decide (k < 4) && l.getLsbD (480 + 23 + k) && pairShape grp v && pairShape grp w &&
  (match decodeFor r v, decodeFor r w with
   | .ok i, .ok j => pairFree i v j w
   | _, _ => false)

/-- Whether the instruction in hand in `s` has completed in `t` for the same split and mask, and its slot pairs with the next one; the
second slot of a pair does not begin another. -/
def pairsNext (s t : State) : Bool :=
  match s.cur.u with
  | .ctx _ => false
  | .grp gk =>
    match s.grp? gk, t.grp? gk with
    | some g, some g' =>
      (match nth? g.splits s.cur.e, nth? g'.splits s.cur.e with
       | some (some x), some (some y) =>
         y.pc == iaNext s.cur.ia && x.mask == y.mask && g'.stop == .run && g.pair != some (s.cur.e, true) && (turns t g').contains s.cur.e && g.handler.isSome == g'.handler.isSome &&
         (match (fetchLine t (placeOf t (.grp gk)) g.gc s.cur.ia).1 with
          | .ok l => linePairs (s.lrec g.gc) l (iaSlot s.cur.ia)
          | .error _ => false)
       | _, _ => false)
    | _, _ => false

/-- The second slot of a pair moves next, and nothing comes between: it belongs to the issue opportunity of the first. A second slot
that must wait is not issued with the first (log 26). -/
def pairTurn (t : State) (gk e : Nat) : State :=
  let t := t.updGrp gk (fun g => { g with pair := some (e, false), last := !bandIssues t g.gc g.b true false })
  { t with agenda := .issue (.grp gk) e :: t.agenda }

/-- What follows the instruction in hand: the second slot of its pair, if it has one. -/
def thenPair (s : State) (o : Host.Outcome State Fault Refusal) : Host.Outcome State Fault Refusal :=
  match s.cur.u, o with
  | .grp gk, .next t => .next (if pairsNext s t then pairTurn t gk s.cur.e else t)
  | _, o => o

end Sys2Proof.Machine
end

