-- ==== Sys2Proof/Machine/Step.lean ====
section
/-! DEFINITION. One step of the machine (log 1): the head of the agenda, or the free schedule's choice, moves; and the
placing of one instruction where the next step fetches it (log 5). -/

namespace Sys2Proof.Machine

/-- What moves in this step: the head of the agenda, or the choice of the free schedule (log 1). -/
def pickTurn (s : State) : Turn := match s.agenda with | t :: _ => t | [] => Config.schedule s.tick

/-- The state in which a turn is taken: the agenda is popped, and time has passed (log 11). -/
def begin1 (s : State) : State :=
  { s with agenda := s.agenda.tail, tick := s.tick + 1, nc := s.nc + Config.elapsed s.tick }

/-- Take a turn: a unit's issue runs the instruction it stands at, with the second slot of a pair to follow (R49), or only moves it
(R22, R24); an event is a step that has no encoding. -/
def runTurn (t : Turn) (s : State) : Host.Outcome State Fault Refusal :=
  match t with
  | .issue u e =>
    match prep s u e with
    | .idle => .next s
    | .moved s' => .next s'
    | .run i s' => thenPair s' (exec i s')
  | .event i => if (Decode.encode i).isNone then exec i s else .next s

/-- One step. -/
def step (s : State) : Host.Outcome State Fault Refusal := runTurn (pickTurn s) (begin1 s)

/-! ## Placing an instruction (log 5) -/

/-- A level of the launch that withFetchWord places. -/
def fetchLevel (dom ext : Nat) : Level := ⟨dom, if dom ≤ 2 then dom else if dom = 3 then 3 else 5, 8, 32, ext, 1, 1, 0⟩

/-- The record of the launch that withFetchWord places: one unit at every level up to L7, privileged, with every
resource. -/
def fetchRec : LRec :=
  { LRec.none with
    levels := [fetchLevel 0 32, fetchLevel 1 1, fetchLevel 2 1, fetchLevel 3 1, fetchLevel 4 1, fetchLevel 5 1,
      fetchLevel 5 1, fetchLevel 5 1],
    priv := true, mat := true, prodv := true, pins := 4, scrg := 512, vbase := 64, vmax := 256 }

/-- The segment that covers the placed line. -/
def fetchSeg : Seg := ⟨0, 0, 4, false, none⟩

/-- The context of level k of the launch that withFetchWord places, when the placed instruction is of level `lev`: the
levels above have emitted the segment, those below wait for one, and a condition has been reported. -/
def fetchCtx (lev k : Nat) (rep : RepKind) : Nat × Ctx :=
  let c := Ctx.fresh 0 k 0 (fetchRec.lvl k).dom 0 0
  let e : TrailEnt := ⟨fetchSeg, 1, 0, 0, [], 0, 1, []⟩
  let c := if lev < k ∧ 2 ≤ k then { c with trail := [e], next := 1 } else c
  let c := if lev ≤ k ∧ k < 7 ∧ 2 ≤ k then { c with cur := some fetchSeg } else c
  (ctxKey 0 k 0, if lev = k then { c with asked := true, reports := [(0, ⟨rep, []⟩)] } else c)

/-- s with an instruction of `nbits` bits stored where the next step fetches: slot 0 of the line at address 0, in a
running launch of grid context 0 whose unit of the instruction's level moves next. The bits above `nbits` are 0. -/
def State.withFetchWord (s : State) (nbits w : Nat) : State :=
  let i : Insn := BitVec.ofNat 96 (w % 2 ^ nbits)
  let lev := levOf i
  let rep := match (Decode.decode i).toOption.bind (fun x => repOf x lev 0 i) with
    | some q => if q.val then RepKind.value 0 else RepKind.allTrue
    | none => RepKind.empty
  let line : LineEnt := ⟨0, 0, (i.setWidth 512)⟩
  let g := { Group.fresh 0 0 0 0 32 64 0 0 with seg := if lev ≤ 1 then some fetchSeg else none, segDone := false }
  let b := { Band.fresh 0 0 with st := .resident }
  let s := s.updCore 0 (fun c => { c with lines := line :: c.lines.filter (fun e => e.space != 0 || e.va != 0) })
  let s := s.updCluster 0 (fun c => { c with lines := line :: c.lines.filter (fun e => e.space != 0 || e.va != 0) })
  let s := s.updDie 10 (fun c => { c with lines := line :: c.lines.filter (fun e => e.space != 0 || e.va != 0) })
  { s with
    agenda := [.issue (if lev ≤ 1 then .grp (grpKey 0 0 0) else .ctx (ctxKey 0 lev 0)) 0],
    host := { s.host with halted := false },
    launches := tabSet s.launches 0 (Launch.fresh ⟨0, 0, 0, 0, 0, 0, 0⟩ fetchRec),
    ctxs := ((List.range 7).map (fun k => fetchCtx lev (k + 1) rep)).foldl (fun t p => tabSet t p.1 p.2) s.ctxs,
    bands := tabSet s.bands (bandKey 0 0) b,
    groups := tabSet s.groups (grpKey 0 0 0) g }

end Sys2Proof.Machine
end

