-- ==== Sys2Proof/Laws/Encode.lean ====
section
/-! SUPPORT. The fields of an encoded word read back as they were written (R54 to R62), format by format; the operand and
small-field codes are inverse to their readers. -/

namespace Sys2Proof.Laws.Encode

open Sys2Proof Sys2Proof.Decode

/-- The value of a concatenation. -/
theorem toNat_app {w v : Nat} (x : BitVec w) (y : BitVec v) : (x ++ y).toNat = x.toNat * 2 ^ v + y.toNat := by
  rw [BitVec.toNat_append, Nat.shiftLeft_eq, Nat.mul_comm, ← Nat.two_pow_add_eq_or_of_lt y.isLt]

/-- A field of a word as a quotient and remainder. -/
theorem field_toNat {n : Nat} (x : BitVec n) (lo len : Nat) : (x.extractLsb' lo len).toNat = x.toNat / 2 ^ lo % 2 ^ len := by
  rw [BitVec.extractLsb'_toNat, Nat.shiftRight_eq_div_pow]

theorem hdr_toNat (op : Nat) (sub : BitVec 6) (h : Hdr) (t : Ty) : (hdr op sub h t).toNat =
    (((((BitVec.ofNat 8 op).toNat * 2 ^ 6 + sub.toNat) * 2 ^ 3 + h.lev.toNat) * 2 ^ 4 + (tyCode t).toNat) * 2 ^ 4 +
      h.gd.toNat) * 2 + (bit h.gn).toNat := by
  unfold hdr; simp only [toNat_app, Nat.pow_one]

theorem fR_toNat (op : Nat) (sub : BitVec 6) (h : Hdr) (t : Ty) (d : BitVec 10) (a b c : BitVec 11) (imm : BitVec 27) :
    (fR op sub h t d a b c imm).toNat =
      (((((hdr op sub h t).toNat * 2 ^ 10 + d.toNat) * 2 ^ 11 + a.toNat) * 2 ^ 11 + b.toNat) * 2 ^ 11 + c.toNat) * 2 ^ 27 + imm.toNat := by
  unfold fR; simp only [toNat_app]

theorem fI_toNat (op : Nat) (sub : BitVec 6) (h : Hdr) (t : Ty) (d : BitVec 10) (a : BitVec 11) (imm : BitVec 49) :
    (fI op sub h t d a imm).toNat =
      (((hdr op sub h t).toNat * 2 ^ 10 + d.toNat) * 2 ^ 11 + a.toNat) * 2 ^ 49 + imm.toNat := by
  unfold fI; simp only [toNat_app]

theorem fB_toNat (op : Nat) (sub : BitVec 6) (h : Hdr) (a : BitVec 11) (tgt rcv : BitVec 24) :
    (fB op sub h a tgt rcv).toNat =
      (((((hdr op sub h .none).toNat * 2 ^ 10 + 0) * 2 ^ 11 + a.toNat) * 2 ^ 24 + tgt.toNat) * 2 ^ 24 + rcv.toNat) * 2 ^ 1 + 0 := by
  unfold fB; simp only [toNat_app]; simp

theorem fM_toNat (op : Nat) (h : Hdr) (m : OpM) (d : BitVec 10) (a b : BitVec 11) (aop : BitVec 4) :
    (fM op h m d a b aop).toNat =
      ((((((hdr op (ordCode m.ord ++ m.sc) h m.t).toNat * 2 ^ 10 + d.toNat) * 2 ^ 11 + a.toNat) * 2 ^ 11 + b.toNat) * 2 ^ 4 + aop.toNat) * 2 ^ 7 + 0) * 2 ^ 27 + m.off.toNat := by
  unfold fM; simp only [toNat_app]; simp

theorem fX_toNat (op : Nat) (sub : BitVec 6) (h : Hdr) (t : Ty) (d : BitVec 10) (a b c : BitVec 11) (ks : BitVec 11) (ai bi : BitVec 8) :
    (fX op sub h t d a b c ks ai bi).toNat =
      (((((((hdr op sub h t).toNat * 2 ^ 10 + d.toNat) * 2 ^ 11 + a.toNat) * 2 ^ 11 + b.toNat) * 2 ^ 11 + c.toNat) * 2 ^ 11 + ks.toNat) * 2 ^ 8 + ai.toNat) * 2 ^ 8 + bi.toNat := by
  unfold fX; simp only [toNat_app]

/-- The fields of a word of format F-R. -/
@[simp] theorem fR_fields (op : Nat) (sub : BitVec 6) (h : Hdr) (t : Ty) (d : BitVec 10) (a b c : BitVec 11) (imm : BitVec 27) :
    wOp (fR op sub h t d a b c imm) = BitVec.ofNat 8 op ∧
    wSub (fR op sub h t d a b c imm) = sub ∧
    BitVec.extractLsb' 79 3 (fR op sub h t d a b c imm) = h.lev ∧
    BitVec.extractLsb' 71 4 (fR op sub h t d a b c imm) = h.gd ∧
    BitVec.extractLsb' 70 1 (fR op sub h t d a b c imm) = bit h.gn ∧
    BitVec.extractLsb' 75 4 (fR op sub h t d a b c imm) = tyCode t ∧
    wA (fR op sub h t d a b c imm) = a ∧
    wD (fR op sub h t d a b c imm) = d ∧
    wB (fR op sub h t d a b c imm) = b ∧
    wC (fR op sub h t d a b c imm) = c ∧
    wImm (fR op sub h t d a b c imm) = imm := by
  have := h.lev.isLt
  have := (tyCode t).isLt
  have := h.gd.isLt
  have := (bit h.gn).isLt
  have := (BitVec.ofNat 8 op).isLt
  have := sub.isLt
  have := d.isLt
  have := a.isLt
  have := b.isLt
  have := c.isLt
  have := imm.isLt
  simp only [wOp, wSub, wA, wD, wB, wC, wImm]
  refine ⟨?_, ?_, ?_, ?_, ?_, ?_, ?_, ?_, ?_, ?_, ?_⟩ <;>
    (apply BitVec.eq_of_toNat_eq; simp only [field_toNat, fR_toNat, hdr_toNat]; omega)

/-- The fields of a word of format F-I. -/
@[simp] theorem fI_fields (op : Nat) (sub : BitVec 6) (h : Hdr) (t : Ty) (d : BitVec 10) (a : BitVec 11) (imm : BitVec 49) :
    wOp (fI op sub h t d a imm) = BitVec.ofNat 8 op ∧
    wSub (fI op sub h t d a imm) = sub ∧
    BitVec.extractLsb' 79 3 (fI op sub h t d a imm) = h.lev ∧
    BitVec.extractLsb' 71 4 (fI op sub h t d a imm) = h.gd ∧
    BitVec.extractLsb' 70 1 (fI op sub h t d a imm) = bit h.gn ∧
    BitVec.extractLsb' 75 4 (fI op sub h t d a imm) = tyCode t ∧
    wA (fI op sub h t d a imm) = a ∧
    wD (fI op sub h t d a imm) = d ∧
    wImm49 (fI op sub h t d a imm) = imm := by
  have := h.lev.isLt
  have := (tyCode t).isLt
  have := h.gd.isLt
  have := (bit h.gn).isLt
  have := (BitVec.ofNat 8 op).isLt
  have := sub.isLt
  have := d.isLt
  have := a.isLt
  have := imm.isLt
  simp only [wOp, wSub, wA, wD, wImm49]
  refine ⟨?_, ?_, ?_, ?_, ?_, ?_, ?_, ?_, ?_⟩ <;>
    (apply BitVec.eq_of_toNat_eq; simp only [field_toNat, fI_toNat, hdr_toNat]; omega)

/-- The fields of a word of format F-B. -/
@[simp] theorem fB_fields (op : Nat) (sub : BitVec 6) (h : Hdr) (a : BitVec 11) (tgt rcv : BitVec 24) :
    wOp (fB op sub h a tgt rcv) = BitVec.ofNat 8 op ∧
    wSub (fB op sub h a tgt rcv) = sub ∧
    BitVec.extractLsb' 79 3 (fB op sub h a tgt rcv) = h.lev ∧
    BitVec.extractLsb' 71 4 (fB op sub h a tgt rcv) = h.gd ∧
    BitVec.extractLsb' 70 1 (fB op sub h a tgt rcv) = bit h.gn ∧
    BitVec.extractLsb' 75 4 (fB op sub h a tgt rcv) = tyCode Ty.none ∧
    wA (fB op sub h a tgt rcv) = a ∧
    wTgt (fB op sub h a tgt rcv) = tgt ∧
    wRcv (fB op sub h a tgt rcv) = rcv := by
  have := h.lev.isLt
  have := (tyCode Ty.none).isLt
  have := h.gd.isLt
  have := (bit h.gn).isLt
  have := (BitVec.ofNat 8 op).isLt
  have := sub.isLt
  have := a.isLt
  have := tgt.isLt
  have := rcv.isLt
  simp only [wOp, wSub, wA, wTgt, wRcv]
  refine ⟨?_, ?_, ?_, ?_, ?_, ?_, ?_, ?_, ?_⟩ <;>
    (apply BitVec.eq_of_toNat_eq; simp only [field_toNat, fB_toNat, hdr_toNat]; omega)

/-- The fields of a word of format F-M. -/
@[simp] theorem fM_fields (op : Nat) (h : Hdr) (m : OpM) (d : BitVec 10) (a b : BitVec 11) (aop : BitVec 4) :
    wOp (fM op h m d a b aop) = BitVec.ofNat 8 op ∧
    wSub (fM op h m d a b aop) = ordCode m.ord ++ m.sc ∧
    BitVec.extractLsb' 79 3 (fM op h m d a b aop) = h.lev ∧
    BitVec.extractLsb' 71 4 (fM op h m d a b aop) = h.gd ∧
    BitVec.extractLsb' 70 1 (fM op h m d a b aop) = bit h.gn ∧
    BitVec.extractLsb' 75 4 (fM op h m d a b aop) = tyCode m.t ∧
    wA (fM op h m d a b aop) = a ∧
    wD (fM op h m d a b aop) = d ∧
    wB (fM op h m d a b aop) = b ∧
    wImm (fM op h m d a b aop) = m.off ∧
    wAop (fM op h m d a b aop) = aop ∧
    BitVec.extractLsb' 85 3 (fM op h m d a b aop) = ordCode m.ord ∧
    BitVec.extractLsb' 82 3 (fM op h m d a b aop) = m.sc := by
  have := h.lev.isLt
  have := (tyCode m.t).isLt
  have := h.gd.isLt
  have := (bit h.gn).isLt
  have := (BitVec.ofNat 8 op).isLt
  have := d.isLt
  have := a.isLt
  have := b.isLt
  have := aop.isLt
  have := m.off.isLt
  have := (ordCode m.ord).isLt
  have := m.sc.isLt
  simp only [wOp, wSub, wA, wD, wB, wImm, wAop]
  refine ⟨?_, ?_, ?_, ?_, ?_, ?_, ?_, ?_, ?_, ?_, ?_, ?_, ?_⟩ <;>
    (apply BitVec.eq_of_toNat_eq; simp only [field_toNat, fM_toNat, hdr_toNat, toNat_app]; omega)

/-- The fields of a word of format F-X. -/
@[simp] theorem fX_fields (op : Nat) (sub : BitVec 6) (h : Hdr) (t : Ty) (d : BitVec 10) (a b c : BitVec 11) (ks : BitVec 11) (ai bi : BitVec 8) :
    wOp (fX op sub h t d a b c ks ai bi) = BitVec.ofNat 8 op ∧
    wSub (fX op sub h t d a b c ks ai bi) = sub ∧
    BitVec.extractLsb' 79 3 (fX op sub h t d a b c ks ai bi) = h.lev ∧
    BitVec.extractLsb' 71 4 (fX op sub h t d a b c ks ai bi) = h.gd ∧
    BitVec.extractLsb' 70 1 (fX op sub h t d a b c ks ai bi) = bit h.gn ∧
    BitVec.extractLsb' 75 4 (fX op sub h t d a b c ks ai bi) = tyCode t ∧
    wA (fX op sub h t d a b c ks ai bi) = a ∧
    wD (fX op sub h t d a b c ks ai bi) = d ∧
    wB (fX op sub h t d a b c ks ai bi) = b ∧
    wC (fX op sub h t d a b c ks ai bi) = c ∧
    BitVec.extractLsb' 16 11 (fX op sub h t d a b c ks ai bi) = ks ∧
    BitVec.extractLsb' 8 8 (fX op sub h t d a b c ks ai bi) = ai ∧
    BitVec.extractLsb' 0 8 (fX op sub h t d a b c ks ai bi) = bi := by
  have := h.lev.isLt
  have := (tyCode t).isLt
  have := h.gd.isLt
  have := (bit h.gn).isLt
  have := (BitVec.ofNat 8 op).isLt
  have := sub.isLt
  have := d.isLt
  have := a.isLt
  have := b.isLt
  have := c.isLt
  have := ks.isLt
  have := ai.isLt
  have := bi.isLt
  simp only [wOp, wSub, wA, wD, wB, wC]
  refine ⟨?_, ?_, ?_, ?_, ?_, ?_, ?_, ?_, ?_, ?_, ?_, ?_, ?_⟩ <;>
    (apply BitVec.eq_of_toNat_eq; simp only [field_toNat, fX_toNat, hdr_toNat]; omega)

/-- A bit of a word as its one-bit field. -/
theorem getLsbD_field {n : Nat} (x : BitVec n) (i : Nat) : x.getLsbD i = (x.extractLsb' i 1 == 1#1) := by
  rw [Bool.eq_iff_iff, beq_iff_eq, ← BitVec.toNat_inj, field_toNat]
  simp [BitVec.getLsbD, Nat.testBit_eq_decide_div_mod_eq]

/-- The guard bit of a header. -/
@[simp] theorem bit_eq (b : Bool) : (bit b == 1#1) = b := by cases b <;> rfl
/-- Low fields of a register word are fields of its immediate. -/
theorem fR_low (op : Nat) (sub : BitVec 6) (h : Hdr) (t : Ty) (d : BitVec 10) (a b c : BitVec 11) (imm : BitVec 27) (lo len : Nat)
    (hl : lo + len ≤ 27) : (fR op sub h t d a b c imm).extractLsb' lo len = imm.extractLsb' lo len := by
  apply BitVec.eq_of_getLsbD_eq
  intro i hi
  have e : imm.getLsbD (lo + i) = (wImm (fR op sub h t d a b c imm)).getLsbD (lo + i) := by rw [(fR_fields op sub h t d a b c imm).2.2.2.2.2.2.2.2.2.2]
  rw [BitVec.getLsbD_extractLsb', BitVec.getLsbD_extractLsb', e, wImm, BitVec.getLsbD_extractLsb', Nat.zero_add]
  have : lo + i < 27 := by omega
  simp [this]

/-- Low fields of an immediate word are fields of its immediate. -/
theorem fI_low (op : Nat) (sub : BitVec 6) (h : Hdr) (t : Ty) (d : BitVec 10) (a : BitVec 11) (imm : BitVec 49) (lo len : Nat)
    (hl : lo + len ≤ 49) : (fI op sub h t d a imm).extractLsb' lo len = imm.extractLsb' lo len := by
  apply BitVec.eq_of_getLsbD_eq
  intro i hi
  have e : imm.getLsbD (lo + i) = (wImm49 (fI op sub h t d a imm)).getLsbD (lo + i) := by rw [(fI_fields op sub h t d a imm).2.2.2.2.2.2.2.2]
  rw [BitVec.getLsbD_extractLsb', BitVec.getLsbD_extractLsb', e, wImm49, BitVec.getLsbD_extractLsb', Nat.zero_add]
  have : lo + i < 49 := by omega
  simp [this]

/-- The header of a word is read back from its three fields. -/
theorem wHdr_eq (w : Insn) (h : Hdr) (h1 : w.extractLsb' 79 3 = h.lev) (h2 : w.extractLsb' 71 4 = h.gd)
    (h3 : w.extractLsb' 70 1 = bit h.gn) : wHdr w = h := by
  cases h; simp only [wHdr, getLsbD_field] at *; simp_all

@[simp] theorem wHdr_fR (op : Nat) (sub : BitVec 6) (h : Hdr) (t : Ty) (d : BitVec 10) (a b c : BitVec 11) (imm : BitVec 27) :
    wHdr (fR op sub h t d a b c imm) = h := wHdr_eq _ _ (by simp) (by simp) (by simp)
@[simp] theorem wHdr_fI (op : Nat) (sub : BitVec 6) (h : Hdr) (t : Ty) (d : BitVec 10) (a : BitVec 11) (imm : BitVec 49) :
    wHdr (fI op sub h t d a imm) = h := wHdr_eq _ _ (by simp) (by simp) (by simp)
@[simp] theorem wHdr_fB (op : Nat) (sub : BitVec 6) (h : Hdr) (a : BitVec 11) (x y : BitVec 24) :
    wHdr (fB op sub h a x y) = h := wHdr_eq _ _ (by simp) (by simp) (by simp)
@[simp] theorem wHdr_fM (op : Nat) (h : Hdr) (m : OpM) (d : BitVec 10) (a b : BitVec 11) (x : BitVec 4) :
    wHdr (fM op h m d a b x) = h := wHdr_eq _ _ (by simp) (by simp) (by simp)
@[simp] theorem wHdr_fX (op : Nat) (sub : BitVec 6) (h : Hdr) (t : Ty) (d : BitVec 10) (a b c x : BitVec 11) (y z : BitVec 8) :
    wHdr (fX op sub h t d a b c x y z) = h := wHdr_eq _ _ (by simp) (by simp) (by simp)

/-- F-X with OFFX is F-R. -/
theorem fXo_eq (op : Nat) (sub : BitVec 6) (h : Hdr) (t : Ty) (d : BitVec 10) (a b c : BitVec 11) (x : BitVec 27) :
    fXo op sub h t d a b c x = fR op sub h t d a b c x := rfl

/-- The two digits of the opcode. -/
theorem wOp_hi (w : Insn) : w.extractLsb' 92 4 = (wOp w).extractLsb' 4 4 := by
  apply BitVec.eq_of_toNat_eq; simp only [wOp, field_toNat]; omega

theorem wOp_lo (w : Insn) : w.extractLsb' 88 4 = (wOp w).extractLsb' 0 4 := by
  apply BitVec.eq_of_toNat_eq; simp only [wOp, field_toNat]; omega

/-- The opcode that an encoded instruction carries (R67). -/
theorem wOp_of_toNat (w : Insn) (op : Nat) (h : wOp w = BitVec.ofNat 8 op) : (wOp w).toNat = op % 256 := by
  rw [h, BitVec.toNat_ofNat]

/-! ## The small codes -/

@[simp] theorem tyOf_tyCode (t : Ty) : tyOf (tyCode t) = some t := by cases t <;> rfl
@[simp] theorem ccOf_ccCode (c : Cc) : ccOf (ccCode c) = some c := by cases c <;> rfl
@[simp] theorem cmpOf_cmpCode (c : Cmp) : cmpOf (cmpCode c) = some c := by cases c <;> rfl
@[simp] theorem voteOf_voteCode (c : VoteMode) : voteOf (voteCode c) = some c := by cases c <;> rfl
@[simp] theorem redOf_redCode (c : RedOp) : redOf (redCode c).toNat = some c := by cases c <;> rfl
@[simp] theorem redOf_redCode3 (c : RedOp) : redOf ((redCode c).extractLsb' 0 3).toNat = some c := by cases c <;> rfl
@[simp] theorem shflOf_shflCode (c : ShflMode) : shflOf (shflCode c) = some c := by cases c <;> rfl
@[simp] theorem idemOf_idemCode (c : IdemKind) : idemOf (idemCode c) = some c := by cases c <;> rfl
@[simp] theorem sidOf_sidCode (c : SidDim) : sidOf (sidCode c) = some c := by cases c <;> rfl
@[simp] theorem ordOf_ordCode (c : Ord) : ordOf (ordCode c) = some c := by cases c <;> rfl
@[simp] theorem aopOf_aopCode (c : Aop) : aopOf (aopCode c) = some c := by cases c <;> rfl
@[simp] theorem cycOf_cycCode (c : CycSrc) : cycOf (cycCode c) = some c := by cases c <;> rfl
@[simp] theorem tlbOf_tlbCode (c : TlbKind) : tlbOf (tlbCode c) = some c := by cases c <;> rfl
@[simp] theorem cloneOf_cloneCode (c : CloneMode) : cloneOf (cloneCode c) = some c := by cases c <;> rfl
@[simp] theorem accOf_accCode (c : AccFmt) : accOf (accCode c) = some c := by cases c <;> rfl

/-- An operand field is read back (R63). -/
@[simp] theorem opdOf_opdCode (o : Opd) : opdOf (opdCode o) = some o := by
  cases o with
  | vec r => revert r; decide
  | near r => revert r; decide
  | scal l r => revert l r; decide
  | pred p => revert p; decide
  | map m => revert m; decide
  | acc a => revert a; decide
  | buf b => revert b; decide
  | pin q => revert q; decide
  | spec x => revert x; decide
  | none => decide
  | imm => decide

/-- A source field is its FEB bit and its operand. -/
@[simp] theorem srcCode_fields (s : Src) : (srcCode s).extractLsb' 0 10 = opdCode s.o ∧ (srcCode s)[10] = s.feb := by
  constructor
  · apply BitVec.eq_of_toNat_eq
    rw [field_toNat, srcCode, toNat_app]
    have := (opdCode s.o).isLt
    omega
  · rw [← BitVec.getLsbD_eq_getElem, getLsbD_field]
    have : (srcCode s).extractLsb' 10 1 = bit s.feb := by
      apply BitVec.eq_of_toNat_eq
      rw [field_toNat, srcCode, toNat_app]
      have := (opdCode s.o).isLt
      have := (bit s.feb).isLt
      omega
    rw [this, bit_eq]

/-- A source field is read back (R62). -/
@[simp] theorem srcOf_srcCode (s : Src) : srcOf (srcCode s) = some s := by
  simp [srcOf]

@[simp] theorem predOf_opdCode (p : BitVec 4) : predOf (opdCode (.pred p)) = some p := by simp [predOf]
@[simp] theorem predSrcOf_predSrc (p : BitVec 4) : predSrcOf (predSrc p) = some p := by simp [predSrcOf, predSrc]
@[simp] theorem mapOf_srcCode (m : BitVec 4) : mapOf (srcCode ⟨false, .map m⟩) = some m := by simp [mapOf]
@[simp] theorem accOpd_opdCode (a : BitVec 3) : accOpd (opdCode (.acc a)) = some a := by simp [accOpd]
@[simp] theorem accSrc_srcCode (a : BitVec 3) : accSrc (srcCode ⟨false, .acc a⟩) = some a := by simp [accSrc]
@[simp] theorem pinOf_opdCode (q : BitVec 2) : pinOf (opdCode (.pin q)) = some q := by simp [pinOf]

end Sys2Proof.Laws.Encode
end

