-- ==== Sys2Proof/Safety.lean ====
section
/-! DEFINITION. The terms that claims use: a safe run, where an instruction stands when it has its effect, and what its end
leaves. -/

namespace Sys2Proof

/-- A run of k steps from s reaches a state. -/
def Safe (k : Nat) (s : Machine.State) : Prop := ∃ t, Host.Core.run core k s = .next t

namespace Machine

/-! ## Where an instruction stands -/

/-- An instruction of a context above L0 whose guard is true: `ck` and `c` are the context whose scalars it names. -/
structure AtContext (s : State) (h : Hdr) (ck : Nat) (c : Ctx) : Prop where
  key   : ownKey s s.cur.u (Hdr.lv h) = ck
  ctx   : s.ctx? ck = some c
  guard : guardCtx c h = true

/-- An instruction of LEV 0 issued by group `gk` with active lanes `m`, at least one. -/
structure InLanes (s : State) (h : Hdr) (gk : Nat) (g : Group) (m : Lanes) : Prop where
  unit  : s.cur.u = .grp gk
  grp   : s.grp? gk = some g
  lanes : activeOf s g h = m
  some_ : m ≠ 0

/-- The operand checks of a context's instruction pass (R112, R113, R195). -/
def ScalReady (s : State) (h : Hdr) (srcs : List (Nat × Src)) (d : List Opd) : Prop :=
  checkAll s s.cur.u (Hdr.lv h) 0 (usesOf 1 1 srcs) (d.map (fun o => (⟨o, 1, 0⟩ : DUse))) = none

/-- The operand checks of a lane instruction pass (R112, R113, R137, R195), and so do the residue check and the checking mode
of its group, which leave `t` (R187 to R190). -/
structure LaneReady (s : State) (gk : Nat) (g : Group) (m : Lanes) (uses : List Use) (d : Opd) (dn : Nat) (resid : Bool)
    (t : State) : Prop where
  ready  : checkAll s s.cur.u 0 m uses [⟨d, dn, m⟩] = none
  commit : gate s gk g m resid = .next t

/-- The accesses of a global memory instruction meet no fault: every address has the form of R226 and is aligned, every page
translates, and no poison is consumed (R168). `t` is the state after the look-ups, `ps` the physical address of each lane. -/
structure GlobalOk (s : State) (lev al : Nat) (need : Need) (es : List (Nat × W64)) (uses : List Use) (t : State)
    (ps : List (Nat × Nat)) : Prop where
  form    : ∀ p ∈ es, vaOk p.2 = true
  aligned : ∀ p ∈ es, p.2.toNat % al = 0
  mapped  : xlate s s.cur.u need (es.map (fun p => (p.1, p.2.toNat))) = (ps.map (fun p => (p.1, .ok p.2)), t)
  clean   : checkPoison t t.cur.u lev uses = none

/-- The accesses of a scratchpad instruction meet no fault: every offset is aligned and in bounds, and no poison is consumed
(R168, R224). -/
structure ScrOk (s : State) (w al : Nat) (es : List (Nat × Int)) (uses : List Use) : Prop where
  aligned : ∀ p ∈ es, p.2 % (al : Int) = 0
  bounds  : ∀ p ∈ es, 0 ≤ p.2 ∧ p.2 + w ≤ 1024 * (s.lrec (gcOf s s.cur.u)).scrg
  clean   : checkPoison s s.cur.u 0 uses = none

/-- An instruction that acts once for its group or context (R308): at LEV 0 in the active lanes `m`, at least one; above it at
the context, with no lanes. -/
def ActsOnce (s : State) (h : Hdr) (m : Lanes) : Prop :=
  (h.lev = 0 ∧ ∃ gk g, InLanes s h gk g m) ∨ (h.lev ≠ 0 ∧ m = 0 ∧ ∃ ck c, AtContext s h ck c)

/-- The operand checks of an instruction that acts once pass (R112, R113, R137, R195, R323). -/
structure OnceReady (s : State) (h : Hdr) (m : Lanes) (n : Nat) (srcs : List (Nat × Src)) (dst : List DUse) : Prop where
  acts  : ActsOnce s h m
  ready : checkUses s s.cur.u (Hdr.lv h) m (onceUses h m n srcs) dst = none
  clean : oncePoison s h m n srcs = none

/-- The arrival word at an offset lies in the scratchpad and is aligned (R323). -/
def ArrivalOk (s : State) (off : Nat) : Prop := off % 16 = 0 ∧ off + 16 ≤ scrSize s

/-- A copy command passes every check of R301, R320 and R321 and finds room in the drover's queue: `c` is the copy that its
operands describe, `t` the state after the look-ups, `ps` the physical address of each sector. -/
structure CopyOk (s : State) (h : Hdr) (m : Lanes) (k : CopyKind) (a b : Src) (msk : Option Src) (imm : BitVec 27) (c : Copy)
    (t : State) (ps : List (Nat × Nat)) : Prop where
  acts     : ActsOnce s h m
  ready    : checkUses s s.cur.u (Hdr.lv h) m (copyUses h m a b msk) [] = none
  desc     : copyOf s h m k a b msk imm = c
  form     : copyBadVa c = false
  aligned  : c.base.toNat % elSize c.ty = 0 ∧ c.stride % elSize c.ty = 0 ∧ ¬(c.ty = 0xF ∧ c.cols % 2 = 1)
  arrival  : ∀ off, c.arr = some off → ArrivalOk s off
  dense    : toPlane k = true ∨ c.other % 2 ^ 32 + c.dense ≤ scrSize s
  rows     : k = .s2s → ∀ i < c.rows, c.rowAt i + c.rowBytes ≤ scrSize s
  mapped   : copyMap s c = (ps.map (fun p => (p.1, .ok p.2)), t)
  allowed  : ∀ p ∈ ps, redDenies t k p.2 = false
  producer : isProducer s c = true
  targets  : (copyTo s h k msk).isSome = true
  descOk   : descBad t k (copyWords s h a) c c.sectorList.length = false
  clean    : checkPoison t t.cur.u (Hdr.lv h) (copyUses h m a b msk) = none
  room     : droverRoom t c.bk = true

/-- A transfer of level `lev` may name the IAs `ts`: each has the form of R51 and its TGT bit, and lies in the segment that
bounds the instruction (R24, R50). `t` is the state after the look-ups. -/
structure TransferOk (s : State) (lev : Nat) (ts : List W64) (t : State) : Prop where
  marked : checkTgts s (placeOf s s.cur.u) (gcOf s s.cur.u) ts = (.ok, t)
  inside : ts.all (inBound t lev) = true

/-- A synchronisation word at `va` meets no fault: its address is formed, aligned and mapped to memory outside every poisoned
sector (R350). `t` is the state after the look-up, `pa` its physical address. -/
structure WordOk (s : State) (h : Hdr) (width : Nat) (wr : Bool) (uses : List Use) (va : W64) (t : State) (pa : Nat) : Prop where
  reach : GlobalOk s (Hdr.lv h) width (if wr then .write else .read) [(0, va)] uses t [(0, pa)]
  home  : isMem s.floor pa = true
  clean : badRange t pa width = false

/-- The operand checks of an instruction on a synchronisation word pass (R112, R350); its poison is looked at later. -/
structure WordReady (s : State) (h : Hdr) (m : Lanes) (srcs : List (Nat × Src)) (dst : List DUse) : Prop where
  acts  : ActsOnce s h m
  ready : checkUses s s.cur.u (Hdr.lv h) m (onceUses h m 1 srcs) dst = none

/-! ## When a unit runs an instruction -/

/-- Group `gk` issues at `ia` in the lanes `m` (R14, R22, R24, R38): it runs, its band issues, no handler runs for a unit above it (R412), its
segment is under way, and it is the turn of its entry e, which waits neither at its token nor at an RJOIN and stands in the segment; or every lane has exited and its
sequencer only walks. -/
structure GroupIssues (s : State) (gk e : Nat) (g : Group) (ia : W64) (m : Lanes) : Prop where
  grp     : s.grp? gk = some g
  runs    : g.stop = .run ∧ g.clonePend = none ∧ g.pendH = none ∧ s.host.halted = false ∧ grpEnded s g = false
  band    : bandIssues s g.gc g.b true g.last = true
  above   : handledAbove s g.gc (some (grpKey g.gc g.b g.r)) (grpAnc s g) = false
  segment : g.handler = none → (grpTop (s.lrec g.gc) = true ∨ segIdle s (.grp gk) = false) ∧ pastStop s (.grp gk) = false
  place   : (∃ x, nth? g.splits e = some (some x) ∧ turnOf s g = some e ∧ ia = x.pc ∧ m = x.mask &&& g.live) ∨
    (entries g.splits = [] ∧ g.handler = none ∧ ia = g.pc0 ∧ m = 0)

/-- Context `ck` above its groups walks at its IA (R22): it issues and its segment is under way. -/
structure ContextIssues (s : State) (ck : Nat) (c : Ctx) : Prop where
  ctx     : s.ctx? ck = some c
  dom     : c.dom ≠ domGroup
  runs    : ctxIssues s c = true
  segment : c.lvl = (s.lrec c.gc).top ∨ (segIdle s (.ctx ck) = false ∧ pastStop s (.ctx ck) = false)

/-! ## What an instruction leaves -/

/-- The instruction in hand is done after the effect `t`: its unit goes on at the next slot, and a context's segment ends. -/
def done (s : State) (h : Hdr) (t : State) : State := goOn s (Hdr.lv h) true t (iaNext s.cur.ia)

/-- The instruction in hand is done after the effect `t` and its unit goes on at `ia`. -/
def doneAt (s : State) (h : Hdr) (t : State) (ia : W64) : State := goOn s (Hdr.lv h) true t ia

/-- The instruction in hand is done after the effect `t` and the context's segment goes on (R22). -/
def passed (s : State) (h : Hdr) (t : State) : State := goOn s (Hdr.lv h) false t (iaNext s.cur.ia)

/-- The instruction in hand faults in the state `t`; a group's issue is counted (R217). -/
def faulted (s : State) (t : State) (f : FaultReq) : State := faultNow s (issued s t) f

/-- A context's own scalar written full, with its old value logged (R27). -/
def withScal (s : State) (ck : Nat) (r : BitVec 5) (v : W64) : State := s.updCtx ck (fun c => c.write r ⟨v, true, false⟩)

/-- A value of n registers written once in the state `t`: at L0 in every lane of `m`, above it in the own scalar, logged (R27). -/
def wroteOnce (t : State) (h : Hdr) (m : Lanes) (d : Opd) (n : Nat) (v : W64) : State :=
  if h.lev = 0 then (match t.cur.u with | .grp gk => writeLanes t gk d n m (fun _ => v) | .ctx _ => t)
  else match d with | .scal _ r => withScal t (ownKey t t.cur.u (Hdr.lv h)) r v | _ => t

/-- Records of group `gk` are written to its save area or read back from it, one after the other (R37). -/
inductive Respills (gk : Nat) (s : State) : State → Prop
  | none : Respills gk s s
  | spill (t : State) (i : Nat) (r : Rec) : Respills gk s t → Respills gk s (spillRec t gk i r)
  | reload (t : State) (i : Nat) (r : Rec) : Respills gk s t → Respills gk s (reloadRec t gk i r)

/-- The write log of the context that an instruction above L0 acts for has room for one more record (R27). -/
def LogFits (s : State) (h : Hdr) : Prop :=
  h.lev ≠ 0 → ∀ c, s.ctx? (ownKey s s.cur.u (Hdr.lv h)) = some c → c.logRoom = true

/-- What a fetch, a translation or a machine-check record may change: the cores' and controllers' caches and counters, the
banks and their interrupts, the upsets that have struck with the sectors that they poison or that are mended, and the count of free
values taken. -/
def Quiet (s t : State) : Prop :=
  ∃ cores clusters fabric banks fresh upsets vectors pois bad covers,
    t = { s with cores := cores, clusters := clusters, fabric := fabric, banks := banks, fresh := fresh, upsets := upsets,
                 pois := pois, badSec := bad, covers := covers, host := { s.host with vectors := vectors } }

end Machine

end Sys2Proof
end

