-- ==== Sys2Proof/Certificates/Slice0/Obligations.lean ====
section
/-! DEFINITION. The statements about the machine, one definition each; Sys2Proof/Safety.lean holds their terms. Of each
instruction some statement concludes that exec answers the next state of its own effect. -/

open Sys2Proof Sys2Proof.Machine

open Host (Outcome)

/-! ## Integer computations -/

/-- The integer computations on values of every width w. Shifts (R142): SHL is a·2^c mod 2^w, SHR is a/2^c of the unsigned
value, SRA of the signed value rounded toward −∞, and from c = w on 0, 0 and the sign. Division (R144): a zero divisor gives
all ones and the remainder a, and the remainder is a − b·(a / b). The high half of the product is ⌊a·b/2^w⌋ (R144, R149).
SAT clamps into the type's range and wrapping keeps the result mod 2^w (R149). Leading zeros run from 0 to w, and bit j of
BREV is bit w − 1 − j. Comparisons are those of R150, and an identity of R153 changes no value that it is combined with, on either
side. -/
def Obligations.IntegerComputations : Prop :=
  ∀ (w : Nat) (a b : BitVec w) (sgn : Bool) (v : Int), 0 < w →
    (shl a b = if b.toNat < w then BitVec.ofNat w (a.toNat * 2 ^ b.toNat) else 0) ∧
    (shr a b = if b.toNat < w then BitVec.ofNat w (a.toNat / 2 ^ b.toNat) else 0) ∧
    (sra a b = if b.toNat < w then BitVec.ofInt w (a.toInt / 2 ^ b.toNat) else if a.msb then BitVec.allOnes w else 0) ∧
    (mulh sgn a b = BitVec.ofInt w (intOf sgn a * intOf sgn b / 2 ^ w)) ∧
    (b = 0 → sdivV sgn a b = BitVec.allOnes w ∧ sremV sgn a b = a) ∧
    (b ≠ 0 → sdivV sgn a b = BitVec.ofInt w ((intOf sgn a).tdiv (intOf sgn b)) ∧ sremV sgn a b = a - b * sdivV sgn a b) ∧
    (minV sgn a b = if intOf sgn a < intOf sgn b then a else b) ∧
    (maxV sgn a b = if intOf sgn b < intOf sgn a then a else b) ∧
    (minOf sgn w ≤ v → v ≤ maxOf sgn w → intOf sgn (narrow true sgn w v) = v) ∧
    (v < minOf sgn w → intOf sgn (narrow true sgn w v) = minOf sgn w) ∧
    (maxOf sgn w < v → intOf sgn (narrow true sgn w v) = maxOf sgn w) ∧
    (((narrow false sgn w v).toNat : Int) = v % 2 ^ w) ∧
    (clz a = if a = 0 then w else w - 1 - a.toNat.log2) ∧
    (∀ j, j < w → (brev a).getLsbD (w - 1 - j) = a.getLsbD j) ∧
    (cmpV .eq sgn a b = true ↔ a = b) ∧ (cmpV .ne sgn a b = true ↔ a ≠ b) ∧
    (cmpV .lt sgn a b = true ↔ if sgn then a.toInt < b.toInt else a.toNat < b.toNat) ∧
    (cmpV .le sgn a b = true ↔ if sgn then a.toInt ≤ b.toInt else a.toNat ≤ b.toNat) ∧
    (cmpV .gt sgn a b = cmpV .lt sgn b a) ∧ (cmpV .ge sgn a b = cmpV .le sgn b a) ∧
    (∀ op, combine op sgn (identity op sgn w) a = a ∧ combine op sgn a (identity op sgn w) = a)

/-! ## Scalar instructions -/

/-- The scalar instructions complete where the guard is true, the operands are ready and the write finds room in the log: the own
scalar is written full with the value of R144, R145 or R109, at whatever LEV, and its old value is logged (R27). Of two sources they
compute; SMOV gives the source, SCLZ its leading zeros, SLDI the sign-extended immediate, SLDIH the immediate's low word above the low
word that the destination holds, SID the dimension chosen, SSEL a where the own predicate pC is 1 and b where it is 0. -/
def Obligations.ScalarResult : Prop :=
  (
    ∀ (s : State) (h : Hdr) (ck : Nat) (c : Ctx) (o : Op2) (l : BitVec 3) (r : BitVec 5),
      AtContext s h ck c → o.d = .scal l r → ScalReady s h [(1, o.a), (2, o.b)] [o.d] → c.logRoom = true →
      let a := ctxVal s h (o.imm.signExtend 64) o.a
      let b := ctxVal s h (o.imm.signExtend 64) o.b
      let writes := fun (v : W64) => (Outcome.next (done s h (withScal s ck r v)) : Outcome State Fault Refusal)
      exec (.sadd h o) s = writes (a + b) ∧ exec (.ssub h o) s = writes (a - b) ∧ exec (.smul h o) s = writes (a * b) ∧
      exec (.sand h o) s = writes (a &&& b) ∧ exec (.sor h o) s = writes (a ||| b) ∧ exec (.sxor h o) s = writes (a ^^^ b) ∧
      exec (.sshl h o) s = writes (shl a b) ∧ exec (.sshr h o) s = writes (shr a b) ∧ exec (.ssra h o) s = writes (sra a b) ∧
      ∀ t, exec (.smulh h t o) s = writes (mulh (tySigned t) a b) ∧ exec (.sdiv h t o) s = writes (sdivV (tySigned t) a b) ∧
        exec (.srem h t o) s = writes (sremV (tySigned t) a b) ∧ exec (.smin h t o) s = writes (minV (tySigned t) a b) ∧
        exec (.smax h t o) s = writes (maxV (tySigned t) a b)) ∧
  (
    ∀ (s : State) (h : Hdr) (ck : Nat) (c : Ctx) (l : BitVec 3) (r : BitVec 5),
      AtContext s h ck c → c.logRoom = true →
      let d : Opd := .scal l r
      let writes := fun (v : W64) => (Outcome.next (done s h (withScal s ck r v)) : Outcome State Fault Refusal)
      (∀ a imm, ScalReady s h [(1, a)] [d] →
        exec (.smov h ⟨d, a, imm⟩) s = writes (ctxVal s h (imm.signExtend 64) a) ∧
        exec (.sclz h ⟨d, a, imm⟩) s = writes (BitVec.ofNat 64 (clz (ctxVal s h (imm.signExtend 64) a)))) ∧
      (∀ imm, ScalReady s h [] [d] → exec (.sldi h d imm) s = writes (imm.signExtend 64)) ∧
      (∀ imm : BitVec 49, ScalReady s h [(1, ⟨false, d⟩)] [d] →
        exec (.sldih h d imm) s = writes ((imm.setWidth 32 : BitVec 32) ++ (ctxVal s h 0 ⟨false, d⟩).setWidth 32)) ∧
      (∀ dim x, ScalReady s h [] [d] → exec (.sid h dim d x) s = writes (sidVal s h dim x.toNat)) ∧
      (∀ a b p imm, ScalReady s h [(1, a), (2, b)] [d] →
        exec (.ssel h ⟨d, a, b, ⟨false, .pred p⟩, imm⟩) s =
          writes (if opdVal s s.cur.u (Hdr.lv h) 1 0 0 (.pred p) = 1 then ctxVal s h (imm.signExtend 64) a
            else ctxVal s h (imm.signExtend 64) b)))

/-- A false guard, or a lane instruction without an active lane, completes and has no effect but to move its unit on: the
scalar, predicate and vector instructions of every shape (R55, R141, R144). -/
def Obligations.FalseGuardHasNoEffect : Prop :=
  ∀ (s : State) (h : Hdr),
    (∀ c, s.ctx? (ownKey s s.cur.u (Hdr.lv h)) = some c → guardCtx c h = false → h.lev ≠ 0 →
      let off := fun (i : Instr) => exec i s = .next (done s h s)
      (∀ o, off (.sadd h o) ∧ off (.ssub h o) ∧ off (.smul h o) ∧ off (.sand h o) ∧ off (.sor h o) ∧ off (.sxor h o) ∧
        off (.sshl h o) ∧ off (.sshr h o) ∧ off (.ssra h o) ∧
        ∀ t, off (.smulh h t o) ∧ off (.sdiv h t o) ∧ off (.srem h t o) ∧ off (.smin h t o) ∧ off (.smax h t o) ∧
          ∀ cc, off (.scmp h cc t o)) ∧
      (∀ o, off (.smov h o) ∧ off (.sclz h o)) ∧ (∀ d imm, off (.sldi h d imm) ∧ off (.sldih h d imm)) ∧
      (∀ dim d x, off (.sid h dim d x)) ∧ (∀ o, off (.ssel h o)) ∧
      (∀ d a b, off (.pand h d a b) ∧ off (.por h d a b) ∧ off (.pxor h d a b) ∧ off (.pnot h d a) ∧ off (.pmov h d a)) ∧
      (∀ d v, off (.pset h d v)) ∧
      (∀ cc a t, off (.br h cc a t) ∧ off (.bra h cc a t) ∧ off (.brk h cc a t) ∧ off (.cont h cc a t)) ∧
      (∀ a t, off (.jmpi h a) ∧ off (.calli h a) ∧ off (.call h t) ∧ off (.ret h) ∧ off (.loop h a t) ∧ off (.endl h) ∧
        off (.unif h a) ∧ off (.levsync h)) ∧
      (∀ m, off (.sld h m) ∧ off (.sst h m) ∧ ∀ op, off (.satom h op m))) ∧
    (∀ gk g, s.cur.u = .grp gk → s.grp? gk = some g → activeOf s g h = 0 → h.lev = 0 →
      let off := fun (i : Instr) => exec i s = .next (done s h s)
      (∀ d a b, off (.pand h d a b) ∧ off (.por h d a b) ∧ off (.pxor h d a b) ∧ off (.pnot h d a) ∧ off (.pmov h d a)) ∧
      (∀ d v, off (.pset h d v)) ∧ (∀ m d a t all, off (.vote h m d a t all)) ∧
      (∀ t o, off (.vmul h t o) ∧ off (.vmulh h t o) ∧ off (.vmin h t o) ∧ off (.vmax h t o) ∧ off (.vand h t o) ∧
        off (.vor h t o) ∧ off (.vxor h t o) ∧ off (.vshl h t o) ∧ off (.vshr h t o) ∧ off (.vsra h t o) ∧
        off (.vbcast h t o) ∧ (∀ m, off (.vshfl h m t o)) ∧ (∀ cc, off (.vcmp h cc t o) ∧ off (.fcmp h cc t o)) ∧
        (∀ sat, off (.vadd h t sat o) ∧ off (.vsub h t sat o)) ∧ off (.fadd h t o) ∧ off (.fsub h t o) ∧ off (.fmul h t o) ∧
        off (.fmin h t o) ∧ off (.fmax h t o) ∧ off (.fdiv h t o) ∧ off (.fscl h t o)) ∧
      (∀ t o, off (.vmov h t o) ∧ off (.vnot h t o) ∧ off (.vclz h t o) ∧ off (.vpop h t o) ∧ off (.vbrev h t o) ∧
        (∀ sat, off (.vabs h t sat o)) ∧ (∀ op, off (.vred h op t o) ∧ ∀ x, off (.vscan h op x t o)) ∧ off (.fabs h t o) ∧
        off (.fneg h t o) ∧ off (.fclass h t o) ∧ off (.fsqrt h t o) ∧ off (.frcp h t o) ∧ off (.frsq h t o) ∧
        off (.fexp2 h t o) ∧ off (.flog2 h t o)) ∧
      (∀ t d imm, off (.vldi h t d imm)) ∧ (∀ t o, off (.vsel h t o) ∧ off (.ffma h t o) ∧ ∀ sat, off (.vmad h t sat o)) ∧
      (∀ t u d a, off (.fcvt h t u d a) ∧ off (.frnd h t d a) ∧ ∀ w, off (.icvt h t w u d a)) ∧
      (∀ m, off (.ld h m) ∧ off (.ldk h m) ∧ off (.lds h m) ∧ off (.st h m) ∧ off (.sts h m) ∧
        ∀ op, off (.atom h op m) ∧ off (.atoms h op m) ∧ off (.red h op m)))

/-! ## Predicates -/

/-- SCMP and the predicate instructions complete: a context's bit takes the comparison of R150 or the value of R146, unlogged; at LEV 0 the
destination takes the value of R146 in every active lane, or that of VOTE over the active lanes of the issuing split (R147), and no
other lane is written. -/
def Obligations.PredicateResult : Prop :=
  (
    ∀ (s : State) (h : Hdr) (ck : Nat) (c : Ctx), AtContext s h ck c →
      let writes := fun (d : BitVec 4) (v : Bool) =>
        (Outcome.next (done s h (s.updCtx ck (fun x => x.setPred d v))) : Outcome State Fault Refusal)
      (∀ cc t d a b imm, ScalReady s h [(1, a), (2, b)] [] → exec (.scmp h cc t ⟨.pred d, a, b, imm⟩) s =
        writes d (cmpV cc (tySigned t) (ctxVal s h (imm.signExtend 64) a) (ctxVal s h (imm.signExtend 64) b))) ∧
      (h.lev ≠ 0 → ∀ d a b, exec (.pand h d a b) s = writes d (c.pred a && c.pred b) ∧
        exec (.por h d a b) s = writes d (c.pred a || c.pred b) ∧ exec (.pxor h d a b) s = writes d (Bool.xor (c.pred a) (c.pred b)) ∧
        exec (.pnot h d a) s = writes d (!c.pred a) ∧ exec (.pmov h d a) s = writes d (c.pred a) ∧
        ∀ v, exec (.pset h d v) s = writes d v)) ∧
  (
    ∀ (s : State) (h : Hdr) (gk : Nat) (g : Machine.Group) (m : Lanes), InLanes s h gk g m → h.lev = 0 →
      let writes := fun (d : BitVec 4) (v : Nat → Bool) =>
        (Outcome.next (done s h (s.updGrp gk (fun x => x.setPred d m (maskOf v)))) : Outcome State Fault Refusal)
      (∀ d a b, exec (.pand h d a b) s = writes d (fun i => g.pred a i && g.pred b i) ∧
        exec (.por h d a b) s = writes d (fun i => g.pred a i || g.pred b i) ∧
        exec (.pxor h d a b) s = writes d (fun i => Bool.xor (g.pred a i) (g.pred b i)) ∧
        exec (.pnot h d a) s = writes d (fun i => !g.pred a i) ∧ exec (.pmov h d a) s = writes d (fun i => g.pred a i) ∧
        ∀ v, exec (.pset h d v) s = writes d (fun _ => v)) ∧
      (∀ a, let p := maskOf (fun i => m.getLsbD i && g.pred a i)
        (∀ d t, exec (.vote h .quo (.pred d) a t false) s = writes d (fun _ => decide (t.toNat ≤ laneCount p))) ∧
        (∀ d, exec (.vote h .quo (.pred d) a 0 true) s = writes d (fun _ => laneCount p == laneCount m)) ∧
        (∀ d, exec (.vote h .same (.pred d) a 0 false) s = writes d (fun _ => laneCount p == 0 || laneCount p == laneCount m)) ∧
        (∀ d, checkAll s s.cur.u 0 m [] [⟨d, 1, m⟩] = none → (∀ q, d ≠ .pred q) →
          let puts := fun (v : Nat → Nat) =>
            (Outcome.next (done s h (writeLanes s gk d 1 m (fun i => BitVec.ofNat 64 (v i)))) : Outcome State Fault Refusal)
          exec (.vote h .cnt d a 0 false) s = puts (fun _ => laneCount p) ∧
          exec (.vote h .rank d a 0 false) s = puts (fun i => laneCount (p &&& lowMask i)) ∧
          exec (.vote h .map d a 0 false) s = puts (fun _ => p.toNat) ∧
          exec (.vote h .lead d a 0 false) s = puts (fun _ => if p = 0 then 32 else lowLane p))))

/-! ## Vector instructions -/

/-- The lane-wise integer instructions complete: in every active lane the destination's registers are written with the value
of R149, computed at the width of the type from that lane's operands as they stood at issue, and no other lane is written. -/
def Obligations.VectorIntegerResult : Prop :=
  ∀ (s : State) (h : Hdr) (gk : Nat) (g : Machine.Group) (m : Lanes) (t : Ty) (d : Opd) (a b : Src) (imm : BitVec 27)
    (u : State), InLanes s h gk g m →
    let n := tyRegs t
    let w := tyW t
    let x := fun (i : Nat) => (laneVal u n i (immVal t imm) a).setWidth w
    let y := fun (i : Nat) => (laneVal u n i (immVal t imm) b).setWidth w
    let sg := tySigned t
    let writes := fun (v : Nat → BitVec w) =>
      (Outcome.next (done s h (logged s gk g m (writeLanes u gk d n m (fun i => (v i).setWidth 64)))) : Outcome State Fault Refusal)
    (LaneReady s gk g m (usesOf m n [(1, a), (2, b)]) d n true u →
      (∀ sat, exec (.vadd h t sat ⟨d, a, b, imm⟩) s = writes (fun i => narrow sat sg w (intOf sg (x i) + intOf sg (y i))) ∧
        exec (.vsub h t sat ⟨d, a, b, imm⟩) s = writes (fun i => narrow sat sg w (intOf sg (x i) - intOf sg (y i)))) ∧
      exec (.vmul h t ⟨d, a, b, imm⟩) s = writes (fun i => x i * y i) ∧
      exec (.vmulh h t ⟨d, a, b, imm⟩) s = writes (fun i => mulh sg (x i) (y i))) ∧
    (LaneReady s gk g m (usesOf m n [(1, a), (2, b)]) d n false u →
      exec (.vmin h t ⟨d, a, b, imm⟩) s = writes (fun i => minV sg (x i) (y i)) ∧
      exec (.vmax h t ⟨d, a, b, imm⟩) s = writes (fun i => maxV sg (x i) (y i)) ∧
      exec (.vand h t ⟨d, a, b, imm⟩) s = writes (fun i => x i &&& y i) ∧
      exec (.vor h t ⟨d, a, b, imm⟩) s = writes (fun i => x i ||| y i) ∧
      exec (.vxor h t ⟨d, a, b, imm⟩) s = writes (fun i => x i ^^^ y i) ∧
      exec (.vshl h t ⟨d, a, b, imm⟩) s = writes (fun i => shl (x i) (y i)) ∧
      exec (.vshr h t ⟨d, a, b, imm⟩) s = writes (fun i => shr (x i) (y i)) ∧
      exec (.vsra h t ⟨d, a, b, imm⟩) s = writes (fun i => sra (x i) (y i))) ∧
    (LaneReady s gk g m (usesOf m n [(1, a)]) d n false u →
      exec (.vmov h t ⟨d, a, imm⟩) s = writes x ∧ exec (.vnot h t ⟨d, a, imm⟩) s = writes (fun i => ~~~(x i)) ∧
      exec (.vclz h t ⟨d, a, imm⟩) s = writes (fun i => BitVec.ofNat w (clz (x i))) ∧
      exec (.vpop h t ⟨d, a, imm⟩) s = writes (fun i => BitVec.ofNat w (popCount (x i))) ∧
      exec (.vbrev h t ⟨d, a, imm⟩) s = writes (fun i => brev (x i)) ∧
      ∀ sat, exec (.vabs h t sat ⟨d, a, imm⟩) s = writes (fun i => narrow sat true w |(x i).toInt|)) ∧
    (LaneReady s gk g m [] d n false u → ∀ imm49, exec (.vldi h t d imm49) s =
      .next (done s h (logged s gk g m (writeLanes u gk d n m (fun _ => immVal49 t imm49))))) ∧
    (∀ p, LaneReady s gk g m (usesOf m n [(1, a), (2, b), (3, ⟨false, .pred p⟩)]) d n false u →
      exec (.vsel h t ⟨d, a, b, ⟨false, .pred p⟩, imm⟩) s =
        .next (done s h (logged s gk g m (writeLanes u gk d n m (fun i =>
          if laneVal u n i (immVal t imm) ⟨false, .pred p⟩ = 1 then laneVal u n i (immVal t imm) a
          else laneVal u n i (immVal t imm) b))))) ∧
    (∀ c sat, LaneReady s gk g m (usesOf m n [(1, a), (2, b), (3, c)]) d n true u →
      exec (.vmad h t sat ⟨d, a, b, c, imm⟩) s = writes (fun i => narrow sat sg w
        (intOf sg (x i) * intOf sg (y i) + intOf sg ((laneVal u n i (immVal t imm) c).setWidth w)))) ∧
    (∀ cc p, LaneReady s gk g m (usesOf m n [(1, a), (2, b)]) (.pred p) 1 false u →
      exec (.vcmp h cc t ⟨.pred p, a, b, imm⟩) s =
        .next (done s h (logged s gk g m (u.updGrp gk (fun g => g.setPred p m (maskOf (fun i => cmpV cc sg (x i) (y i))))))))

/-- VRED and VSCAN complete: every active lane receives the combination of A over the active lanes in rising order, up to
and including itself, up to and excluding itself, or over all of them (R153). -/
def Obligations.ReductionResult : Prop :=
  ∀ (s : State) (h : Hdr) (gk : Nat) (g : Machine.Group) (m : Lanes) (t : Ty) (d : Opd) (a : Src) (imm : BitVec 27) (u : State)
    (op : RedOp), InLanes s h gk g m → LaneReady s gk g m (usesOf m (tyRegs t) [(1, a)]) d (tyRegs t) false u →
    let n := tyRegs t
    let x := fun (i : Nat) => (laneVal u n i (immVal t imm) a).setWidth (tyW t)
    let fold := fun (p : Nat → Bool) => (((lanesOf m).filter p).foldl (fun acc i => combine op (tySigned t) acc (x i))
      (identity op (tySigned t) (tyW t))).setWidth 64
    (∃ v, exec (.vred h op t ⟨d, a, imm⟩) s = .next (done s h (logged s gk g m (writeLanes u gk d n m v))) ∧
      ∀ i ∈ lanesOf m, v i = fold (fun _ => true)) ∧
    (∃ v, exec (.vscan h op false t ⟨d, a, imm⟩) s = .next (done s h (logged s gk g m (writeLanes u gk d n m v))) ∧
      ∀ i ∈ lanesOf m, v i = fold (fun j => decide (j ≤ i))) ∧
    (∃ v, exec (.vscan h op true t ⟨d, a, imm⟩) s = .next (done s h (logged s gk g m (writeLanes u gk d n m v))) ∧
      ∀ i ∈ lanesOf m, v i = fold (fun j => decide (j < i)))

/-- VBCAST and VSHFL complete where the sources of the active lanes and of every lane that they read are full and without poison: lane i
receives A of its source lane, or its own A where that lane is not live or has exited (R151). The source lane of VBCAST is k mod 32. That
of VSHFL lies in lane i's own segment of W = 2^z lanes: PICK and ROT name the lane at b mod W and at r + b mod W of it, MIRROR the one
at W − 1 − r, and DEAL and UNDEAL undo each other (R152). -/
def Obligations.ShuffleResult : Prop :=
  (
    ∀ (s : State) (h : Hdr) (gk : Nat) (g : Machine.Group) (m : Lanes) (t : Ty) (d : Opd) (a b : Src) (imm : BitVec 27)
      (u : State), InLanes s h gk g m →
      let n := tyRegs t
      let own := fun (i j : Nat) => if j < 32 ∧ g.live.getLsbD j then j else i
      let runs := fun (i : Instr) (sel : Nat → Nat) (immA : W64) =>
        exec i s = .next (done s h (logged s gk g m (writeLanes u gk d n m (fun i => opdVal u (.grp gk) 0 n (own i (sel i)) immA a.o))))
      let ready := fun (sel : Nat → Nat) (bn : Nat) =>
        let read := maskOf (fun i => (lanesOf m).any (fun j => own j (sel j) == i))
        checkUses s (.grp gk) 0 m [⟨2, b, spanOf bn b.o, m, true⟩] [⟨d, n, m⟩] = none ∧
        checkUses s (.grp gk) 0 m [⟨1, a, spanOf n a.o, shflLanes a.o m read, true⟩] [⟨d, n, m⟩] = none ∧
        poisonLanes s (.grp gk) 0 [⟨2, b, spanOf bn b.o, m, true⟩, ⟨1, a, spanOf n a.o, shflLanes a.o m read, true⟩] = 0 ∧
        gate s gk g m false = .next u
      (let sel := fun (i : Nat) => (opdVal s (.grp gk) 0 1 i (imm.signExtend 64) b.o).toNat % 32;
        ready sel 1 → runs (.vbcast h t ⟨d, a, b, imm⟩) sel (immVal t imm)) ∧
      (∀ md, let z := (imm.extractLsb' 24 3).toNat;
        let count := fun (i : Nat) =>
          (opdVal s (.grp gk) 0 n i (((imm.extractLsb' 0 24 : BitVec 24)).signExtend 64) b.o).toNat % 2 ^ tyW t
        let sel := fun (i : Nat) => shflSel md z i (count i)
        ready sel n → runs (.vshfl h md t ⟨d, a, b, imm⟩) sel 0)) ∧
  (
    ∀ (z i b : Nat), z ≤ 5 → i < 32 →
      let W := 2 ^ z
      let base := i / W * W
      (∀ md, shflSel md z i b / W = i / W) ∧
      shflSel .pick z i b = base + b % W ∧ shflSel .rot z i b = base + (i - base + b) % W ∧
      shflSel .mirror z i b = base + (W - 1 - (i - base)) ∧
      (z = 0 → shflSel .deal z i b = i ∧ shflSel .undeal z i b = i) ∧
      shflSel .deal z (shflSel .undeal z i b) b = i ∧ shflSel .undeal z (shflSel .deal z i b) b = i)

/-! ## Float instructions -/

/-- The float arithmetic completes: in every active lane the destination takes the exact result rounded once to the type, to
nearest with ties to even (R154 to R156), the operand that FMIN and FMAX choose, −0 below +0 and a NaN only
where both are (R157), or the pattern with its sign bit cleared or inverted (R155); FSCL multiplies by a scale16 value
(R160). FEXP2 and FLOG2 are evaluated to 320 and 300 bits, the model's choice (log 7).
Division and the square roots are named by the model's own functions; no clause says that these round correctly. -/
def Obligations.FloatArithmeticResult : Prop :=
  ∀ (s : State) (h : Hdr) (gk : Nat) (g : Machine.Group) (m : Lanes) (t : Ty) (d : Opd) (a b : Src) (imm : BitVec 27)
    (u : State), InLanes s h gk g m →
    let n := tyRegs t
    let f := ieeeOf t
    let va := fun (i : Nat) => laneVal u n i (immVal t imm) a
    let vb := fun (i : Nat) => laneVal u n i (immVal t imm) b
    let x := fun (i : Nat) => fdec t (va i)
    let y := fun (i : Nat) => fdec t (vb i)
    let writes := fun (v : Nat → W64) => (Outcome.next (done s h (logged s gk g m (writeLanes u gk d n m v))) : Outcome State Fault Refusal)
    let rounds := fun (v : Nat → FV) => writes (fun i => BitVec.ofNat 64 (f.round (v i)))
    (LaneReady s gk g m (usesOf m n [(1, a), (2, b)]) d n true u →
      exec (.fadd h t ⟨d, a, b, imm⟩) s = rounds (fun i => FV.add (x i) (y i)) ∧
      exec (.fsub h t ⟨d, a, b, imm⟩) s = rounds (fun i => FV.add (x i) (FV.neg (y i))) ∧
      exec (.fmul h t ⟨d, a, b, imm⟩) s = rounds (fun i => FV.mul (x i) (y i))) ∧
    (∀ c, LaneReady s gk g m (usesOf m n [(1, a), (2, b), (3, c)]) d n true u →
      exec (.ffma h t ⟨d, a, b, c, imm⟩) s =
        rounds (fun i => FV.add (FV.mul (x i) (y i)) (fdec t (laneVal u n i (immVal t imm) c)))) ∧
    (LaneReady s gk g m (usesOf m n [(1, a), (2, b)]) d n false u →
      exec (.fdiv h t ⟨d, a, b, imm⟩) s = writes (fun i => BitVec.ofNat 64 (divF f (x i) (y i))) ∧
      exec (.fmin h t ⟨d, a, b, imm⟩) s = writes (fun i =>
        if (x i).isNan && (y i).isNan then BitVec.ofNat 64 f.nanBits else if (x i).isNan then vb i
        else if (y i).isNan then va i else if fBelow t (vb i) (va i) then vb i else va i) ∧
      exec (.fmax h t ⟨d, a, b, imm⟩) s = writes (fun i =>
        if (x i).isNan && (y i).isNan then BitVec.ofNat 64 f.nanBits else if (x i).isNan then vb i
        else if (y i).isNan then va i else if fBelow t (va i) (vb i) then vb i else va i)) ∧
    (LaneReady s gk g m (usesOf m n [(1, a)]) d n false u →
      exec (.fsqrt h t ⟨d, a, imm⟩) s = writes (fun i => BitVec.ofNat 64 (sqrtF f (x i))) ∧
      exec (.frcp h t ⟨d, a, imm⟩) s = writes (fun i => BitVec.ofNat 64 (divF f (.fin false 1 0) (x i))) ∧
      exec (.frsq h t ⟨d, a, imm⟩) s = writes (fun i => BitVec.ofNat 64 (rsqF f (x i))) ∧
      exec (.fexp2 h t ⟨d, a, imm⟩) s = writes (fun i => BitVec.ofNat 64 (exp2F f (x i))) ∧
      exec (.flog2 h t ⟨d, a, imm⟩) s = writes (fun i => BitVec.ofNat 64 (log2F f (x i))) ∧
      exec (.fabs h t ⟨d, a, imm⟩) s =
        writes (fun i => ((va i).setWidth (tyW t) &&& ~~~(BitVec.twoPow (tyW t) (tyW t - 1))).setWidth 64) ∧
      exec (.fneg h t ⟨d, a, imm⟩) s =
        writes (fun i => ((va i).setWidth (tyW t) ^^^ BitVec.twoPow (tyW t) (tyW t - 1)).setWidth 64)) ∧
    (LaneReady s gk g m (usesOf m n [(1, a)] ++ usesOf m 1 [(2, b)]) d n true u →
      exec (.fscl h t ⟨d, a, b, imm⟩) s = rounds (fun i => FV.mul (fdec t (laneVal u n i 0 a))
        (scDec ((laneVal u 1 i (imm.setWidth 64) b).toNat % 2 ^ 16)))) ∧
    (∀ v w : W64, fBelow t v w = true ↔ FV.lt (fdec t v) (fdec t w) = true ∨
      ∃ q q', fdec t v = .fin true 0 q ∧ fdec t w = .fin false 0 q')

/-- FCMP, FCLASS and the conversions complete: the predicate takes the comparison of R158, where a NaN makes every comparison
but NE and UN false; the word takes the one bit of the operand's class, its sign,
exponent and fraction fields read as R276 lays them out (R159); the registers take the value encoded in the target type (R318) or
rounded to an integer. -/
def Obligations.FloatCompareAndConvertResult : Prop :=
  ∀ (s : State) (h : Hdr) (gk : Nat) (g : Machine.Group) (m : Lanes) (t : Ty) (d : Opd) (a b : Src) (imm : BitVec 27)
    (u : State), InLanes s h gk g m →
    let n := tyRegs t
    let x := fun (i : Nat) => fdec t (laneVal u n i (immVal t imm) a)
    let y := fun (i : Nat) => fdec t (laneVal u n i (immVal t imm) b)
    (∀ cc p, LaneReady s gk g m (usesOf m n [(1, a), (2, b)]) (.pred p) 1 false u →
      ∃ v : Nat → Bool,
        exec (.fcmp h cc t ⟨.pred p, a, b, imm⟩) s = .next (done s h (logged s gk g m (u.updGrp gk (fun g => g.setPred p m (maskOf v))))) ∧
        ∀ i, let nan := (x i).isNan || (y i).isNan
          let lt := FV.lt (x i) (y i)
          let gt := FV.lt (y i) (x i)
          v i = match cc with
            | .eq => !nan && !lt && !gt | .ne => nan || lt || gt | .lt => !nan && lt | .le => !nan && !gt
            | .gt => !nan && gt | .ge => !nan && !lt | .un => nan | .od => !nan) ∧
    (LaneReady s gk g m (usesOf m n [(1, a)]) d 1 false u → exec (.fclass h t ⟨d, a, imm⟩) s =
      .next (done s h (logged s gk g m (writeLanes u gk d 1 m (fun i => BitVec.ofNat 64 (2 ^ fclassV t (laneVal u n i (immVal t imm) a))))))) ∧
    (∀ (v : W64) (p ew : Nat), (t = .f32 ∧ p = 23 ∧ ew = 8) ∨ (t = .f64 ∧ p = 52 ∧ ew = 11) →
      let neg := v.getLsbD (p + ew)
      let e := v.toNat / 2 ^ p % 2 ^ ew
      let q := v.toNat % 2 ^ p
      fclassV t v = if e = 2 ^ ew - 1 then (if q = 0 then (if neg then 0 else 7) else if v.getLsbD (p - 1) then 9 else 8)
        else if e = 0 then (if q = 0 then (if neg then 3 else 4) else if neg then 2 else 5) else if neg then 1 else 6) ∧
    (∀ src : Ty, LaneReady s gk g m (usesOf m (tyRegs src) [(1, a)]) d n false u →
      let z := fun (i : Nat) => decTy src (laneVal u (tyRegs src) i 0 a)
      exec (.fcvt h src t d a) s = .next (done s h (logged s gk g m (writeLanes u gk d n m (fun i => regOf t (encTy t (z i)))))) ∧
      ∀ wrap, exec (.icvt h src wrap t d a) s =
        .next (done s h (logged s gk g m (writeLanes u gk d n m (fun i => regOf t (encInt t wrap (z i)).toNat))))) ∧
    (LaneReady s gk g m (usesOf m n [(1, a)]) d n false u → exec (.frnd h t d a) s =
      .next (done s h (logged s gk g m (writeLanes u gk d n m (fun i =>
        BitVec.ofNat 64 ((ieeeOf t).round (decTy t (laneVal u n i 0 a)).toInteger))))))

/-! ## Memory instructions -/

/-- LD, LDK, LDS and SLD complete: each active lane's read enters the pending sets with the address of R260, the width of its
type and its order and scope, and the destination goes empty in the active lanes (R110, R262); SLD marks its scalar empty and
logs the mark and the write that will follow (R27, log 23). LDK reads through the constant path, and at a window as LD.WEAK.SYS (R263). -/
def Obligations.LoadIssues : Prop :=
  ∀ (s : State) (h : Hdr) (m : OpM),
    let w := tyBytes m.t
    (∀ gk g act t ps, InLanes s h gk g act →
      checkUses s s.cur.u 0 act (addrUses m act 2 true) [⟨m.d, tyRegs m.t, act⟩] = none →
      GlobalOk s 0 w .read ((lanesOf act).map (fun i => (i, globalEa s 0 m true i))) (addrUses m act 2 true) t ps →
      let u := emptyDest t gk m.d m.t act
      let read := fun (p : Nat × Nat) (sc : Nat) =>
        mkAcc u u.cur.u (BitVec.twoPow 32 p.1) (splitMask u g) (locOf u.floor p.2) w .read m.ord sc [] false (laneDest gk p.1 m.d m.t)
      exec (.ld h m) s = .next (done s h (issueAccs u (ps.map (fun p => read p (scopeOf s 0 m.sc false))))) ∧
      exec (.ldk h m) s = .next (done s h (issueAccs u (ps.map (fun p =>
        if isMem u.floor p.2 then { read p (scopeOf s 0 m.sc false) with konst := true } else read p 6))))) ∧
    (∀ gk g act, InLanes s h gk g act →
      checkUses s s.cur.u 0 act (addrUses m act 1 false) [⟨m.d, tyRegs m.t, act⟩] = none →
      ScrOk s w w ((lanesOf act).map (fun i => (i, scrEa s m i))) (addrUses m act 1 false) →
      let ps := (lanesOf act).map (fun i => (i, (scrEa s m i).toNat))
      let u := countPasses (emptyDest s gk m.d m.t act) g w ps false
      exec (.lds h m) s = .next (done s h (issueAccs u (ps.map (fun p =>
        mkAcc u u.cur.u (BitVec.twoPow 32 p.1) (splitMask u g) (.scr (bandKey g.gc g.b) p.2) w .read m.ord
          (scopeOf s 0 m.sc true) [] false (laneDest gk p.1 m.d m.t)))))) ∧
    (∀ ck c l r t pa, AtContext s h ck c → m.d = .scal l r → c.logRoom = true → (c.write r ⟨(c.cell r).v, false, false⟩).logRoom = true →
      checkUses s s.cur.u (Hdr.lv h) 0 (addrUses m 1 1 true) [⟨m.d, 1, 0⟩] = none →
      GlobalOk s (Hdr.lv h) w .read [(0, globalEa s (Hdr.lv h) m true 0)] (addrUses m 1 1 true) t [(0, pa)] →
      let u := t.updCtx ck (fun x => (x.write r ⟨(c.cell r).v, false, false⟩).write r ⟨(c.cell r).v, false, false⟩)
      exec (.sld h m) s = .next (done s h (issueAccs u
        [mkAcc u u.cur.u 0 0 (locOf u.floor pa) w .read m.ord (scopeOf s (Hdr.lv h) m.sc false) [] false (.scal ck r m.t)])))

/-- ST, STS and SST complete: each active lane's write enters the pending sets with its data and poison (R195, R265), lanes
that write the same bytes making one write with the data of the highest of them (R245). No byte of memory changes at issue. -/
def Obligations.StoreIssues : Prop :=
  ∀ (s : State) (h : Hdr) (m : OpM),
    let w := tyBytes m.t
    (∀ gk g act t ps, InLanes s h gk g act →
      let us := addrUses m act 2 false ++ dataUses act (tyRegs m.t) m.b
      checkUses s s.cur.u 0 act us [] = none →
      GlobalOk s 0 w .write ((lanesOf act).map (fun i => (i, globalEa s 0 m false i))) us t ps →
      exec (.st h m) s = .next (done s h (issueAccs t ((mergeStores ps).map (fun p =>
        mkAcc t t.cur.u p.2.2 (splitMask t g) (locOf t.floor p.2.1) w .write m.ord (scopeOf s 0 m.sc false)
          (dataBytes t 0 p.1 m.t m.b.o) (dataPoi t 0 p.1 (tyRegs m.t) m.b) .none))))) ∧
    (∀ gk g act, InLanes s h gk g act →
      let us := addrUses m act 1 false ++ dataUses act (tyRegs m.t) m.b
      checkUses s s.cur.u 0 act us [] = none →
      ScrOk s w w ((lanesOf act).map (fun i => (i, scrEa s m i))) us →
      let ps := (lanesOf act).map (fun i => (i, (scrEa s m i).toNat))
      let t := countPasses s g w ps false
      exec (.sts h m) s = .next (done s h (issueAccs t ((mergeStores ps).map (fun p =>
        mkAcc t t.cur.u p.2.2 (splitMask t g) (.scr (bandKey g.gc g.b) p.2.1) w .write m.ord (scopeOf s 0 m.sc true)
          (dataBytes t 0 p.1 m.t m.b.o) (dataPoi t 0 p.1 (tyRegs m.t) m.b) .none))))) ∧
    (∀ ck c t pa, AtContext s h ck c →
      let us := addrUses m 1 1 false ++ dataUses 1 1 m.b
      checkUses s s.cur.u (Hdr.lv h) 0 us [] = none →
      GlobalOk s (Hdr.lv h) w .write [(0, globalEa s (Hdr.lv h) m false 0)] us t [(0, pa)] →
      exec (.sst h m) s = .next (done s h (issueAccs t
        [mkAcc t t.cur.u 0 0 (locOf t.floor pa) w .write m.ord (scopeOf s (Hdr.lv h) m.sc false)
          (dataBytes t (Hdr.lv h) 0 m.t m.b.o) (dataPoi t (Hdr.lv h) 0 1 m.b) .none])))

/-- ATOM, RED, ATOMS and SATOM complete where no host window refuses them (R269): each active lane's atomic enters the pending
sets with its operation and data (R266 to R268), and all but RED leave the destination empty until the old value returns. That SATOM logs its scalar twice as it issues is the model's reading
(log 23). -/
def Obligations.AtomicIssues : Prop :=
  ∀ (s : State) (h : Hdr) (op : Aop) (m : OpM),
    let w := tyBytes m.t
    (∀ gk g act t ps, InLanes s h gk g act →
      let us := addrUses m act 2 false ++ atomUses act op m.t m.b
      let es := (lanesOf act).map (fun i => (i, globalEa s 0 m false i))
      GlobalOk s 0 w .write es us t ps →
      let acc := fun (ret : Bool) (p : Nat × Nat) => mkAcc t t.cur.u (BitVec.twoPow 32 p.1) (splitMask t g) (locOf t.floor p.2) w
        (.atomic op m.t (atomData t 0 p.1 op m.t m.b.o).1 (atomData t 0 p.1 op m.t m.b.o).2 ret) m.ord (scopeOf s 0 m.sc false)
        [] false (if ret then laneDest gk p.1 m.d m.t else .none)
      (checkUses s s.cur.u 0 act us [⟨m.d, tyRegs m.t, act⟩] = none → (∀ p ∈ ps, hostRefuses s op false p.2 = false) →
        exec (.atom h op m) s = .next (done s h (issueAccs (emptyDest t gk m.d m.t act) (ps.map (acc true))))) ∧
      (checkUses s s.cur.u 0 act us [] = none → (∀ p ∈ ps, hostRefuses s op true p.2 = false) →
        exec (.red h op m) s = .next (done s h (issueAccs t (ps.map (acc false)))))) ∧
    (∀ gk g act, InLanes s h gk g act →
      let us := addrUses m act 1 false ++ atomUses act op m.t m.b
      checkUses s s.cur.u 0 act us [⟨m.d, tyRegs m.t, act⟩] = none →
      ScrOk s w w ((lanesOf act).map (fun i => (i, scrEa s m i))) us →
      let ps := (lanesOf act).map (fun i => (i, (scrEa s m i).toNat))
      exec (.atoms h op m) s = .next (done s h (issueAccs (countPasses (emptyDest s gk m.d m.t act) g w ps true)
        (ps.map (fun p => mkAcc s s.cur.u (BitVec.twoPow 32 p.1) (splitMask s g) (.scr (bandKey g.gc g.b) p.2) w
          (.atomic op m.t (atomData s 0 p.1 op m.t m.b.o).1 (atomData s 0 p.1 op m.t m.b.o).2 true) m.ord (scopeOf s 0 m.sc true)
          [] false (laneDest gk p.1 m.d m.t)))))) ∧
    (∀ ck c l r t pa, AtContext s h ck c → m.d = .scal l r → c.logRoom = true → (c.write r ⟨(c.cell r).v, false, false⟩).logRoom = true →
      let us := addrUses m 1 1 false ++ atomUses 1 op m.t m.b
      checkUses s s.cur.u (Hdr.lv h) 0 us [⟨m.d, 1, 0⟩] = none → hostRefuses s op false pa = false →
      GlobalOk s (Hdr.lv h) w .write [(0, globalEa s (Hdr.lv h) m false 0)] us t [(0, pa)] →
      let u := t.updCtx ck (fun x => (x.write r ⟨(c.cell r).v, false, false⟩).write r ⟨(c.cell r).v, false, false⟩)
      let d := atomData t (Hdr.lv h) 0 op m.t m.b.o
      exec (.satom h op m) s = .next (done s h (issueAccs u
        [mkAcc u u.cur.u 0 0 (locOf u.floor pa) w (.atomic op m.t d.1 d.2 true) m.ord (scopeOf s (Hdr.lv h) m.sc false)
          [] false (.scal ck r m.t)])))

/-- FENCE completes by entering a fence of its order and scope in the pending sets, of the active lanes or of the context; at scope LANE
each active lane has a fence of its own (R270). PREF completes whatever its addresses are, once no operand under FEB = 0 is empty and no ancestor's scalar is awaited (R32): it
touches neither memory nor a register nor a context, and its fetches, which take no value, join the pending set; at a context it does
not end the segment (R22, R264). -/
def Obligations.FenceAndPrefetchResult : Prop :=
  ∀ (s : State) (h : Hdr) (ord : Ord) (sc : BitVec 3) (m : OpM),
    let k := scopeOf s (Hdr.lv h) sc false
    let fence := fun (lanes mask : Lanes) => mkAcc s s.cur.u lanes mask .nowhere 0 .fence ord k [] false .none
    let soft := fun (act : Lanes) => (addrUses m act 2 true).any (fun x => useStalls s s.cur.u (Hdr.lv h) x ||
      (!x.o.feb && useEmpty s s.cur.u (Hdr.lv h) x != 0))
    let prefs := ∃ t, exec (.pref h m) s = .next (passed s h t) ∧ t.mem = s.mem ∧ t.groups = s.groups ∧ t.ctxs = s.ctxs ∧
      t.bands = s.bands ∧ ∃ l, t.accs = s.accs ++ l ∧ ∀ a ∈ l, a.kind = .pref
    (∀ gk g act, InLanes s h gk g act → h.lev = 0 →
      (k ≠ 0 → exec (.fence h ord sc) s = .next (done s h (s.addAcc (fence act (splitMask s g))))) ∧
      (k = 0 → exec (.fence h ord sc) s =
        .next (done s h (s.addAccs ((lanesOf act).map (fun i => fence (BitVec.twoPow 32 i) (splitMask s g)))))) ∧
      (soft act = false → prefs)) ∧
    (∀ ck c, AtContext s h ck c → h.lev ≠ 0 →
      exec (.fence h ord sc) s = .next (done s h (s.addAcc (fence 0 0))) ∧ (soft 1 = false → prefs))

/-- Issuing accesses adds them to the pending sets, one batch in lane order, and changes nothing else but the cores' views: there a home
atomic makes its bytes unheld in the view of its own core, and no other byte of any view changes (R230, R243, R245, R248). Without a
home atomic no core changes. -/
def Obligations.IssuingLeavesMemory : Prop :=
  ∀ (s : State) (l : List Access),
    let t := issueAccs s l
    let unheld := fun (n pa : Nat) => l.any (fun a => homeAtomic a && a.core == some n &&
      (match a.loc with | .mem p => decide (p ≤ pa) && decide (pa < p + a.width) | _ => false))
    (∃ cores, t = { s with
      cores := cores, accSeq := s.accSeq + l.length,
      accs := s.accs ++ l.zipIdx.map (fun p => { p.1 with id := s.accSeq + p.2, batch := s.accSeq }) }) ∧
    (∀ n, t.core n = { s.core n with view := (s.core n).view.filter (fun p => !unheld n p.1) }) ∧
    ((∀ a ∈ l, homeAtomic a = false) → t.cores = s.cores)


/-! ## Arrival words and copies -/

/-- The steps of an arrival word (R304): an arrival lowers PARR and a sector completion lowers PSEC and gathers POIS; whichever
leaves both at zero ends the phase, which rises by one mod 16 while PARR takes EXP again; a word that expects no arrival is not
changed by one, and an arrival waits where PARR is 0. The fields read back from the sixteen bytes that hold them. -/
def Obligations.ArrivalWordSteps : Prop :=
  ∀ (w : ArrWord) (poi : Bool), w.phase < 16 → w.parr < 2 ^ 24 → w.exp < 2 ^ 24 → w.psec < 2 ^ 32 →
    arrOf (arrBytes w) = w ∧
    (w.exp = 0 → arrArrive w = some w) ∧ (w.exp ≠ 0 → w.parr = 0 → arrArrive w = none) ∧
    (w.exp ≠ 0 → 1 < w.parr ∨ (w.parr = 1 ∧ w.psec ≠ 0) → arrArrive w = some { w with parr := w.parr - 1 }) ∧
    (w.exp ≠ 0 → w.parr = 1 → w.psec = 0 → arrArrive w = some { w with phase := (w.phase + 1) % 16, parr := w.exp }) ∧
    (1 < w.psec ∨ (w.psec = 1 ∧ w.parr ≠ 0) → arrSector w poi = { w with pois := w.pois || poi, psec := w.psec - 1 }) ∧
    (w.psec = 1 → w.parr = 0 →
      arrSector w poi = { w with pois := w.pois || poi, psec := 0, phase := (w.phase + 1) % 16, parr := w.exp })

/-- ARVI, ARV, ARWT and ARTST complete at an aligned word inside the scratchpad (R322 to R324): ARVI starts the word where no
sector is pending; ARV arrives once the issuer's earlier accesses are performed at band scope, without effect at a word that expects none; ARWT returns POIS once the phase
differs from b, at once or after it has waited; ARTST tells the phase or POIS without waiting. -/
def Obligations.ArrivalInstructionsResult : Prop :=
  ∀ (s : State) (h : Hdr) (m : Lanes) (d : BitVec 4) (a b : Src) (imm : BitVec 27),
    let bk := bandHere s
    let off := arrOff s h m imm a.o
    let ph := (onceVal s h m (imm.signExtend 64) b.o).toNat % 16
    (∀ (o16 : BitVec 14) (n : BitVec 13), ActsOnce s h m → ArrivalOk s (16 * o16.toNat) → (arrGet s bk (16 * o16.toNat)).psec = 0 →
      exec (.arvi h o16 n) s = .next (done s h (arrPut s bk (16 * o16.toNat) ⟨0, false, n.toNat, n.toNat, 0⟩))) ∧
    (∀ w, OnceReady s h m 1 [(1, a)] [] → ArrivalOk s off → onceDrained s h 2 = true → arrArrive (arrGet s bk off) = some w →
      exec (.arv h a imm) s = .next (done s h (if (arrGet s bk off).exp = 0 then s else arrPut s bk off w))) ∧
    (OnceReady s h m 1 [(1, a), (2, b)] [] → ArrivalOk s off →
      (waitOf s (Hdr.lv h) = .none → (arrGet s bk off).phase ≠ ph →
        exec (.arwt h d a b imm) s = .next (done s h (putPred s h m d (arrGet s bk off).pois))) ∧
      (∀ o p poi, waitOf s (Hdr.lv h) = .arwt o p (some poi) →
        exec (.arwt h d a b imm) s = .next (done s h (putPred s h m d poi))) ∧
      exec (.artst h .done d a b imm) s = .next (done s h (putPred s h m d (decide ((arrGet s bk off).phase ≠ ph))))) ∧
    (OnceReady s h m 1 [(1, a)] [] → ArrivalOk s off →
      exec (.artst h .pois d a b imm) s = .next (done s h (putPred s h m d (arrGet s bk off).pois)))

/-- The copy commands complete at issue by entering the drover's queue (R320): the pending sectors are counted in the arrival
word of every target, and the copy stands behind the commands before it with a sector for each target. -/
def Obligations.CopyCommandsEnterQueue : Prop :=
  ∀ (s : State) (h : Hdr) (m : Lanes) (a b x : Src) (imm : BitVec 27) (c : Copy) (t : State) (ps : List (Nat × Nat)),
    let runs := fun (i : Instr) => exec i s = .next (done s h (enterCopy t h c ps))
    (CopyOk s h m .g2s a b none imm c t ps → runs (.cpy h .g2s a b imm)) ∧
    (CopyOk s h m .s2g a b none imm c t ps → runs (.cpy h .s2g a b imm)) ∧
    (CopyOk s h m .plane a b none imm c t ps → runs (.cpyp h a b imm)) ∧
    (CopyOk s h m .mScr a b (some x) imm c t ps → runs (.cpym h .s a b x imm)) ∧
    (CopyOk s h m .mPlane a b (some x) imm c t ps → runs (.cpym h .p a b x imm)) ∧
    (CopyOk s h m .s2s a b none imm c t ps → runs (.cpys h a b imm)) ∧
    (∀ op, CopyOk s h m (.red op) a b none imm c t ps → runs (.cpyr h op a b imm))

/-! ## The matrix unit -/

/-- OMAP, PLST and MFENCE complete: OMAP sets the band's map and marks the queued operations that use it (R293, R308, R309); PLST
decodes a scratchpad tile into the map's buffers once the group's earlier accesses of the same bytes are performed (R310); MFENCE
separates the operations issued before it from those after it, which read nothing older than it (R253, R297, R313). A word that has
been written since the band's last MFENCE is read as it stands or as it stood since then, and one that has not as it stands. That MFENCE completes
at once, and the tile of a role-B PLST, are the model's readings (log 23). -/
def Obligations.OperandMapResult : Prop :=
  (∀ (s : State) (h : Hdr) (m : Lanes), ActsOnce s h m →
    let bk := bandHere s
    (∀ role lines i4 t d buf p w kb b, s.band? bk = some b → mapOk role (omapWord lines i4 t buf p w kb) = true →
      let x := omapWord lines i4 t buf p w kb
      exec (.omap h role lines i4 t d buf p w kb) s = .next (done s h (writeMap s bk d x)) ∧
      ∃ b', (writeMap s bk d x).band? bk = some b' ∧ (∀ e, bandMap b' e = if e = d then x else bandMap b e) ∧
        (writeMap s bk d x).mem = s.mem ∧ (writeMap s bk d x).groups = s.groups ∧ (writeMap s bk d x).ctxs = s.ctxs ∧
        (writeMap s bk d x).accs = s.accs) ∧
    (∀ role mp (off : BitVec 27) b, s.band? bk = some b →
      let x := bandMap b mp
      let n := (plstShape role x).1 * elBytes (mapFmt x) (plstShape role x).2
      mapV x = true → 8 * (if role then 8 else mapW x) * blkBytes (mapP x) ≤ 16384 →
      off.toNat % elSize (mapFmt x) = 0 → off.toNat + n ≤ scrSize s → scrFree s h bk off.toNat n false = true →
      exec (.plst h role mp off) s = .next (done s h (plstTile (scrStruck s (whoOf s (bk % 64), misc1Here s) bk off.toNat n) bk role x off.toNat))) ∧
    exec (.mfence h) s = .next (done s h (s.updCore (coreAt s bk) (fun c => { c with
      fences := c.fences + 1, old := c.old.filter (fun o => c.mq.any (fun p => decide (p.fence ≤ o.fence))) })))) ∧
  (∀ (s : State) (b : Band) (e : BitVec 4), (∀ i < 2, ∀ x ∈ (s.core b.core).old, x.key = mapKey e.toNat i → x.fence ≠ (s.core b.core).fences) →
    mapNow s b e = bandMap b e)

/-- MMA and MMALOOP complete at issue by entering the queue of their band's core (R295, R311), with the maps as an operation issued now
reads them (R297) and the accumulators that they write; at a cluster-domain level they enter the queue of every resident band of the
unit that owns matrix state, and a band whose maps fail the checks has code 0x17 deferred to its next MWAIT (R296). -/
def Obligations.MatrixMultiplyEntersQueue : Prop :=
  ∀ (s : State) (h : Hdr) (o : OpMma),
    let op := fun (b : Band) (steps : Nat) => MatKind.mma o.t o.d.toNat o.a.toNat o.b.toNat (mapNow s b o.a) (mapNow s b o.b)
      steps o.ai.toNat o.bi.toNat
    let wr := fun (b : Band) => mmaAccs o.t o.d.toNat (mapNow s b o.a) (mapNow s b o.b)
    let ok := fun (b : Band) (steps : Nat) =>
      mmaOk o.t o.d.toNat (mapNow s b o.a) (mapNow s b o.b) steps o.ai.toNat o.bi.toNat = true
    let entered := fun (bk : Nat) (b : Band) (steps : Nat) => enqMat s.tick1 bk (op b steps) (wr b) (wr b) none
    (∀ m b, h.lev = 0 → ActsOnce s h m → s.band? (bandHere s) = some b → mqRoom s b.core = true →
      (ok b 1 → exec (.mma h o) s = .next (done s h (entered (bandHere s) b 1))) ∧
      (ok b (o.ks.toNat + 1) → exec (.mmaloop h o) s = .next (done s h (entered (bandHere s) b (o.ks.toNat + 1))))) ∧
    (∀ ck c, h.lev ≠ 0 → AtContext s h ck c →
      let bs := (bandsUnder s c.gc c.lvl c.g).filter (fun p => p.2.st == .resident && (s.lrec c.gc).mat)
      (∀ p ∈ bs, mqRoom s p.2.core = true) →
      exec (.mma h o) s = .next (done s h (bs.foldl (fun s p => mmaPart s p.1 p.2 o 1) s)) ∧
      exec (.mmaloop h o) s = .next (done s h (bs.foldl (fun s p => mmaPart s p.1 p.2 o (o.ks.toNat + 1)) s))) ∧
    (∀ bk b steps, (ok b steps → mmaPart s bk b o steps = entered bk b steps) ∧
      (¬ok b steps → ∃ t, mmaPart s bk b o steps = t ∧ (t.core b.core).mq = (s.core b.core).mq ∧
        tabGet? (t.core b.core).mfault (s.core b.core).mseq = some ⟨0x17, (wr b).filter (fun a => decide (a < 8)), bk, 0⟩))

/-- ACLR, ASCL, AMOVV, ASTS, ALDS and ACVT complete at issue where the matrix queue has room, with the accumulators they read
and write (R308, R315 to R317): ASCL captures its scales from every live lane position, AMOVV and the V form of ACVT leave their
destination empty in the active lanes, and the scratchpad forms enter an access of their area. MWAIT completes once no covered
operation is left in the queue and none has a deferred fault (R314). -/
def Obligations.MatrixQueueInstructionsResult : Prop :=
  ∀ (s : State) (h : Hdr) (m : Lanes) (a d : BitVec 3) (b c : Src) (row : BitVec 6) (off : BitVec 27) (t : Ty), ActsOnce s h m →
    let bk := bandHere s
    let core := coreAt s bk
    let enters := fun (i : Instr) (u : State) (k : MatKind) (rd wr : List Nat) (acc : Option Nat) =>
      exec i s = .next (done s h (enqMat u bk k rd wr acc))
    (∀ x : Option (BitVec 3),
      (∀ o ∈ (s.core core).mq, o.bk = bk → ∃ y, x = some y ∧ o.wr.contains y.toNat = false) →
      (∀ p ∈ (s.core core).mfault, p.2.bk = bk → ∃ y, x = some y ∧ p.2.accs.contains y.toNat = false) →
      exec (.mwait h x) s = .next (done s h s)) ∧
    (mqRoom s core = true →
      enters (.aclr h d) s (.aclr d.toNat) [] [d.toNat] none ∧
      (∀ f, checkAll s s.cur.u (Hdr.lv h) m (usesOf (if h.lev = 0 then scaleLanes s else 1) 1 [(2, b), (3, c)]) [] = none →
        enters (.ascl h f t d a b c) s (.ascl f t d.toNat a.toNat (scalesOf s h b.o) (scalesOf s h c.o))
          (accSpan (t = .f64) d.toNat ++ accSpan (f = .fp64) a.toNat) (accSpan (t = .f64) d.toNat) none) ∧
      (∀ r : BitVec 8, h.lev = 0 → ∀ gk, s.cur.u = .grp gk →
        let empties := fun (t : Ty) => s.updGrp gk (fun g => (lanesOf m).foldl (fun g i =>
          (List.range (rowRegs t)).foldl (fun g j => g.emptyV (r.toNat + j) i) g) g)
        let ready := fun (t : Ty) => checkAll s s.cur.u 0 m (usesOf m 1 [(2, b)]) [⟨.vec r, rowRegs t, m⟩] = none
        (∀ e : Ty, e = (if t = .f64 then .f64 else .u32) → ready e → enters (.amovv h t (.vec r) a b row) (empties e) (.amovv t gk r.toNat m a.toNat (accRow s b row))
            (accSpan (t = .f64) a.toNat) [] none) ∧
        (∀ f wrap, ready t → enters (.acvt h false f wrap t (.vec r) a b row off) (empties t)
          (.acvtV f wrap t gk r.toNat m a.toNat (accRow s b row)) (accSpan (f = .fp64) a.toNat) [] none)) ∧
      (let area := fun (es : Nat) (w : Bool) => s.addAcc (mkAcc s s.cur.u (onceMask s h) (onceMask s h) (.scr bk off.toNat)
          (4096 * es) (.mat core (s.core core).mseq w) .weak 2 [] false .none);
        let ok := fun (es : Nat) => off.toNat % es = 0 ∧ off.toNat + 4096 * es ≤ scrSize s;
        let es := if t = .f64 then 8 else 4;
        (ok es → enters (.asts h t d off) (area es true) (.asts t d.toNat off.toNat) (accSpan (t = .f64) d.toNat) []
            (some s.accSeq) ∧
          enters (.alds h t d off) (area es false) (.alds t d.toNat off.toNat) [] (accSpan (t = .f64) d.toNat) (some s.accSeq)) ∧
        (∀ f wrap, ok (tyBytes t) → enters (.acvt h true f wrap t .none a b row off) (area (tyBytes t) true)
          (.acvtS f wrap t a.toNat off.toNat) (accSpan (f = .fp64) a.toNat) [] (some s.accSeq))))

/-! ## Control -/

/-- What a condition resolves to (R119): an own or ancestor scalar is its value; data of the levels below is what the combined reports of
the children say, at the group-domain level what the group's own lanes show (R33, R35): 1, 0 or a common value where every
non-empty report says so, nothing where all are empty, and the non-uniformity fault where two differ. A transfer on SUB NZ is taken for a nonzero value and on SUB Z for zero, and none is taken
where every report is empty. -/
def Obligations.ConditionsAndReports : Prop :=
  (∀ (s : State) (lev : Nat) (l : BitVec 3) (r : BitVec 5) (f own : Bool), isLower lev (.scal l r) = false →
    let x : Src := ⟨f, .scal l r⟩
    checkUses s s.cur.u lev 0 [⟨1, x, 1, 1, true⟩] [] = none →
    ∃ poi, resolve s lev x true own = .val (some (opdVal s s.cur.u lev 2 0 0 (.scal l r))) poi) ∧
  (∀ rs : List Report, (∀ r ∈ rs, r.k = .empty) → (combineReps rs).k = .empty) ∧
  (∀ (rs : List Report) (k : RepKind), k ≠ .mixed → k ≠ .empty → (∃ r ∈ rs, r.k = k) → (∀ r ∈ rs, r.k = .empty ∨ r.k = k) →
    (combineReps rs).k = k) ∧
  (∀ (rs : List Report) (a b : Report), a ∈ rs → b ∈ rs → a.k ≠ .empty → b.k ≠ .empty → a.k ≠ b.k →
    (combineReps rs).k = .mixed) ∧
  (∀ (s : State) (lev : Nat) (reps : List (Nat × Report)) (r : Report),
    (r.k = .empty → condOfRep s lev reps r = .val none false) ∧ (r.k = .allTrue → condOfRep s lev reps r = .val (some 1) false) ∧
    (r.k = .allFalse → condOfRep s lev reps r = .val (some 0) false) ∧
    (∀ v, r.k = .value v → condOfRep s lev reps r = .val (some v) false) ∧
    (r.k = .mixed → ∃ q, condOfRep s lev reps r = .fault s q ∧ q.code = 0x07 ∧ q.lev = lev)) ∧
  (∀ (s : State) (lev : Nat) (a : Src) (val : Bool), isLower lev a.o = true →
    (∀ ck c, s.cur.u = .ctx ck → s.ctx? ck = some c →
      resolve s lev a val false = condOfRep s lev c.reports (combineReps (c.reports.map (·.2)))) ∧
    (∀ gk g, s.cur.u = .grp gk → s.grp? gk = some g → bandAway s (bandKey g.gc g.b) = false → (∀ l r, a.o ≠ .scal l r) →
      condCheck s gk g a g.live = none →
      let t := condLanes g a.o g.live
      (g.live = 0 → resolve s lev a val false = .val none false) ∧
      (g.live ≠ 0 → t = g.live → resolve s lev a val false = .val (some 1) false) ∧
      (g.live ≠ 0 → t = 0 → resolve s lev a val false = .val (some 0) false) ∧
      (t ≠ 0 → t ≠ g.live → ∃ q, resolve s lev a val false = .fault s q ∧ q.code = 0x07 ∧ q.lev = lev))) ∧
  (∀ v : W64, scalRep true v = ⟨.value v, []⟩ ∧ (scalRep false v).k = if v = 0 then .allFalse else .allTrue) ∧
  (∀ v : W64, takes .nz (some v) = (v != 0) ∧ takes .z (some v) = (v == 0)) ∧ (∀ cc, takes cc none = false)

/-- BR, BRA, JMPI, CALL, CALLI and RET complete once their condition is resolved and the IAs that they name may be transferred
to (R121, R123, R125, R126): they go on at the target or at the next slot; a call pushes the return IA with the loop depth, and
RET pops both, and the loops begun since. Where every report is empty JMPI and CALLI only go on. -/
def Obligations.BranchAndCallResult : Prop :=
  ∀ (s : State) (h : Hdr) (ck : Nat) (c : Ctx), AtContext s h ck c →
    let lev := Hdr.lv h
    let push := fun (t : State) => t.updCtx ck (fun x => { x with
      calls := tabSet x.calls x.depth ⟨iaNext s.cur.ia, c.loops.length⟩, depth := x.depth + 1, spilled := c.spilled })
    let callOk := c.depth < 80 ∧ callRoom c = true ∧ c.depth - c.spilled < 16
    (∀ cc a tgt v t, TransferOk s lev [tgtIa s tgt] t →
      let ends : Outcome State Fault Refusal := .next (if takes cc v then doneAt s h t (tgtIa s tgt) else done s h t)
      (resolve s lev a false false = .val v false → exec (.br h cc a tgt) s = ends) ∧
      (resolve s lev a false true = .val v false → exec (.bra h cc a tgt) s = ends)) ∧
    (∀ a ia t, resolve s lev a true false = .val (some ia) false →
      (TransferOk s lev [ia] t → exec (.jmpi h a) s = .next (doneAt s h t ia)) ∧
      (TransferOk s lev [ia, iaNext s.cur.ia] t → callOk → exec (.calli h a) s = .next (doneAt s h (push t) ia))) ∧
    (∀ a, resolve s lev a true false = .val none false →
      exec (.jmpi h a) s = .next (done s h s) ∧ exec (.calli h a) s = .next (done s h s)) ∧
    (∀ tgt t, TransferOk s lev [tgtIa s tgt, iaNext s.cur.ia] t → callOk →
      exec (.call h tgt) s = .next (doneAt s h (push t) (tgtIa s tgt))) ∧
    (∀ e t, tabGet ⟨0, 0⟩ c.calls (c.depth - 1) = e → 0 < c.depth → e.loops ≤ c.loops.length → TransferOk s lev [e.ret] t →
      ¬(c.depth - 1 = c.spilled ∧ 0 < c.spilled) →
      exec (.ret h) s = .next (doneAt s h (t.updCtx ck (fun x => { x with
        depth := x.depth - 1, spilled := c.spilled, loops := x.loops.drop (x.loops.length - e.loops) })) e.ret))

/-- LOOP, ENDL, BRK and CONT complete with the effects of R127, UNIF with none but to end the segment (R124), LEVSYNC as an
acquire once every access of its subtree is performed at its level's scope (R133), and NOP with none (R132). -/
def Obligations.LoopAndLevelResult : Prop :=
  ∀ (s : State) (h : Hdr),
    let lev := Hdr.lv h
    exec (.nop h) s = .next (passed s h s) ∧
    ∀ (ck : Nat) (c : Ctx), AtContext s h ck c →
      let floor := loopFloor c
      let loops := fun (t : State) (f : List LoopEnt → List LoopEnt) => t.updCtx ck (fun x => { x with loops := f x.loops })
      (∀ a exit v t, resolve s lev a true true = .val (some v) false → TransferOk s lev [tgtIa s exit, iaNext s.cur.ia] t →
        (v = 0 → exec (.loop h a exit) s = .next (doneAt s h t (tgtIa s exit))) ∧
        (v ≠ 0 → v.toNat < 2 ^ 32 → c.loops.length ≠ 8 → exec (.loop h a exit) s =
          .next (doneAt s h (loops t (fun l => ⟨v.setWidth 32, iaNext s.cur.ia⟩ :: l)) (iaNext s.cur.ia)))) ∧
      (∀ n start rest t, c.loops = ⟨n, start⟩ :: rest → floor < c.loops.length →
        (n = 1 → exec (.endl h) s = .next (done s h (loops s (fun _ => rest)))) ∧
        (n ≠ 1 → TransferOk s lev [start] t →
          exec (.endl h) s = .next (doneAt s h (loops t (fun _ => ⟨n - 1, start⟩ :: rest)) start))) ∧
      (∀ cc a off v t, resolve s lev a false false = .val v false → TransferOk s lev [tgtIa s off] t →
        (takes cc v = false → exec (.brk h cc a off) s = .next (done s h t) ∧ exec (.cont h cc a off) s = .next (done s h t)) ∧
        (takes cc v = true → floor < c.loops.length →
          exec (.brk h cc a off) s = .next (doneAt s h (loops t (fun l => l.tail)) (tgtIa s off)) ∧
          exec (.cont h cc a off) s = .next (doneAt s h t (tgtIa s off)))) ∧
      (∀ a v, resolve s lev a (isScal a.o) false = .val v false →
        exec (.unif h a) s = .next (done s h s)) ∧
      (let sc := ((s.lrec c.gc).lvl c.lvl).scope
       (∀ x ∈ s.accs, ofSubtree s c.gc c.lvl c.g x = true → performedAt x sc = true ∨ x.kind = .fence) →
        exec (.levsync h) s = .next (done s h (if 3 ≤ sc then acquireView s s.cur.u else s)))

/-- BRL completes (R12, R36, R122): untaken at the next slot, taken by every lane of the split at the target, and otherwise the
split diverges, which leaves its false lanes in the entry and gives its true lanes a free entry or a deferred record; a token is
pushed where the reconvergence address is new. RJOIN leaves its split waiting until the table settles (R130). EXIT ends the
active lanes, or the unit with every unit below it (R128, R129). YIELD gives up the split's next turn, has no effect at the
group-domain level, and above it asks for the park of each of its bands that a waiting task or unit of at least its priority
wants (R131). -/
def Obligations.LaneControlResult : Prop :=
  ∀ (s : State) (h : Hdr),
    (∀ (gk : Nat) (g : Machine.Group) (m : Lanes), InLanes s h gk g m →
      let splits := fun (f : Nat → Split → Split) => s.updGrp gk (fun g => { g with splits := g.splits.zipIdx.map (fun p => p.1.map (f p.2)) })
      (∀ cc a tgt rcv x t, curSplit s g = some x →
        let us := vecUses a m
        let true_ := takenLanes cc (condLanes g a.o m) m
        let all := x.mask &&& g.live
        checkUses s (.grp gk) 0 m us [] = none → TransferOk s 0 [tgtIa s tgt, tgtIa s rcv] t → poisonLanes t (.grp gk) 0 us = 0 →
        (true_ = 0 → exec (.brl h cc a tgt rcv) s = .next (done s h t)) ∧
        (true_ ≠ 0 → true_ = all → exec (.brl h cc a tgt rcv) s = .next (doneAt s h t (tgtIa s tgt))) ∧
        (∀ d, true_ ≠ 0 → true_ ≠ all → diverge g s.cur.e x true_ (tgtIa s tgt) (tgtIa s rcv) (iaNext s.cur.ia) = some d →
          exec (.brl h cc a tgt rcv) s = .next (issued s (rejoinCheck (settle (putTable t gk d.1 d.2) gk) gk)))) ∧
      exec (.rjoin h) s = .next (issued s (rejoinCheck (settle
        (splits (fun e x => if e = s.cur.e then { x with rj := true } else x)) gk) gk)) ∧
      (h.lev = 0 → exec (.exit h) s = .next (issued s (exitLanes s gk s.cur.e m (iaNext s.cur.ia))) ∧
        exec (.yield h) s = .next (done s h (splits (fun e x => if e = s.cur.e then { x with yl := true } else x))))) ∧
    (∀ (ck : Nat) (c : Ctx), AtContext s h ck c → h.lev ≠ 0 →
      exec (.exit h) s = .next (issued s (endUnit s c.gc c.lvl c.g)) ∧
      (c.dom ≤ domGroup → exec (.yield h) s = .next (done s h s)) ∧
      (domGroup < c.dom →
        let bs := if c.dom = domBand then [(s.lrec c.gc).bandOf c.lvl c.g] else (bandsUnder s c.gc c.lvl c.g).map (fun p => p.2.b)
        exec (.yield h) s = .next (done s h ((bs.filter (fun b => wantedBy s c.gc b)).foldl
          (fun s b => requestPark s c.gc b 2 (decide (domBand < c.dom))) s))))

/-- SAFEPT, IDEM and IDEMX complete (R134, R135), and VGROW, its grant and VGIVE with room for them (R41, R136): SAFEPT stops the
group where its band is asked to park and no handler of the band runs, with the live-mask entry it names; IDEM writes the region register and keeps the restart
count only of the same region; VGROW's new registers read 0 and full, at once or at the grant that ends its wait, and VGIVE's are
gone. That a grant may come at once after a park is the model's reading (log 24). -/
def Obligations.RegionAndGrantResult : Prop :=
  ∀ (s : State) (h : Hdr) (gk : Nat) (g : Machine.Group) (m : Lanes), InLanes s h gk g m →
    let goes := fun (f : Machine.Group → Machine.Group) => (Outcome.next (done s h (s.updGrp gk f)) : Outcome State Fault Refusal)
    (∀ (e : BitVec 49) b, s.band? (bandKey g.gc g.b) = some b →
      (b.park.isSome → b.cause = 1 → handling s g.gc g.b = false → g.single = true → g.handler = none → exec (.safept h e) s = goes (fun g => { g with
        stop := .safept, live94 := if e.toNat < (s.lrec g.gc).lmcount then some e.toNat else none })) ∧
      (b.park = none → exec (.safept h e) s = .next (done s h s))) ∧
    (∀ kind i x, g.single = true → curSplit s g = some x →
      (g.region.valid = true → g.region.index = i → g.region.entry = s.cur.ia → exec (.idem h kind i) s =
        goes (fun g' => { g' with region := ⟨true, kind, i, s.cur.ia, x.mask &&& g.live, g'.region.restarts⟩ })) ∧
      (g.region.valid = false ∨ g.region.index ≠ i ∨ g.region.entry ≠ s.cur.ia → exec (.idem h kind i) s =
        goes (fun g' => { g' with region := ⟨true, kind, i, s.cur.ia, x.mask &&& g.live, 0⟩ }))) ∧
    (∀ i, exec (.idemx h i) s = goes (fun g => { g with region := { g.region with valid := false } })) ∧
    (h.lev = 0 → ∀ a imm,
      let us := ownUses a m
      let n := (opdVal s s.cur.u 0 2 0 (imm.signExtend 64) a.o).toNat
      checkAll s s.cur.u 0 m us [] = none → n ≠ 0 → n % 8 = 0 →
      (g.vcount + n ≤ (s.lrec g.gc).vmax → growFits s g n = true → exec (.vgrow h a imm) s = goes (fun g => growGroup g n)) ∧
      (n + 8 ≤ g.vcount → (∀ i < n, ∀ l ∈ lanesOf (lowMask g.nlive), g.vempty (g.vcount - n + i) l = false) →
        exec (.vgive h a imm) s = goes (fun g' => { g' with
          vr := g'.vr.filter (fun p => decide (p.1 < 32 * (g.vcount - n))), ve := g'.ve.filter (fun p => decide (p.1 < 32 * (g.vcount - n))),
          vp := g'.vp.filter (fun p => decide (p.1 < 32 * (g.vcount - n))), vcount := g'.vcount - n }))) ∧
    (g.vwant ≠ 0 → g.stop = .run → growFits s g g.vwant = true →
      ∃ t g', exec (.vgrowGrant gk) s = .next t ∧ t.grp? gk = some g' ∧ g'.vcount = g.vcount + g.vwant ∧ g'.vwant = 0 ∧
        (∀ k i, i < 32 → g.vcount ≤ k → k < g.vcount + g.vwant → g'.vword k i = 0 ∧ g'.vempty k i = false) ∧
        (∀ k i, i < 32 → k < g.vcount → g'.vword k i = g.vword k i) ∧ t.ctxs = s.ctxs ∧ t.bands = s.bands)

/-! ## Barriers -/

/-- BAR, BARA and BARW complete (R353): BAR and BARA arrive for the active lanes or the context; BAR goes on when its arrival
completes the phase or once the phase it waits for is over; BARA writes the phase at its arrival and goes on at once; BARW goes on
where the phase differs from A mod 16. The arrivals of one phase that have not ended are gathered, and the phase rises by one, with no
arrival left, when every member that has not ended has arrived; until then no phase moves and no fence is made (R351). -/
def Obligations.BarrierResult : Prop :=
  (
    ∀ (s : State) (h : Hdr) (m : Lanes) (j : BitVec 3),
      let ck := barHere s h
      let n := j.toNat
      let arrived := fun (t : State) => barArrive t ck n (barFresh s h ck n m)
      (ActsOnce s h m →
        (waitOf s (Hdr.lv h) = .none → barBefore s h ck n m = 0 → barPhase (arrived s) ck n ≠ barPhase s ck n →
          exec (.bar h j) s = .next (done s h (arrived s))) ∧
        (∀ k p, waitOf s (Hdr.lv h) = .bar k p 0 → barPhase s ck n ≠ p → exec (.bar h j) s = .next (done s h s))) ∧
      (∀ d, WordReady s h m [] (onceDst h d 1 m) → waitOf s (Hdr.lv h) = .none → barBefore s h ck n m = 0 → LogFits s h →
        exec (.bara h d j) s = .next (done s h (arrived (wroteOnce s h m d 1 (BitVec.ofNat 64 (barPhase s ck n)))))) ∧
      (∀ a, OnceReady s h m 1 [(1, a)] [] → barPhase s ck n ≠ (onceVal s h m 0 a.o).toNat % 16 →
        exec (.barw h a j) s = .next (done s h s))) ∧
  (
    ∀ (s : State) (ck j : Nat) (c : Ctx) (ms : List Nat), s.ctx? ck = some c → j < 8 → (s.bar ck j).arrived.Nodup → ms.Nodup →
      let b := s.bar ck j
      let all := barMembers s c
      let t := barArrive s ck j ms
      (all ≠ [] → (∀ x ∈ all, x ∈ b.arrived ∨ x ∈ ms) → t.bar ck j = ⟨b.phase + 1, []⟩) ∧
      ((∃ x ∈ all, x ∉ b.arrived ∧ x ∉ ms) → (t.bar ck j).phase = b.phase ∧ t.accs = s.accs ∧
        ∀ x, x ∈ (t.bar ck j).arrived ↔ x ∈ all ∧ (x ∈ b.arrived ∨ x ∈ ms)) ∧
      (∀ ck' j', j' < 8 → (ck' ≠ ck ∨ j' ≠ j) → t.bar ck' j' = s.bar ck' j'))
/-! ## Tasks, futures and locks -/

/-- The words that synchronisation keeps at home. A future and a lock word read back from the bytes that hold them, every field within
its width (R356, R361). The steps of the push of R373: the head's value is read, and not out of a poisoned sector; it is written in the
object's eight bytes; the object's address goes to the head's eight bytes where the head still holds that value, else the push begins
again. Every other byte of memory stays. The push in steps of its own is the model's reading (log 14). -/
def Obligations.SynchronisationWordsReadBack : Prop :=
  (
    (∀ f : Fut, f.owner < 2 ^ 30 → futOf (futBytes f) = f) ∧
    (∀ nwait held holder, nwait < 65536 → holder < 2 ^ 30 → lockWait (lockWord nwait held holder) = nwait ∧
      lockHeld (lockWord nwait held holder) = held ∧ lockHolder (lockWord nwait held holder) = holder ∧
      lockWord nwait held holder < 2 ^ 64)) ∧
  (
    ∀ (s : State) (core : Option Nat) (x : W64) (pax pah hd : Nat),
      let only := fun (t : State) (pa v : Nat) => homeGet t pa 8 = v ∧
        ∀ a, (a < pa ∨ pa + 8 ≤ a) → memByte t.mem a = memByte s.mem a
      (badRange s pah 8 = true → pushStep s core x pax pah none = .bad ∧ pushStep s core x pax pah (some (hd, true)) = .bad) ∧
      (badRange s pah 8 = false → ∃ t, pushStep s core x pax pah none = .goes (some (homeGet s pah 8, false)) t ∧ t.mem = s.mem) ∧
      (hd < 2 ^ 64 → ∃ t, pushStep s core x pax pah (some (hd, false)) = .goes (some (hd, true)) t ∧ only t pax hd) ∧
      (badRange s pah 8 = false → homeGet s pah 8 = hd →
        ∃ t, pushStep s core x pax pah (some (hd, true)) = .finished t ∧ only t pah x.toNat) ∧
      (badRange s pah 8 = false → homeGet s pah 8 ≠ hd → pushStep s core x pax pah (some (hd, true)) = .goes none s))
/-- TSPAWN, TSELF, FWRITE, FWAIT, FTEST and CNTWT complete (R354, R355, R357 to R360) on words that meet no fault: a spawn enters
the band's pending queue; a write fills the future and wakes its waiters; a wait on a full future delivers its value as an acquire
at DEV, at once or after sleep; a test writes the bit it names; a counter that has reached its target lets the unit go on. Keeping the
old value of FWAIT's scalar in its wait state is the model's reading (log 19), and so is what it says of tasks and futures beyond the
chapters' words (log 24). -/
def Obligations.TaskAndFutureResult : Prop :=
  ∀ (s : State) (h : Hdr) (m : Lanes),
    let lev := Hdr.lv h
    let ck := ctxHere s h
    (∀ a b, WordReady s h m [(1, a)] [] → vaOk (scalHere s h a) = true → (scalHere s h a).toNat % 128 = 0 →
      checkPoison s s.cur.u lev (scalUses h [(1, a)]) = none → onceDrained s h 5 = true → s.band? (bandHere s) = some b → b.pend.length < 4 →
      exec (.tspawn h a) s = .next (done s h (s.updBand (bandHere s) (fun b => { b with pend := b.pend ++ [(scalHere s h a, false)] })))) ∧
    (∀ d, WordReady s h m [] [⟨d, 1, 1⟩] → LogFits s h →
      exec (.tself h d) s = .next (done s h (wroteOnce s h 0 d 1 (s.task (gcOf s s.cur.u)).rcd))) ∧
    (∀ a b t pa, WordReady s h m [(1, a), (2, b)] [] → WordOk s h 16 true [] (scalHere s h a) t pa → onceDrained t h 5 = true →
      (futGet t pa).full = false → checkPoison t t.cur.u lev (scalUses h [(1, a), (2, b)]) = none →
      exec (.fwrite h a b) s = .next (done s h (futFill t pa (scalHere s h b) false))) ∧
    (∀ a l r t pa c, waitOf s lev = .none → WordReady s h m [(1, a)] [⟨.scal l r, 1, 1⟩] →
      WordOk s h 16 false (scalUses h [(1, a)]) (scalHere s h a) t pa → t.ctx? ck = some c → c.logRoom = true →
      (c.write r ⟨(c.cell r).v, false, false⟩).logRoom = true → (futGet t pa).full = true →
      let u := setWait (t.updCtx ck (fun x => (x.write r ⟨(c.cell r).v, false, false⟩).write r ⟨(c.cell r).v, false, false⟩)) lev
        (.fwait pa r (c.cell r).v (c.cell r).full)
      exec (.fwait h (.scal l r) a) s = .next (done s h (acquireHere
        (setCtxWait (u.updCtx ck (fun c => c.put r ⟨(futGet t pa).value, true, false⟩)) ck .none)))) ∧
    (∀ a d r pa old full, ActsOnce s h m → waitOf s lev = .fwait pa r old full → asleep s ck pa 0x3FFFFFFF = false →
      badRange s pa 16 = false → (futGet s pa).full = true → exec (.fwait h d a) s = .next (done s h (acquireHere
        (setCtxWait (s.updCtx ck (fun c => c.put r ⟨(futGet s pa).value, true, false⟩)) ck .none)))) ∧
    (∀ a d t pa, WordReady s h m [(1, a)] [] → WordOk s h 16 false (scalUses h [(1, a)]) (scalHere s h a) t pa →
      let full := (futGet t pa).full
      exec (.ftest h .full d a) s = .next (done s h (if full then acquireHere (putPred t h 0 d full) else putPred t h 0 d full)) ∧
      exec (.ftest h .orph d a) s = .next (done s h (putPred t h 0 d (futGet t pa).orph))) ∧
    (∀ a b t pa, waitOf s lev = .none → WordReady s h m [(1, a), (2, b)] [] →
      WordOk s h 8 false (scalUses h [(1, a), (2, b)]) (scalHere s h a) t pa → (scalHere s h b).toNat ≤ homeGet t pa 8 →
      exec (.cntwt h a b) s = .next (done s h (acquireHere (setCtxWait (dropWake t pa ck) ck .none))))

/-- LOCK, TRYLOCK and UNLOCK complete (R361 to R364): a lock that is free, or that has been handed over to the task's slot, is
taken in one step as an acquire at DEV; TRYLOCK says whether it was and never waits; UNLOCK by the holder hands the lock to the
oldest slot that waits, or frees it, and by another task changes nothing. The order of LOCK's checks, and what UNLOCK leaves where no slot
waits, are the model's readings (log 24). -/
def Obligations.LockResult : Prop :=
  ∀ (s : State) (h : Hdr) (m : Lanes),
    let me := taskHere s
    let ck := ctxHere s h
    (∀ pa, slotFull s pa me = false → lockTry s pa me = (if lockHeld (homeGet s pa 8) then none
      else some (lockPut s pa (lockWord (lockWait (homeGet s pa 8)) true me)))) ∧
    (∀ pa, slotFull s pa me = true → (lockTry s pa me).isSome = true) ∧
    (∀ a t pa u, WordReady s h m [(1, a)] [] → WordOk s h 8 true (scalUses h [(1, a)]) (scalHere s h a) t pa →
      (waitOf s (Hdr.lv h) = .none → lockTry t pa (taskHere t) = some u →
        exec (.lock h a) s = .next (done s h (acquireHere (setCtxWait u ck .none)))) ∧
      (∀ d, (lockTry t pa (taskHere t) = some u → exec (.trylock h d a) s = .next (done s h (acquireHere (putPred u h 0 d true)))) ∧
        (lockTry t pa (taskHere t) = none → exec (.trylock h d a) s = .next (done s h (putPred t h 0 d false)))) ∧
      (onceDrained t h 5 = true →
        let v := homeGet t pa 8
        (lockHeld v = false ∨ (lockHolder v ≠ taskHere t ∧ retiredId t (t.task (gcOf t t.cur.u)) (lockHolder v) = false) →
          exec (.unlock h a) s = .next (done s h t)) ∧
        (lockHeld v = true → lockHolder v = taskHere t →
          ((∀ w ∈ t.wakes, (w.slot && w.pa == pa && !w.full) = false) → exec (.unlock h a) s = .next (done s h (lockPut t pa 0))) ∧
          (∀ l w r, t.wakes = l ++ w :: r → (∀ x ∈ l, (x.slot && x.pa == pa && !x.full) = false) →
            (w.slot && w.pa == pa && !w.full) = true → lockWait v ≠ 0 →
            exec (.unlock h a) s = .next (done s h (lockPut { t with wakes := l ++ { w with full := true } :: r } pa
              (lockWord (lockWait v - 1) true w.task)))))))

/-! ## Pins and reclamation -/

/-- PIN, PINX and UNPIN complete (R372), and so do the steps behind them: PIN replaces the value; PINX and UNPIN move the old
value to the shadow behind a fence of the group's accesses, and its withdrawal clears the shadow once that fence is gone, and the value
too where the group has ended; a step of it also drops the names of the group's band, if that was killed, whose earlier accesses are
performed (R198, R367), and no other name of the table. The search finds a name that a core's pins or shadows or the parked-pin table hold, and never 0 (R368,
R369). The withdrawal as a step of its own is the model's choice (log 14). -/
def Obligations.PinResult : Prop :=
  (
    ∀ (s : State) (h : Hdr) (q : BitVec 2) (a : Src) (m : Lanes) (gk : Nat) (g : Machine.Group),
      let p := g.pin q.toNat
      let x := onceVal s h m 0 a.o
      s.cur.u = .grp gk → s.grp? gk = some g →
      (OnceReady s h m 2 [(1, a)] [] →
        exec (.pin h q a) s = .next (done s h (s.updGrp gk (fun _ => g.setPin q.toNat ⟨x, p.shadow⟩))) ∧
        (p.shadow = 0 → p.v = 0 → exec (.pinx h q a) s = .next (done s h (s.updGrp gk (fun _ => g.setPin q.toNat ⟨x, 0⟩)))) ∧
        (p.shadow = 0 → p.v ≠ 0 →
          let t := s.updGrp gk (fun _ => g.setPin q.toNat ⟨x, p.v⟩)
          exec (.pinx h q a) s = .next (done s h (t.addAcc (pinFence t gk q.toNat))))) ∧
      (ActsOnce s h m →
        (p.v = 0 → exec (.unpin h q) s = .next (done s h s)) ∧
        (p.v ≠ 0 → p.shadow = 0 →
          let t := s.updGrp gk (fun _ => g.setPin q.toNat ⟨0, p.v⟩)
          exec (.unpin h q) s = .next (done s h (t.addAcc (pinFence t gk q.toNat)))))) ∧
  (
    ∀ (s : State) (gk q e : Nat) (g : Machine.Group), s.grp? gk = some g →
      let u := dropDead s gk
      (groupOver s g = false → (g.pin q).shadow ≠ 0 → pinWaits s gk q = false → exec (.shadowWithdraw gk q) s =
        .next (reapBand (u.updGrp gk (fun g => g.setPin q ⟨(g.pin q).v, 0⟩)) g.gc g.b)) ∧
      (groupOver s g = true → (g.pin q).shadow ≠ 0 ∨ (g.pin q).v ≠ 0 → pinWaits s gk q = false →
        (∀ a ∈ s.accs, a.by_ = .unit (.grp gk) → a.kind ≠ .fence → performedAt a 5 = true) →
        exec (.shadowWithdraw gk q) s = .next (reapBand (u.updGrp gk (fun g => g.setPin q ⟨0, 0⟩)) g.gc g.b)) ∧
      (∃ l, u = { s with pins := l } ∧ ∀ y, y ∈ l ↔ y ∈ s.pins ∧ (y.gk = gk → ∀ n, y.dead = some n →
        ∃ a ∈ s.accs, a.by_ = .unit (.grp gk) ∧ a.id < n ∧ a.kind ≠ .fence ∧ performedAt a 5 = false)) ∧
      (∀ n p, g.w = .search n none p →
        exec (.pinSearch (.grp gk) e) s = .next (s.updGrp gk (fun g => { g with w := .search n (some (searchPins s n)) none }))) ∧
      (∀ c l t p d, g.w = .drain c l t none p → (s.launch? g.gc).bind (fun x => x.defer.find? (fun e => e.id = c)) = some d →
        exec (.pinSearch (.grp gk) e) s =
          .next (s.updGrp gk (fun g => { g with w := .drain c l t (some (searchPins s d.name)) none })))) ∧
  (
    ∀ (s : State) (ck e : Nat) (k : Ctx) (n : W64) (p : Option (Nat × Bool)), s.ctx? ck = some k → k.w = .search n none p →
      exec (.pinSearch (.ctx ck) e) s = .next (s.updCtx ck (fun k => { k with w := .search n (some (searchPins s n)) none }))) ∧
  (
    ∀ (s : State), searchPins s 0 = false ∧
      (∀ n : W64, n ≠ 0 → (∃ r ∈ s.groups, pinsHere s r.2 = true ∧ ∃ y ∈ r.2.pins, y.v = n ∨ y.shadow = n) → searchPins s n = true) ∧
      (∀ n : W64, n ≠ 0 → (∃ y ∈ s.pins, y.name = n) → searchPins s n = true) ∧
      (∀ n : W64, searchPins s n = true →
        (∃ r ∈ s.groups, ∃ y ∈ r.2.pins, y.v = n ∨ y.shadow = n) ∨ ∃ y ∈ s.pins, y.name = n))

/-- RECLAIM and RCDRAIN complete (R373 to R375): a RECLAIM whose operands are ready and whose agent's accesses are performed begins its
search; a name that the search found is deferred and pD is 0; one that it did not find is pushed on its list, in the steps of R373, or
with no list is free, and pD is 1. RCDRAIN takes the entries that stood when it began, one after another, and ends with the number of
entries that are left. The push in steps of its own is the model's reading (log 14). -/
def Obligations.ReclaimResult : Prop :=
  ∀ (s : State) (h : Hdr) (m : Lanes) (d : BitVec 4) (a b : Src) (n : W64) (p : Option (Nat × Bool)),
    let lev := Hdr.lv h
    let x := scalHere s h a
    let hd := scalHere s h b
    (b.o = .none → waitOf s lev = .none → WordReady s h m [(1, a)] [] → deferFull s (launchHere s) = false → onceDrained s h 5 = true →
      checkPoison s s.cur.u lev (scalUses h [(1, a)]) = none → exec (.reclaim h d a b) s = .next (setWait s lev (.search x none none))) ∧
    (ActsOnce s h m → waitOf s lev = .search n (some true) p → deferFull s (launchHere s) = false →
      exec (.reclaim h d a b) s = .next (done s h (putPred (setWait
        (deferAdd s (launchHere s) x (if b.o = .none then none else some hd)) lev .none) h 0 d false))) ∧
    (ActsOnce s h m → waitOf s lev = .search n (some false) p →
      (b.o = .none → exec (.reclaim h d a b) s = .next (done s h (putPred (setWait s lev .none) h 0 d true))) ∧
      (∀ t pax pah v, b.o ≠ .none → GlobalOk s lev 8 .write [(0, x), (1, hd)] [] t [(0, pax), (1, pah)] →
        isMem s.floor pax = true → isMem s.floor pah = true → badRange t pah 8 = false →
        (p = none → exec (.reclaim h d a b) s =
          .next (setWait (readCheck t pah 8).2 lev (.search x (some false) (some (homeGet t pah 8, false))))) ∧
        (p = some (v, false) → exec (.reclaim h d a b) s =
          .next (setWait (pushPut t (viewOf t t.cur.u) pax v) lev (.search x (some false) (some (v, true))))) ∧
        (p = some (v, true) → homeGet t pah 8 ≠ v → exec (.reclaim h d a b) s = .next (setWait t lev (.search x (some false) none))) ∧
        (p = some (v, true) → homeGet t pah 8 = v → exec (.reclaim h d a b) s =
          .next (done s h (putPred (setWait (pushPut t (viewOf t t.cur.u) pah x.toNat) lev .none) h 0 d true))))) ∧
    (∀ o l, waitOf s lev = .none → WordReady s h m [] [⟨o, 1, 1⟩] → onceDrained s h 5 = true → s.launch? (launchHere s) = some l →
      ((∀ e ∈ l.defer, e.taken = true) → LogFits s h →
        exec (.rcdrain h o) s = .next (done s h (wroteOnce (setWait s lev .none) h 0 o 1 (BitVec.ofNat 64 l.defer.length)))) ∧
      (∀ e es, l.defer.filter (fun e => !e.taken) = e :: es → e.tk ≤ l.dseq → exec (.rcdrain h o) s =
        .next (setWait (s.updLaunch (launchHere s) (fun l => { l with
          dseq := l.dseq + 1
          defer := l.defer.map (fun y => if y.id = e.id then { y with taken := true, tk := l.dseq + 1 } else y) })) lev
            (.drain e.id (es.map (fun e => e.id)) l.dseq none none))))

/-! ## Rings -/

/-- MSEND, RWAIT, RACK and RDESC complete (R390): a send ends with the answer of its ring; a wait delivers the place of the oldest
message as an acquire at DEV; an acknowledgement frees the oldest bytes, zeroed; a descriptor configures a ring that is empty, or
releases it, and pD says whether it did. -/
def Obligations.RingResult : Prop :=
  ∀ (s : State) (h : Hdr) (m : Lanes) (r : BitVec 2) (a b : Src),
    let lev := Hdr.lv h
    let bk := bandHere s
    (∀ d n8 tag n ok, ActsOnce s h m → waitOf s lev = .msend n (some ok) →
      exec (.msend h d a b n8 tag) s = .next (done s h (putPred (setWait s lev .none) h m d ok))) ∧
    (∀ x d, WordReady s h m [] (onceDst h d 1 m) → ringOf s bk r.toNat = some x → x.used ≠ 0 → LogFits s h →
      exec (.rwait h d r) s = .next (done s h
        (wroteOnce (acquireView s s.cur.u) h m d 1 (BitVec.ofNat 64 (ringAt x.desc x.h.toNat))))) ∧
    (∀ x, ringOf s bk r.toNat = some x → onceDrained s h 2 = true →
      let frees := fun (n : Nat) => (Outcome.next (done s h ((ringZero s bk x.desc x.h.toNat n).updBand bk (fun b => { b with
        rings := tabSet b.rings r.toNat { x with h := x.h + BitVec.ofNat 32 n } }))) : Outcome State Fault Refusal)
      (a.o ≠ .none → OnceReady s h m 2 [(1, a)] [] → (onceVal s h m 0 a.o).toNat % 8 = 0 → (onceVal s h m 0 a.o).toNat ≤ x.used →
        exec (.rack h a r) s = frees (onceVal s h m 0 a.o).toNat) ∧
      (let n := 8 * bitsOf (leNat (payload s bk (ringAt x.desc x.h.toNat) 8)) 5 0
       a.o = .none → OnceReady s h m 2 [] [] → x.used ≠ 0 → n ≤ x.used → exec (.rack h a r) s = frees n)) ∧
    (∀ d, OnceReady s h m 2 [(1, a)] [] → onceDrained s h 2 = true →
      let v := onceVal s h m 0 a.o
      (ringEn v = true →
        (∀ c, s.band? bk = some c → ringOk v (1024 * (s.lrec c.gc).scrg) = true → (∀ x, ringOf s bk r.toNat = some x → x.used = 0) →
          (ringOf s bk r.toNat = none → usedRings s c.core < 4) →
          (hasHome s bk = false → homeCount s (clusOfCore s.floor c.core) < 64) →
          let t := if hasHome s bk then s
            else s.updCluster (clusOfCore s.floor c.core) (fun c => { c with homes := c.homes ++ [bk] })
          exec (.rdesc h d a r) s = .next (done s h (putPred ((ringZero t bk v 0 (ringSize v)).updBand bk (fun b => { b with
            rings := tabSet b.rings r.toNat ⟨v, 0, 0, 0⟩ })) h m d true))) ∧
        (ringConfigure s bk r.toNat v = none → exec (.rdesc h d a r) s = .next (done s h (putPred s h m d false)))) ∧
      (ringEn v = false →
        (∀ x, ringOf s bk r.toNat = some x → x.used = 0 → exec (.rdesc h d a r) s =
          .next (done s h (putPred (s.updBand bk (fun b => { b with rings := tabDel b.rings r.toNat })) h m d true))) ∧
        ((∀ x, ringOf s bk r.toNat = some x → x.used ≠ 0) → exec (.rdesc h d a r) s = .next (done s h (putPred s h m d false)))))

/-- The append of a message (R385, R386, R388). A message whose ring is not there, or that its home entry refuses, is answered not ok from
the home cluster; else it is forwarded to where the band stands. There a ring without room answers not ok; with room in a ring of a
resident band the payload and then its header are written at the ring's end, which moves behind them, and the sequence number rises: the
answer is ok. An answer takes a flit of the message's class where it leaves and changes no band and no memory. -/
def Obligations.RingAppendResult : Prop :=
  (∀ (s : State) (m : Msg) (x : Ring) (b : Band), s.msgs.find? (fun y => y.id = m.id) = some m →
    let r := bitsOf m.hdl.toNat 1 0
    let bk := handleBand m.hdl
    let n := m.data.length / 8 + 1
    let home := (homeOfBand s bk).getD (m.pair / 128)
    let here := if b.st == .resident then physCore s.floor b.core / 16 else home
    (ringOf s bk r = none → exec (.ringAppend m.id) s = .next (answerFrom s home m false)) ∧
    (ringOf s bk r = some x → s.band? bk = some b →
      (homeRefuses s m.hdl = true → exec (.ringAppend m.id) s = .next (answerFrom s home m false)) ∧
      (∀ u, homeRefuses s m.hdl = false → forwardMsg s home b m = some u →
        (ringSize x.desc < x.used + 8 * n → exec (.ringAppend m.id) s = .next (answerFrom u here m false)) ∧
        (b.st = .resident → x.used + 8 * n ≤ ringSize x.desc → ringAv x.desc = false →
          let t := ringAdvance (unitStore u bk m x) bk r x n
          exec (.ringAppend m.id) s = .next (answerFrom t here m true) ∧
          ∃ b', t.band? bk = some b' ∧ tabGet? b'.rings r = some { x with t := x.t + BitVec.ofNat 32 (8 * n), seq := x.seq + 1 })))) ∧
  (∀ (s : State) (ep : Nat) (m : Msg) (ok : Bool), (answerFrom s ep m ok).bands = s.bands ∧ (answerFrom s ep m ok).mem = s.mem) ∧
  (∀ (s : State) (home : Nat) (b : Band) (m : Msg) (u : State), forwardMsg s home b m = some u →
    u.bands = s.bands ∧ u.mem = s.mem ∧ (b.st ≠ .resident ∨ physCore s.floor b.core / 16 = home → u = s))


/-! ## Exceptions -/

/-- The trap instructions and the return complete (R213, R214, R218, R219): TRAP takes code 0x18 with its immediate as AUX; BKPT
takes code 0x38 under the launch's debug flag and is otherwise without effect; HALT stops the bands of its level and interrupts
the host; RFT returns from the handler of its group. -/
def Obligations.TrapInstructionsResult : Prop :=
  ∀ (s : State) (h : Hdr) (m : Lanes) (imm : BitVec 32), ActsOnce s h m →
    let f : FaultReq := { FaultReq.mk0 0x18 (Hdr.lv h) with lanes := if h.lev = 0 then m else 0, aux := imm }
    exec (.trap h imm) s = .next (faulted s s f) ∧
    ((s.lrec (gcOf s s.cur.u)).debug = true → exec (.bkpt h imm) s = .next (faulted s s { f with code := 0x38 })) ∧
    ((s.lrec (gcOf s s.cur.u)).debug = false → exec (.bkpt h imm) s = .next (done s h s)) ∧
    (let t := stopUnit s (faultUnit s (Hdr.lv h)) s.cur.e s.cur.ia
     exec (.halt h) s = .next (issued s { t with host := { t.host with vectors := t.host.vectors ++ [66] } })) ∧
    (∀ gk g hd, h.lev = 0 → s.cur.u = .grp gk → s.grp? gk = some g → g.handler = some hd → g.single = true → grpBusy s gk = false →
      resumeOk s hd = true → exec (.rft h) s = .next (issued s (returnHandler s gk)))

/-- Taking an exception of disposition H in a group (R165, R170, R172, R175): the launch's fault number rises, the record is
written at its save area with a header of CAUSE 0, and the group enters its launch's handler: it keeps the faulting IA, which is also where the return
will resume, the record, its split table and its region, and runs the handler's entry as its one split in the lanes of the
faulting entry, with no region; its registers, its pins and its exited lanes stay. The record's SEQ, its header with CAUSE 0 and what offset 0
of a save area keeps are the model's readings (logs 19, 20, 24). -/
def Obligations.ExceptionEntry : Prop :=
  ∀ (s : State) (gk e : Nat) (f : FaultReq) (ia : W64) (insn : Insn) (src : Nat) (g : Machine.Group) (b : Band) (u t : State),
    s.grp? gk = some g → g.gc = gk % 64 → s.band? (bandKey g.gc g.b) = some b → b.park = none → b.st = .resident → dispOf f.code = .h →
    inHandler s (.grp gk) = false → (s.lrec g.gc).handler ≠ 0 →
    let v := dropHeld s (.grp gk)
    let seq := (countFault v g.gc).1
    writeFault (countFault v g.gc).2 (.grp gk) (recordBytes (countFault v g.gc).2 (.grp gk) f ia insn seq 0) = some u →
    checkTgt (enterHandler u (.grp gk) gk g e f ia insn seq false) (.core (coreOfGrp u g)) g.gc (s.lrec g.gc).handler = (.ok, t) →
    takeFault s (.grp gk) e f ia insn src = t ∧
    ∃ g' hd, t.grp? gk = some g' ∧ g'.handler = some hd ∧
      hd.code = f.code ∧ hd.lev = f.lev ∧ hd.unit = .grp gk ∧ hd.ia = ia ∧ hd.resume = ia ∧ hd.entry = e ∧
      hd.splits = g.splits ∧ hd.recs = g.recs ∧ hd.region = g.region ∧
      (∀ x, nth? g.splits e = some (some x) → g'.splits =
        [some ⟨(s.lrec g.gc).handler, x.mask &&& g.live, none, 0, none, false, false, .none⟩, none, none, none]) ∧
      g'.recs = [] ∧ g'.region.valid = false ∧ g'.stop = .run ∧ g'.live = g.live ∧ g'.vcount = g.vcount ∧ g'.vr = g.vr ∧
      g'.ve = g.ve ∧ g'.vp = g.vp ∧ g'.nr = g.nr ∧ g'.np = g.np ∧ g'.pr = g.pr ∧ g'.pins = g.pins

/-- The return from a handler (R176): the group leaves the handler with the split table and region that the entry put aside,
less the lanes that have exited, and a faulting entry with a lane left goes on at RESUMEIA; its registers stay. A fault inside a handler kills the band with
code 0x33 and the inner code (R175). -/
def Obligations.ExceptionReturn : Prop :=
  ∀ (s : State) (gk : Nat) (g : Machine.Group) (hd : Handler), s.grp? gk = some g → g.handler = some hd → hd.unit = .grp gk →
    (∀ x0, hd.rep412 = false → nth? hd.splits hd.entry = some (some x0) → x0.mask &&& g.live ≠ 0 →
      ∀ x, nth? (clearLanes hd.splits hd.recs (~~~g.live)).1 hd.entry = some (some x) →
      ∃ u g', u.grp? gk = some g' ∧ returnHandler s gk = settle u gk ∧ g'.handler = none ∧ g'.region = hd.region ∧
        nth? g'.splits hd.entry = some (some { x with pc := hd.resume, rj := false, w := .none }) ∧
        (∀ i, i ≠ hd.entry → nth? g'.splits i = nth? (clearLanes hd.splits hd.recs (~~~g.live)).1 i) ∧
        g'.live = g.live ∧ g'.vr = g.vr ∧ g'.ve = g.ve ∧ g'.vp = g.vp ∧ g'.nr = g.nr ∧ g'.np = g.np ∧ g'.pr = g.pr) ∧
    (∀ e f ia insn src, inHandler s (.grp gk) = true →
      let v := countFault (dropHeld s (.grp gk)) (gcOf s (.grp gk))
      takeFault s (.grp gk) e f ia insn src = contain v.2 (.grp gk)
        ⟨0x33, f.lev, f.lanes, BitVec.ofNat 32 f.code, 0, 0, []⟩ ia insn v.1 0x0B)

/-! ## Control registers, time and translation -/

/-- CTLRD, CTLWR, CYCLE and EVRD complete with the values of R210, R215 and R217 (a read of a counter is never below an earlier one of
its context), SLEEPC at once for a count of zero and else once its clock has passed (R216), TLBINV once what used the dropped
translations is visible (R220), and CLONE by setting the checking mode of its group (R221). -/
def Obligations.ControlAndTimeResult : Prop :=
  ∀ (s : State) (h : Hdr) (m : Lanes),
    let lev := Hdr.lv h
    (∀ d, OnceReady s h m 2 [] (onceDst h d 2 m) → LogFits s h →
      (∀ cr, exec (.ctlrd h d cr) s = .next (done s h (wroteOnce (crRead s h cr.toNat).2 h m d 2 (crRead s h cr.toNat).1))) ∧
      (∀ src, exec (.cycle h src d) s = .next (done s h (wroteOnce (cycRead s h src).2 h m d 2 (cycRead s h src).1))) ∧
      (∀ ev, exec (.evrd h d ev) s = .next (done s h (wroteOnce (evRead s ev.toNat).2 h m d 2 (evRead s ev.toNat).1)))) ∧
    (∀ a cr, OnceReady s h m 2 [(1, a)] [] → crDenied s cr.toNat (onceVal s h m 0 a.o) = false →
      exec (.ctlwr h a cr) s = .next (done s h (crWrite s h cr.toNat (onceVal s h m 0 a.o)))) ∧
    (∀ src, let v := (cycRead s h src).1
      (src = .loc → (cycSeen s h).1 < 2 ^ 64 → clockHere s h < 2 ^ 64 →
        v.toNat = max (cycSeen s h).1 (clockHere s h) ∧ (cycSeen s h).1 ≤ v.toNat) ∧
      (src = .net → (cycSeen s h).2 < 2 ^ 64 → s.nc + 4 < 2 ^ 64 →
        (cycSeen s h).2 ≤ v.toNat ∧ s.nc ≤ v.toNat ∧ v.toNat ≤ max (cycSeen s h).2 (s.nc + 4))) ∧
    (∀ a imm, OnceReady s h m 1 [(1, a)] [] → waitOf s lev = .none →
      let n := min (onceVal s h m (imm.setWidth 64) a.o).toNat (2 ^ 24 - 1)
      (n = 0 → exec (.sleepc h a imm) s = .next (passed s h s)) ∧
      (n ≠ 0 → exec (.sleepc h a imm) s = .next (setWait s lev (.sleep (clockHere s h + n))))) ∧
    (∀ a imm, ActsOnce s h m → waitOf s lev = .sleep 0 → exec (.sleepc h a imm) s = .next (passed s h (setWait s lev .none))) ∧
    (∀ a, waitOf s lev = .none → onceDrained s h 5 = true →
      let sp := (s.task (gcOf s s.cur.u)).space
      (OnceReady s h m 1 [(1, a)] [] → vaOk (onceVal s h m 0 a.o) = true →
        let t := tlbDropAll s (fun e => e.space == sp &&
          (onceVal s h m 0 a.o).toNat / 2 ^ e.bits * 2 ^ e.bits == e.va)
        exec (.tlbinv h .page a) s = .next (setWait (acquireView t s.cur.u) lev (.inval t.accSeq))) ∧
      (OnceReady s h m 1 [] [] →
        (let t := tlbDropAll s (fun e => e.space == sp)
         exec (.tlbinv h .space a) s = .next (setWait (acquireView t s.cur.u) lev (.inval t.accSeq))) ∧
        (let t := tlbDropAll s (fun _ => true)
         exec (.tlbinv h .all a) s = .next (setWait (acquireView t s.cur.u) lev (.inval t.accSeq))))) ∧
    (∀ a k n, ActsOnce s h m → waitOf s lev = .inval n → usedDone s n = true →
      exec (.tlbinv h k a) s = .next (done s h (setWait s lev .none))) ∧
    (∀ gk, ActsOnce s h m → s.cur.u = .grp gk →
      exec (.clone h .off) s = .next (done s h (s.updGrp gk (fun g => { g with chk := 0 }))) ∧
      exec (.clone h .cnt) s = .next (done s h (s.updGrp gk (fun g => { g with chk := 1 }))) ∧
      exec (.clone h .strict) s = .next (done s h (s.updGrp gk (fun g => { g with chk := 2 }))))

/-- The values of the control registers (R210): in a handler the words of its record, RESUMEIA and the cycles left before the limit
of R175, the launch's handler, the checking mode in force with the launch's, the privilege and debug bits, and the bank selected with its latch, of
which a group at LEV 0 and every context hold their own. Reading a bank's status latches its four words, which the reads of 0x102 to
0x104 then give; writing zero to it clears the bank where its status is still the latched one (R211). A write to a register that is
read only is refused, one to MCSTATUS is allowed only of zero. Above the group domain the mode in force is the launch's, which is the
model's choice (log 27). -/
def Obligations.ControlRegisterValues : Prop :=
  ∀ (s : State) (h : Hdr),
    let r := s.lrec (gcOf s s.cur.u)
    (∀ hd, handlerHere s = some hd → (crRead s h 0x10).1 = hd.resume ∧
      ∀ cr < 16, (crRead s h cr).1 = BitVec.ofNat 64 (leNat ((hd.rcd.drop (8 * cr)).take 8))) ∧
    (handlerHere s = none → (crRead s h 0x10).1 = 0 ∧ (crRead s h 0x11).1 = 0 ∧ (∀ cr < 16, (crRead s h cr).1 = 0) ∧
      ∀ v, crDenied s 0x10 v = true) ∧
    (∀ gk g hd, s.cur.u = .grp gk → s.grp? gk = some g → g.handler = some hd →
      (crRead s h 0x11).1 = BitVec.ofNat 64 (65536 - (clockAt s (.core (coreOfGrp s g)) - hd.start))) ∧
    (crRead s h 0x12).1 = r.handler ∧
    (∀ gk g, s.cur.u = .grp gk → s.grp? gk = some g → (crRead s h 0x20).1 = BitVec.ofNat 64 (g.chk + 4 * r.chk)) ∧
    (∀ ck, s.cur.u = .ctx ck → (crRead s h 0x20).1 = BitVec.ofNat 64 (r.chk + 4 * r.chk)) ∧
    (crRead s h 0x21).1 = BitVec.ofNat 64 (b2n r.priv + 2 * b2n r.debug) ∧
    (∀ cr, cr ≠ 0x101 → (crRead s h cr).2 = s) ∧
    (∀ sel latch, (h.lev = 0 ∧ ∃ gk g, s.cur.u = .grp gk ∧ s.grp? gk = some g ∧ sel = g.mcsel ∧ latch = g.latch) ∨
        (h.lev ≠ 0 ∧ ∃ ck c, ownKey s s.cur.u (Hdr.lv h) = ck ∧ s.ctx? ck = some c ∧ sel = c.mcsel ∧ latch = c.latch) →
      let b := s.bankRead sel
      let t := (crRead s h 0x101).2
      (crRead s h 0x100).1 = BitVec.ofNat 64 sel ∧ (crRead s h 0x101).1 = b.status ∧
      (∀ k < 3, (crRead s h (0x102 + k)).1 = (nth? latch (k + 1)).getD 0) ∧
      (crRead t h 0x100).1 = BitVec.ofNat 64 sel ∧ (crRead t h 0x102).1 = b.addr ∧ (crRead t h 0x103).1 = b.misc0 ∧
      (crRead t h 0x104).1 = b.misc1 ∧
      (∀ v : W64, (crRead (crWrite s h 0x100 v) h 0x100).1 = v) ∧
      (∀ v, (b.status = (nth? latch 0).getD 0 → crWrite s h 0x101 v = s.bankClear sel) ∧
        (b.status ≠ (nth? latch 0).getD 0 → crWrite s h 0x101 v = s))) ∧
    (∀ v : W64, crDenied s 0x100 v = true ↔ 0x4B0 < v.toNat) ∧ (∀ v : W64, crDenied s 0x101 v = true ↔ v ≠ 0) ∧
    (∀ cr v, cr ≠ 0x10 → cr ≠ 0x100 → cr ≠ 0x101 → crDenied s cr v = true)

/-! ## Steps of the sequencers -/

/-- The steps of the sequencers where their conditions hold (R23, R24, R30, R33, R111, R175, R216, R236, R412): a segment is
emitted with the next number; a child that has walked past its stop finishes it, a report enters its parent's table, a held fault is
taken once no segment is left, a handler past its limit kills its band with code 0x34, a producer's value fills its destination, and
lines and translations are filled and dropped with no change of memory or of a unit. That several rules take their
effect in one step is the model's choice (log 14). -/
def Obligations.SequencerSteps : Prop :=
  ∀ (s : State) (u : UnitRef) (ck gk : Nat) (c : Ctx) (g : Machine.Group), s.ctx? ck = some c → s.grp? gk = some g →
    (∀ t d, prep s (.ctx ck) 0 = .moved t → t.ctx? ck = some d → d.next ≠ c.next → exec (.segmentEmit ck) s = .next t) ∧
    (∀ only rep, emitStalls s ck c = false → ∃ t d, emit s ck only rep = some t ∧ t.ctx? ck = some d ∧ d.next = c.next + 1 ∧
      d.segStart = c.ia ∧ d.asked = rep.isSome ∧ d.lower = false) ∧
    (unitRuns s u = true → mayFinish s u = true → exec (.segmentFinish u) s = .next (finishSeg s u)) ∧
    (∀ j x q r, parentOf s u = some (ck, j) → curSeg s u = some x → x.rep = some q → unitRuns s u = true → noHandlerIn s u = true → segIdle s u = true →
      c.asked = true → x.id + 1 = c.next → tabGet? c.reports j = none → evalRep s q 8 u = .rep r →
      exec (.conditionReport u) s = .next (s.updCtx ck (fun c => { c with reports := tabSet c.reports j r }))) ∧
    (∀ j x q v f, parentOf s u = some (ck, j) → curSeg s u = some x → x.rep = some q → unitRuns s u = true → noHandlerIn s u = true → segIdle s u = true →
      c.asked = true → x.id + 1 = c.next → tabGet? c.reports j = none → evalRep s q 8 u = .fault v f →
      exec (.conditionReport u) s = .next (reportFault s v f q)) ∧
    (∀ f ia insn, c.held = some (f, ia, insn) → c.trail = [] → ctxIssues s { c with held := none } = true →
      exec (.faultDelivery (.ctx ck)) s =
        .next (takeFault (s.updCtx ck (fun c => { c with held := none })) (.ctx ck) 0 f ia insn (srcOfFault f))) ∧
    (∀ hd b e x r, g.handler = some hd → s.band? (bandKey g.gc g.b) = some b → b.dbg = none → b.dying = none →
      hd.start + 65536 < clockAt s (.core (coreOfGrp s g)) → entries g.splits = (e, x) :: r →
      exec (.handlerTimeLimit gk) s = .next (killHandler (countFault s g.gc).2 (.grp gk) 0x34 0 0 x.mask x.pc 0 (countFault s g.gc).1)) ∧
    (∀ n p, s.prods.find? (fun p => p.n = n) = some p → exec (.producerCompletion n) s =
      .next (afterFill (fillDest { s with prods := s.prods.filter (fun q => q.n != n) } p.dest p.val p.poi) p.dest)) ∧
    (∀ va l, vaOk va = true → s.launch? (gcOf s u) = some l →
      let t := (fillLine s (placeOf s u) (gcOf s u) (va.toNat / 64 * 64)).2
      exec (.lineFill u va) s = .next t ∧ t.mem = s.mem ∧ t.groups = s.groups ∧ t.ctxs = s.ctxs) ∧
    (∀ core gc va l e t, s.launch? gc = some l → vaOk va = true → core < s.floor.allCores.length →
      walk s l.t.space l.t.top va.toNat = (.leaf e, t) → leafAllows t e va.toNat .read l.r.priv = true →
      exec (.pageWalk core gc va) s = .next ((t.updCore core (fun c => { c with tlb := tlbAdd c.tlb 128 e })).updCluster
        (clusOfCore t.floor core) (fun c => { c with tlb := tlbAdd c.tlb 4096 e }))) ∧
    (∀ n i, exec (.tlbDrop true n i) s = .next (s.updCore n (fun c => { c with tlb := c.tlb.eraseIdx i })) ∧
      exec (.tlbDrop false n i) s = .next (s.updCluster n (fun c => { c with tlb := c.tlb.eraseIdx i }))) ∧
    (∀ n e, c.w = .sleep n → n ≤ clockOf s (.ctx ck) →
      ∃ t, exec (.sleepExpire (.ctx ck) e) s = .next t ∧ (t.ctx? ck).map (fun c => c.w) = some (.sleep 0) ∧ t.mem = s.mem)

/-! ## Steps of the ordering machine and the network -/

/-- The steps of the ordering machine and of the network where their conditions hold (R243, R264, R378 to R383): a read takes its value
from its core's view, whose line is filled first where it is not wholly there, from its scratchpad or from home; one of scope CLU or wider
takes it from home and leaves its bytes unheld in its core's view (R230); a constant-path read takes it from its line, filled from home
where it is not held (R263). A PREF's line stands in the view. An atomic is one step: at home, on the view of a core that makes one of
band scope, or in the scratchpad, it returns the old value and writes that of R266, and a poisoned target keeps its data (R248, R269). A
write is applied to the view or, without one, at home, and from the view is later delivered at home; a held byte is refreshed or dropped;
a performed access whose marker is acknowledged leaves the pending set. A cellar's eviction changes no byte (R232). The oldest waiting
request of its class at its endpoint leaves when its bucket holds 64 bytes a flit and its pair's window is open, on a route that stays its
own, and takes the pair's next number mod 2^16; a loaded table sends a packet over the direct link or the common neighbour; a refill adds
RATE up to the capacity. A view that holds bytes one by one and fills lines, the order in which the atomics of one instruction leave, and the
flits of a packet are the model's readings (logs 23, 25). -/
def Obligations.OrderingAndNetworkSteps : Prop :=
  (
    ∀ (s : State) (a : Access), accOf s a.id = some a →
      (a.kind = .read → a.taken = none → ordersAllow s a = true → readInOrder s a = true →
        (∀ bk off b, a.loc = .scr bk off →
          let t := scrStruck s (accWho s a) bk off a.width
          t.band? bk = some b →
          exec (.readPerform a.id) s = .next (tookValue t a (scrRead b off a.width) (scrBad b off a.width))) ∧
        (∀ pa, a.loc = .mem pa → a.core = none → a.inj = true → exec (.readPerform a.id) s =
          .next (tookValue (readCheck s pa a.width).2 a (memRead s.mem pa a.width) (readCheck s pa a.width).1)) ∧
        (∀ pa k, a.loc = .mem pa → a.core = some k → readsView a = true → copyAhead s a = false → l1Struck s a k pa = none →
          (someUnheld s k pa a.width = false →
            exec (.readPerform a.id) s = .next (tookValue (viewRead s k pa a.width).2 a (viewRead s k pa a.width).1 false) ∧
            ∀ i, i < a.width → (viewRead s k pa a.width).1[i]? = tabGet? (s.core k).view (pa + i)) ∧
          (someUnheld s k pa a.width = true → a.inj = true → mayFill s a k pa = true →
            let t := fillView s k pa
            exec (.readPerform a.id) s =
              .next (tookValue (viewRead t k pa a.width).2 a (viewRead t k pa a.width).1 (someUnheld t k pa a.width)) ∧ t.mem = s.mem)) ∧
        (∀ pa k, a.loc = .mem pa → a.core = some k → a.inj = true → a.konst = false → 3 ≤ a.sc → copyAhead s a = false →
          let u := unhold s k pa a.width
          exec (.readPerform a.id) s = .next (tookValue (readCheck u pa a.width).2 a (memRead s.mem pa a.width) (readCheck u pa a.width).1) ∧
          ∀ i < a.width, tabGet? (u.core k).view (pa + i) = none) ∧
        (∀ pa k, a.loc = .mem pa → a.core = some k → a.inj = true → a.konst = true → pa % 128 + a.width ≤ 128 →
          (∀ line, (s.core k).kv.find? (fun p => p.1 == pa / 128 * 128) = some (pa / 128 * 128, line) →
            exec (.readPerform a.id) s = .next (tookValue s a ((line.drop (pa % 128)).take a.width) false)) ∧
          ((s.core k).kv.find? (fun p => p.1 == pa / 128 * 128) = none → ∃ t, t.mem = s.mem ∧ (t.core k).view = (s.core k).view ∧
            exec (.readPerform a.id) s = .next (tookValue t a (memRead s.mem pa a.width) (readCheck s pa a.width).1)))) ∧
      (∀ pa k, a.kind = .pref → a.taken = none → ordersAllow s a = true → a.loc = .mem pa → a.core = some k →
        (someUnheld s k pa a.width = false →
          exec (.readPerform a.id) s = .next (updAcc s a.id (fun a => { a with taken := some [] }))) ∧
        (someUnheld s k pa a.width = true → a.inj = true → mayFill s a k pa = true →
          exec (.readPerform a.id) s = .next (updAcc (fillView s k pa) a.id (fun a => { a with taken := some [] })))) ∧
      (a.kind = .write → a.atView = false → a.atHome = false → ordersAllow s a = true → releaseAllows s a = true → applyInOrder s a = true →
        (∀ pa k, a.loc = .mem pa → a.core = some k → exec (.writeApply a.id) s =
          .next (updAcc (viewWrite s k pa a.data a.poi) a.id (fun a => { a with atView := true, vord := s.tick }))) ∧
        (∀ pa, a.loc = .mem pa → a.core = none → a.inj = true → lineInOrder s a = true → exec (.writeApply a.id) s =
          .next (updAcc (homeWrite s pa a.data a.poi) a.id (fun a => { a with atView := true, atHome := true }))) ∧
        (∀ bk off b, a.loc = .scr bk off → s.band? bk = some b → exec (.writeApply a.id) s =
          .next (updAcc (scrStore s bk off a.data a.poi) a.id (fun a => { a with atView := true, atHome := true })))) ∧
      (∀ pa, a.loc = .mem pa → a.atView = true → a.atHome = false → a.inj = true → homeInOrder s a = true → lineInOrder s a = true →
        exec (.writeDeliver a.id) s = .next (updAcc (homeWrite s pa a.data a.poi) a.id (fun a => { a with atHome := true }))) ∧
      (a.kind ≠ .fence → accDone a = true → acked s a = true →
        exec (.accessComplete a.id) s = .next { s with accs := s.accs.filter (fun b => b.id != a.id) }) ∧
      (a.kind = .fence → fenceDone s a = true → exec (.accessComplete a.id) s =
        .next { fenceAcquire s a with accs := (fenceAcquire s a).accs.filter (fun b => b.id != a.id) })) ∧
  (
    ∀ (s : State) (a : Access) (op : Aop) (ty : Ty) (b c : W64) (ret : Bool), accOf s a.id = some a → a.kind = .atomic op ty b c ret →
      a.atView = false → a.atHome = false → ordersAllow s a = true → releaseAllows s a = true → applyInOrder s a = true →
      let new := fun (old : List Byte) => leBytes (tyBytes ty) (atomicNew (faddV ty) op ty (BitVec.ofNat 64 (leNat old)) b c).toNat
      let ends := fun (v : State) => updAcc v a.id (fun a => { a with atView := true, atHome := true })
      (∀ pa, a.loc = .mem pa → homeAtomic a = true → a.inj = true → lineInOrder s a = true →
        let old := memRead s.mem pa a.width
        let u := (readCheck s pa a.width).2
        exec (.writeApply a.id) s = .next (if (readCheck s pa a.width).1 then tookValue (ends u) a old true
          else tookValue (ends (homeWrite u pa (new old) false)) a old false)) ∧
      (∀ pa k, a.loc = .mem pa → homeAtomic a = false → a.core = some k → copyAhead s a = false → l1Struck s a k pa = none →
        someUnheld s k pa a.width = false ∨ mayFill s a k pa = true →
        let u := if someUnheld s k pa a.width then fillView s k pa else s
        let old := (viewRead u k pa a.width).1
        let v := (viewRead u k pa a.width).2
        (someUnheld u k pa a.width = false → exec (.writeApply a.id) s =
          .next (tookValue (updAcc (viewWrite v k pa (new old) false) a.id
            (fun a => { a with atView := true, vord := s.tick, data := new old })) a old false)) ∧
        (someUnheld u k pa a.width = true → exec (.writeApply a.id) s = .next (tookValue (ends v) a old true))) ∧
      (∀ bk off x, let u := scrStruck s (accWho s a) bk off a.width
        a.loc = .scr bk off → u.band? bk = some x →
        let old := scrRead x off a.width
        exec (.writeApply a.id) s = .next (if scrBad x off a.width then tookValue (ends u) a old true
          else tookValue (ends (scrStore u bk off (new old) false)) a old false))) ∧
  (
    ∀ (f : W64 → W64 → W64) (ty : Ty) (o b n : W64), (ty = .u32 ∨ ty = .s32 ∨ ty = .u64 ∨ ty = .s64) →
      let w := 8 * tyBytes ty
      let x : BitVec w := o.setWidth w
      let y : BitVec w := b.setWidth w
      let gives := fun (op : Aop) (v : BitVec w) => atomicNew f op ty o b n = v.setWidth 64
      gives .add (x + y) ∧ gives .and (x &&& y) ∧ gives .or (x ||| y) ∧ gives .xor (x ^^^ y) ∧ gives .xchg y ∧
      gives .min (if intOf (tySigned ty) x < intOf (tySigned ty) y then x else y) ∧
      gives .max (if intOf (tySigned ty) y < intOf (tySigned ty) x then x else y) ∧
      gives .cas (if x = y then n.setWidth w else x) ∧
      (y = 0 → gives .incw (x + 1) ∧ gives .decw (x - 1)) ∧
      (y ≠ 0 → gives .incw (BitVec.ofNat w ((x.toNat + 1) % y.toNat)) ∧
        gives .decw (BitVec.ofNat w ((x.toNat % y.toNat + y.toNat - 1) % y.toNat)))) ∧
  (
    ∀ (s : State) (k pa : Nat),
      ((tabGet? (s.core k).view pa).isSome = true → inTransit s k pa 1 = false → ∃ t, exec (.viewRefresh k pa) s = .next t ∧
        tabGet? (t.core k).view pa = (if badSector s pa then none else some (memByte s.mem pa)) ∧
        (∀ q, q ≠ pa → tabGet? (t.core k).view q = tabGet? (s.core k).view q) ∧ t.mem = s.mem) ∧
      (∃ t, exec (.viewEvict k pa) s = .next t ∧ tabGet? (t.core k).view pa = none ∧
        (∀ q, q ≠ pa → tabGet? (t.core k).view q = tabGet? (s.core k).view q) ∧ t.mem = s.mem) ∧
      (∃ t, exec (.cellarEvict pa) s = .next t ∧ t = (cellarHits s (pa / 128 * 128) 128).foldl cellarHit s ∧ t.mem = s.mem)) ∧
  (
    ∀ (s : State),
      (∀ a t r, accOf s a.id = some a → wantsInject s a = true →
        (∀ b ∈ s.accs, queuedBefore b a = true → endpointOf s b = endpointOf s a → b.cls = a.cls → wantsInject s b = false) →
        (∀ b ∈ sameLoc s a, isWriteK b.kind = true → isWriteK a.kind = true → b.inj = true ∨ b.atHome = true ∨ needsInject b = false) →
        windowRoom s (pairOf s a) = true → bucketTake s (endpointOf s a) a.cls (flitsOf a) = some t →
        inject t (endpointOf s a) (targetOf s a) a.id = some r →
        let n := tabGet 0 r.2.pairSeq (pairOf s a)
        exec (.packetInject a.id) s = .next (updAcc { r.2 with pairSeq := tabPut 0 r.2.pairSeq (pairOf s a) ((n + 1) % 65536) } a.id
          (fun a => { a with inj := true, pseq := n, route := r.1 }))) ∧
      (∀ c d, c < 50 → d < 50 → c ≠ d →
        (joined c d = true → routeTo (loadRoutes s) c d = some [d]) ∧
        (∀ n, joined c d = false → (List.range 50).find? (fun n => joined c n && joined n d) = some n →
          routeTo (loadRoutes s) c d = some [n, d])) ∧
      (∀ ep cls f, let r := bucketReg s ep cls
        let l := tabGet (0 : Int) s.host.levels (ep * 4 + cls)
        (bucketRate r = 0 → bucketTake s ep cls f = some s) ∧
        (bucketRate r ≠ 0 → l < 64 * f → bucketTake s ep cls f = none) ∧
        (bucketRate r ≠ 0 → 64 * f ≤ l → ∃ t, bucketTake s ep cls f = some t ∧ tabGet (0 : Int) t.host.levels (ep * 4 + cls) = l - 64 * f ∧
          t.accs = s.accs ∧ t.pairSeq = s.pairSeq) ∧
        (bucketRate r ≠ 0 → cls < 4 → ∃ t, exec (.bucketRefill ep cls) s = .next t ∧
          tabGet (0 : Int) t.host.levels (ep * 4 + cls) = min (bucketCap r : Int) (l + bucketRate r) ∧ t.mem = s.mem)))

/-! ## Steps of the drover and of the matrix unit -/

/-- A K-step of an MMA (R287, R288): the element that its indices name takes the one rounding of the exact sum of its old value
and its eight products, and no other element of any accumulator changes. The patterns of a NaN and of an infinity in an I32 accumulator
are the model's choice (log 18). -/
def Obligations.MatrixStepValue : Prop :=
  ∀ (c : Machine.Core) (f : AccFmt) (d : Nat) (ma mb : W64) (ca cb i j : Nat),
    let wide := decide (f = .fp64)
    let a := d + (if wide then 2 else 1) * (i / 64 * mapLines mb + j / 64)
    let sum := sumFV (accVal c f a (i % 64) (j % 64) :: (List.range 8).map (fun k =>
      FV.mul ((getEl c (mapBuf ma + i / 64) (mapW ma) (mapP ma) (i % 64) (8 * ca + k)).val (mapP ma))
        ((getEl c (mapBuf mb + j / 64) 8 (mapP mb) (8 * cb + k) (j % 64)).val (mapP mb))))
    let t := kStep c f d ma mb ca cb i j
    accBits t wide a (i % 64) (j % 64) = accRound f sum % 2 ^ (if wide then 64 else 32) ∧ accBad t wide a (i % 64) (j % 64) = false ∧
    (∀ b k l, k < 64 → l < 64 → ¬(k = i % 64 ∧ l = j % 64 ∧ (b = a ∨ (wide = true ∧ b = a + 1))) →
      accBits t false b k l = accBits c false b k l) ∧
    t.pb = c.pb ∧ t.mq = c.mq ∧ t.drover = c.drover

/-- The steps of the drover and of the matrix unit where their conditions hold (R253, R273, R295, R300, R305, R316, R320): commands start
in queue order; a sector of a started copy takes its flit after the requests of earlier accesses of its class, then moves element by
element, each read before it is written and which one is free, and with the last it is counted at its arrival word, the last sector completing the copy; an operation starts when no earlier
one still writes what it uses, and takes its effect as it leaves the queue, a whole tile of the scratchpad element by element, or leaves
undefined values, and a deferred fault at a mismatch (R188). The order in which running operations end, and which numbers of its pair a
sector takes, are the model's reading (log 23, 24). -/
def Obligations.DroverAndMatrixSteps : Prop :=
  ∀ (s : State) (k : Nat),
    (∀ d, (s.core k).drover.find? (fun d => !d.started) = some d → copyMayRead s d = true → exec (.droverStart k) s =
      .next (s.updCore k (fun c => { c with drover := c.drover.map (fun x => if x.id = d.id then { x with started := true } else x) }))) ∧
    (∀ n i c x, (s.core k).drover.find? (fun d => d.id = n && d.started) = some c → nth? c.sectors i = some x →
      (let ep := physCore s.floor k / 16
       let cls := (s.task (c.bk % 64)).prio
       let ahead := s.accs.any (fun b => decide (b.id < c.acc) && endpointOf s b == ep && b.cls == cls && wantsInject s b)
       (c.k = .s2s → sectorPacket s k c x = some s) ∧ (c.k ≠ .s2s → ahead = true → sectorPacket s k c x = none) ∧
       (c.k ≠ .s2s → ahead = false → toGlobal c.k = true → sectorPacket s k c x = bucketTake s ep cls 1) ∧
       (c.k ≠ .s2s → ahead = false → toGlobal c.k = false → sectorPacket s k c x =
         (sendPacket s ep (locTarget s (locOf s.floor x.pa)) cls 1 c.acc).map (fun r => r.2.2))) ∧
      (∀ u, x.todo = none → sectorPacket s k c x = some u →
        exec (.sectorComplete k n i) s = .next (putSector u k c i { x with todo := some (c.elements x.va) })) ∧
      (∀ l, x.todo = some l →
        ((∃ j p, nth? l j = some p ∧ (movePiece s.tick1 k c i x l j p).isSome = true) →
          ∃ j p t, nth? l j = some p ∧ movePiece s.tick1 k c i x l j p = some t ∧ exec (.sectorComplete k n i) s = .next t) ∧
        ((∀ j p, nth? l j = some p → movePiece s.tick1 k c i x l j p = none) → exec (.sectorComplete k n i) s = .next s))) ∧
    (∀ c i x l j p,
      (toGlobal c.k = false → c.k ≠ .s2s → isMem s.floor (x.paOf p) = true → coreClear s k c.acc (x.paOf p) p.n = true →
        readPiece s k c x p = some ((memRead s.mem (x.paOf p) p.n, (readCheck s (x.paOf p) p.n).1), (readCheck s (x.paOf p) p.n).2)) ∧
      (∀ r u, p.got = none → readPiece s k c x p = some (r, u) → movePiece s k c i x l j p =
        some (putSector u k c i { x with todo := some (setNth l j { p with got := some r }), poi := x.poi || r.2 })) ∧
      (∀ bs q u, p.got = some (bs, q) → writePiece s k c x p bs q = some u →
        (l.eraseIdx j ≠ [] → movePiece s k c i x l j p = some (putSector u k c i { x with todo := some (l.eraseIdx j) })) ∧
        (l.eraseIdx j = [] → movePiece s k c i x l j p = some (endSector u k c i x))) ∧
      (∀ bs q, copyMayWrite s c = true → toPlane c.k = false → toGlobal c.k = false →
        writePiece s k c x p bs q = some (scrStore s x.bk (c.denseAt p) bs q)) ∧
      (let t := countSector (cleanSector s c x) c x x.poi
       (c.sectors.eraseIdx i ≠ [] → endSector s k c i x = t.updCore k (fun y => { y with
          drover := y.drover.map (fun d => if d.id = c.id then { d with sectors := c.sectors.eraseIdx i } else d) })) ∧
       (c.sectors.eraseIdx i = [] → endSector s k c i x = c.targets.foldl (fun s bk => reapBand s (bk % 64) (bk / 64))
          ((updAcc t c.acc (fun a => { a with atHome := true })).updCore k (fun y => { y with
            drover := y.drover.filter (fun d => d.id != c.id) }))))) ∧
    (∀ o, (s.core k).mq.find? (fun o => !o.run) = some o → mayStart (s.core k).mq o = true → exec (.matrixOpStart k) s =
      .next (s.updCore k (fun c => { c with mq := c.mq.map (fun p => if p.id = o.id then { p with run := true } else p) }))) ∧
    (∀ n o, (s.core k).mq.find? (fun o => o.id = n && o.run) = some o → mayComplete s (s.core k).mq o = true →
      let t := strikeMat s k
      let put := fun (t : State) (l : List Nat) =>
        t.updCore k (fun c => { c with mq := c.mq.map (fun p => if p.id = n then { p with todo := some l } else p) })
      (o.moves = false →
        (o.taint = false → exec (.matrixOpComplete k n false) s = .next (endMat (matEffect t k o) k o)) ∧
        (o.taint = true → exec (.matrixOpComplete k n false) s = .next (endMat (accUndef t k o.wr) k o)) ∧
        (∀ ty d ra rb ma mb steps ai bi, o.k = .mma ty d ra rb ma mb steps ai bi →
          exec (.matrixOpComplete k n true) s = .next (endMat (deferMat (accUndef t k o.wr) k o 0x32 0x09) k o))) ∧
      (o.moves = true →
        (o.todo = none → exec (.matrixOpComplete k n false) s = .next (put t (List.range 4096))) ∧
        (∀ e r, o.todo = some (e :: r) → ∃ j e', nth? (e :: r) j = some e' ∧
          exec (.matrixOpComplete k n false) s = .next (put (matElement t.tick1 k o e') ((e :: r).eraseIdx j))) ∧
        (o.todo = some [] → exec (.matrixOpComplete k n false) s = .next (endMat t k o))))

/-! ## Pre-emption and parking -/

/-- Pre-emption and parking (R177, R178, R330, R331): a request that finds its band resident asks it and its whole unit to park with
CAUSE 1, and one that comes while another park is under way, or once the groups have stopped, is kept for the next run; a group that has not stopped after 2^20 cycles stops; a park whose units are quiet and drained writes its images, frees
what they held and leaves the bands parked; one that finds no room in a slice is abandoned; a unit with its resources back reads its
images and runs, and an image that cannot be written or read is a fatal error. The layout of the saved images is the model's (log
20), and so is when a kept request counts (log 19) and what an abandoned park leaves (log 24). -/
def Obligations.ParkingSteps : Prop :=
  ∀ (s : State) (gc b gk : Nat) (g : Machine.Group) (x : Band), s.band? (bandKey gc b) = some x → s.grp? gk = some g →
    (x.st = .resident → x.again ≤ clockAt s (.core x.core) → x.park = none → x.dbg = none →
      exec (.preemptionRequest gc b) s = .next (requestPark s gc b 1 false)) ∧
    (∀ p, x.st = .resident → x.again ≤ clockAt s (.core x.core) → x.park = some p → x.cause ≠ 1 →
      exec (.preemptionRequest gc b) s = .next (s.updBand (bandKey gc b) (fun x => { x with kept := true }))) ∧
    (∀ p, x.st = .resident → x.again ≤ clockAt s (.core x.core) → x.park = some p → x.cause = 1 →
      ((∀ q ∈ grpsOf s gc b, grpQuiet s q 1 = true) →
        exec (.preemptionRequest gc b) s = .next (s.updBand (bandKey gc b) (fun x => { x with kept := true }))) ∧
      ((∃ q ∈ grpsOf s gc b, grpQuiet s q 1 = false) → exec (.preemptionRequest gc b) s = .next s)) ∧
    (∀ p, bandKey g.gc g.b = bandKey gc b → x.park = some p → x.cause = 1 → handling s g.gc g.b = false → g.stop = .run →
      p.start + 2 ^ 20 ≤ clockAt s (.core x.core) →
      exec (.preemptionTimeout gk) s = .next (s.updGrp gk (fun g => { g with stop := .halted }))) ∧
    (parkReady s gc b = true →
      let bs := parkBands s gc b
      let gks := (parkGrps s gc bs).map (·.1)
      let cks := (parkCtxs s gc bs).map (·.1)
      let names := pinNames (parkGrps s gc bs)
      let bars := barNames s (parkCtxs s gc bs)
      let room := parkRoom s (allNames (parkGrps s gc bs)) bars
      let out := moveOut (withdraw (keepMasks (sendOwed s gc bs) gks) gc gks cks) gc names bars gks
      (room = false → exec (.park gc b) s = .next (abandonPark s gc b x.cause bs)) ∧
      (room = true → writeImages out gc x.cause bs = none → exec (.park gc b) s = .next (fatal (imagesFailed out gc x.cause bs))) ∧
      (∀ u, room = true → writeImages out gc x.cause bs = some u →
        let freed := freeUnits u gc x.cause bs gks cks
        exec (.park gc b) s = .next (afterPark (leaveReserve (launchState freed gc 4) gc x.cause bs) gc x.cause bs) ∧
        ∀ y ∈ bs, ∀ z, u.band? (bandKey gc y) = some z → ∃ w, freed.band? (bandKey gc y) = some w ∧
          w.st = .parked ∧ w.park = none ∧ w.cause = x.cause ∧ w.scr = [] ∧ w.maps = [])) ∧
    (x.st = .resuming → (∀ y ∈ bandsWith s gc b, ∀ z, s.band? (bandKey gc y) = some z → z.st ≠ .parked) →
      let bs := resumeBands s gc b
      (resumeReadable s gc bs = false → exec (.unitResume gc b) s = .next (fatal (imagesLost s gc bs))) ∧
      (resumeReadable s gc bs = true → exec (.unitResume gc b) s = .next (resumeNow s gc bs ((parkGrps s gc bs).map (·.1))
        ((parkCtxs s gc bs).map (·.1)) (resumeAreas s gc bs)))) ∧
    (∀ y, s.band? (bandKey gc y) = some x → ∃ z, (bandBack s gc y).band? (bandKey gc y) = some z ∧ z.st = .resident ∧ z.cause = 0 ∧
      ((bandBack s gc y).core x.core).view = [] ∧ ((bandBack s gc y).core x.core).kv = [])

/-! ## Containment -/

/-- Containment (R190, R192, R196 to R199, R204): a compared entry of a replay queue leaves it, and a difference in its lanes becomes code
0x31 at the group's next boundary; a stopped group whose producers are done restarts its region at the entry with the recorded lanes
that are still live; an agreed kill is carried out once nothing of its bands is outstanding; a fatal error halts the module; and
walkround's test of an idle cluster begins, is given up and ends with the failure of each core recorded under SRC 0x20, a core that
fails twice in a row being withdrawn. What a comparison and a test find comes with the turn (log 15), and the killed unit's names stay for
its accesses (log 24). -/
def Obligations.ContainmentSteps : Prop :=
  ∀ (s : State),
    (∀ k q e rest diff g, (nth? (s.core k).replay q).getD [] = e :: rest → s.grp? e.gk = some g → g.clonePend = none →
      (diff &&& e.lanes = 0 → exec (.replayCompare k q diff) s =
        .next (s.updCore k (fun c => { c with replay := setNth c.replay q rest }))) ∧
      (diff &&& e.lanes ≠ 0 → exec (.replayCompare k q diff) s =
        .next ((s.updCore k (fun c => { c with replay := setNth c.replay q rest })).updGrp e.gk
          (fun g => { g with clonePend := some (diff &&& e.lanes, e.ia, e.insn) })))) ∧
    (∀ gk g m ia insn, s.grp? gk = some g → g.clonePend = some (m, ia, insn) → exec (.replayMismatch gk) s =
      .next (takeFault (s.updGrp gk (fun g => { g with clonePend := none })) (.grp gk) 0
        { FaultReq.mk0 0x31 0 with lanes := m } ia insn 0x0A)) ∧
    (∀ gk g, s.grp? gk = some g → g.stop = .restart → grpBusy s gk = false → g.region.kind = .grp →
      exec (.regionRestart gk) s = .next (restartGroup s gk) ∧
      ∃ g', (restartGroup s gk).grp? gk = some g' ∧ g'.stop = .run ∧ g'.pc0 = g.region.entry ∧
        g'.recs = [] ∧ g'.chk = (s.lrec g.gc).chk ∧ g'.region = { g.region with restarts := g.region.restarts + 1 } ∧
        (g.region.mask &&& g.live ≠ 0 → g'.splits =
          [some ⟨g.region.entry, g.region.mask &&& g.live, none, 0, none, false, false, .none⟩, none, none, none]) ∧
        g'.vr = g.vr ∧ g'.ve = g.ve ∧ g'.pr = g.pr ∧ g'.live = g.live ∧ (restartGroup s gk).mem = s.mem) ∧
    (∀ gc b x k, s.band? (bandKey gc b) = some x → x.dying = some k →
      (∀ y ∈ unitBands s gc b, bandBusy s gc y = false ∧ copying s (bandKey gc y) = false) →
      exec (.bandKill gc b) s = .next (killNow s gc b k)) ∧
    (s.host.halted = false → ∃ bank src, exec .fatalError s = .next (fatal (s.tick1.bankEvent bank 2 3 0 src 0 0 0)) ∧
      src ∈ [0x11, 0x18, 0x19, 0x1A] ∧ (fatal (s.tick1.bankEvent bank 2 3 0 src 0 0 0)).host.halted = true ∧
      (fatal (s.tick1.bankEvent bank 2 3 0 src 0 0 0)).mem = s.mem) ∧
    (∀ n, n < s.floor.allClus.length → (s.cluster n).walk = false → clusterFree s n = true → (s.cluster n).isl = 0 → s.host.halted = false →
      (startTests s = true → (∀ p ∈ s.boot.tested, p.1 ≠ n) → exec (.walkroundStart n) s =
        .next (s.updCluster n (fun x => { x with walk := true, walkAt := (s.cluster n).now s.nc }))) ∧
      ((s.boot.st = 1 ∨ s.boot.st = 2) → s.host.walkInt ≠ 0 →
        (s.cluster n).walkAt + s.host.walkInt.toNat * 2 ^ 20 ≤ (s.cluster n).now s.nc → exec (.walkroundStart n) s =
        .next (s.updCluster n (fun x => { x with walk := true, walkAt := (s.cluster n).now s.nc })))) ∧
    (∀ n, (s.cluster n).walk = true → (∃ e ∈ s.ready, tryItem s e.what 0 = none ∧
        (tryItem (s.updCluster n (fun x => { x with walk := false })) e.what 0).isSome = true) →
      exec (.walkroundAbandon n) s = .next (s.updCluster n (fun x => { x with walk := false }))) ∧
    (∀ n, (s.cluster n).walk = true → startTests s = false → exec (.walkroundComplete n []) s = .next ((coresOfClus s n).foldl
      (fun (t : State) k => t.updCore k (fun c => { c with wfail := 0 })) (s.updCluster n (fun x => { x with walk := false })))) ∧
    (∀ n, (s.cluster n).walk = true → startTests s = true → ∃ t, exec (.walkroundComplete n []) s = .next t ∧
      t.boot.tested = s.boot.tested ++ [(n, true)] ∧ (t.cluster n).walk = false ∧ t.mem = s.mem) ∧
    (∀ n l, (s.cluster n).walk = true → ∃ t, exec (.walkroundComplete n l) s = .next t ∧ t.mem = s.mem ∧ (t.cluster n).walk = false) ∧
    (∀ n k i pre post, (s.cluster n).walk = true → startTests s = false → coresOfClus s n = pre ++ k :: post →
      let pass := fun (t : State) (l : List Nat) => l.foldl (fun (t : State) j => t.updCore j (fun c => { c with wfail := 0 })) t
      let t := (pass (s.updCluster n (fun x => { x with walk := false })) pre).bankEvent (bankOfCore s k) 1 0 0 0x20 (BitVec.ofNat 64 i) 0 0
      exec (.walkroundComplete n [(k, i)]) s =
        .next (pass (t.updCore k (fun c => { c with wfail := c.wfail + 1, gone := c.gone || decide (2 ≤ c.wfail + 1) })) post)) ∧
    (∀ n l k, (s.cluster n).walk = true → k ∈ coresOfClus s n → ∃ t, exec (.walkroundComplete n l) s = .next t ∧
      ((∀ p ∈ l, p.1 ≠ k) → (t.core k).wfail = 0 ∧ (t.core k).gone = (s.core k).gone) ∧
      ((∃ p ∈ l, p.1 = k) → (t.core k).wfail = (s.core k).wfail + 1 ∧
        ((t.core k).gone = true ↔ (s.core k).gone = true ∨ 1 ≤ (s.core k).wfail))) ∧
    (∀ n l, (s.cluster n).walk = false → exec (.walkroundAbandon n) s = .next s ∧ exec (.walkroundComplete n l) s = .next s)

/-! ## Tasks and queues -/

/-- The front end's steps (R326, R339 to R342): the oldest pending entry of a band is spawned, and keeps its place where the ready
queues are full; the first ready entry that can be placed is, in the order of effective priority and age, and lower ones age; where
none can, a band idle in a wait is asked to park for it (R330); a finished launch retires in the steps of R340: its deferred list is
retried entry by entry, and once its accesses are performed at SYS its STATUS is written, its future filled, its counter raised, its
successors' counts lowered one by one, each as the ready queues have room, and its grid context freed. The placement chosen is free (log
10), and what an idle band is parked for, a task that fits what it holds and fits nowhere else, is the model's reading (log 24). -/
def Obligations.TaskSteps : Prop :=
  ∀ (s : State) (gc b : Nat),
    (∀ x va rest pre, s.band? (bandKey gc b) = some x → x.pend = pre ++ (va, false) :: rest → (∀ p ∈ pre, p.2 = true) →
      let t := s.task gc
      let s1 := s.updBand (bandKey gc b) (fun x => { x with pend := setNth x.pend pre.length (va, true) })
      exec (.spawnStep gc b) s = .next (match spawn s1 va.toNat t.space t.top t.tdir t.tdlim (s.lrec gc).priv (some (bandKey gc b)) with
        | .wait => s
        | .done code u => if code = 0x10 then freePend u (some (bandKey gc b)) va else u)) ∧
    (takesWork s = true → ∀ pick, let v := dueScan (wakeScan (sweepTakes s))
      (∀ i e t, (readyOrder v).findSome? (fun p => (tryItem v p.2.what pick).map (fun t => (p.1, p.2, t))) = some (i, e, t) →
        exec (.dispatch pick) s = .next (leaveReady v t i e)) ∧
      ((∀ p ∈ readyOrder v, tryItem v p.2.what pick = none) →
        (∀ pre k x w post, v.bands = pre ++ (k, x) :: post → (∀ p ∈ pre, bandIdle v p.2 = false ∨ idleWant v p.2 = none) →
          bandIdle v x = true → idleWant v x = some w → exec (.dispatch pick) s =
            .next ((requestPark v x.gc x.b 7 false).updBand (bandKey x.gc x.b) (fun y => { y with wanted := some w }))) ∧
        ((∀ p ∈ v.bands, bandIdle v p.2 = false ∨ idleWant v p.2 = none) → exec (.dispatch pick) s = .next v))) ∧
    (∀ l, s.launch? gc = some l → l.done = true →
      (l.retire.stage = 0 → exec (.taskRetire gc) s =
        .next (retStage s gc 1 (if l.out = 1 then l.defer.map (fun e => e.id) else []) none)) ∧
      (∀ id rest, l.retire.stage = 1 → l.retire.ids = id :: rest → exec (.taskRetire gc) s = .next (retDefer s gc id rest l)) ∧
      (l.retire.stage = 1 → l.retire.ids = [] →
        exec (.taskRetire gc) s = .next ((retStage s gc 2 [] none).updLaunch gc (fun l => { l with defer := [] }))) ∧
      (∀ pa bs, l.retire.stage = 2 → mayRetire s gc l = true → retRec (sweepTakes s) l.t = some (pa, bs) →
        exec (.taskRetire gc) s = .next (retStage (retStatus (sweepTakes s) pa l.out l.code) gc 3 [] none)) ∧
      (∀ pa bs, l.retire.stage = 3 → retRec s l.t = some (pa, bs) →
        exec (.taskRetire gc) s = .next (retStage (retFuture s l.t bs) gc 4 [] none)) ∧
      (∀ pa bs ids, l.retire.stage = 4 → retRec s l.t = some (pa, bs) → succIds s l.t bs = (ids, true) →
        exec (.taskRetire gc) s = .next (retStage (bumpCounter s l.t (bfld bs 0x38 8)) gc 5 ids none)) ∧
      (∀ pa bs ids, l.retire.stage = 4 → retRec s l.t = some (pa, bs) → succIds s l.t bs = (ids, false) →
        exec (.taskRetire gc) s = .next (retStage (retLost (bumpCounter s l.t (bfld bs 0x38 8)) pa) gc 5 ids none)) ∧
      (∀ pa id rest, l.retire.stage = 5 → l.retire.ids = id :: rest → taskPa s l.t = some pa →
        readyFits s (retSucc s l.t pa id) = true → exec (.taskRetire gc) s = .next (retStage (retSucc s l.t pa id) gc 5 rest none)) ∧
      (l.retire.stage = 5 → l.retire.ids = [] → exec (.taskRetire gc) s = .next (retEnd s gc l.t)) ∧
      (freeLaunch s gc).launch? gc = none) ∧
    (∀ (eff : Nat) (e : ReadyEnt), (e.taken = true ∨ eff ≤ e.eff → ageEnt eff e = e) ∧
      (e.taken = false → e.eff < eff → e.age + 1 < 64 → ageEnt eff e = { e with age := e.age + 1 }) ∧
      (e.taken = false → e.eff < eff → 64 ≤ e.age + 1 → ageEnt eff e = { e with eff := min 3 (e.eff + 1), age := 0 }))

/-- The steps of the host queues (R343 to R345, R394): a doorbell sets WRIDX, kept on a disabled queue, and parsing goes on while CFG[9] is
set and packets wait; a descriptor word is written while it may be; a queue that then
holds more packets than its ring is stopped with ERR; a packet that is parsed is consumed with its code: a launch with that of its spawn
step, a fence once every counter has reached its target or one can no longer be translated, a signal after its store, a malformed one with 0x1E.
Which fields of a packet count as zero fields is the model's reading (log 24), and a packet in a window is free (log 17). -/
def Obligations.QueueSteps : Prop :=
  ∀ (s : State) (q : Nat), q < 64 →
    (∀ v, exec (.doorbell q v) s = .next (queueCheck (s.updQueue q (fun d => { d with wr := v })) q)) ∧
    (∀ off v, exec (.qdescWrite q off v) s = .next (queueCheck (s.updQueue q (fun d => descWrite d off v)) q)) ∧
    (let d := s.queue q
     (d.on = true → d.waiting ≤ d.count → queueCheck s q = s) ∧ (d.on = false → queueCheck s q = s) ∧
     (d.on = true → d.count < d.waiting → ∃ t, queueCheck s q = t ∧ (t.queue q).on = false ∧ (t.queue q).cfg.getLsbD 10 = true ∧
       t.host.vectors = s.host.vectors ++ [q])) ∧
    (∀ d off v, d.on = true → off ≠ 0x08 → off ≠ 0x18 → descWrite d off v = d) ∧
    (parses s q = true ↔ takesWork s = true ∧ (s.queue q).cfg.getLsbD 9 = true ∧ (s.queue q).rd ≠ (s.queue q).wr) ∧
    (parses s q = true →
      let d := s.queue q
      let bs := packetBytes s q d
      let type := bitsOf (bfld bs 0 8) 7 0
      (d.fence = false → packetBad bs = true → exec (.nopPacket q) s = .next (consume s q bs 0x1E)) ∧
      (d.fence = false → packetBad bs = false →
        (type = 0 → exec (.nopPacket q) s = .next (consume s q bs 0)) ∧
        (type = 1 → ∀ code t, spawn s (bfld bs 0x10 8) d.space.toNat d.toptab.toNat d.tdir d.tdlim.toNat (d.cfg.getLsbD 8) none = .done code t →
          exec (.launchPacket q) s = .next (consume t q bs code)) ∧
        (type = 2 → (∀ p ∈ fenceCounters bs, (packetWord s d p.1 .read).isSome = true) →
          exec (.fencePacket q) s = .next (s.updQueue q (fun d => { d with fence := true }))) ∧
        (type = 3 → ∀ pa, packetWord s d (bfld bs 0x10 8) .write = some pa → isMem s.floor pa = true →
          exec (.signalPacket q) s = .next (consume (wakeScan (homePut s pa 8 (bfld bs 0x18 8))) q bs 0))) ∧
      (d.fence = true → (∀ p ∈ fenceCounters bs, ∃ pa, packetWord s d p.1 .read = some pa ∧ isMem s.floor pa = true ∧ p.2 ≤ homeGet s pa 8) →
        exec (.fencePacketPass q) s = .next (consume s.tick1 q bs 0)) ∧
      (d.fence = true → (∃ p ∈ fenceCounters bs, packetWord s d p.1 .read = none) →
        exec (.fencePacketPass q) s =
          .next (consume ((fenceCounters bs).foldl (fun s p => walked s d.space.toNat d.toptab.toNat p.1) s.tick1) q bs 0x11)))

/-! ## The host's registers and commands -/

/-- The fault buffer, the translation commands and the debugger's commands (R393, R395, R396): the oldest record that may be written
goes to entry FBTAIL where there is room, with an interrupt where the buffer was empty; a count outside 4 to 12 is ignored; resuming a
resolved record lets its unit go on, and aborting one stops its launch; a translation command, that of a page by TLBVA, drops and is busy
until what used it is visible; a stopped band resumes at its stop or past it, and a kill is agreed for its whole unit. The code in the
record of a debugger's kill is free (log 6). -/
def Obligations.HostCommandSteps : Prop :=
  ∀ (s : State),
    (∀ pre rcd k post, s.host.fbWait = pre ++ (rcd, k) :: post → (∀ p ∈ pre, fbMay s p.2 = false) → fbMay s k = true →
      s.host.fbCfg.getLsbD 8 = true → (s.host.fbTail - s.host.fbHead).toNat < fbCount s →
      ∃ t, exec .faultBufferWrite s = .next t ∧ t.host.fbTail = s.host.fbTail + 1 ∧ t.host.fbWait = pre ++ post ∧
        tabGet? t.host.fbMeta (s.host.fbTail.toNat % fbCount s) = some (k, rcd) ∧
        t.host.vectors = (if s.host.fbTail = s.host.fbHead then s.host.vectors ++ [64] else s.host.vectors)) ∧
    (∀ v : W64, let n := bitsOf v.toNat 3 0
      (4 ≤ n ∧ n ≤ 12 → exec (.fbcfgWrite v) s = .next { s with host := { s.host with fbCfg := v &&& 0x10F } }) ∧
      (n < 4 ∨ 12 < n → exec (.fbcfgWrite v) s = .next s)) ∧
    (∀ i gc b rcd x, tabGet? s.host.fbMeta i = some (.park gc b, rcd) → s.band? (bandKey gc b) = some x →
      (x.unres ≠ 0 → exec (.fbresolveResume i) s =
        .next (parkResolved ((fbFree s i).updBand (bandKey gc b) (fun x => { x with unres := x.unres - 1 })) gc b)) ∧
      (∀ l, s.launch? gc = some l → l.done = false → x.st ≠ .ended →
        exec (.fbresolveAbort i) s = .next (abortRecord (fbFree s i) gc rcd))) ∧
    (∀ i ck rcd, tabGet? s.host.fbMeta i = some (.grid ck, rcd) →
      exec (.fbresolveResume i) s = .next (askAnew (fbFree s i) ck)) ∧
    (∀ (sp : BitVec 16) (va : W64), (s.host.tlbCmd.getLsbD 2 = false →
        let t := tlbDropAll s (fun e => e.space == sp.toNat && s.host.tlbVa.toNat / 2 ^ e.bits * 2 ^ e.bits == e.va)
        exec (.tlbcmdPage sp va) s = .next { t with host := { t.host with tlbCmd := BitVec.ofNat 64 (0 + 4 + sp.toNat * 2 ^ 16), tlbUpto := t.accSeq } }) ∧
      (s.host.tlbCmd = BitVec.ofNat 64 (0 + 4 + sp.toNat * 2 ^ 16) → usedDone s s.host.tlbUpto = true →
        exec (.tlbcmdPage sp va) s = .next { s with host := { s.host with tlbCmd := BitVec.ofNat 64 (0 + sp.toNat * 2 ^ 16) } })) ∧
    (∀ sp : BitVec 16, (s.host.tlbCmd.getLsbD 2 = false →
        let t := tlbDropAll s (fun e => e.space == sp.toNat)
        exec (.tlbcmdSpace sp) s = .next { t with host := { t.host with tlbCmd := BitVec.ofNat 64 (1 + 4 + sp.toNat * 2 ^ 16), tlbUpto := t.accSeq } }) ∧
      (s.host.tlbCmd = BitVec.ofNat 64 (1 + 4 + sp.toNat * 2 ^ 16) → usedDone s s.host.tlbUpto = true →
        exec (.tlbcmdSpace sp) s = .next { s with host := { s.host with tlbCmd := BitVec.ofNat 64 (1 + sp.toNat * 2 ^ 16) } })) ∧
    ((s.host.tlbCmd.getLsbD 2 = false →
        let t := tlbDropAll s (fun _ => true)
        exec .tlbcmdAll s = .next { t with host := { t.host with tlbCmd := BitVec.ofNat 64 (2 + 4 + 0 * 2 ^ 16), tlbUpto := t.accSeq } }) ∧
      (s.host.tlbCmd = BitVec.ofNat 64 (2 + 4 + 0 * 2 ^ 16) → usedDone s s.host.tlbUpto = true →
        exec .tlbcmdAll s = .next { s with host := { s.host with tlbCmd := BitVec.ofNat 64 (2 + 0 * 2 ^ 16) } })) ∧
    (∀ gc b, exec (.dbgcmdResumeStopIa gc b) s = .next (runOn ((stopsOver s gc b).foldl (fun s p => ctxRunOn s gc false p) s) gc b)) ∧
    (∀ gc b x ia u e, s.band? (bandKey gc b) = some x → x.dbg = some ia →
      (x.dbgUnit = none → exec (.dbgcmdResumeNext gc b) s =
        .next (runOn ((stopsOver s gc b).foldl (fun s p => ctxRunOn s gc true p) s) gc b)) ∧
      (x.dbgUnit = some (u, e) → exec (.dbgcmdResumeNext gc b) s =
        .next (runOn ((stopsOver s gc b).foldl (fun s p => ctxRunOn s gc true p) (stepPast s u e ia)) gc b))) ∧
    (∀ gc b x l, s.launch? gc = some l → l.done = false → b < l.r.bands → s.host.halted = false → s.band? (bandKey gc b) = some x →
      x.st ≠ .ended → ∃ t f, exec (.dbgcmdKill gc b) s = .next t ∧ f.lev = 0 ∧
        t = (bandsWith (countFault s.tick1 gc).2 gc b).foldl (fun (t : State) y => t.updBand (bandKey gc y) (fun z => if z.dying.isSome then z else
          { z with dying := some ⟨someUnit s gc b, f, x.dbg.getD 0, 0, (countFault s.tick1 gc).1⟩, dbg := none, dbgUnit := none }))
          (countFault s.tick1 gc).2)

/-- The registers of the control space and the islands (R203, R382, R393, R403 to R405): a register takes what R393 lets it hold, and a value
or an offset that it does not list changes nothing; a bank is cleared whole; an island's mode and limit are taken up to FMAX 40, a cluster
that is to be gated goes off once it is free, and each window of 2^21 nc moves every cluster by 25 MHz between 400 and
its limit. Which of the two frequencies a window takes is free (log 22), and some readings are the model's (log 25). -/
def Obligations.ControlSpaceSteps : Prop :=
  ∀ (s : State),
    (∀ v : W64, 300 ≤ v.toNat → v.toNat ≤ 1600 → exec (.controlSpaceWrite 0x100 v) s = .next { s with host := { s.host with pcap := v } }) ∧
    (∀ v : W64, v.toNat < 300 ∨ 1600 < v.toNat → exec (.controlSpaceWrite 0x100 v) s = .next s) ∧
    (∀ v, exec (.controlSpaceWrite 0x200 v) s = .next { s with host := { s.host with aper := v &&& 0x000FFFFFC0000000 } }) ∧
    (∀ v, exec (.controlSpaceWrite 0x3000 v) s = .next { s with host := { s.host with fbBase := v &&& 0xFFFFFFFFFFFFF000 } }) ∧
    (∀ v, exec (.controlSpaceWrite 0x3010 v) s = .next { s with host := { s.host with fbHead := v } }) ∧
    (∀ v, exec (.controlSpaceWrite 0x3108 v) s = .next { s with host := { s.host with tlbVa := v } }) ∧
    (∀ v, exec (.controlSpaceWrite 0x3300 v) s = .next { s with host := { s.host with walkInt := v } }) ∧
    (∀ (k : Nat) (v : W64), k < 252 → bitsOf v.toNat 27 24 < 11 → ∃ t, exec (.controlSpaceWrite (0x10000 + 8 * k) v) s = .next t ∧
      tabGet (0 : W64) t.host.buckets k = v &&& 0x0000FFFF0FFFFFFF ∧ t.mem = s.mem) ∧
    (∀ (k : Nat) (v : W64), k < 252 → 11 ≤ bitsOf v.toNat 27 24 → exec (.controlSpaceWrite (0x10000 + 8 * k) v) s = .next s) ∧
    (∀ v, exec (.controlSpaceWrite 0x3100 v) s = .next (tlbIdleWrite s v)) ∧
    (∀ off v, off ∉ [0x100, 0x200, 0x3000, 0x3010, 0x3100, 0x3108, 0x3300] → ¬(0x10000 ≤ off ∧ off < 0x10000 + 8 * 252 ∧ off % 8 = 0) →
      ¬(0x31000 ≤ off ∧ off + 8 ≤ 0x32000) → exec (.controlSpaceWrite off v) s = .next s) ∧
    (∀ b, b < 0x4B1 → ∃ t, exec (.mcbankClear b) s = .next t ∧ t.bank b = Bank.zero ∧ ∀ k, k ≠ b → t.bank k = s.bank k) ∧
    (∀ (i : Nat) (f : BitVec 8), i < 72 → f.toNat ≤ 40 →
      (∃ t, exec (.islctlAutomatic i f) s = .next t ∧ tabGet (0 : W64) t.host.islCtl i = BitVec.ofNat 64 (f.toNat * 2 ^ 8) ∧ t.mem = s.mem) ∧
      (∃ t, exec (.islctlHoldOn i f) s = .next t ∧ tabGet (0 : W64) t.host.islCtl i = BitVec.ofNat 64 (1 + f.toNat * 2 ^ 8) ∧ t.mem = s.mem) ∧
      (gatable s i = true →
        ∃ t, exec (.islctlGate i f) s = .next t ∧ tabGet (0 : W64) t.host.islCtl i = BitVec.ofNat 64 (2 + f.toNat * 2 ^ 8) ∧ t.mem = s.mem)) ∧
    (∀ i (f : BitVec 8), 40 < f.toNat → exec (.islctlAutomatic i f) s = .next s) ∧
    (∀ i f, gatable s i = false → exec (.islctlGate i f) s = .next s) ∧
    (∀ i n, i < 50 → clusNo s.floor i = some n → let c := s.cluster n
      bitsOf c.ctl.toNat 1 0 = 2 → c.isl ≠ 2 → c.walk = false → clusterFree s n = true → residentOn s n = false → (∀ k ∈ c.homes, bandLives s k = false) →
      ∃ t, exec (.islandGated i) s = .next t ∧ (t.cluster n).isl = 2 ∧ t.mem = s.mem) ∧
    (s.nc / 2 ^ 21 ≤ s.host.window → exec .powerWindow s = .next (attestStep s)) ∧
    (s.host.attest = none → attestStep s = s) ∧
    (s.host.window < s.nc / 2 ^ 21 → ∃ t, exec .powerWindow s = .next t ∧ t.host.window = s.nc / 2 ^ 21 ∧ t.mem = s.mem ∧
      ∀ n < s.floor.allClus.length, (t.cluster n).mhz = max 400 ((s.cluster n).mhz - 25) ∨
        (t.cluster n).mhz = min (fmaxOf (s.cluster n).ctl) ((s.cluster n).mhz + 25))

/-! ## Peers, the host's accesses and start-up -/

/-- The steps of a peer link and of the host's accesses (R242, R256, R257, R392, R398 to R401): a request that lies in one line of HBM or far
memory enters the pending set at scope SYS, and another leaves no effect but its flit; an answer completes its access, its flits taken from the
port's bucket, and a refusal poisons it; each write of a copy is acknowledged by itself; a header is well formed where its fields are; the
seventeenth failure in a row, the sixteenth of a replay, takes the link down; a host access through the aperture enters the pending set, a write as a
release and an AtomicOp as a read-modify-write. That a write counts as a release and the class of a host access are the model's reading (log 25). -/
def Obligations.PeerAndHostSteps : Prop :=
  ∀ (s : State) (w : Nat), peerUp s w = true →
    let t := peerHeard s w
    (∀ (cls : BitVec 2) (addr : BitVec 46) len tag, 1 ≤ len → len ≤ 128 → (peerReqOk t addr.toNat len = true → exec (.wayfareRead w cls addr len tag) s =
        .next (t.addAcc (outAcc t (.peer w) cls.toNat addr.toNat len .read .weak [] (.peer w tag)))) ∧
      (peerReqOk t addr.toNat len = false → exec (.wayfareRead w cls addr len tag) s = .next t)) ∧
    (∀ (cls : BitVec 2) (addr : BitVec 46) data, peerReqOk t addr.toNat data.length = true → exec (.wayfareWrite w cls addr data) s =
      .next (t.addAcc (outAcc t (.peer w) cls.toNat addr.toNat data.length .write .weak data .none))) ∧
    (∀ (cls : BitVec 2) (addr : BitVec 46) op ty b c tag, aopTy op ty = true → addr.toNat % tyBytes ty = 0 →
      peerReqOk t addr.toNat (tyBytes ty) = true → exec (.wayfareAtomic w cls addr op ty b c tag) s =
        .next (t.addAcc (outAcc t (.peer w) cls.toNat addr.toNat (tyBytes ty) (.atomic op ty b c true) .weak [] (.peer w tag)))) ∧
    ((∀ a ∈ s.accs, a.by_ = .peer w → performedAt a 6 = true) → exec (.wayfareFenceMarker w (s.peer w).inSeq) s = .next t) ∧
    (∀ (a : Access) (off : Nat), accOf s a.id = some a → a.loc = .peerWin w off →
      (a.kind = .write → a.atHome = true → exec (.wayfareAck w a.id) s = .next (updAcc (replyDebit t a) a.id (fun a => { a with rept := true }))) ∧
      (a.kind = .read → a.inj = true → a.taken = none → ordersAllow t a = true → readInOrder t a = true →
        (∀ data, data.length = a.width → exec (.wayfareReadReply w a.id data) s = .next (tookValue (replyDebit t a) a data false)) ∧
        exec (.wayfareRefusal w a.id) s = .next (tookValue (replyDebit t a) a (List.replicate a.width 0) true))) ∧
    (∀ (a : Access) b g f, accOf s a.id = some a → a.kind = .copy b g f → tabGet 0 a.owes (33 + w) ≠ 0 →
      exec (.wayfareAck w a.id) s = .next (updAcc (bucketDebit t (51 + w) a.cls 1) a.id
        (fun a => { a with owes := tabPut 0 a.owes (33 + w) (tabGet 0 a.owes (33 + w) - 1) }))) ∧
    (∀ x, wayfare? x = none ↔ ¬∃ h : Wayfare, wayBits h = x ∧ h.typ.toNat < 7 ∧ h.len.toNat < 128 ∧ (h.typ = 2 ∨ h.aop = 0)) ∧
    ((s.peer w).crc + 1 ≤ 16 → exec (.flitCrcFailure w) s = .next (s.updPeer w (fun p => { p with crc := p.crc + 1 }))) ∧
    (16 < (s.peer w).crc + 1 → ∃ u, exec (.flitCrcFailure w) s = .next u ∧ (u.peer w).up = false) ∧
    (∀ (a : Access) (off : Nat) (data : List Byte), accOf s a.id = some a → a.loc = .hostWin off → a.kind = .read → a.inj = true → a.taken = none →
      ordersAllow s a = true → readInOrder s a = true → data.length = a.width →
      exec (.hostCompletion a.id data) s = .next (tookValue (replyDebit s a) a data false)) ∧
    (∀ (off : BitVec 36) (data : List Byte), takesWork s = true → let pa := aperPa s off.toNat
      isMem s.floor pa = true → data ≠ [] → pa % 128 + data.length ≤ 128 →
      exec (.hostAccess .write off data) s = .next (s.addAcc (outAcc s .host 3 pa data.length .write .rel data .none)) ∧
      exec (.hostAccess .read off data) s = .next (s.addAcc (outAcc s .host 3 pa data.length .read .weak [] .host))) ∧
    (∀ (op : HostOp) (off : BitVec 36) (data : List Byte) o ty b c, takesWork s = true → op ≠ .read → op ≠ .write →
      hostAtom op data = some (o, ty, b, c) → let pa := aperPa s off.toNat
      isMem s.floor pa = true → pa % tyBytes ty = 0 → exec (.hostAccess op off data) s =
        .next (s.addAcc (outAcc s .host 3 pa (tyBytes ty) (.atomic o ty b c true) .weak [] .host))) ∧
    (∀ v, v < 12 → s.boot.st = 1 → s.floor.peers.getLsbD v = true → tabGet? s.peers v = none → s.host.halted = false →
      exec (.peerLinkTrain v true) s = .next (s.updPeer v (fun _ => ⟨true, 0, 0⟩)) ∧
      ∃ u, exec (.peerLinkTrain v false) s = .next u ∧ (u.peer v).up = false)

/-- Reset, start-up and the messages of the Worren port (R401, R402, R407, R409, R410): a reset starts stage 1, or floor mode again after
three failed starts, and keeps the flash and the floor; a stage whose conditions hold starts the next, stage 4 once every enabled cluster
is tested and one has passed, and stage 6 makes the module ready; the third failed start in a row brings floor mode up; each message
answers with status 0 and its effect, 2 where its argument is out of range, 3 where a signature would not verify, or 1 while a report is
being signed. The messages' bytes, how long a report takes and the keys of what start-up verifies are the model's (log 16, 25). -/
def Obligations.StartupAndMessages : Prop :=
  ∀ (s : State),
    exec .moduleReset s = .next (moduleReset s) ∧ exec .bootcmdReset s = .next (moduleReset s) ∧
    exec .worrenStartReset s = .next (moduleReset s) ∧
    exec .bootcmdFullStart s = .next (bootChanged s (resetState { s with flash := { s.flash with fails := 0 } })) ∧
    exec .worrenFullStart s = .next (bootChanged s (resetState { s with flash := { s.flash with fails := 0 } })) ∧
    (∀ t : State, (bootStat s = bootStat t → bootChanged s t = t) ∧ (bootStat s ≠ bootStat t → bootChanged s t = raise t 67)) ∧
    ((moduleReset s).flash = s.flash ∧ (moduleReset s).floor = s.floor ∧ (moduleReset s).launches = [] ∧ (moduleReset s).accs = [] ∧
      (s.flash.fails ≠ 3 → (moduleReset s).boot = State.reset.boot) ∧ (s.flash.fails = 3 → (moduleReset s).boot.st = 2)) ∧
    (s.boot.st = 0 → let n := s.boot.stage
      let all := ∀ c < s.floor.allClus.length, ∃ p ∈ s.boot.tested, p.1 = c
      (∀ ok code c, stageCode s n = some c → exec (.startupStageComplete ok code) s = .next (startFails s c)) ∧
      (∀ ok code, stageCode s n = none → stageLimit n < s.nc - s.boot.since →
        exec (.startupStageComplete ok code) s = .next (startFails s ((stageCodes n).head?.getD 0))) ∧
      (stageCode s n = none → s.nc - s.boot.since ≤ stageLimit n →
        let t := stageWork s n
        (∀ code, n < 6 → n ≠ 4 → exec (.startupStageComplete true code) s =
          .next { t with boot := { t.boot with stage := n + 1, since := t.nc } }) ∧
        (∀ ok code, n = 4 → all → (∃ p ∈ s.boot.tested, p.2 = true) → exec (.startupStageComplete ok code) s =
          .next { t with boot := { t.boot with stage := 5, since := t.nc } }) ∧
        (∀ ok code, n = 4 → all → (∀ p ∈ s.boot.tested, p.2 = false) → exec (.startupStageComplete ok code) s = .next (startFails s 0x30)) ∧
        (∀ ok code, n = 4 → ¬all → exec (.startupStageComplete ok code) s = .next s) ∧
        (∀ code, n ≠ 4 → (stageCodes n).contains code = true → exec (.startupStageComplete false code) s = .next (startFails s code)) ∧
        (∀ code, n = 6 → exec (.startupStageComplete true code) s =
          .next (raise { t with boot := ⟨1, 0, 0, t.nc, []⟩, flash := { t.flash with fails := 0 } } 67))) ∧
      (stageLimit n < s.nc - s.boot.since → exec .startupStageTimeout s = .next (startFails s ((stageCodes n).head?.getD 0)))) ∧
    (∀ code, (2 ≤ s.flash.fails → (startFails s code).boot.st = 2 ∧ (startFails s code).boot.reason = code ∧
        (startFails s code).flash.fails = 3 ∧ (startFails s code).launches = [] ∧ (startFails s code).accs = []) ∧
      (s.flash.fails < 2 → startFails s code = bootChanged s (resetState
        { s with flash := { s.flash with fails := s.flash.fails + 1 }, boot := { s.boot with reason := code } }))) ∧
    exec .worrenStatus s = .next (respond s 0 (leBytes 8 (identReg s).toNat ++ leBytes 8 (bootStat s).toNat)) ∧
    (∀ b, b < 0x4B1 → let k := s.bankRead b
      exec (.worrenBankRead b) s = .next (respond s 0 (leBytes 8 k.status.toNat ++ leBytes 8 k.addr.toNat ++
        leBytes 8 k.misc0.toNat ++ leBytes 8 k.misc1.toNat)) ∧
      exec (.worrenBankClear b) s = .next (respond (s.bankClear b) 0 [])) ∧
    (∀ b, 0x4B1 ≤ b → exec (.worrenBankRead b) s = .next (respond s 2 []) ∧ exec (.worrenBankClear b) s = .next (respond s 2 [])) ∧
    (∀ v : W64, 300 ≤ v.toNat → v.toNat ≤ 1600 →
      exec (.worrenPowerCap v) s = .next (respond { s with host := { s.host with pcap := v } } 0 [])) ∧
    (∀ v : W64, v.toNat < 300 ∨ 1600 < v.toNat → exec (.worrenPowerCap v) s = .next (respond s 2 [])) ∧
    (∀ off data,
      (s.flash.active = false → exec (.worrenFirmwareChunk off data) s =
        .next (respond { s with flash := { s.flash with slotB := slotWrite s.flash.slotB off data } } 0 [])) ∧
      (s.flash.active = true → exec (.worrenFirmwareChunk off data) s =
        .next (respond { s with flash := { s.flash with slotA := slotWrite s.flash.slotA off data } } 0 []))) ∧
    exec .worrenActivate s = .next (respond { s with flash := { s.flash with pick := !s.flash.active } }
      (if imageSigned (slotOfFlash s.flash (!s.flash.active)) = true then 0 else 3) []) ∧
    (∀ data, exec (.worrenFloorMap data) s = .next (respond { s with flash := { s.flash with map := data } }
      (if mapSigned data = true then 0 else 3) [])) ∧
    (∀ k data, (4 ≤ k → k ≤ 7 → exec (.worrenExtend k data) s = .next (respond
        (setMeas s k (shake256 (leBytes 32 (tabGet (0 : BitVec 256) s.host.meas k).toNat ++ data))) 0 [])) ∧
      (k < 4 ∨ 7 < k → exec (.worrenExtend k data) s = .next (respond s 2 []))) ∧
    (∀ nonce, (nonce.length ≠ 32 → exec (.worrenAttest nonce) s = .next (respond s 2 [])) ∧ (nonce.length = 32 →
      (s.host.attest = none → exec (.worrenAttest nonce) s = .next { s with host := { s.host with attest := some (false, nonce) } }) ∧
      (∀ p, s.host.attest = some p → exec (.worrenAttest nonce) s = .next (respond s 1 [])))) ∧
    (∀ mail nonce, s.host.attest = some (mail, nonce) →
      let rsp := leBytes 1 0 ++ (reportHead s nonce ++ leBytes 29792 (Config.slhSign s.flash.idKey (reportHead s nonce)).toNat)
      ((freeNow s 1).getLsbD 0 = true → attestStep s = s.tick1) ∧
      ((freeNow s 1).getLsbD 0 = false → (attestStep s).host.attest = none ∧
        (mail = false → (attestStep s).host.mailRsp = rsp) ∧ (mail = true → (attestStep s).host.mailReq = rsp))) ∧
    (∀ req, req.length ≤ 4088 → bfld req 0 1 = 0x01 → ∃ t, exec (.mailboxRequest req) s = .next t ∧
      t.host.mailReq = leBytes 1 0 ++ (leBytes 8 (identReg s).toNat ++ leBytes 8 (bootStat s).toNat) ∧ t.host.mailRsp = s.host.mailRsp) ∧
    (∀ v, exec (.controlSpaceWrite 0x31FF8 v) s = .next (serveMail (mailWrite s 0xFF8 (leBytes 8 v.toNat)) (v.toNat % 4096)))

/-! ## Registers and their checks -/

/-- The registers read back what was written (R63, R103, R111, R195) and a write of a scalar is logged (R27). A lane's vector or near
register of n words takes the value, full and with the mark given, and every other word stays; a predicate takes its lanes' bits, and
p15 reads 1 and discards writes. A scalar takes its cell, its old one goes into the newest trail entry's log, and every child still
reads each scalar as it stood when its segment was emitted (R25). At LEV 0 a predicate operand is the lane's bit, above it the
executing context's. -/
def Obligations.RegistersReadBack : Prop :=
  (∀ (g : Machine.Group) (r : BitVec 8) (n lane : Nat) (v : W64) (poi : Bool), n = 1 ∨ n = 2 → lane < 32 →
    let t := g.setDst (.vec r) n lane v poi
    t.getVN (.vec r) n lane = (if n = 2 then v else (v.setWidth 32).setWidth 64) ∧ t.emptyOp (.vec r) n lane = false ∧
    t.poiOp (.vec r) n lane = poi ∧ t.nr = g.nr ∧ t.pr = g.pr ∧
    ∀ k i, i < 32 → i ≠ lane ∨ k < r.toNat ∨ r.toNat + n ≤ k → t.vword k i = g.vword k i ∧ t.vempty k i = g.vempty k i) ∧
  (∀ (g : Machine.Group) (r : BitVec 3) (n lane : Nat) (v : W64) (poi : Bool), n = 1 ∨ n = 2 → lane < 32 →
    let t := g.setDst (.near r) n lane v poi
    t.getVN (.near r) n lane = (if n = 2 then v else (v.setWidth 32).setWidth 64) ∧ t.poiOp (.near r) n lane = poi ∧
    t.vr = g.vr ∧ t.ve = g.ve ∧ t.pr = g.pr ∧
    ∀ k i, i < 32 → i ≠ lane ∨ k < r.toNat ∨ r.toNat + n ≤ k → t.nword k i = g.nword k i) ∧
  (∀ (g : Machine.Group) (p q : BitVec 4) (m v : Lanes) (i : Nat), i < 32 →
    (g.setPred p m v).pred q i = (if q = 15 then true else if q = p ∧ m.getLsbD i then v.getLsbD i else g.pred q i)) ∧
  (∀ (c : Ctx) (p q : BitVec 4) (v : Bool), (c.setPred p v).pred q = (if q = 15 then true else if q = p then v else c.pred q)) ∧
  (∀ (c : Ctx) (r q : BitVec 5) (x : Cell),
    (c.write r x).cell q = (if q = r then x else c.cell q) ∧ (∀ id, (c.write r x).cellAt id q = c.cellAt id q) ∧
    (c.trail = [] → (c.write r x).trail = []) ∧
    (∀ es e, c.trail = es ++ [e] → (c.write r x).trail =
      es ++ [{ e with log := ⟨r, (c.cell r).v, (c.cell r).full, (c.cell r).poi⟩ :: e.log }])) ∧
  (∀ (s : State) (lev n lane : Nat) (imm : W64) (p : BitVec 4),
    (∀ gk g, s.grp? gk = some g → lev = 0 → opdVal s (.grp gk) lev n lane imm (.pred p) = if g.pred p lane then 1 else 0) ∧
    (∀ u ck c, ownKey s u lev = ck → s.ctx? ck = some c → lev ≠ 0 →
      opdVal s u lev n lane imm (.pred p) = if c.pred p then 1 else 0))

/-- The checks before an instruction takes effect, in their order (R112, R113, R137, R195): a register at or above %vcount raises code
0x0F; else the first source that is empty in an active lane and has FEB = 1 raises 0x10, with the lanes in which it is empty, or no
lane for a scalar; else an instruction with an empty source or destination waits; else a poison mark raises 0x30. An instruction that
passes them has every source and destination full, and no marked source that faults. -/
def Obligations.OperandChecks : Prop :=
  ∀ (s : State) (gk : Nat) (g : Machine.Group) (lev : Nat) (m : Lanes) (uses : List Use) (dst : List DUse),
    s.grp? gk = some g →
    let u : UnitRef := .grp gk
    let over_ := (∃ x ∈ uses, g.overOp x.o.o x.n = true) ∨ ∃ d ∈ dst, g.overOp d.o d.n = true
    let traps := fun (f : FaultReq) => checkAll s u lev m uses dst = some (Act.fault s f)
    (over_ → traps { FaultReq.mk0 0x0F lev with lanes := if lev = 0 then m else 0 }) ∧
    (¬over_ → ∀ pre x post, uses = pre ++ x :: post → (∀ y ∈ pre, y.o.feb = false ∨ useEmpty s u lev y = 0) → x.o.feb = true →
      useEmpty s u lev x ≠ 0 →
      (∀ r, x.o.o = .vec r → lev = 0 → traps { FaultReq.mk0 0x10 lev with lanes := useEmpty s u lev x, opf := x.fld }) ∧
      (∀ l r, x.o.o = .scal l r → traps { FaultReq.mk0 0x10 lev with lanes := 0, opf := x.fld })) ∧
    (¬over_ → (∀ x ∈ uses, x.o.feb = false ∨ useEmpty s u lev x = 0) →
      ((∃ x ∈ uses, useEmpty s u lev x ≠ 0 ∨ useStalls s u lev x = true) ∨ ∃ d ∈ dst, dstEmpty s u lev d = true) →
      checkAll s u lev m uses dst = some .wait) ∧
    (checkUses s u lev m uses dst = none → poisonLanes s u lev uses ≠ 0 →
      traps { FaultReq.mk0 0x30 lev with lanes := if lev = 0 then poisonLanes s u lev uses else 0 }) ∧
    (checkAll s u lev m uses dst = none → ¬over_ ∧
      (∀ x ∈ uses, useEmpty s u lev x = 0 ∧ useStalls s u lev x = false ∧ (x.poi = true → usePoison s u lev x = 0)) ∧
      ∀ d ∈ dst, dstEmpty s u lev d = false)

/-- The frame of an instruction that is done. A context's goes on at the IA given and changes nothing else of the machine: its
scalars, predicates, loops, calls and trail are those of the effect, and every other context and every other component stays. A
group's at LEV 0 moves the issuing split there and leaves its registers, its pins and every other group as the effect left them; no
context and no band changes, no lane exits, and no byte of memory changes but those of the group's save area where it keeps
reconvergence records there (R37): those that writing records there and reading records back leave. A record that is written takes the
sixteen bytes at the address of its place in the save area and no other byte, and none where that place cannot be written; one that is
read back changes no memory. -/
def Obligations.CompletionFrame : Prop :=
  ∀ (s : State) (h : Hdr) (t : State) (ia : W64),
    let u := doneAt s h t ia
    (∀ ck, s.cur.u = .ctx ck → { u with ctxs := t.ctxs } = t ∧ (∀ k, k ≠ ck → u.ctx? k = t.ctx? k) ∧
      ∀ c, t.ctx? ck = some c → ∃ c', u.ctx? ck = some c' ∧ c'.ia = ia ∧ c'.segStart = ia ∧ c'.sc = c.sc ∧ c'.se = c.se ∧ c'.sp = c.sp ∧
        c'.preds = c.preds ∧ c'.loops = c.loops ∧ c'.calls = c.calls ∧ c'.trail = c.trail ∧ c'.cur = c.cur ∧ c'.stopped = c.stopped) ∧
    (∀ gk g, s.cur.u = .grp gk → h.lev = 0 → t.grp? gk = some g → (∀ p ∈ entries g.splits, p.2.rj = false) →
      u.ctxs = t.ctxs ∧ u.bands = t.bands ∧ u.launches = t.launches ∧ u.bars = t.bars ∧ u.pins = t.pins ∧
      ((∀ p ∈ g.recs, p.2.res = true) → g.recs.length ≤ 8 → u.mem = t.mem ∧ u.pois = t.pois ∧ u.host = t.host ∧ u.banks = t.banks ∧
        u.clusters = t.clusters ∧ u.fabric = t.fabric) ∧
      (∃ a b, a.mem = t.mem ∧ a.pois = t.pois ∧ a.host = t.host ∧ a.banks = t.banks ∧ a.launches = t.launches ∧ Respills gk a b ∧
        u.mem = b.mem ∧ u.pois = b.pois ∧ u.host = b.host ∧ u.banks = b.banks) ∧
      (∀ k, k ≠ gk → u.grp? k = t.grp? k) ∧
      ∃ g', u.grp? gk = some g' ∧ g'.vr = g.vr ∧ g'.ve = g.ve ∧ g'.vp = g.vp ∧ g'.nr = g.nr ∧ g'.np = g.np ∧ g'.pr = g.pr ∧
        g'.pins = g.pins ∧ g'.live = g.live ∧ g'.vcount = g.vcount ∧ g'.region = g.region ∧ g'.handler = g.handler ∧
        g'.chk = g.chk ∧ g'.seg = g.seg) ∧
    (∀ (v : State) (gk i : Nat) (r : Rec) (g : Machine.Group), v.grp? gk = some g →
      let w := spillRec v gk i r
      (∀ pa, virtAddr v g.gc (recVa v g i) .write = some pa →
        (∀ a, a < pa ∨ pa + 16 ≤ a → memByte w.mem a = memByte v.mem a) ∧
        (isMem v.floor pa = true → ∀ k < 16, memByte w.mem (pa + k) = (recBytes (some r)).getD k 0)) ∧
      (virtAddr v g.gc (recVa v g i) .write = none → w.mem = v.mem) ∧ (reloadRec v gk i r).mem = v.mem)

/-! ## Encodings -/

/-- Every instruction that the encoding admits survives encoding and decoding with every operand at every value (R54 to R66). -/
def Obligations.EncodeDecodeRoundTrip : Prop :=
  ∀ (i : Instr) (w : Insn), i.wf = true → Decode.encode i = some w → Decode.decode w = .ok i

/-- The encodings that the chapters work out decode to the instruction they stand for: an instruction of each format of R57 to R61 (R118,
R139, R148, R208, R258, R307, R349, R371 and R389 give their opcodes). -/
def Obligations.DecodingIsRight : Prop :=
  let h := fun (lev : BitVec 3) => (⟨lev, 15, false⟩ : Hdr)
  let v := fun (r : BitVec 8) => (⟨false, .vec r⟩ : Src)
  let sc := fun (l : BitVec 3) (r : BitVec 5) => (⟨false, .scal l r⟩ : Src)
  let reads := fun (w : Insn) (i : Instr) => Decode.decode w = .ok i
  reads 0x010487800602000006000000#96 (.br (h 1) .z ⟨false, .pred 1⟩ 3) ∧
  reads 0x030007800603FFFFE6000002#96 (.brl (h 0) .nz ⟨false, .pred 1⟩ (-13) 1) ∧
  reads 0x240087A01402FFC000000007#96 (.sadd (h 1) ⟨.scal 0 1, sc 0 1, ⟨false, .imm⟩, 7⟩) ∧
  reads 0x42003780A008904000000000#96 (.vadd (h 0) .u32 false ⟨.vec 10, v 4, sc 2 1, 0⟩) ∧
  reads 0x4A082FB01008FFC000000000#96 (.vcmp (h 0) .lt .s32 ⟨.pred 1, v 4, ⟨false, .imm⟩, 0⟩) ∧
  reads 0x63004F806002008018000000#96 (.ffma (h 0) .f32 ⟨.vec 6, v 1, v 2, v 3, 0⟩) ∧
  reads 0x815437800460064000000000#96 (.st (h 0) ⟨.rel, 5, .u32, .none, sc 1 16, v 25, 0⟩) ∧
  reads 0x907437806010009C00000000#96 (.atom (h 0) .cas ⟨.ar, 5, .u32, .vec 6, v 8, v 2, 0⟩) ∧
  reads 0xB30007B24620C44000070101#96 (.mmaloop (h 0) ⟨.none, 4, 0, 1, 7, 1, 1⟩) ∧
  reads 0xC60107A03404000000000000#96 (.fwait (h 2) (.scal 0 3) (sc 0 2)) ∧
  reads 0xD30087B01404810000000000#96 (.reclaim (h 1) 1 (sc 0 2) (sc 0 4)) ∧
  reads 0xD50107B01408814000000542#96 (.msend (h 2) 1 (sc 0 4) (sc 0 5) 2 0x2A) ∧
  reads 0xE0000780000000000000002A#96 (.trap (h 0) 0x2A)

/-! ## The step -/

/-- NOP has no effect at any level and ends no segment (R132): whatever its header and its guard, its unit goes on at the next slot; a
context keeps the range that it has begun, and neither its registers nor anything else changes. -/
def Obligations.NopHasNoEffect : Prop :=
  ∀ (s : State) (h : Hdr), exec (.nop h) s = .next (passed s h s) ∧ endsSegment (.nop h) = false ∧
    (∀ ck, s.cur.u = .ctx ck → { passed s h s with ctxs := s.ctxs } = s ∧ (∀ k, k ≠ ck → (passed s h s).ctx? k = s.ctx? k) ∧
      ∀ c, s.ctx? ck = some c →
        (passed s h s).ctx? ck = some { c with ia := iaNext s.cur.ia, w := .none, asked := false, reports := [] }) ∧
    (∀ gk g, s.cur.u = .grp gk → s.grp? gk = some g → (∀ p ∈ entries g.splits, p.2.rj = false) →
      ((∀ p ∈ g.recs, p.2.res = true) → g.recs.length ≤ 8 → (passed s h s).mem = s.mem) ∧
      (passed s h s).ctxs = s.ctxs ∧ ∃ g', (passed s h s).grp? gk = some g' ∧ g'.vr = g.vr ∧ g'.ve = g.ve ∧ g'.vp = g.vp ∧
        g'.nr = g.nr ∧ g'.np = g.np ∧ g'.pr = g.pr ∧ g'.pins = g.pins ∧ g'.live = g.live ∧ g'.seg = g.seg ∧ g'.handler = g.handler)


/-- A step runs the decoded instruction. Where the group that moves issues and its slot decodes to an instruction that R69 admits,
of LEV 0 or of its group-domain level, the step is exec of that instruction with the slot in hand, its entry having taken its turn (R38),
and the second slot of a pair moves next (R49); so for a context at a slot of its own
level, once what is below it has run (R22, R23, R30); an event is exec of it. A slot that R69 rejects raises its code
instead. Errors that the codes of the unit's arrays correct are counted first, with no other effect (R193). Which unit moves is read
from the agenda or is free (log 1). -/
def Obligations.StepRunsDecodedInstruction : Prop :=
  ∀ (s0 : State),
    let seen := fun (u : UnitRef) => softHits (begin1 s0) (bankOfPlace (begin1 s0) (placeOf (begin1 s0) u))
    (∀ gk e g ia m l t i, let s := seen (.grp gk); pickTurn s0 = .issue (.grp gk) e → GroupIssues s gk e g ia m →
      fetchLine s (placeOf s (.grp gk)) g.gc ia = (.ok l, t) →
      let w := slotOf l (iaSlot ia)
      let r := s.lrec g.gc
      let act := guardLanes g (Decode.wHdr w) m
      let u := withCur (tookTurn t gk e) (.grp gk) e ia w
      let runs := step s0 = thenPair u (exec i u)
      (levOf w = 0 → m ≠ 0 → decodeFor r w = .ok i → strikes t (.grp gk) i act = none →
        (awaitsReplay g.chk w && hasReplay t gk) = false → runs) ∧
      (levOf w ≠ 0 → r.grpLev = some (levOf w) → levOf w ≤ r.top → g.single = true → decodeFor r w = .ok i →
        strikes t (.ctx (grpAnc t g 1)) i act = none → (awaitsReplay g.chk w && hasReplay t gk) = false → runs) ∧
      (∀ code, levOf w = 0 → m ≠ 0 → decodeFor r w = .error code →
        step s0 = .next (takeFault t (.grp gk) e { FaultReq.mk0 code 0 with lanes := act } ia w 0))) ∧
    (∀ ck e c l t i, let s := seen (.ctx ck); pickTurn s0 = .issue (.ctx ck) e → ContextIssues s ck c →
      fetchLine s (placeOf s (.ctx ck)) c.gc c.ia = (.ok l, t) →
      let w := slotOf l (iaSlot c.ia)
      let on := guardCtx c (Decode.wHdr w)
      let q := if on then repOf i c.lvl c.ia w else none
      levOf w = c.lvl → decodeFor (t.lrec c.gc) w = .ok i → strikes t (.ctx ck) i 0 = none →
      (endsSegment i && c.lower) = false → (on = true → sideEffect i = true → c.trail = []) →
      (q ≠ none → c.asked = true ∧ allReported t c = true ∧ c.trail = []) →
      step s0 = exec i (withCur t (.ctx ck) 0 c.ia w)) ∧
    (∀ i, pickTurn s0 = .event i → Decode.encode i = none → step s0 = exec i (begin1 s0))

/-- Every step is defined: however many steps are taken, from whatever state, the run reaches a next state, for every rule gives
what it describes an effect or leaves the state as it stands. A move that cannot be made leaves the state as it
stands, which is the model's choice (log 2). -/
def Obligations.EveryRunGoesOn : Prop := ∀ (k : Nat) (s : State), Safe k s

/-- Memory keeps its canonical form through every step: addresses rise strictly and no byte that reads as an unlisted one is listed. -/
def Obligations.MemoryStaysCanonical : Prop :=
  ∀ (s t : State), Memory.wf s.mem = true → step s = .next t → Memory.wf t.mem = true

/-! ## Reset -/

/-- The control space after a module reset (R393, R401, R409): PCAP reads 1600 and WALKINT 0x100, and the other registers that R393 lists
with reset 0 read 0; start-up begins with its first stage, unless floor mode stands, and nothing is placed. Memory has its canonical form. The values that R106
gives a new group and a new context: registers zero and full, predicates and pins zero. What unlisted memory reads as
is the model's choice (log 3). -/
def Obligations.ResetState : Prop :=
  (∀ s : State, let t := moduleReset s
    (s.flash.fails ≠ 3 → t.boot.st = 0 ∧ t.boot.stage = 1) ∧
    (t.launches = [] ∧ t.bands = [] ∧ t.groups = [] ∧ t.ctxs = [] ∧ t.ready = []) ∧
    controlRead t 0x100 = 1600 ∧ controlRead t 0x200 = 0 ∧ controlRead t 0x3000 = 0 ∧ controlRead t 0x3008 = 0 ∧
    controlRead t 0x3010 = 0 ∧ controlRead t 0x3018 = 0 ∧ controlRead t 0x3100 = 0 ∧ controlRead t 0x3108 = 0 ∧
    controlRead t 0x3300 = 0x100 ∧ (∀ q k, q < 64 → k < 8 → controlRead t (0x1000 + 64 * q + 8 * k) = 0) ∧
    (∀ i < 72, controlRead t (0x4000 + 8 * i) = 0) ∧ (∀ e c, e < 63 → c < 4 → controlRead t (0x10000 + 32 * e + 8 * c) = 0) ∧
    (∀ b j, b < 0x4B1 → j < 4 → controlRead t (0x20000 + 32 * b + 8 * j) = 0) ∧
    (∀ k j, k < 8 → j < 4 → controlRead t (0x30000 + 32 * k + 8 * j) = 0) ∧ (∀ i < 512, controlRead t (0x31000 + 8 * i) = 0)) ∧
  Memory.wf State.reset.mem = true ∧
  (∀ gc b r slot nlive vcount chk ia, let g := Group.fresh gc b r slot nlive vcount chk ia
    (∀ k i, g.vword k i = 0 ∧ g.vempty k i = false ∧ g.nword k i = 0) ∧ (∀ p i, p ≠ 15 → g.pred p i = false) ∧
    g.pins = List.replicate 4 ⟨0, 0⟩) ∧
  (∀ gc lvl g dom place ia, let c := Ctx.fresh gc lvl g dom place ia
    (∀ r, c.cell r = ⟨0, true, false⟩) ∧ ∀ p, p ≠ 15 → c.pred p = false)
end

