-- ==== Sys2Proof/Laws/PerInstr.lean ====
section
/-! SUPPORT. For every instruction: the word that encodes it holds its opcode (R54, R67), and a step without an encoding has no
opcode. -/

namespace Sys2Proof.Laws.Opcode

/-- The OP field of the instruction's word is its opcode. -/
def Statement (i : Instr) : Prop := (Decode.encode i).map Decode.wOp = Decode.opcode i

open Decode

theorem op_fR (op : Nat) (sub : BitVec 6) (h : Hdr) (t : Ty) (d : BitVec 10) (a b c : BitVec 11) (imm : BitVec 27) :
    (some (fR op sub h t d a b c imm)).map wOp = some (BitVec.ofNat 8 op) := by simp

theorem op_fI (op : Nat) (sub : BitVec 6) (h : Hdr) (t : Ty) (d : BitVec 10) (a : BitVec 11) (imm : BitVec 49) :
    (some (fI op sub h t d a imm)).map wOp = some (BitVec.ofNat 8 op) := by simp

theorem op_fB (op : Nat) (sub : BitVec 6) (h : Hdr) (a : BitVec 11) (x y : BitVec 24) :
    (some (fB op sub h a x y)).map wOp = some (BitVec.ofNat 8 op) := by simp

theorem op_fM (op : Nat) (h : Hdr) (m : OpM) (d : BitVec 10) (a b : BitVec 11) (x : BitVec 4) :
    (some (fM op h m d a b x)).map wOp = some (BitVec.ofNat 8 op) := by simp

theorem op_fX (op : Nat) (sub : BitVec 6) (h : Hdr) (t : Ty) (d : BitVec 10) (a b c ks : BitVec 11) (ai bi : BitVec 8) :
    (some (fX op sub h t d a b c ks ai bi)).map wOp = some (BitVec.ofNat 8 op) := by simp

theorem nop (x0 : Hdr) : Statement (.nop x0) := op_fR ..
theorem br (x0 : Hdr) (x1 : Cc) (x2 : Src) (x3 : BitVec 24) : Statement (.br x0 x1 x2 x3) := op_fB ..
theorem bra (x0 : Hdr) (x1 : Cc) (x2 : Src) (x3 : BitVec 24) : Statement (.bra x0 x1 x2 x3) := op_fB ..
theorem brl (x0 : Hdr) (x1 : Cc) (x2 : Src) (x3 : BitVec 24) (x4 : BitVec 24) : Statement (.brl x0 x1 x2 x3 x4) := op_fB ..
theorem jmpi (x0 : Hdr) (x1 : Src) : Statement (.jmpi x0 x1) := op_fB ..
theorem call (x0 : Hdr) (x1 : BitVec 24) : Statement (.call x0 x1) := op_fB ..
theorem calli (x0 : Hdr) (x1 : Src) : Statement (.calli x0 x1) := op_fB ..
theorem ret (x0 : Hdr) : Statement (.ret x0) := op_fB ..
theorem loop (x0 : Hdr) (x1 : Src) (x2 : BitVec 24) : Statement (.loop x0 x1 x2) := op_fB ..
theorem endl (x0 : Hdr) : Statement (.endl x0) := op_fB ..
theorem brk (x0 : Hdr) (x1 : Cc) (x2 : Src) (x3 : BitVec 24) : Statement (.brk x0 x1 x2 x3) := op_fB ..
theorem cont (x0 : Hdr) (x1 : Cc) (x2 : Src) (x3 : BitVec 24) : Statement (.cont x0 x1 x2 x3) := op_fB ..
theorem rjoin (x0 : Hdr) : Statement (.rjoin x0) := op_fB ..
theorem exit (x0 : Hdr) : Statement (.exit x0) := op_fB ..
theorem yield (x0 : Hdr) : Statement (.yield x0) := op_fB ..
theorem unif (x0 : Hdr) (x1 : Src) : Statement (.unif x0 x1) := op_fB ..
theorem levsync (x0 : Hdr) : Statement (.levsync x0) := op_fR ..
theorem safept (x0 : Hdr) (x1 : BitVec 49) : Statement (.safept x0 x1) := op_fI ..
theorem idem (x0 : Hdr) (x1 : IdemKind) (x2 : BitVec 16) : Statement (.idem x0 x1 x2) := op_fI ..
theorem idemx (x0 : Hdr) (x1 : BitVec 16) : Statement (.idemx x0 x1) := op_fI ..
theorem vgrow (x0 : Hdr) (x1 : Src) (x2 : BitVec 27) : Statement (.vgrow x0 x1 x2) := op_fR ..
theorem vgrowGrant (x0 : Nat) : Statement (.vgrowGrant x0) := rfl
theorem vgive (x0 : Hdr) (x1 : Src) (x2 : BitVec 27) : Statement (.vgive x0 x1 x2) := op_fR ..
theorem smov (x0 : Hdr) (x1 : Op1) : Statement (.smov x0 x1) := op_fR ..
theorem sldi (x0 : Hdr) (x1 : Opd) (x2 : BitVec 49) : Statement (.sldi x0 x1 x2) := op_fI ..
theorem sldih (x0 : Hdr) (x1 : Opd) (x2 : BitVec 49) : Statement (.sldih x0 x1 x2) := op_fI ..
theorem sid (x0 : Hdr) (x1 : SidDim) (x2 : Opd) (x3 : BitVec 6) : Statement (.sid x0 x1 x2 x3) := op_fR ..
theorem sadd (x0 : Hdr) (x1 : Op2) : Statement (.sadd x0 x1) := op_fR ..
theorem ssub (x0 : Hdr) (x1 : Op2) : Statement (.ssub x0 x1) := op_fR ..
theorem smul (x0 : Hdr) (x1 : Op2) : Statement (.smul x0 x1) := op_fR ..
theorem smulh (x0 : Hdr) (x1 : Ty) (x2 : Op2) : Statement (.smulh x0 x1 x2) := op_fR ..
theorem sdiv (x0 : Hdr) (x1 : Ty) (x2 : Op2) : Statement (.sdiv x0 x1 x2) := op_fR ..
theorem srem (x0 : Hdr) (x1 : Ty) (x2 : Op2) : Statement (.srem x0 x1 x2) := op_fR ..
theorem sand (x0 : Hdr) (x1 : Op2) : Statement (.sand x0 x1) := op_fR ..
theorem sor (x0 : Hdr) (x1 : Op2) : Statement (.sor x0 x1) := op_fR ..
theorem sxor (x0 : Hdr) (x1 : Op2) : Statement (.sxor x0 x1) := op_fR ..
theorem sshl (x0 : Hdr) (x1 : Op2) : Statement (.sshl x0 x1) := op_fR ..
theorem sshr (x0 : Hdr) (x1 : Op2) : Statement (.sshr x0 x1) := op_fR ..
theorem ssra (x0 : Hdr) (x1 : Op2) : Statement (.ssra x0 x1) := op_fR ..
theorem scmp (x0 : Hdr) (x1 : Cmp) (x2 : Ty) (x3 : Op2) : Statement (.scmp x0 x1 x2 x3) := op_fR ..
theorem ssel (x0 : Hdr) (x1 : Op3) : Statement (.ssel x0 x1) := op_fR ..
theorem smin (x0 : Hdr) (x1 : Ty) (x2 : Op2) : Statement (.smin x0 x1 x2) := op_fR ..
theorem smax (x0 : Hdr) (x1 : Ty) (x2 : Op2) : Statement (.smax x0 x1 x2) := op_fR ..
theorem sclz (x0 : Hdr) (x1 : Op1) : Statement (.sclz x0 x1) := op_fR ..
theorem pand (x0 : Hdr) (x1 : BitVec 4) (x2 : BitVec 4) (x3 : BitVec 4) : Statement (.pand x0 x1 x2 x3) := op_fR ..
theorem por (x0 : Hdr) (x1 : BitVec 4) (x2 : BitVec 4) (x3 : BitVec 4) : Statement (.por x0 x1 x2 x3) := op_fR ..
theorem pxor (x0 : Hdr) (x1 : BitVec 4) (x2 : BitVec 4) (x3 : BitVec 4) : Statement (.pxor x0 x1 x2 x3) := op_fR ..
theorem pnot (x0 : Hdr) (x1 : BitVec 4) (x2 : BitVec 4) : Statement (.pnot x0 x1 x2) := op_fR ..
theorem pmov (x0 : Hdr) (x1 : BitVec 4) (x2 : BitVec 4) : Statement (.pmov x0 x1 x2) := op_fR ..
theorem pset (x0 : Hdr) (x1 : BitVec 4) (x2 : Bool) : Statement (.pset x0 x1 x2) := op_fR ..
theorem vote (x0 : Hdr) (x1 : VoteMode) (x2 : Opd) (x3 : BitVec 4) (x4 : BitVec 6) (x5 : Bool) : Statement (.vote x0 x1 x2 x3 x4 x5) := op_fR ..
theorem vmov (x0 : Hdr) (x1 : Ty) (x2 : Op1) : Statement (.vmov x0 x1 x2) := op_fR ..
theorem vldi (x0 : Hdr) (x1 : Ty) (x2 : Opd) (x3 : BitVec 49) : Statement (.vldi x0 x1 x2 x3) := op_fI ..
theorem vadd (x0 : Hdr) (x1 : Ty) (x2 : Bool) (x3 : Op2) : Statement (.vadd x0 x1 x2 x3) := op_fR ..
theorem vsub (x0 : Hdr) (x1 : Ty) (x2 : Bool) (x3 : Op2) : Statement (.vsub x0 x1 x2 x3) := op_fR ..
theorem vmul (x0 : Hdr) (x1 : Ty) (x2 : Op2) : Statement (.vmul x0 x1 x2) := op_fR ..
theorem vmulh (x0 : Hdr) (x1 : Ty) (x2 : Op2) : Statement (.vmulh x0 x1 x2) := op_fR ..
theorem vmad (x0 : Hdr) (x1 : Ty) (x2 : Bool) (x3 : Op3) : Statement (.vmad x0 x1 x2 x3) := op_fR ..
theorem vabs (x0 : Hdr) (x1 : Ty) (x2 : Bool) (x3 : Op1) : Statement (.vabs x0 x1 x2 x3) := op_fR ..
theorem vmin (x0 : Hdr) (x1 : Ty) (x2 : Op2) : Statement (.vmin x0 x1 x2) := op_fR ..
theorem vmax (x0 : Hdr) (x1 : Ty) (x2 : Op2) : Statement (.vmax x0 x1 x2) := op_fR ..
theorem vcmp (x0 : Hdr) (x1 : Cmp) (x2 : Ty) (x3 : Op2) : Statement (.vcmp x0 x1 x2 x3) := op_fR ..
theorem vsel (x0 : Hdr) (x1 : Ty) (x2 : Op3) : Statement (.vsel x0 x1 x2) := op_fR ..
theorem vred (x0 : Hdr) (x1 : RedOp) (x2 : Ty) (x3 : Op1) : Statement (.vred x0 x1 x2 x3) := op_fR ..
theorem vscan (x0 : Hdr) (x1 : RedOp) (x2 : Bool) (x3 : Ty) (x4 : Op1) : Statement (.vscan x0 x1 x2 x3 x4) := op_fR ..
theorem vand (x0 : Hdr) (x1 : Ty) (x2 : Op2) : Statement (.vand x0 x1 x2) := op_fR ..
theorem vor (x0 : Hdr) (x1 : Ty) (x2 : Op2) : Statement (.vor x0 x1 x2) := op_fR ..
theorem vxor (x0 : Hdr) (x1 : Ty) (x2 : Op2) : Statement (.vxor x0 x1 x2) := op_fR ..
theorem vnot (x0 : Hdr) (x1 : Ty) (x2 : Op1) : Statement (.vnot x0 x1 x2) := op_fR ..
theorem vshl (x0 : Hdr) (x1 : Ty) (x2 : Op2) : Statement (.vshl x0 x1 x2) := op_fR ..
theorem vshr (x0 : Hdr) (x1 : Ty) (x2 : Op2) : Statement (.vshr x0 x1 x2) := op_fR ..
theorem vsra (x0 : Hdr) (x1 : Ty) (x2 : Op2) : Statement (.vsra x0 x1 x2) := op_fR ..
theorem vclz (x0 : Hdr) (x1 : Ty) (x2 : Op1) : Statement (.vclz x0 x1 x2) := op_fR ..
theorem vpop (x0 : Hdr) (x1 : Ty) (x2 : Op1) : Statement (.vpop x0 x1 x2) := op_fR ..
theorem vbrev (x0 : Hdr) (x1 : Ty) (x2 : Op1) : Statement (.vbrev x0 x1 x2) := op_fR ..
theorem vbcast (x0 : Hdr) (x1 : Ty) (x2 : Op2) : Statement (.vbcast x0 x1 x2) := op_fR ..
theorem vshfl (x0 : Hdr) (x1 : ShflMode) (x2 : Ty) (x3 : Op2) : Statement (.vshfl x0 x1 x2 x3) := op_fR ..
theorem fadd (x0 : Hdr) (x1 : Ty) (x2 : Op2) : Statement (.fadd x0 x1 x2) := op_fR ..
theorem fsub (x0 : Hdr) (x1 : Ty) (x2 : Op2) : Statement (.fsub x0 x1 x2) := op_fR ..
theorem fmul (x0 : Hdr) (x1 : Ty) (x2 : Op2) : Statement (.fmul x0 x1 x2) := op_fR ..
theorem ffma (x0 : Hdr) (x1 : Ty) (x2 : Op3) : Statement (.ffma x0 x1 x2) := op_fR ..
theorem fmin (x0 : Hdr) (x1 : Ty) (x2 : Op2) : Statement (.fmin x0 x1 x2) := op_fR ..
theorem fmax (x0 : Hdr) (x1 : Ty) (x2 : Op2) : Statement (.fmax x0 x1 x2) := op_fR ..
theorem fabs (x0 : Hdr) (x1 : Ty) (x2 : Op1) : Statement (.fabs x0 x1 x2) := op_fR ..
theorem fneg (x0 : Hdr) (x1 : Ty) (x2 : Op1) : Statement (.fneg x0 x1 x2) := op_fR ..
theorem fcmp (x0 : Hdr) (x1 : Cmp) (x2 : Ty) (x3 : Op2) : Statement (.fcmp x0 x1 x2 x3) := op_fR ..
theorem fclass (x0 : Hdr) (x1 : Ty) (x2 : Op1) : Statement (.fclass x0 x1 x2) := op_fR ..
theorem fdiv (x0 : Hdr) (x1 : Ty) (x2 : Op2) : Statement (.fdiv x0 x1 x2) := op_fR ..
theorem fsqrt (x0 : Hdr) (x1 : Ty) (x2 : Op1) : Statement (.fsqrt x0 x1 x2) := op_fR ..
theorem frcp (x0 : Hdr) (x1 : Ty) (x2 : Op1) : Statement (.frcp x0 x1 x2) := op_fR ..
theorem frsq (x0 : Hdr) (x1 : Ty) (x2 : Op1) : Statement (.frsq x0 x1 x2) := op_fR ..
theorem fexp2 (x0 : Hdr) (x1 : Ty) (x2 : Op1) : Statement (.fexp2 x0 x1 x2) := op_fR ..
theorem flog2 (x0 : Hdr) (x1 : Ty) (x2 : Op1) : Statement (.flog2 x0 x1 x2) := op_fR ..
theorem fcvt (x0 : Hdr) (x1 : Ty) (x2 : Ty) (x3 : Opd) (x4 : Src) : Statement (.fcvt x0 x1 x2 x3 x4) := op_fR ..
theorem icvt (x0 : Hdr) (x1 : Ty) (x2 : Bool) (x3 : Ty) (x4 : Opd) (x5 : Src) : Statement (.icvt x0 x1 x2 x3 x4 x5) := op_fR ..
theorem frnd (x0 : Hdr) (x1 : Ty) (x2 : Opd) (x3 : Src) : Statement (.frnd x0 x1 x2 x3) := op_fR ..
theorem fscl (x0 : Hdr) (x1 : Ty) (x2 : Op2) : Statement (.fscl x0 x1 x2) := op_fR ..
theorem ld (x0 : Hdr) (x1 : OpM) : Statement (.ld x0 x1) := op_fM ..
theorem st (x0 : Hdr) (x1 : OpM) : Statement (.st x0 x1) := op_fM ..
theorem ldk (x0 : Hdr) (x1 : OpM) : Statement (.ldk x0 x1) := op_fM ..
theorem lds (x0 : Hdr) (x1 : OpM) : Statement (.lds x0 x1) := op_fM ..
theorem sts (x0 : Hdr) (x1 : OpM) : Statement (.sts x0 x1) := op_fM ..
theorem sld (x0 : Hdr) (x1 : OpM) : Statement (.sld x0 x1) := op_fM ..
theorem sst (x0 : Hdr) (x1 : OpM) : Statement (.sst x0 x1) := op_fM ..
theorem pref (x0 : Hdr) (x1 : OpM) : Statement (.pref x0 x1) := op_fM ..
theorem atom (x0 : Hdr) (x1 : Aop) (x2 : OpM) : Statement (.atom x0 x1 x2) := op_fM ..
theorem atoms (x0 : Hdr) (x1 : Aop) (x2 : OpM) : Statement (.atoms x0 x1 x2) := op_fM ..
theorem satom (x0 : Hdr) (x1 : Aop) (x2 : OpM) : Statement (.satom x0 x1 x2) := op_fM ..
theorem red (x0 : Hdr) (x1 : Aop) (x2 : OpM) : Statement (.red x0 x1 x2) := op_fM ..
theorem fence (x0 : Hdr) (x1 : Ord) (x2 : BitVec 3) : Statement (.fence x0 x1 x2) := op_fR ..
theorem cpy (x0 : Hdr) (x1 : CpyDir) (x2 : Src) (x3 : Src) (x4 : BitVec 27) : Statement (.cpy x0 x1 x2 x3 x4) := op_fR ..
theorem cpyp (x0 : Hdr) (x1 : Src) (x2 : Src) (x3 : BitVec 27) : Statement (.cpyp x0 x1 x2 x3) := op_fR ..
theorem cpym (x0 : Hdr) (x1 : CpymTo) (x2 : Src) (x3 : Src) (x4 : Src) (x5 : BitVec 27) : Statement (.cpym x0 x1 x2 x3 x4 x5) := op_fR ..
theorem cpys (x0 : Hdr) (x1 : Src) (x2 : Src) (x3 : BitVec 27) : Statement (.cpys x0 x1 x2 x3) := op_fR ..
theorem cpyr (x0 : Hdr) (x1 : RedOp) (x2 : Src) (x3 : Src) (x4 : BitVec 27) : Statement (.cpyr x0 x1 x2 x3 x4) := op_fR ..
theorem arvi (x0 : Hdr) (x1 : BitVec 14) (x2 : BitVec 13) : Statement (.arvi x0 x1 x2) := op_fR ..
theorem arv (x0 : Hdr) (x1 : Src) (x2 : BitVec 27) : Statement (.arv x0 x1 x2) := op_fR ..
theorem arwt (x0 : Hdr) (x1 : BitVec 4) (x2 : Src) (x3 : Src) (x4 : BitVec 27) : Statement (.arwt x0 x1 x2 x3 x4) := op_fR ..
theorem artst (x0 : Hdr) (x1 : ArtstCond) (x2 : BitVec 4) (x3 : Src) (x4 : Src) (x5 : BitVec 27) : Statement (.artst x0 x1 x2 x3 x4 x5) := op_fR ..
theorem omap (x0 : Hdr) (x1 : Bool) (x2 : Bool) (x3 : Bool) (x4 : Ty) (x5 : BitVec 4) (x6 : BitVec 3) (x7 : BitVec 6) (x8 : BitVec 3) (x9 : BitVec 5) : Statement (.omap x0 x1 x2 x3 x4 x5 x6 x7 x8 x9) := op_fR ..
theorem plst (x0 : Hdr) (x1 : Bool) (x2 : BitVec 4) (x3 : BitVec 27) : Statement (.plst x0 x1 x2 x3) := op_fR ..
theorem mma (x0 : Hdr) (x1 : OpMma) : Statement (.mma x0 x1) := op_fX ..
theorem mmaloop (x0 : Hdr) (x1 : OpMma) : Statement (.mmaloop x0 x1) := op_fX ..
theorem mfence (x0 : Hdr) : Statement (.mfence x0) := op_fR ..
theorem mwait (x0 : Hdr) (x1 : Option (BitVec 3)) : Statement (.mwait x0 x1) := op_fR ..
theorem aclr (x0 : Hdr) (x1 : BitVec 3) : Statement (.aclr x0 x1) := op_fR ..
theorem ascl (x0 : Hdr) (x1 : AccFmt) (x2 : Ty) (x3 : BitVec 3) (x4 : BitVec 3) (x5 : Src) (x6 : Src) : Statement (.ascl x0 x1 x2 x3 x4 x5 x6) := op_fR ..
theorem amovv (x0 : Hdr) (x1 : Ty) (x2 : Opd) (x3 : BitVec 3) (x4 : Src) (x5 : BitVec 6) : Statement (.amovv x0 x1 x2 x3 x4 x5) := op_fR ..
theorem asts (x0 : Hdr) (x1 : Ty) (x2 : BitVec 3) (x3 : BitVec 27) : Statement (.asts x0 x1 x2 x3) := op_fR ..
theorem alds (x0 : Hdr) (x1 : Ty) (x2 : BitVec 3) (x3 : BitVec 27) : Statement (.alds x0 x1 x2 x3) := op_fR ..
theorem acvt (x0 : Hdr) (x1 : Bool) (x2 : AccFmt) (x3 : Bool) (x4 : Ty) (x5 : Opd) (x6 : BitVec 3) (x7 : Src) (x8 : BitVec 6) (x9 : BitVec 27) : Statement (.acvt x0 x1 x2 x3 x4 x5 x6 x7 x8 x9) := op_fR ..
theorem bar (x0 : Hdr) (x1 : BitVec 3) : Statement (.bar x0 x1) := op_fR ..
theorem bara (x0 : Hdr) (x1 : Opd) (x2 : BitVec 3) : Statement (.bara x0 x1 x2) := op_fR ..
theorem barw (x0 : Hdr) (x1 : Src) (x2 : BitVec 3) : Statement (.barw x0 x1 x2) := op_fR ..
theorem tspawn (x0 : Hdr) (x1 : Src) : Statement (.tspawn x0 x1) := op_fR ..
theorem tself (x0 : Hdr) (x1 : Opd) : Statement (.tself x0 x1) := op_fR ..
theorem fwrite (x0 : Hdr) (x1 : Src) (x2 : Src) : Statement (.fwrite x0 x1 x2) := op_fR ..
theorem fwait (x0 : Hdr) (x1 : Opd) (x2 : Src) : Statement (.fwait x0 x1 x2) := op_fR ..
theorem ftest (x0 : Hdr) (x1 : FtestCond) (x2 : BitVec 4) (x3 : Src) : Statement (.ftest x0 x1 x2 x3) := op_fR ..
theorem lock (x0 : Hdr) (x1 : Src) : Statement (.lock x0 x1) := op_fR ..
theorem trylock (x0 : Hdr) (x1 : BitVec 4) (x2 : Src) : Statement (.trylock x0 x1 x2) := op_fR ..
theorem unlock (x0 : Hdr) (x1 : Src) : Statement (.unlock x0 x1) := op_fR ..
theorem cntwt (x0 : Hdr) (x1 : Src) (x2 : Src) : Statement (.cntwt x0 x1 x2) := op_fR ..
theorem pin (x0 : Hdr) (x1 : BitVec 2) (x2 : Src) : Statement (.pin x0 x1 x2) := op_fR ..
theorem unpin (x0 : Hdr) (x1 : BitVec 2) : Statement (.unpin x0 x1) := op_fR ..
theorem pinx (x0 : Hdr) (x1 : BitVec 2) (x2 : Src) : Statement (.pinx x0 x1 x2) := op_fR ..
theorem reclaim (x0 : Hdr) (x1 : BitVec 4) (x2 : Src) (x3 : Src) : Statement (.reclaim x0 x1 x2 x3) := op_fR ..
theorem rcdrain (x0 : Hdr) (x1 : Opd) : Statement (.rcdrain x0 x1) := op_fR ..
theorem msend (x0 : Hdr) (x1 : BitVec 4) (x2 : Src) (x3 : Src) (x4 : BitVec 5) (x5 : BitVec 12) : Statement (.msend x0 x1 x2 x3 x4 x5) := op_fR ..
theorem rwait (x0 : Hdr) (x1 : Opd) (x2 : BitVec 2) : Statement (.rwait x0 x1 x2) := op_fR ..
theorem rack (x0 : Hdr) (x1 : Src) (x2 : BitVec 2) : Statement (.rack x0 x1 x2) := op_fR ..
theorem rdesc (x0 : Hdr) (x1 : BitVec 4) (x2 : Src) (x3 : BitVec 2) : Statement (.rdesc x0 x1 x2 x3) := op_fR ..
theorem trap (x0 : Hdr) (x1 : BitVec 32) : Statement (.trap x0 x1) := op_fI ..
theorem rft (x0 : Hdr) : Statement (.rft x0) := op_fR ..
theorem ctlrd (x0 : Hdr) (x1 : Opd) (x2 : BitVec 12) : Statement (.ctlrd x0 x1 x2) := op_fR ..
theorem ctlwr (x0 : Hdr) (x1 : Src) (x2 : BitVec 12) : Statement (.ctlwr x0 x1 x2) := op_fR ..
theorem cycle (x0 : Hdr) (x1 : CycSrc) (x2 : Opd) : Statement (.cycle x0 x1 x2) := op_fR ..
theorem sleepc (x0 : Hdr) (x1 : Src) (x2 : BitVec 27) : Statement (.sleepc x0 x1 x2) := op_fR ..
theorem evrd (x0 : Hdr) (x1 : Opd) (x2 : BitVec 8) : Statement (.evrd x0 x1 x2) := op_fR ..
theorem bkpt (x0 : Hdr) (x1 : BitVec 32) : Statement (.bkpt x0 x1) := op_fI ..
theorem halt (x0 : Hdr) : Statement (.halt x0) := op_fR ..
theorem tlbinv (x0 : Hdr) (x1 : TlbKind) (x2 : Src) : Statement (.tlbinv x0 x1 x2) := op_fR ..
theorem clone (x0 : Hdr) (x1 : CloneMode) : Statement (.clone x0 x1) := op_fR ..
theorem segmentEmit (x0 : Nat) : Statement (.segmentEmit x0) := rfl
theorem segmentFinish (x0 : UnitRef) : Statement (.segmentFinish x0) := rfl
theorem conditionReport (x0 : UnitRef) : Statement (.conditionReport x0) := rfl
theorem lineFill (x0 : UnitRef) (x1 : W64) : Statement (.lineFill x0 x1) := rfl
theorem producerCompletion (x0 : Nat) : Statement (.producerCompletion x0) := rfl
theorem faultDelivery (x0 : UnitRef) : Statement (.faultDelivery x0) := rfl
theorem handlerTimeLimit (x0 : Nat) : Statement (.handlerTimeLimit x0) := rfl
theorem preemptionRequest (x0 : Nat) (x1 : Nat) : Statement (.preemptionRequest x0 x1) := rfl
theorem preemptionTimeout (x0 : Nat) : Statement (.preemptionTimeout x0) := rfl
theorem park (x0 : Nat) (x1 : Nat) : Statement (.park x0 x1) := rfl
theorem unitResume (x0 : Nat) (x1 : Nat) : Statement (.unitResume x0 x1) := rfl
theorem replayCompare (x0 : Nat) (x1 : Nat) (x2 : Lanes) : Statement (.replayCompare x0 x1 x2) := rfl
theorem replayMismatch (x0 : Nat) : Statement (.replayMismatch x0) := rfl
theorem regionRestart (x0 : Nat) : Statement (.regionRestart x0) := rfl
theorem bandKill (x0 : Nat) (x1 : Nat) : Statement (.bandKill x0 x1) := rfl
theorem fatalError : Statement (.fatalError) := rfl
theorem walkroundStart (x0 : Nat) : Statement (.walkroundStart x0) := rfl
theorem walkroundAbandon (x0 : Nat) : Statement (.walkroundAbandon x0) := rfl
theorem walkroundComplete (x0 : Nat) (x1 : List (Nat × Nat)) : Statement (.walkroundComplete x0 x1) := rfl
theorem writeApply (x0 : Nat) : Statement (.writeApply x0) := rfl
theorem writeDeliver (x0 : Nat) : Statement (.writeDeliver x0) := rfl
theorem readPerform (x0 : Nat) : Statement (.readPerform x0) := rfl
theorem viewRefresh (x0 : Nat) (x1 : Nat) : Statement (.viewRefresh x0 x1) := rfl
theorem viewEvict (x0 : Nat) (x1 : Nat) : Statement (.viewEvict x0 x1) := rfl
theorem accessComplete (x0 : Nat) : Statement (.accessComplete x0) := rfl
theorem cellarEvict (x0 : Nat) : Statement (.cellarEvict x0) := rfl
theorem pageWalk (x0 : Nat) (x1 : Nat) (x2 : W64) : Statement (.pageWalk x0 x1 x2) := rfl
theorem tlbDrop (x0 : Bool) (x1 : Nat) (x2 : Nat) : Statement (.tlbDrop x0 x1 x2) := rfl
theorem droverStart (x0 : Nat) : Statement (.droverStart x0) := rfl
theorem sectorComplete (x0 : Nat) (x1 : Nat) (x2 : Nat) : Statement (.sectorComplete x0 x1 x2) := rfl
theorem matrixOpStart (x0 : Nat) : Statement (.matrixOpStart x0) := rfl
theorem matrixOpComplete (x0 : Nat) (x1 : Nat) (x2 : Bool) : Statement (.matrixOpComplete x0 x1 x2) := rfl
theorem spawnStep (x0 : Nat) (x1 : Nat) : Statement (.spawnStep x0 x1) := rfl
theorem dispatch (x0 : Nat) : Statement (.dispatch x0) := rfl
theorem taskRetire (x0 : Nat) : Statement (.taskRetire x0) := rfl
theorem pinSearch (x0 : UnitRef) (x1 : Nat) : Statement (.pinSearch x0 x1) := rfl
theorem shadowWithdraw (x0 : Nat) (x1 : Nat) : Statement (.shadowWithdraw x0 x1) := rfl
theorem sleepExpire (x0 : UnitRef) (x1 : Nat) : Statement (.sleepExpire x0 x1) := rfl
theorem packetInject (x0 : Nat) : Statement (.packetInject x0) := rfl
theorem bucketRefill (x0 : Nat) (x1 : Nat) : Statement (.bucketRefill x0 x1) := rfl
theorem ringAppend (x0 : Nat) : Statement (.ringAppend x0) := rfl
theorem wayfareRead (x0 : Nat) (x1 : BitVec 2) (x2 : BitVec 46) (x3 : Nat) (x4 : Nat) : Statement (.wayfareRead x0 x1 x2 x3 x4) := rfl
theorem wayfareWrite (x0 : Nat) (x1 : BitVec 2) (x2 : BitVec 46) (x3 : List (BitVec 8)) : Statement (.wayfareWrite x0 x1 x2 x3) := rfl
theorem wayfareAtomic (x0 : Nat) (x1 : BitVec 2) (x2 : BitVec 46) (x3 : Aop) (x4 : Ty) (x5 : W64) (x6 : W64) (x7 : Nat) : Statement (.wayfareAtomic x0 x1 x2 x3 x4 x5 x6 x7) := rfl
theorem wayfareFenceMarker (x0 : Nat) (x1 : Nat) : Statement (.wayfareFenceMarker x0 x1) := rfl
theorem wayfareAck (x0 : Nat) (x1 : Nat) : Statement (.wayfareAck x0 x1) := rfl
theorem wayfareReadReply (x0 : Nat) (x1 : Nat) (x2 : List (BitVec 8)) : Statement (.wayfareReadReply x0 x1 x2) := rfl
theorem wayfareRefusal (x0 : Nat) (x1 : Nat) : Statement (.wayfareRefusal x0 x1) := rfl
theorem flitCrcFailure (x0 : Nat) : Statement (.flitCrcFailure x0) := rfl
theorem hostAccess (x0 : HostOp) (x1 : BitVec 36) (x2 : List (BitVec 8)) : Statement (.hostAccess x0 x1 x2) := rfl
theorem launchPacket (x0 : Nat) : Statement (.launchPacket x0) := rfl
theorem fencePacket (x0 : Nat) : Statement (.fencePacket x0) := rfl
theorem fencePacketPass (x0 : Nat) : Statement (.fencePacketPass x0) := rfl
theorem signalPacket (x0 : Nat) : Statement (.signalPacket x0) := rfl
theorem nopPacket (x0 : Nat) : Statement (.nopPacket x0) := rfl
theorem doorbell (x0 : Nat) (x1 : W64) : Statement (.doorbell x0 x1) := rfl
theorem qdescWrite (x0 : Nat) (x1 : Nat) (x2 : W64) : Statement (.qdescWrite x0 x1 x2) := rfl
theorem faultBufferWrite : Statement (.faultBufferWrite) := rfl
theorem fbcfgWrite (x0 : W64) : Statement (.fbcfgWrite x0) := rfl
theorem fbresolveResume (x0 : Nat) : Statement (.fbresolveResume x0) := rfl
theorem fbresolveAbort (x0 : Nat) : Statement (.fbresolveAbort x0) := rfl
theorem tlbcmdPage (x0 : BitVec 16) (x1 : W64) : Statement (.tlbcmdPage x0 x1) := rfl
theorem tlbcmdSpace (x0 : BitVec 16) : Statement (.tlbcmdSpace x0) := rfl
theorem tlbcmdAll : Statement (.tlbcmdAll) := rfl
theorem dbgcmdResumeStopIa (x0 : Nat) (x1 : Nat) : Statement (.dbgcmdResumeStopIa x0 x1) := rfl
theorem dbgcmdResumeNext (x0 : Nat) (x1 : Nat) : Statement (.dbgcmdResumeNext x0 x1) := rfl
theorem dbgcmdKill (x0 : Nat) (x1 : Nat) : Statement (.dbgcmdKill x0 x1) := rfl
theorem bootcmdReset : Statement (.bootcmdReset) := rfl
theorem bootcmdFullStart : Statement (.bootcmdFullStart) := rfl
theorem mcbankClear (x0 : Nat) : Statement (.mcbankClear x0) := rfl
theorem islctlAutomatic (x0 : Nat) (x1 : BitVec 8) : Statement (.islctlAutomatic x0 x1) := rfl
theorem islctlHoldOn (x0 : Nat) (x1 : BitVec 8) : Statement (.islctlHoldOn x0 x1) := rfl
theorem islctlGate (x0 : Nat) (x1 : BitVec 8) : Statement (.islctlGate x0 x1) := rfl
theorem islandGated (x0 : Nat) : Statement (.islandGated x0) := rfl
theorem controlSpaceWrite (x0 : Nat) (x1 : W64) : Statement (.controlSpaceWrite x0 x1) := rfl
theorem powerWindow : Statement (.powerWindow) := rfl
theorem moduleReset : Statement (.moduleReset) := rfl
theorem startupStageComplete (x0 : Bool) (x1 : BitVec 8) : Statement (.startupStageComplete x0 x1) := rfl
theorem startupStageTimeout : Statement (.startupStageTimeout) := rfl
theorem peerLinkTrain (x0 : Nat) (x1 : Bool) : Statement (.peerLinkTrain x0 x1) := rfl
theorem mailboxRequest (x0 : List (BitVec 8)) : Statement (.mailboxRequest x0) := rfl
theorem worrenStatus : Statement (.worrenStatus) := rfl
theorem worrenBankRead (x0 : Nat) : Statement (.worrenBankRead x0) := rfl
theorem worrenBankClear (x0 : Nat) : Statement (.worrenBankClear x0) := rfl
theorem worrenPowerCap (x0 : W64) : Statement (.worrenPowerCap x0) := rfl
theorem worrenFirmwareChunk (x0 : Nat) (x1 : List (BitVec 8)) : Statement (.worrenFirmwareChunk x0 x1) := rfl
theorem worrenActivate : Statement (.worrenActivate) := rfl
theorem worrenFloorMap (x0 : List (BitVec 8)) : Statement (.worrenFloorMap x0) := rfl
theorem worrenExtend (x0 : Nat) (x1 : List (BitVec 8)) : Statement (.worrenExtend x0 x1) := rfl
theorem worrenAttest (x0 : List (BitVec 8)) : Statement (.worrenAttest x0) := rfl
theorem worrenStartReset : Statement (.worrenStartReset) := rfl
theorem worrenFullStart : Statement (.worrenFullStart) := rfl
theorem hostCompletion (x0 : Nat) (x1 : List (BitVec 8)) : Statement (.hostCompletion x0 x1) := rfl

end Sys2Proof.Laws.Opcode
end

