-- ==== Sys2Proof/Laws/Tab.lean ====
section
/-! SUPPORT. Laws of tables and of memory: a look-up after a change, and the canonical form. -/

namespace Sys2Proof.Machine

variable {α : Type}

/-! ## Look-up after a change -/

@[simp] theorem tabGet?_upd (t : Tab α) (i j : Nat) (f : α → α) :
    tabGet? (tabUpd t i f) j = if j = i then (tabGet? t j).map f else tabGet? t j := by
  induction t with
  | nil => by_cases h : j = i <;> simp [tabUpd, tabGet?, h]
  | cons p r ih =>
    obtain ⟨k, w⟩ := p
    simp only [tabUpd, List.map_cons] at ih ⊢
    by_cases hk : k = i
    · subst hk
      by_cases hj : j = k
      · subst hj; simp [tabGet?]
      · simpa [tabGet?, hj] using ih
    · by_cases hj : j = k
      · subst hj; simp [tabGet?, hk]
      · simpa [tabGet?, hk, hj] using ih

theorem tabGet?_set_self (t : Tab α) (i : Nat) (v : α) : tabGet? (tabSet t i v) i = some v := by
  induction t with
  | nil => simp [tabSet, tabGet?]
  | cons p r ih =>
    obtain ⟨k, w⟩ := p
    unfold tabSet
    by_cases h1 : i < k
    · simp [h1, tabGet?]
    · by_cases h2 : i = k
      · simp [h2, tabGet?]
      · simpa [h1, h2, tabGet?] using ih

theorem tabGet?_set_ne (t : Tab α) {i j : Nat} (v : α) (h : j ≠ i) : tabGet? (tabSet t i v) j = tabGet? t j := by
  induction t with
  | nil => simp [tabSet, tabGet?, h]
  | cons p r ih =>
    obtain ⟨k, w⟩ := p
    unfold tabSet
    by_cases h1 : i < k
    · simp [h1, tabGet?, h]
    · by_cases h2 : i = k
      · subst h2; simp [tabGet?, h]
      · simp only [h1, h2, ↓reduceIte, tabGet?]; rw [ih]

@[simp] theorem tabGet?_set (t : Tab α) (i j : Nat) (v : α) :
    tabGet? (tabSet t i v) j = if j = i then some v else tabGet? t j := by
  by_cases h : j = i
  · subst h; simp [tabGet?_set_self]
  · simp [h, tabGet?_set_ne]

@[simp] theorem tabGet?_del (t : Tab α) (i j : Nat) :
    tabGet? (tabDel t i) j = if j = i then none else tabGet? t j := by
  induction t with
  | nil => simp [tabDel, tabGet?]
  | cons p r ih =>
    obtain ⟨k, w⟩ := p
    simp only [tabDel] at ih ⊢
    by_cases hk : k = i
    · subst hk
      by_cases hj : j = k
      · simp [hj] at ih ⊢; simpa [hj] using ih
      · simpa [tabGet?, hj] using ih
    · by_cases hj : j = k
      · subst hj; simp [tabGet?, hk]
      · simpa [tabGet?, hk, hj] using ih

@[simp] theorem tabGet_put [DecidableEq α] (d : α) (t : Tab α) (i j : Nat) (v : α) :
    tabGet d (tabPut d t i v) j = if j = i then v else tabGet d t j := by
  unfold tabPut tabGet
  by_cases hv : v = d
  · subst hv; by_cases hj : j = i <;> simp [hj]
  · by_cases hj : j = i <;> simp [hv, hj]

/-! ## The canonical form -/

/-- A lower bound that is weaker still bounds. -/
theorem keysAbove_none {b : Option Nat} (t : Tab α) (w : keysAbove b t = true) : keysAbove none t = true := by
  cases t with
  | nil => rfl
  | cons p r =>
    obtain ⟨k, v⟩ := p
    simp only [keysAbove, Bool.and_eq_true] at w ⊢
    exact ⟨trivial, w.2⟩

theorem keysAbove_lt {j k : Nat} (t : Tab α) (h : j ≤ k) (w : keysAbove (some k) t = true) : keysAbove (some j) t = true := by
  cases t with
  | nil => rfl
  | cons p r =>
    obtain ⟨i, v⟩ := p
    simp only [keysAbove, Bool.and_eq_true, decide_eq_true_eq] at w ⊢
    exact ⟨by omega, w.2⟩

theorem keysAbove_set (b : Option Nat) (t : Tab α) (i : Nat) (v : α)
    (hb : (match b with | some j => decide (j < i) | none => true) = true) (w : keysAbove b t = true) :
    keysAbove b (tabSet t i v) = true := by
  induction t generalizing b with
  | nil => simp only [tabSet, keysAbove, Bool.and_true]; exact hb
  | cons p r ih =>
    obtain ⟨k, x⟩ := p
    simp only [keysAbove, Bool.and_eq_true] at w
    unfold tabSet
    by_cases h1 : i < k
    · simp only [h1, ↓reduceIte, keysAbove, Bool.and_eq_true, decide_eq_true_eq]; exact ⟨hb, trivial, w.2⟩
    · by_cases h2 : i = k
      · subst h2; simp only [lt_irrefl, ↓reduceIte, keysAbove, Bool.and_eq_true]; exact ⟨hb, w.2⟩
      · simp only [h1, h2, ↓reduceIte, keysAbove, Bool.and_eq_true]
        exact ⟨w.1, ih (some k) (by simp; omega) w.2⟩

theorem keysAbove_del (b : Option Nat) (t : Tab α) (i : Nat) (w : keysAbove b t = true) : keysAbove b (tabDel t i) = true := by
  induction t generalizing b with
  | nil => rfl
  | cons p r ih =>
    obtain ⟨k, x⟩ := p
    simp only [keysAbove, Bool.and_eq_true] at w
    simp only [tabDel] at ih ⊢
    by_cases h2 : k = i
    · subst h2
      simp only [bne_self_eq_false, Bool.false_eq_true, not_false_eq_true, List.filter_cons_of_neg]
      refine ih b ?_
      cases b with
      | none => exact keysAbove_none r w.2
      | some j => exact keysAbove_lt r (by have := w.1; simp at this; omega) w.2
    · simp only [bne_iff_ne, ne_eq, h2, not_false_eq_true, List.filter_cons_of_pos, keysAbove, Bool.and_eq_true]
      exact ⟨w.1, ih (some k) w.2⟩

/-! ## Memory -/

/-- Writing a byte keeps the canonical form. -/
theorem memPut_wf (m : List Host.Cell) (a : Nat) (b : Byte) (w : Memory.wf m = true) : Memory.wf (memPut m a b) = true := by
  simp only [Memory.wf, Bool.and_eq_true] at w ⊢
  unfold memPut tabPut
  by_cases hb : b = 0
  · rw [if_pos hb]
    exact ⟨keysAbove_del none m a w.1, by
      simp only [tabDel, List.all_filter, List.all_eq_true, Bool.or_eq_true]
      exact fun x h => .inr (List.all_eq_true.mp w.2 x h)⟩
  · rw [if_neg hb]
    refine ⟨keysAbove_set none m a b rfl w.1, ?_⟩
    have : ∀ t : List Host.Cell, t.all (fun c => c.2 != 0) = true → (tabSet t a b).all (fun c => c.2 != 0) = true := by
      intro t
      induction t with
      | nil => intro _; simpa [tabSet] using hb
      | cons p r ih =>
        obtain ⟨k, x⟩ := p
        intro h
        simp only [List.all_cons, Bool.and_eq_true] at h
        unfold tabSet
        by_cases h1 : a < k
        · simp only [h1, ↓reduceIte, List.all_cons, Bool.and_eq_true]; exact ⟨by simpa using hb, h⟩
        · by_cases h2 : a = k
          · simp only [h2, lt_irrefl, ↓reduceIte, List.all_cons, Bool.and_eq_true]; exact ⟨by simpa using hb, h.2⟩
          · simp only [h1, h2, ↓reduceIte, List.all_cons, Bool.and_eq_true]; exact ⟨h.1, ih h.2⟩
    exact this m w.2

/-- Writing bytes keeps the canonical form. -/
theorem memWrite_wf (m : List Host.Cell) (a : Nat) (bs : List Byte) (w : Memory.wf m = true) : Memory.wf (memWrite m a bs) = true := by
  induction bs generalizing m a with
  | nil => exact w
  | cons b r ih => exact ih _ _ (memPut_wf m a b w)

/-- A byte after a write of one byte. -/
@[simp] theorem memByte_put (m : List Host.Cell) (a c : Nat) (b : Byte) :
    memByte (memPut m a b) c = if c = a then b else memByte m c := tabGet_put 0 m a c b

/-- A byte outside the written ones is as before. -/
theorem memByte_write_out (m : List Host.Cell) (a c : Nat) (bs : List Byte) (h : c < a ∨ a + bs.length ≤ c) :
    memByte (memWrite m a bs) c = memByte m c := by
  induction bs generalizing m a with
  | nil => rfl
  | cons b r ih =>
    simp only [memWrite, List.length_cons] at h ⊢
    rw [ih _ _ (by omega), memByte_put, if_neg (by omega)]

/-- A written byte reads as written. -/
theorem memByte_write_in (m : List Host.Cell) (a i : Nat) (bs : List Byte) (h : i < bs.length) :
    memByte (memWrite m a bs) (a + i) = bs[i] := by
  induction bs generalizing m a i with
  | nil => simp at h
  | cons b r ih =>
    simp only [memWrite]
    cases i with
    | zero => rw [memByte_write_out _ _ _ _ (by omega)]; simp
    | succ i =>
      have := ih (memPut m a b) (a + 1) i (by simpa using h)
      rw [show a + (i + 1) = a + 1 + i from by omega]
      simpa using this

end Sys2Proof.Machine
end

