-- ==== Sys2Proof/Laws/State.lean ====
section
/-! SUPPORT. One lemma for each update of the state: every field that it leaves, and what the look-ups find after it. -/

namespace Sys2Proof.Machine

@[simp] theorem updLaunch_frame (s : State) (k : Nat) (f : Launch → Launch) :
    (s.updLaunch k f).agenda = s.agenda ∧ (s.updLaunch k f).tick = s.tick ∧ (s.updLaunch k f).fresh = s.fresh ∧
    (s.updLaunch k f).cur = s.cur ∧ (s.updLaunch k f).upsets = s.upsets ∧ (s.updLaunch k f).mem = s.mem ∧
    (s.updLaunch k f).pois = s.pois ∧ (s.updLaunch k f).badSec = s.badSec ∧ (s.updLaunch k f).covers = s.covers ∧
    (s.updLaunch k f).accs = s.accs ∧ (s.updLaunch k f).accSeq = s.accSeq ∧ (s.updLaunch k f).prods = s.prods ∧
    (s.updLaunch k f).prodSeq = s.prodSeq ∧ (s.updLaunch k f).pairSeq = s.pairSeq ∧
    (s.updLaunch k f).cores = s.cores ∧ (s.updLaunch k f).clusters = s.clusters ∧
    (s.updLaunch k f).fabric = s.fabric ∧ (s.updLaunch k f).ctxs = s.ctxs ∧ (s.updLaunch k f).bands = s.bands ∧
    (s.updLaunch k f).groups = s.groups ∧ (s.updLaunch k f).bars = s.bars ∧
    (s.updLaunch k f).parkedBars = s.parkedBars ∧ (s.updLaunch k f).pins = s.pins ∧
    (s.updLaunch k f).wakes = s.wakes ∧ (s.updLaunch k f).ovf = s.ovf ∧ (s.updLaunch k f).ready = s.ready ∧
    (s.updLaunch k f).blocked = s.blocked ∧ (s.updLaunch k f).msgs = s.msgs ∧ (s.updLaunch k f).msgSeq = s.msgSeq ∧
    (s.updLaunch k f).host = s.host ∧ (s.updLaunch k f).banks = s.banks ∧ (s.updLaunch k f).floor = s.floor ∧
    (s.updLaunch k f).flash = s.flash ∧ (s.updLaunch k f).boot = s.boot ∧ (s.updLaunch k f).peers = s.peers ∧
    (s.updLaunch k f).routes = s.routes ∧ (s.updLaunch k f).links = s.links ∧ (s.updLaunch k f).nc = s.nc := by
  refine ⟨rfl, rfl, rfl, rfl, rfl, rfl, rfl, rfl, rfl, rfl, rfl, rfl, rfl, rfl, rfl, rfl, rfl, rfl, rfl, rfl, rfl, rfl, rfl, rfl, rfl, rfl, rfl, rfl, rfl, rfl, rfl, rfl, rfl, rfl, rfl, rfl, rfl, rfl⟩

@[simp] theorem updCtx_frame (s : State) (k : Nat) (f : Ctx → Ctx) :
    (s.updCtx k f).agenda = s.agenda ∧ (s.updCtx k f).tick = s.tick ∧ (s.updCtx k f).fresh = s.fresh ∧
    (s.updCtx k f).cur = s.cur ∧ (s.updCtx k f).upsets = s.upsets ∧ (s.updCtx k f).mem = s.mem ∧
    (s.updCtx k f).pois = s.pois ∧ (s.updCtx k f).badSec = s.badSec ∧ (s.updCtx k f).covers = s.covers ∧
    (s.updCtx k f).accs = s.accs ∧ (s.updCtx k f).accSeq = s.accSeq ∧ (s.updCtx k f).prods = s.prods ∧
    (s.updCtx k f).prodSeq = s.prodSeq ∧ (s.updCtx k f).pairSeq = s.pairSeq ∧ (s.updCtx k f).cores = s.cores ∧
    (s.updCtx k f).clusters = s.clusters ∧ (s.updCtx k f).fabric = s.fabric ∧ (s.updCtx k f).launches = s.launches ∧
    (s.updCtx k f).bands = s.bands ∧ (s.updCtx k f).groups = s.groups ∧ (s.updCtx k f).bars = s.bars ∧
    (s.updCtx k f).parkedBars = s.parkedBars ∧ (s.updCtx k f).pins = s.pins ∧ (s.updCtx k f).wakes = s.wakes ∧
    (s.updCtx k f).ovf = s.ovf ∧ (s.updCtx k f).ready = s.ready ∧ (s.updCtx k f).blocked = s.blocked ∧
    (s.updCtx k f).msgs = s.msgs ∧ (s.updCtx k f).msgSeq = s.msgSeq ∧ (s.updCtx k f).host = s.host ∧
    (s.updCtx k f).banks = s.banks ∧ (s.updCtx k f).floor = s.floor ∧ (s.updCtx k f).flash = s.flash ∧
    (s.updCtx k f).boot = s.boot ∧ (s.updCtx k f).peers = s.peers ∧ (s.updCtx k f).routes = s.routes ∧
    (s.updCtx k f).links = s.links ∧ (s.updCtx k f).nc = s.nc := by
  refine ⟨rfl, rfl, rfl, rfl, rfl, rfl, rfl, rfl, rfl, rfl, rfl, rfl, rfl, rfl, rfl, rfl, rfl, rfl, rfl, rfl, rfl, rfl, rfl, rfl, rfl, rfl, rfl, rfl, rfl, rfl, rfl, rfl, rfl, rfl, rfl, rfl, rfl, rfl⟩

@[simp] theorem updGrp_frame (s : State) (k : Nat) (f : Group → Group) :
    (s.updGrp k f).agenda = s.agenda ∧ (s.updGrp k f).tick = s.tick ∧ (s.updGrp k f).fresh = s.fresh ∧
    (s.updGrp k f).cur = s.cur ∧ (s.updGrp k f).upsets = s.upsets ∧ (s.updGrp k f).mem = s.mem ∧
    (s.updGrp k f).pois = s.pois ∧ (s.updGrp k f).badSec = s.badSec ∧ (s.updGrp k f).covers = s.covers ∧
    (s.updGrp k f).accs = s.accs ∧ (s.updGrp k f).accSeq = s.accSeq ∧ (s.updGrp k f).prods = s.prods ∧
    (s.updGrp k f).prodSeq = s.prodSeq ∧ (s.updGrp k f).pairSeq = s.pairSeq ∧ (s.updGrp k f).cores = s.cores ∧
    (s.updGrp k f).clusters = s.clusters ∧ (s.updGrp k f).fabric = s.fabric ∧ (s.updGrp k f).launches = s.launches ∧
    (s.updGrp k f).ctxs = s.ctxs ∧ (s.updGrp k f).bands = s.bands ∧ (s.updGrp k f).bars = s.bars ∧
    (s.updGrp k f).parkedBars = s.parkedBars ∧ (s.updGrp k f).pins = s.pins ∧ (s.updGrp k f).wakes = s.wakes ∧
    (s.updGrp k f).ovf = s.ovf ∧ (s.updGrp k f).ready = s.ready ∧ (s.updGrp k f).blocked = s.blocked ∧
    (s.updGrp k f).msgs = s.msgs ∧ (s.updGrp k f).msgSeq = s.msgSeq ∧ (s.updGrp k f).host = s.host ∧
    (s.updGrp k f).banks = s.banks ∧ (s.updGrp k f).floor = s.floor ∧ (s.updGrp k f).flash = s.flash ∧
    (s.updGrp k f).boot = s.boot ∧ (s.updGrp k f).peers = s.peers ∧ (s.updGrp k f).routes = s.routes ∧
    (s.updGrp k f).links = s.links ∧ (s.updGrp k f).nc = s.nc := by
  refine ⟨rfl, rfl, rfl, rfl, rfl, rfl, rfl, rfl, rfl, rfl, rfl, rfl, rfl, rfl, rfl, rfl, rfl, rfl, rfl, rfl, rfl, rfl, rfl, rfl, rfl, rfl, rfl, rfl, rfl, rfl, rfl, rfl, rfl, rfl, rfl, rfl, rfl, rfl⟩

@[simp] theorem updBand_frame (s : State) (k : Nat) (f : Band → Band) :
    (s.updBand k f).agenda = s.agenda ∧ (s.updBand k f).tick = s.tick ∧ (s.updBand k f).fresh = s.fresh ∧
    (s.updBand k f).cur = s.cur ∧ (s.updBand k f).upsets = s.upsets ∧ (s.updBand k f).mem = s.mem ∧
    (s.updBand k f).pois = s.pois ∧ (s.updBand k f).badSec = s.badSec ∧ (s.updBand k f).covers = s.covers ∧
    (s.updBand k f).accs = s.accs ∧ (s.updBand k f).accSeq = s.accSeq ∧ (s.updBand k f).prods = s.prods ∧
    (s.updBand k f).prodSeq = s.prodSeq ∧ (s.updBand k f).pairSeq = s.pairSeq ∧ (s.updBand k f).cores = s.cores ∧
    (s.updBand k f).clusters = s.clusters ∧ (s.updBand k f).fabric = s.fabric ∧
    (s.updBand k f).launches = s.launches ∧ (s.updBand k f).ctxs = s.ctxs ∧ (s.updBand k f).groups = s.groups ∧
    (s.updBand k f).bars = s.bars ∧ (s.updBand k f).parkedBars = s.parkedBars ∧ (s.updBand k f).pins = s.pins ∧
    (s.updBand k f).wakes = s.wakes ∧ (s.updBand k f).ovf = s.ovf ∧ (s.updBand k f).ready = s.ready ∧
    (s.updBand k f).blocked = s.blocked ∧ (s.updBand k f).msgs = s.msgs ∧ (s.updBand k f).msgSeq = s.msgSeq ∧
    (s.updBand k f).host = s.host ∧ (s.updBand k f).banks = s.banks ∧ (s.updBand k f).floor = s.floor ∧
    (s.updBand k f).flash = s.flash ∧ (s.updBand k f).boot = s.boot ∧ (s.updBand k f).peers = s.peers ∧
    (s.updBand k f).routes = s.routes ∧ (s.updBand k f).links = s.links ∧ (s.updBand k f).nc = s.nc := by
  refine ⟨rfl, rfl, rfl, rfl, rfl, rfl, rfl, rfl, rfl, rfl, rfl, rfl, rfl, rfl, rfl, rfl, rfl, rfl, rfl, rfl, rfl, rfl, rfl, rfl, rfl, rfl, rfl, rfl, rfl, rfl, rfl, rfl, rfl, rfl, rfl, rfl, rfl, rfl⟩

@[simp] theorem updCore_frame (s : State) (k : Nat) (f : Core → Core) :
    (s.updCore k f).agenda = s.agenda ∧ (s.updCore k f).tick = s.tick ∧ (s.updCore k f).fresh = s.fresh ∧
    (s.updCore k f).cur = s.cur ∧ (s.updCore k f).upsets = s.upsets ∧ (s.updCore k f).mem = s.mem ∧
    (s.updCore k f).pois = s.pois ∧ (s.updCore k f).badSec = s.badSec ∧ (s.updCore k f).covers = s.covers ∧
    (s.updCore k f).accs = s.accs ∧ (s.updCore k f).accSeq = s.accSeq ∧ (s.updCore k f).prods = s.prods ∧
    (s.updCore k f).prodSeq = s.prodSeq ∧ (s.updCore k f).pairSeq = s.pairSeq ∧
    (s.updCore k f).clusters = s.clusters ∧ (s.updCore k f).fabric = s.fabric ∧
    (s.updCore k f).launches = s.launches ∧ (s.updCore k f).ctxs = s.ctxs ∧ (s.updCore k f).bands = s.bands ∧
    (s.updCore k f).groups = s.groups ∧ (s.updCore k f).bars = s.bars ∧ (s.updCore k f).parkedBars = s.parkedBars ∧
    (s.updCore k f).pins = s.pins ∧ (s.updCore k f).wakes = s.wakes ∧ (s.updCore k f).ovf = s.ovf ∧
    (s.updCore k f).ready = s.ready ∧ (s.updCore k f).blocked = s.blocked ∧ (s.updCore k f).msgs = s.msgs ∧
    (s.updCore k f).msgSeq = s.msgSeq ∧ (s.updCore k f).host = s.host ∧ (s.updCore k f).banks = s.banks ∧
    (s.updCore k f).floor = s.floor ∧ (s.updCore k f).flash = s.flash ∧ (s.updCore k f).boot = s.boot ∧
    (s.updCore k f).peers = s.peers ∧ (s.updCore k f).routes = s.routes ∧ (s.updCore k f).links = s.links ∧
    (s.updCore k f).nc = s.nc := by
  refine ⟨rfl, rfl, rfl, rfl, rfl, rfl, rfl, rfl, rfl, rfl, rfl, rfl, rfl, rfl, rfl, rfl, rfl, rfl, rfl, rfl, rfl, rfl, rfl, rfl, rfl, rfl, rfl, rfl, rfl, rfl, rfl, rfl, rfl, rfl, rfl, rfl, rfl, rfl⟩

@[simp] theorem updCluster_frame (s : State) (k : Nat) (f : Cluster → Cluster) :
    (s.updCluster k f).agenda = s.agenda ∧ (s.updCluster k f).tick = s.tick ∧ (s.updCluster k f).fresh = s.fresh ∧
    (s.updCluster k f).cur = s.cur ∧ (s.updCluster k f).upsets = s.upsets ∧ (s.updCluster k f).mem = s.mem ∧
    (s.updCluster k f).pois = s.pois ∧ (s.updCluster k f).badSec = s.badSec ∧ (s.updCluster k f).covers = s.covers ∧
    (s.updCluster k f).accs = s.accs ∧ (s.updCluster k f).accSeq = s.accSeq ∧ (s.updCluster k f).prods = s.prods ∧
    (s.updCluster k f).prodSeq = s.prodSeq ∧ (s.updCluster k f).pairSeq = s.pairSeq ∧
    (s.updCluster k f).cores = s.cores ∧ (s.updCluster k f).fabric = s.fabric ∧
    (s.updCluster k f).launches = s.launches ∧ (s.updCluster k f).ctxs = s.ctxs ∧
    (s.updCluster k f).bands = s.bands ∧ (s.updCluster k f).groups = s.groups ∧ (s.updCluster k f).bars = s.bars ∧
    (s.updCluster k f).parkedBars = s.parkedBars ∧ (s.updCluster k f).pins = s.pins ∧
    (s.updCluster k f).wakes = s.wakes ∧ (s.updCluster k f).ovf = s.ovf ∧ (s.updCluster k f).ready = s.ready ∧
    (s.updCluster k f).blocked = s.blocked ∧ (s.updCluster k f).msgs = s.msgs ∧
    (s.updCluster k f).msgSeq = s.msgSeq ∧ (s.updCluster k f).host = s.host ∧ (s.updCluster k f).banks = s.banks ∧
    (s.updCluster k f).floor = s.floor ∧ (s.updCluster k f).flash = s.flash ∧ (s.updCluster k f).boot = s.boot ∧
    (s.updCluster k f).peers = s.peers ∧ (s.updCluster k f).routes = s.routes ∧ (s.updCluster k f).links = s.links ∧
    (s.updCluster k f).nc = s.nc := by
  refine ⟨rfl, rfl, rfl, rfl, rfl, rfl, rfl, rfl, rfl, rfl, rfl, rfl, rfl, rfl, rfl, rfl, rfl, rfl, rfl, rfl, rfl, rfl, rfl, rfl, rfl, rfl, rfl, rfl, rfl, rfl, rfl, rfl, rfl, rfl, rfl, rfl, rfl, rfl⟩

@[simp] theorem updDie_frame (s : State) (k : Nat) (f : Cluster → Cluster) :
    (s.updDie k f).agenda = s.agenda ∧ (s.updDie k f).tick = s.tick ∧ (s.updDie k f).fresh = s.fresh ∧
    (s.updDie k f).cur = s.cur ∧ (s.updDie k f).upsets = s.upsets ∧ (s.updDie k f).mem = s.mem ∧
    (s.updDie k f).pois = s.pois ∧ (s.updDie k f).badSec = s.badSec ∧ (s.updDie k f).covers = s.covers ∧
    (s.updDie k f).accs = s.accs ∧ (s.updDie k f).accSeq = s.accSeq ∧ (s.updDie k f).prods = s.prods ∧
    (s.updDie k f).prodSeq = s.prodSeq ∧ (s.updDie k f).pairSeq = s.pairSeq ∧ (s.updDie k f).cores = s.cores ∧
    (s.updDie k f).clusters = s.clusters ∧ (s.updDie k f).launches = s.launches ∧ (s.updDie k f).ctxs = s.ctxs ∧
    (s.updDie k f).bands = s.bands ∧ (s.updDie k f).groups = s.groups ∧ (s.updDie k f).bars = s.bars ∧
    (s.updDie k f).parkedBars = s.parkedBars ∧ (s.updDie k f).pins = s.pins ∧ (s.updDie k f).wakes = s.wakes ∧
    (s.updDie k f).ovf = s.ovf ∧ (s.updDie k f).ready = s.ready ∧ (s.updDie k f).blocked = s.blocked ∧
    (s.updDie k f).msgs = s.msgs ∧ (s.updDie k f).msgSeq = s.msgSeq ∧ (s.updDie k f).host = s.host ∧
    (s.updDie k f).banks = s.banks ∧ (s.updDie k f).floor = s.floor ∧ (s.updDie k f).flash = s.flash ∧
    (s.updDie k f).boot = s.boot ∧ (s.updDie k f).peers = s.peers ∧ (s.updDie k f).routes = s.routes ∧
    (s.updDie k f).links = s.links ∧ (s.updDie k f).nc = s.nc := by
  refine ⟨rfl, rfl, rfl, rfl, rfl, rfl, rfl, rfl, rfl, rfl, rfl, rfl, rfl, rfl, rfl, rfl, rfl, rfl, rfl, rfl, rfl, rfl, rfl, rfl, rfl, rfl, rfl, rfl, rfl, rfl, rfl, rfl, rfl, rfl, rfl, rfl, rfl, rfl⟩

@[simp] theorem updPeer_frame (s : State) (k : Nat) (f : PeerPort → PeerPort) :
    (s.updPeer k f).agenda = s.agenda ∧ (s.updPeer k f).tick = s.tick ∧ (s.updPeer k f).fresh = s.fresh ∧
    (s.updPeer k f).cur = s.cur ∧ (s.updPeer k f).upsets = s.upsets ∧ (s.updPeer k f).mem = s.mem ∧
    (s.updPeer k f).pois = s.pois ∧ (s.updPeer k f).badSec = s.badSec ∧ (s.updPeer k f).covers = s.covers ∧
    (s.updPeer k f).accs = s.accs ∧ (s.updPeer k f).accSeq = s.accSeq ∧ (s.updPeer k f).prods = s.prods ∧
    (s.updPeer k f).prodSeq = s.prodSeq ∧ (s.updPeer k f).pairSeq = s.pairSeq ∧ (s.updPeer k f).cores = s.cores ∧
    (s.updPeer k f).clusters = s.clusters ∧ (s.updPeer k f).fabric = s.fabric ∧
    (s.updPeer k f).launches = s.launches ∧ (s.updPeer k f).ctxs = s.ctxs ∧ (s.updPeer k f).bands = s.bands ∧
    (s.updPeer k f).groups = s.groups ∧ (s.updPeer k f).bars = s.bars ∧ (s.updPeer k f).parkedBars = s.parkedBars ∧
    (s.updPeer k f).pins = s.pins ∧ (s.updPeer k f).wakes = s.wakes ∧ (s.updPeer k f).ovf = s.ovf ∧
    (s.updPeer k f).ready = s.ready ∧ (s.updPeer k f).blocked = s.blocked ∧ (s.updPeer k f).msgs = s.msgs ∧
    (s.updPeer k f).msgSeq = s.msgSeq ∧ (s.updPeer k f).host = s.host ∧ (s.updPeer k f).banks = s.banks ∧
    (s.updPeer k f).floor = s.floor ∧ (s.updPeer k f).flash = s.flash ∧ (s.updPeer k f).boot = s.boot ∧
    (s.updPeer k f).routes = s.routes ∧ (s.updPeer k f).links = s.links ∧ (s.updPeer k f).nc = s.nc := by
  refine ⟨rfl, rfl, rfl, rfl, rfl, rfl, rfl, rfl, rfl, rfl, rfl, rfl, rfl, rfl, rfl, rfl, rfl, rfl, rfl, rfl, rfl, rfl, rfl, rfl, rfl, rfl, rfl, rfl, rfl, rfl, rfl, rfl, rfl, rfl, rfl, rfl, rfl, rfl⟩

@[simp] theorem updQueue_frame (s : State) (k : Nat) (f : QDesc → QDesc) :
    (s.updQueue k f).agenda = s.agenda ∧ (s.updQueue k f).tick = s.tick ∧ (s.updQueue k f).fresh = s.fresh ∧
    (s.updQueue k f).cur = s.cur ∧ (s.updQueue k f).upsets = s.upsets ∧ (s.updQueue k f).mem = s.mem ∧
    (s.updQueue k f).pois = s.pois ∧ (s.updQueue k f).badSec = s.badSec ∧ (s.updQueue k f).covers = s.covers ∧
    (s.updQueue k f).accs = s.accs ∧ (s.updQueue k f).accSeq = s.accSeq ∧ (s.updQueue k f).prods = s.prods ∧
    (s.updQueue k f).prodSeq = s.prodSeq ∧ (s.updQueue k f).pairSeq = s.pairSeq ∧ (s.updQueue k f).cores = s.cores ∧
    (s.updQueue k f).clusters = s.clusters ∧ (s.updQueue k f).fabric = s.fabric ∧
    (s.updQueue k f).launches = s.launches ∧ (s.updQueue k f).ctxs = s.ctxs ∧ (s.updQueue k f).bands = s.bands ∧
    (s.updQueue k f).groups = s.groups ∧ (s.updQueue k f).bars = s.bars ∧
    (s.updQueue k f).parkedBars = s.parkedBars ∧ (s.updQueue k f).pins = s.pins ∧ (s.updQueue k f).wakes = s.wakes ∧
    (s.updQueue k f).ovf = s.ovf ∧ (s.updQueue k f).ready = s.ready ∧ (s.updQueue k f).blocked = s.blocked ∧
    (s.updQueue k f).msgs = s.msgs ∧ (s.updQueue k f).msgSeq = s.msgSeq ∧ (s.updQueue k f).banks = s.banks ∧
    (s.updQueue k f).floor = s.floor ∧ (s.updQueue k f).flash = s.flash ∧ (s.updQueue k f).boot = s.boot ∧
    (s.updQueue k f).peers = s.peers ∧ (s.updQueue k f).routes = s.routes ∧ (s.updQueue k f).links = s.links ∧
    (s.updQueue k f).nc = s.nc := by
  refine ⟨rfl, rfl, rfl, rfl, rfl, rfl, rfl, rfl, rfl, rfl, rfl, rfl, rfl, rfl, rfl, rfl, rfl, rfl, rfl, rfl, rfl, rfl, rfl, rfl, rfl, rfl, rfl, rfl, rfl, rfl, rfl, rfl, rfl, rfl, rfl, rfl, rfl, rfl⟩

@[simp] theorem setBar_frame (s : State) (k j : Nat) (b : Barrier) :
    (s.setBar k j b).agenda = s.agenda ∧ (s.setBar k j b).tick = s.tick ∧ (s.setBar k j b).fresh = s.fresh ∧
    (s.setBar k j b).cur = s.cur ∧ (s.setBar k j b).upsets = s.upsets ∧ (s.setBar k j b).mem = s.mem ∧
    (s.setBar k j b).pois = s.pois ∧ (s.setBar k j b).badSec = s.badSec ∧ (s.setBar k j b).covers = s.covers ∧
    (s.setBar k j b).accs = s.accs ∧ (s.setBar k j b).accSeq = s.accSeq ∧ (s.setBar k j b).prods = s.prods ∧
    (s.setBar k j b).prodSeq = s.prodSeq ∧ (s.setBar k j b).pairSeq = s.pairSeq ∧ (s.setBar k j b).cores = s.cores ∧
    (s.setBar k j b).clusters = s.clusters ∧ (s.setBar k j b).fabric = s.fabric ∧
    (s.setBar k j b).launches = s.launches ∧ (s.setBar k j b).ctxs = s.ctxs ∧ (s.setBar k j b).bands = s.bands ∧
    (s.setBar k j b).groups = s.groups ∧ (s.setBar k j b).parkedBars = s.parkedBars ∧
    (s.setBar k j b).pins = s.pins ∧ (s.setBar k j b).wakes = s.wakes ∧ (s.setBar k j b).ovf = s.ovf ∧
    (s.setBar k j b).ready = s.ready ∧ (s.setBar k j b).blocked = s.blocked ∧ (s.setBar k j b).msgs = s.msgs ∧
    (s.setBar k j b).msgSeq = s.msgSeq ∧ (s.setBar k j b).host = s.host ∧ (s.setBar k j b).banks = s.banks ∧
    (s.setBar k j b).floor = s.floor ∧ (s.setBar k j b).flash = s.flash ∧ (s.setBar k j b).boot = s.boot ∧
    (s.setBar k j b).peers = s.peers ∧ (s.setBar k j b).routes = s.routes ∧ (s.setBar k j b).links = s.links ∧
    (s.setBar k j b).nc = s.nc := by
  refine ⟨rfl, rfl, rfl, rfl, rfl, rfl, rfl, rfl, rfl, rfl, rfl, rfl, rfl, rfl, rfl, rfl, rfl, rfl, rfl, rfl, rfl, rfl, rfl, rfl, rfl, rfl, rfl, rfl, rfl, rfl, rfl, rfl, rfl, rfl, rfl, rfl, rfl, rfl⟩

@[simp] theorem addAcc_frame (s : State) (a : Access) :
    (s.addAcc a).agenda = s.agenda ∧ (s.addAcc a).tick = s.tick ∧ (s.addAcc a).fresh = s.fresh ∧
    (s.addAcc a).cur = s.cur ∧ (s.addAcc a).upsets = s.upsets ∧ (s.addAcc a).mem = s.mem ∧
    (s.addAcc a).pois = s.pois ∧ (s.addAcc a).badSec = s.badSec ∧ (s.addAcc a).covers = s.covers ∧
    (s.addAcc a).prods = s.prods ∧ (s.addAcc a).prodSeq = s.prodSeq ∧ (s.addAcc a).pairSeq = s.pairSeq ∧
    (s.addAcc a).cores = s.cores ∧ (s.addAcc a).clusters = s.clusters ∧ (s.addAcc a).fabric = s.fabric ∧
    (s.addAcc a).launches = s.launches ∧ (s.addAcc a).ctxs = s.ctxs ∧ (s.addAcc a).bands = s.bands ∧
    (s.addAcc a).groups = s.groups ∧ (s.addAcc a).bars = s.bars ∧ (s.addAcc a).parkedBars = s.parkedBars ∧
    (s.addAcc a).pins = s.pins ∧ (s.addAcc a).wakes = s.wakes ∧ (s.addAcc a).ovf = s.ovf ∧
    (s.addAcc a).ready = s.ready ∧ (s.addAcc a).blocked = s.blocked ∧ (s.addAcc a).msgs = s.msgs ∧
    (s.addAcc a).msgSeq = s.msgSeq ∧ (s.addAcc a).host = s.host ∧ (s.addAcc a).banks = s.banks ∧
    (s.addAcc a).floor = s.floor ∧ (s.addAcc a).flash = s.flash ∧ (s.addAcc a).boot = s.boot ∧
    (s.addAcc a).peers = s.peers ∧ (s.addAcc a).routes = s.routes ∧ (s.addAcc a).links = s.links ∧
    (s.addAcc a).nc = s.nc := by
  refine ⟨rfl, rfl, rfl, rfl, rfl, rfl, rfl, rfl, rfl, rfl, rfl, rfl, rfl, rfl, rfl, rfl, rfl, rfl, rfl, rfl, rfl, rfl, rfl, rfl, rfl, rfl, rfl, rfl, rfl, rfl, rfl, rfl, rfl, rfl, rfl, rfl, rfl⟩

@[simp] theorem tick1_frame (s : State) :
    s.tick1.agenda = s.agenda ∧ s.tick1.tick = s.tick ∧ s.tick1.cur = s.cur ∧ s.tick1.upsets = s.upsets ∧
    s.tick1.mem = s.mem ∧ s.tick1.pois = s.pois ∧ s.tick1.badSec = s.badSec ∧ s.tick1.covers = s.covers ∧
    s.tick1.accs = s.accs ∧ s.tick1.accSeq = s.accSeq ∧ s.tick1.prods = s.prods ∧ s.tick1.prodSeq = s.prodSeq ∧
    s.tick1.pairSeq = s.pairSeq ∧ s.tick1.cores = s.cores ∧ s.tick1.clusters = s.clusters ∧
    s.tick1.fabric = s.fabric ∧ s.tick1.launches = s.launches ∧ s.tick1.ctxs = s.ctxs ∧ s.tick1.bands = s.bands ∧
    s.tick1.groups = s.groups ∧ s.tick1.bars = s.bars ∧ s.tick1.parkedBars = s.parkedBars ∧ s.tick1.pins = s.pins ∧
    s.tick1.wakes = s.wakes ∧ s.tick1.ovf = s.ovf ∧ s.tick1.ready = s.ready ∧ s.tick1.blocked = s.blocked ∧
    s.tick1.msgs = s.msgs ∧ s.tick1.msgSeq = s.msgSeq ∧ s.tick1.host = s.host ∧ s.tick1.banks = s.banks ∧
    s.tick1.floor = s.floor ∧ s.tick1.flash = s.flash ∧ s.tick1.boot = s.boot ∧ s.tick1.peers = s.peers ∧
    s.tick1.routes = s.routes ∧ s.tick1.links = s.links ∧ s.tick1.nc = s.nc := by
  refine ⟨rfl, rfl, rfl, rfl, rfl, rfl, rfl, rfl, rfl, rfl, rfl, rfl, rfl, rfl, rfl, rfl, rfl, rfl, rfl, rfl, rfl, rfl, rfl, rfl, rfl, rfl, rfl, rfl, rfl, rfl, rfl, rfl, rfl, rfl, rfl, rfl, rfl, rfl⟩

@[simp] theorem count_frame (s : State) (c e n : Nat) :
    (s.count c e n).agenda = s.agenda ∧ (s.count c e n).tick = s.tick ∧ (s.count c e n).fresh = s.fresh ∧
    (s.count c e n).cur = s.cur ∧ (s.count c e n).upsets = s.upsets ∧ (s.count c e n).mem = s.mem ∧
    (s.count c e n).pois = s.pois ∧ (s.count c e n).badSec = s.badSec ∧ (s.count c e n).covers = s.covers ∧
    (s.count c e n).accs = s.accs ∧ (s.count c e n).accSeq = s.accSeq ∧ (s.count c e n).prods = s.prods ∧
    (s.count c e n).prodSeq = s.prodSeq ∧ (s.count c e n).pairSeq = s.pairSeq ∧
    (s.count c e n).clusters = s.clusters ∧ (s.count c e n).fabric = s.fabric ∧
    (s.count c e n).launches = s.launches ∧ (s.count c e n).ctxs = s.ctxs ∧ (s.count c e n).bands = s.bands ∧
    (s.count c e n).groups = s.groups ∧ (s.count c e n).bars = s.bars ∧ (s.count c e n).parkedBars = s.parkedBars ∧
    (s.count c e n).pins = s.pins ∧ (s.count c e n).wakes = s.wakes ∧ (s.count c e n).ovf = s.ovf ∧
    (s.count c e n).ready = s.ready ∧ (s.count c e n).blocked = s.blocked ∧ (s.count c e n).msgs = s.msgs ∧
    (s.count c e n).msgSeq = s.msgSeq ∧ (s.count c e n).host = s.host ∧ (s.count c e n).banks = s.banks ∧
    (s.count c e n).floor = s.floor ∧ (s.count c e n).flash = s.flash ∧ (s.count c e n).boot = s.boot ∧
    (s.count c e n).peers = s.peers ∧ (s.count c e n).routes = s.routes ∧ (s.count c e n).links = s.links ∧
    (s.count c e n).nc = s.nc := by
  refine ⟨rfl, rfl, rfl, rfl, rfl, rfl, rfl, rfl, rfl, rfl, rfl, rfl, rfl, rfl, rfl, rfl, rfl, rfl, rfl, rfl, rfl, rfl, rfl, rfl, rfl, rfl, rfl, rfl, rfl, rfl, rfl, rfl, rfl, rfl, rfl, rfl, rfl, rfl⟩

@[simp] theorem bankClear_frame (s : State) (b : Nat) :
    (s.bankClear b).agenda = s.agenda ∧ (s.bankClear b).tick = s.tick ∧ (s.bankClear b).fresh = s.fresh ∧
    (s.bankClear b).cur = s.cur ∧ (s.bankClear b).upsets = s.upsets ∧ (s.bankClear b).mem = s.mem ∧
    (s.bankClear b).pois = s.pois ∧ (s.bankClear b).badSec = s.badSec ∧ (s.bankClear b).covers = s.covers ∧
    (s.bankClear b).accs = s.accs ∧ (s.bankClear b).accSeq = s.accSeq ∧ (s.bankClear b).prods = s.prods ∧
    (s.bankClear b).prodSeq = s.prodSeq ∧ (s.bankClear b).pairSeq = s.pairSeq ∧ (s.bankClear b).cores = s.cores ∧
    (s.bankClear b).clusters = s.clusters ∧ (s.bankClear b).fabric = s.fabric ∧
    (s.bankClear b).launches = s.launches ∧ (s.bankClear b).ctxs = s.ctxs ∧ (s.bankClear b).bands = s.bands ∧
    (s.bankClear b).groups = s.groups ∧ (s.bankClear b).bars = s.bars ∧ (s.bankClear b).parkedBars = s.parkedBars ∧
    (s.bankClear b).pins = s.pins ∧ (s.bankClear b).wakes = s.wakes ∧ (s.bankClear b).ovf = s.ovf ∧
    (s.bankClear b).ready = s.ready ∧ (s.bankClear b).blocked = s.blocked ∧ (s.bankClear b).msgs = s.msgs ∧
    (s.bankClear b).msgSeq = s.msgSeq ∧ (s.bankClear b).host = s.host ∧ (s.bankClear b).floor = s.floor ∧
    (s.bankClear b).flash = s.flash ∧ (s.bankClear b).boot = s.boot ∧ (s.bankClear b).peers = s.peers ∧
    (s.bankClear b).routes = s.routes ∧ (s.bankClear b).links = s.links ∧ (s.bankClear b).nc = s.nc := by
  refine ⟨rfl, rfl, rfl, rfl, rfl, rfl, rfl, rfl, rfl, rfl, rfl, rfl, rfl, rfl, rfl, rfl, rfl, rfl, rfl, rfl, rfl, rfl, rfl, rfl, rfl, rfl, rfl, rfl, rfl, rfl, rfl, rfl, rfl, rfl, rfl, rfl, rfl, rfl⟩

/-! ## Look-ups after an update -/

@[simp] theorem updCtx_ctx? (s : State) (k j : Nat) (f : Ctx → Ctx) :
    (s.updCtx k f).ctx? j = if j = k then (s.ctx? j).map f else s.ctx? j := tabGet?_upd s.ctxs k j f

@[simp] theorem updGrp_grp? (s : State) (k j : Nat) (f : Group → Group) :
    (s.updGrp k f).grp? j = if j = k then (s.grp? j).map f else s.grp? j := tabGet?_upd s.groups k j f

@[simp] theorem updBand_band? (s : State) (k j : Nat) (f : Band → Band) :
    (s.updBand k f).band? j = if j = k then (s.band? j).map f else s.band? j := tabGet?_upd s.bands k j f

@[simp] theorem updLaunch_launch? (s : State) (k j : Nat) (f : Launch → Launch) :
    (s.updLaunch k f).launch? j = if j = k then (s.launch? j).map f else s.launch? j := tabGet?_upd s.launches k j f

@[simp] theorem updCore_core (s : State) (k j : Nat) (f : Core → Core) :
    (s.updCore k f).core j = if j = k then f (s.core k) else s.core j := by
  unfold State.core State.updCore tabGet
  by_cases h : j = k <;> simp [h, State.core, tabGet]

@[simp] theorem updCluster_cluster (s : State) (k j : Nat) (f : Cluster → Cluster) :
    (s.updCluster k f).cluster j = if j = k then f (s.cluster k) else s.cluster j := by
  unfold State.cluster State.updCluster tabGet
  by_cases h : j = k <;> simp [h, State.cluster, tabGet]

@[simp] theorem updDie_die (s : State) (k j : Nat) (f : Cluster → Cluster) :
    (s.updDie k f).die j = if j = k then f (s.die k) else s.die j := by
  unfold State.die State.updDie tabGet
  by_cases h : j = k <;> simp [h, State.die, tabGet]

@[simp] theorem setBar_bar (s : State) (k j i l : Nat) (b : Barrier) :
    (s.setBar k j b).bar i l = if barKey i l = barKey k j then b else s.bar i l := tabGet_put _ _ _ _ _

@[simp] theorem updCtx_others (s : State) (k : Nat) (f : Ctx → Ctx) (j : Nat) :
    (s.updCtx k f).grp? j = s.grp? j ∧
    (s.updCtx k f).band? j = s.band? j ∧
    (s.updCtx k f).launch? j = s.launch? j ∧
    (s.updCtx k f).core j = s.core j ∧ (s.updCtx k f).cluster j = s.cluster j ∧ (s.updCtx k f).die j = s.die j :=
  ⟨rfl, rfl, rfl, rfl, rfl, rfl⟩

@[simp] theorem updGrp_others (s : State) (k : Nat) (f : Group → Group) (j : Nat) :
    (s.updGrp k f).ctx? j = s.ctx? j ∧
    (s.updGrp k f).band? j = s.band? j ∧
    (s.updGrp k f).launch? j = s.launch? j ∧
    (s.updGrp k f).core j = s.core j ∧ (s.updGrp k f).cluster j = s.cluster j ∧ (s.updGrp k f).die j = s.die j :=
  ⟨rfl, rfl, rfl, rfl, rfl, rfl⟩

@[simp] theorem updBand_others (s : State) (k : Nat) (f : Band → Band) (j : Nat) :
    (s.updBand k f).ctx? j = s.ctx? j ∧
    (s.updBand k f).grp? j = s.grp? j ∧
    (s.updBand k f).launch? j = s.launch? j ∧
    (s.updBand k f).core j = s.core j ∧ (s.updBand k f).cluster j = s.cluster j ∧ (s.updBand k f).die j = s.die j :=
  ⟨rfl, rfl, rfl, rfl, rfl, rfl⟩

@[simp] theorem updLaunch_others (s : State) (k : Nat) (f : Launch → Launch) (j : Nat) :
    (s.updLaunch k f).ctx? j = s.ctx? j ∧
    (s.updLaunch k f).grp? j = s.grp? j ∧
    (s.updLaunch k f).band? j = s.band? j ∧
    (s.updLaunch k f).core j = s.core j ∧ (s.updLaunch k f).cluster j = s.cluster j ∧ (s.updLaunch k f).die j = s.die j :=
  ⟨rfl, rfl, rfl, rfl, rfl, rfl⟩

@[simp] theorem updCore_others (s : State) (k : Nat) (f : Core → Core) (j : Nat) :
    (s.updCore k f).ctx? j = s.ctx? j ∧
    (s.updCore k f).grp? j = s.grp? j ∧
    (s.updCore k f).band? j = s.band? j ∧
    (s.updCore k f).launch? j = s.launch? j ∧ (s.updCore k f).cluster j = s.cluster j ∧ (s.updCore k f).die j = s.die j :=
  ⟨rfl, rfl, rfl, rfl, rfl, rfl⟩

@[simp] theorem updCluster_others (s : State) (k : Nat) (f : Cluster → Cluster) (j : Nat) :
    (s.updCluster k f).ctx? j = s.ctx? j ∧
    (s.updCluster k f).grp? j = s.grp? j ∧
    (s.updCluster k f).band? j = s.band? j ∧
    (s.updCluster k f).launch? j = s.launch? j ∧ (s.updCluster k f).core j = s.core j ∧ (s.updCluster k f).die j = s.die j :=
  ⟨rfl, rfl, rfl, rfl, rfl, rfl⟩

@[simp] theorem addAcc_others (s : State) (a : Access) (j : Nat) :
    (s.addAcc a).ctx? j = s.ctx? j ∧
    (s.addAcc a).grp? j = s.grp? j ∧
    (s.addAcc a).band? j = s.band? j ∧
    (s.addAcc a).launch? j = s.launch? j ∧ (s.addAcc a).core j = s.core j ∧ (s.addAcc a).cluster j = s.cluster j ∧ (s.addAcc a).die j = s.die j :=
  ⟨rfl, rfl, rfl, rfl, rfl, rfl, rfl⟩

@[simp] theorem updCtx_lrec (s : State) (k gc : Nat) (f : Ctx → Ctx) : (s.updCtx k f).lrec gc = s.lrec gc := rfl
@[simp] theorem updGrp_lrec (s : State) (k gc : Nat) (f : Group → Group) : (s.updGrp k f).lrec gc = s.lrec gc := rfl
@[simp] theorem updBand_lrec (s : State) (k gc : Nat) (f : Band → Band) : (s.updBand k f).lrec gc = s.lrec gc := rfl
@[simp] theorem updCore_lrec (s : State) (k gc : Nat) (f : Core → Core) : (s.updCore k f).lrec gc = s.lrec gc := rfl

end Sys2Proof.Machine
end

