-- ==== Sys2Proof/Laws/Quiet.lean ====
section
/-! SUPPORT. What fetching, translating and recording machine checks leave: everything but caches, counters, banks and the
count of free values. -/

namespace Sys2Proof.Machine

theorem Quiet.refl (s : State) : Quiet s s :=
  ⟨s.cores, s.clusters, s.fabric, s.banks, s.fresh, s.upsets, s.host.vectors, s.pois, s.badSec, s.covers, rfl⟩

theorem Quiet.trans {s t u : State} (a : Quiet s t) (b : Quiet t u) : Quiet s u := by
  obtain ⟨c1, c2, c3, c4, c5, c6, c7, c8, c9, c10, rfl⟩ := a
  obtain ⟨d1, d2, d3, d4, d5, d6, d7, d8, d9, d10, rfl⟩ := b
  exact ⟨d1, d2, d3, d4, d5, d6, d7, d8, d9, d10, rfl⟩

theorem quiet_foldl {α : Type} (l : List α) (f : State → α → State) (w : ∀ s a, Quiet s (f s a)) (s : State) :
    Quiet s (l.foldl f s) := by
  induction l generalizing s with
  | nil => exact .refl s
  | cons a r ih => exact (w s a).trans (ih _)

theorem quiet_updCore (s : State) (k : Nat) (f : Core → Core) : Quiet s (s.updCore k f) :=
  ⟨(s.updCore k f).cores, s.clusters, s.fabric, s.banks, s.fresh, s.upsets, s.host.vectors, s.pois, s.badSec, s.covers, rfl⟩

theorem quiet_updCluster (s : State) (k : Nat) (f : Cluster → Cluster) : Quiet s (s.updCluster k f) :=
  ⟨s.cores, (s.updCluster k f).clusters, s.fabric, s.banks, s.fresh, s.upsets, s.host.vectors, s.pois, s.badSec, s.covers, rfl⟩

theorem quiet_updDie (s : State) (k : Nat) (f : Cluster → Cluster) : Quiet s (s.updDie k f) :=
  ⟨s.cores, s.clusters, (s.updDie k f).fabric, s.banks, s.fresh, s.upsets, s.host.vectors, s.pois, s.badSec, s.covers, rfl⟩

theorem quiet_tick1 (s : State) : Quiet s s.tick1 :=
  ⟨s.cores, s.clusters, s.fabric, s.banks, s.fresh + 1, s.upsets, s.host.vectors, s.pois, s.badSec, s.covers, rfl⟩

theorem quiet_count (s : State) (c e n : Nat) : Quiet s (s.count c e n) := quiet_updCore s c _

theorem quiet_upsets (s : State) (l : List Upset) : Quiet s { s with upsets := l } :=
  ⟨s.cores, s.clusters, s.fabric, s.banks, s.fresh, l, s.host.vectors, s.pois, s.badSec, s.covers, rfl⟩

theorem quiet_bankEvent (s : State) (b cls act code src : Nat) (x y z : W64) :
    Quiet s (s.bankEvent b cls act code src x y z) := by
  unfold State.bankEvent
  split
  · exact .refl s
  · dsimp only
    generalize tabPut Bank.zero s.banks b _ = ba
    split
    · exact ⟨s.cores, s.clusters, s.fabric, ba, s.fresh, s.upsets, s.host.vectors, s.pois, s.badSec, s.covers, rfl⟩
    · exact ⟨s.cores, s.clusters, s.fabric, ba, s.fresh, s.upsets, s.host.vectors ++ [65], s.pois, s.badSec, s.covers, rfl⟩

theorem quiet_marks (s : State) (p : Tab Bool) (b : Tab SecErr) (c : Tab (List Nat)) :
    Quiet s { s with pois := p, badSec := b, covers := c } :=
  ⟨s.cores, s.clusters, s.fabric, s.banks, s.fresh, s.upsets, s.host.vectors, p, b, c, rfl⟩

theorem quiet_sectorEvent (s : State) (pa : Nat) : Quiet s (sectorEvent s pa) := by
  unfold sectorEvent
  dsimp only
  split
  · exact quiet_bankEvent ..
  · exact (quiet_marks s s.pois _ s.covers).trans (quiet_bankEvent ..)
  · exact .refl s

theorem quiet_sectorEvents (s : State) (pa n : Nat) : Quiet s (sectorEvents s pa n) :=
  quiet_foldl _ _ (fun s k => quiet_sectorEvent s (32 * k)) s

theorem quiet_cellarHit (s : State) (u : Upset) : Quiet s (cellarHit s u) := by
  unfold cellarHit
  split
  · refine .trans ?_ (quiet_bankEvent ..)
    split
    · exact (quiet_upsets s _).trans (quiet_marks _ _ _ _)
    · exact quiet_upsets s _
  · exact .refl s

theorem quiet_softHits (s : State) (b : Nat) : Quiet s (softHits s b) := by
  refine quiet_foldl _ _ (fun s u => ?_) s
  split
  · exact (quiet_upsets s _).trans (quiet_bankEvent ..)
  · exact .refl s

theorem quiet_readCheck (s : State) (pa n : Nat) : Quiet s (readCheck s pa n).2 :=
  ((quiet_softHits s _).trans (quiet_foldl _ _ quiet_cellarHit _)).trans (quiet_sectorEvents ..)

theorem quiet_entryCheck (s : State) (ea : Nat) : Quiet s (entryCheck s ea).2 := by
  unfold entryCheck
  have h := quiet_readCheck s ea 8
  dsimp only
  split
  · exact h.trans (quiet_bankEvent ..)
  · exact h

theorem quiet_walkFrom (space va k n table : Nat) (s : State) : Quiet s (walkFrom s space va k n table).2 := by
  induction k generalizing n table s with
  | zero => exact .refl s
  | succ k ih =>
    unfold walkFrom
    have h := quiet_entryCheck s (table + 8 * pteIndex n va)
    dsimp only
    repeat' split
    all_goals first | exact h | exact h.trans (ih ..)

theorem quiet_walk (s : State) (space top va : Nat) : Quiet s (walk s space top va).2 := by
  unfold walk
  split
  · exact .refl s
  · exact quiet_walkFrom ..

theorem quiet_tlbForget (s : State) (pl : Place) (space va : Nat) : Quiet s (tlbForget s pl space va) := by
  unfold tlbForget
  dsimp only
  have step : ∀ t : State, Quiet s t → Quiet s (match placeClus t pl with
      | some n => t.updCluster n (fun c => { c with
          tlb := c.tlb.filter (fun e => !(e.space == space && va / 2 ^ e.bits * 2 ^ e.bits == e.va)) })
      | none => t) := by
    intro t h
    split
    · exact h.trans (quiet_updCluster ..)
    · exact h
  refine step _ ?_
  split
  · exact quiet_updCore ..
  · exact .refl s

theorem quiet_leafUse (s : State) (pl : Place) (ic il : Bool) (space : Nat) (e : TlbEnt) (va : Nat) (need : Need) (priv : Bool) :
    Quiet s (leafUse s pl ic il space e va need priv).2 := by
  unfold leafUse
  split
  · extract_lets t1 t2
    have g1 : Quiet s t1 := by
      simp only [t1]
      cases pl with
      | core n => dsimp only; split; exacts [.refl s, quiet_updCore ..]
      | clus n => exact .refl s
      | fab => exact .refl s
    clear_value t1
    simp only [t2]
    cases placeClus t1 pl with
    | none => exact g1
    | some n => dsimp only; split; exacts [g1, g1.trans (quiet_updCluster ..)]
  · exact quiet_tlbForget ..

theorem quiet_countMiss (s : State) (pl : Place) : Quiet s (countMiss s pl) := by
  unfold countMiss
  split
  · exact quiet_count ..
  · exact .refl s

theorem quiet_translate (s : State) (pl : Place) (space top va : Nat) (need : Need) (priv : Bool) :
    Quiet s (translate s pl space top va need priv).2 := by
  unfold translate
  split
  · exact quiet_leafUse ..
  · split
    · exact (quiet_countMiss s pl).trans (quiet_leafUse ..)
    · have h := (quiet_countMiss s pl).trans (quiet_walk (countMiss s pl) space top va)
      split
      · rename_i e t hw; rw [hw] at h; exact h.trans (quiet_leafUse ..)
      · rename_i c t hw; rw [hw] at h; dsimp only; split; exacts [h.trans (quiet_tlbForget ..), h]

theorem quiet_setLines (s : State) (pl : Place) (ls : List LineEnt) : Quiet s (setLines s pl ls) := by
  unfold setLines
  split
  · exact quiet_updCore ..
  · exact quiet_updCluster ..
  · exact quiet_updDie ..

theorem quiet_spendHit (s : State) (o : Option Upset) : Quiet s (spendHit s o) := by
  cases o with
  | none => exact .refl s
  | some u => exact quiet_upsets ..

theorem quiet_refetched (s : State) (pl : Place) (pa : Nat) (who : W64) : Quiet s (refetched s pl pa who) := by
  unfold refetched
  refine .trans ?_ (quiet_bankEvent ..)
  split
  · exact quiet_count ..
  · exact .refl s

theorem quiet_checkLine (s : State) (pl : Place) (space va : Nat) (l : BitVec 512) : Quiet s (checkLine s pl space va l).2 := by
  unfold checkLine
  split
  · exact quiet_setLines ..
  · exact .refl s

theorem quiet_lineBytes (s : State) (pa : Nat) : Quiet s (lineBytes s pa).2 := by
  unfold lineBytes
  split
  · exact .refl s
  · exact quiet_tick1 s

theorem quiet_takeAgain (s : State) (pl : Place) (space va pa : Nat) (who : W64) (hit : Option Upset) :
    Quiet s (takeAgain s pl space va pa who hit).2 := by
  have h := quiet_lineBytes s pa
  rw [takeAgain]
  split
  · exact h.trans (quiet_spendHit ..)
  · exact ((h.trans (quiet_spendHit ..)).trans (quiet_refetched ..)).trans (quiet_checkLine ..)

theorem quiet_takeLine (s : State) (pl : Place) (space va pa : Nat) (who : W64) : Quiet s (takeLine s pl space va pa who).2 := by
  have h := quiet_lineBytes s pa
  rw [takeLine]
  split
  · exact h.trans (quiet_checkLine ..)
  · exact h.trans (quiet_takeAgain ..)

theorem quiet_fillFrom (s : State) (pl : Place) (space va pa : Nat) (who : W64) : Quiet s (fillFrom s pl space va pa who).2 := by
  have h := quiet_readCheck s pa 64
  rw [fillFrom]
  split
  · dsimp only; exact h
  · exact h.trans (quiet_takeLine ..)

theorem quiet_fillLine (s : State) (pl : Place) (gc va : Nat) : Quiet s (fillLine s pl gc va).2 := by
  unfold fillLine
  have h := quiet_translate s pl (s.task gc).space (s.task gc).top va .fetch (s.lrec gc).priv
  dsimp only
  split
  · rename_i c t hw; rw [hw] at h; exact h
  · rename_i pa t hw; rw [hw] at h; exact h.trans (quiet_fillFrom ..)

theorem quiet_fetchLine (s : State) (pl : Place) (gc : Nat) (ia : W64) : Quiet s (fetchLine s pl gc ia).2 := by
  unfold fetchLine
  dsimp only
  split
  · exact .refl s
  · exact quiet_fillLine ..

theorem quiet_checkTgt (s : State) (pl : Place) (gc : Nat) (ia : W64) : Quiet s (checkTgt s pl gc ia).2 := by
  unfold checkTgt
  split
  · exact .refl s
  · have h := quiet_fetchLine s pl gc ia
    revert h
    generalize fetchLine s pl gc ia = p
    obtain ⟨res, t⟩ := p
    intro h
    cases res <;> exact h

theorem quiet_checkTgts (s : State) (pl : Place) (gc : Nat) (l : List W64) : Quiet s (checkTgts s pl gc l).2 := by
  induction l generalizing s with
  | nil => exact .refl s
  | cons ia r ih =>
    unfold checkTgts
    have h := quiet_checkTgt s pl gc ia
    revert h
    generalize checkTgt s pl gc ia = p
    obtain ⟨res, t⟩ := p
    intro h
    have h2 := ih t
    cases res
    · exact h.trans h2
    · exact h
    · dsimp only at h h2 ⊢
      revert h2
      generalize checkTgts t pl gc r = q
      obtain ⟨res, u⟩ := q
      intro h2
      cases res <;> exact h.trans h2

theorem quiet_transOne (s : State) (u : UnitRef) (va : Nat) (need : Need) : Quiet s (transOne s u va need).2 := by
  unfold transOne
  exact quiet_translate ..

theorem quiet_xlate (s : State) (u : UnitRef) (need : Need) (es : List (Nat × Nat)) : Quiet s (xlate s u need es).2 := by
  unfold xlate
  dsimp only
  generalize hs : (([], [], s) : List (Nat × Except Nat Nat) × List ((Nat × Nat) × Except Nat Nat) × State) = x
  have h0 : Quiet s x.2.2 := by rw [← hs]; exact .refl s
  clear hs
  induction es generalizing x with
  | nil => exact h0
  | cons p r ih =>
    refine ih _ ?_
    obtain ⟨out, memo, t⟩ := x
    dsimp only at h0 ⊢
    split
    · exact h0
    · exact h0
    · exact h0.trans (quiet_transOne ..)

/-! ## Issuing accesses (R243 step 1) -/

theorem addAccs_eq (s : State) (l : List Access) :
    s.addAccs l = { s with accs := s.accs ++ l.zipIdx.map (fun p => { p.1 with id := s.accSeq + p.2, batch := s.accSeq }),
                           accSeq := s.accSeq + l.length } := by
  have key : ∀ (l : List Access) (t : State) (b n : Nat), t.accSeq = b + n →
      l.foldl (fun s a => { s with accs := s.accs ++ [{ a with id := s.accSeq, batch := b }], accSeq := s.accSeq + 1 }) t =
        { t with accs := t.accs ++ (l.zipIdx n).map (fun p => { p.1 with id := b + p.2, batch := b }),
                 accSeq := t.accSeq + l.length } := by
    intro l
    induction l with
    | nil => intro t b n _; simp
    | cons a r ih =>
      intro t b n hn
      simp only [List.foldl_cons]
      rw [ih _ b (n + 1) (by simp [hn]; omega)]
      simp [List.zipIdx_cons, hn]; omega
  exact key l s s.accSeq 0 rfl

theorem unholdAtomics_eq (s : State) (l : List Access) : ∃ cs, unholdAtomics s l = { s with cores := cs } := by
  unfold unholdAtomics
  induction l generalizing s with
  | nil => exact ⟨s.cores, rfl⟩
  | cons a r ih =>
    simp only [List.foldl_cons]
    obtain ⟨cs, h⟩ := ih (match a.loc, a.core with
      | .mem pa, some c => if homeAtomic a then unhold s c pa a.width else s
      | _, _ => s)
    refine ⟨cs, h.trans ?_⟩
    repeat' split
    all_goals rfl

/-- What is quiet leaves the instruction in hand and every unit as they were. -/
theorem Quiet.frame {s t : State} (h : Quiet s t) :
    t.cur = s.cur ∧ t.mem = s.mem ∧ t.groups = s.groups ∧ t.ctxs = s.ctxs ∧ t.bands = s.bands ∧ t.accs = s.accs ∧
      t.launches = s.launches := by
  obtain ⟨_, _, _, _, _, _, _, _, _, _, rfl⟩ := h; simp

theorem transferOk_quiet {s : State} {lev : Nat} {ts : List W64} {t : State} (w : TransferOk s lev ts t) : Quiet s t := by
  have := quiet_checkTgts s (placeOf s s.cur.u) (gcOf s s.cur.u) ts
  rwa [w.marked] at this

theorem globalOk_quiet {s : State} {lev al : Nat} {need : Need} {es : List (Nat × W64)} {uses : List Use} {t : State}
    {ps : List (Nat × Nat)} (w : GlobalOk s lev al need es uses t ps) : Quiet s t := by
  have := quiet_xlate s s.cur.u need (es.map (fun p => (p.1, p.2.toNat)))
  rwa [w.mapped] at this

end Sys2Proof.Machine
end

