-- ==== Sys2Proof/Laws/Runs.lean ====
section
/-! SUPPORT. What the shared runners of the meanings come to, one lemma each. -/

namespace Sys2Proof.Machine

theorem lv_eq_zero {h : Hdr} : Hdr.lv h = 0 ↔ h.lev = 0 := by
  unfold Hdr.lv; constructor
  · intro k; exact BitVec.eq_of_toNat_eq (by simpa using k)
  · intro k; rw [k]; rfl

theorem atCtx_of {s : State} {h : Hdr} {ck : Nat} {c : Ctx} (w : AtContext s h ck c) (f : Nat → Ctx → Act) :
    atCtx s h f = f ck c := by
  obtain ⟨k, x, g⟩ := w; subst k; simp only [atCtx, x, g, ↓reduceIte]

theorem atCtx_off {s : State} {h : Hdr} {c : Ctx} (k : s.ctx? (ownKey s s.cur.u (Hdr.lv h)) = some c) (g : guardCtx c h = false)
    (f : Nat → Ctx → Act) : atCtx s h f = .next s := by
  simp [atCtx, k, g]

theorem atLanes_of {s : State} {h : Hdr} {gk : Nat} {g : Group} {m : Lanes} (w : InLanes s h gk g m)
    (f : Nat → Group → Lanes → Act) : atLanes s h f = f gk g m := by
  obtain ⟨u, x, l, n⟩ := w; subst l; simp only [atLanes, u, x, n, ↓reduceIte]

theorem atLanes_off {s : State} {h : Hdr} {gk : Nat} {g : Group} (u : s.cur.u = .grp gk) (x : s.grp? gk = some g)
    (l : activeOf s g h = 0) (f : Nat → Group → Lanes → Act) : atLanes s h f = .next s := by
  simp only [atLanes, u, x, l, ↓reduceIte]

@[simp] theorem fin_next (s : State) (h : Hdr) (t : State) : fin s h true (.next t) = .next (done s h t) := rfl
@[simp] theorem fin_pass (s : State) (h : Hdr) (t : State) : fin s h false (.next t) = .next (passed s h t) := rfl
@[simp] theorem fin_jump (s : State) (h : Hdr) (t : State) (ia : W64) : fin s h true (.jump t ia) = .next (doneAt s h t ia) := rfl
@[simp] theorem fin_stay (s : State) (h : Hdr) (e : Bool) (t : State) : fin s h e (.stay t) = .next t := rfl
@[simp] theorem fin_wait (s : State) (h : Hdr) (e : Bool) : fin s h e .wait = .next (haltWaiting s) := rfl
@[simp] theorem fin_fault (s : State) (h : Hdr) (e : Bool) (t : State) (f : FaultReq) :
    fin s h e (.fault t f) = .next (faulted s t f) := rfl

/-! ## Contexts -/

theorem ctxReady_of {s : State} {h : Hdr} {ck : Nat} {c : Ctx} {srcs : List (Nat × Src)} {d : Option Opd}
    (w : AtContext s h ck c) (r : ScalReady s h srcs d.toList) (k : Nat → Ctx → Act) : ctxReady s h srcs d k = k ck c := by
  unfold ScalReady at r
  simp only [ctxReady, atCtx_of w, r]

theorem scalRun_of {s : State} {h : Hdr} {ck : Nat} {c : Ctx} {srcs : List Src} {l : BitVec 3} {r : BitVec 5}
    (w : AtContext s h ck c) (k : ScalReady s h (srcs.zipIdx.map (fun p => (p.2 + 1, p.1))) [.scal l r]) (room : c.logRoom = true)
    (imm : W64) (f : List W64 → W64) :
    scalRun s h srcs (.scal l r) imm f = .next (withScal s ck r (f (srcs.map (ctxVal s h imm)))) := by
  unfold scalRun
  rw [ctxReady_of (d := some (.scal l r)) w k]
  simp only [putScal, room, ↓reduceIte, withScal]

/-! ## Lanes -/

/-- A commit goes on in the state that the checks leave. -/
theorem checked_of {s : State} {gk : Nat} {g : Group} {m : Lanes} {resid : Bool} {t : State}
    (w : gate s gk g m resid = .next t) (k : State → State) : checked s gk g m resid k = .next (logged s gk g m (k t)) := by
  simp only [checked, w]

theorem laneReady_of {s : State} {h : Hdr} {gk : Nat} {g : Group} {m : Lanes} {uses : Lanes → List Use} {d : Opd} {dn : Nat}
    {resid : Bool} {t : State} (w : InLanes s h gk g m) (r : LaneReady s gk g m (uses m) d dn resid t)
    (k : State → Nat → Group → Lanes → State) : laneReady s h uses d dn resid k = .next (logged s gk g m (k t gk g m)) := by
  unfold laneReady
  rw [atLanes_of w]
  simp only [r.ready]
  exact checked_of r.commit _

theorem laneRun_of {s : State} {h : Hdr} {gk : Nat} {g : Group} {m : Lanes} {n dn : Nat} {srcs : List Src} {d : Opd}
    {resid : Bool} {t : State} (w : InLanes s h gk g m)
    (r : LaneReady s gk g m (usesOf m n (srcs.zipIdx.map (fun p => (p.2 + 1, p.1)))) d dn resid t) (imm : W64) (f : List W64 → W64) :
    laneRun s h n dn srcs d imm resid f =
      .next (logged s gk g m (writeLanes t gk d dn m (fun i => f (srcs.map (laneVal t n i imm))))) := by
  unfold laneRun
  rw [laneReady_of w r]

theorem lanePred_of {s : State} {h : Hdr} {gk : Nat} {g : Group} {m : Lanes} {n : Nat} {srcs : List Src} {p : BitVec 4}
    {t : State} (w : InLanes s h gk g m)
    (r : LaneReady s gk g m (usesOf m n (srcs.zipIdx.map (fun p => (p.2 + 1, p.1)))) (.pred p) 1 false t) (imm : W64)
    (f : List W64 → Bool) :
    lanePred s h n srcs (.pred p) imm f =
      .next (logged s gk g m (t.updGrp gk (fun g => g.setPred p m (maskOf (fun i => f (srcs.map (laneVal t n i imm))))))) := by
  unfold lanePred
  rw [laneReady_of w r]

/-- Outside a checking mode nothing is kept for a replay. -/
theorem logged_off {s : State} {gk : Nat} {g : Group} {m : Lanes} (w : g.chk = 0) (t : State) : logged s gk g m t = t := by
  simp [logged, w]

/-! ## Memory -/

theorem globalGo_of {s : State} {lev al : Nat} {need : Need} {es : List (Nat × W64)} {uses : List Use} {t : State}
    {ps : List (Nat × Nat)} (w : GlobalOk s lev al need es uses t ps) (d : AccDesc) (deny : Nat → Bool)
    (hd : ∀ p ∈ ps, deny p.2 = false) (k : State → List (Nat × Nat) → Act) :
    globalGo s lev d al need es uses deny k = k t ps := by
  have h1 : (es.map (fun p => (p.1, p.2.toNat))).filter (fun p => !vaOk (BitVec.ofNat 64 p.2)) = [] := by
    simp only [List.filter_eq_nil_iff, List.mem_map, forall_exists_index, and_imp]
    rintro p q hq rfl
    simp [w.form q hq]
  have h2 : (es.map (fun p => (p.1, p.2.toNat))).filter (fun p => p.2 % al != 0) = [] := by
    simp only [List.filter_eq_nil_iff, List.mem_map, forall_exists_index, and_imp]
    rintro p q hq rfl
    simp [w.aligned q hq]
  have h3 : ∀ (ns : List (Nat × Nat)) (c : Nat),
      ns.filter (fun p => ps.any (fun q => q.1 == p.1 && (c == 0x21 && deny q.2))) = [] := by
    intro ns c
    simp only [List.filter_eq_nil_iff, Bool.not_eq_true, List.any_eq_false]
    intro p _ q hq
    simp [hd q hq]
  simp only [globalGo, h1, h2, w.mapped, List.any_map, Function.comp_def, h3, w.clean, List.filterMap_map]
  exact congrArg (k t) (List.filterMap_some ..)

theorem scrGo_of {s : State} {d : AccDesc} {al : Nat} {es : List (Nat × Int)} {uses : List Use} (w : ScrOk s d.width al es uses)
    (k : List (Nat × Nat) → Act) : scrGo s d al es uses k = k (es.map (fun p => (p.1, p.2.toNat))) := by
  have h1 : es.filter (fun (p : Nat × Int) => p.2 % (al : Int) != 0) = [] := by
    simp only [List.filter_eq_nil_iff]; intro p hp; simp [w.aligned p hp]
  have h2 : es.filter (fun (p : Nat × Int) => decide (p.2 < 0) ||
      decide (1024 * (s.lrec (gcOf s s.cur.u)).scrg < p.2 + d.width)) = [] := by
    simp only [List.filter_eq_nil_iff]; intro p hp
    have := w.bounds p hp
    simp; omega
  simp only [scrGo, h1, h2, w.clean]

/-! ## Instructions that act once -/

theorem onceRun_of {s : State} {h : Hdr} {m : Lanes} (w : ActsOnce s h m) (f : Lanes → Act) : onceRun s h f = f m := by
  rcases w with ⟨hl, gk, g, w⟩ | ⟨hl, rfl, ck, c, w⟩
  · simp only [onceRun, hl, ↓reduceIte, atLanes_of w]
  · simp only [onceRun, hl, ↓reduceIte, atCtx_of w]

theorem onceReady_of {s : State} {h : Hdr} {m : Lanes} {n : Nat} {srcs : List (Nat × Src)} {dst : Lanes → List DUse}
    (w : OnceReady s h m n srcs (dst m)) (f : Lanes → Act) : onceReady s h n srcs dst f = f m := by
  simp only [onceReady, onceRun_of w.acts, onceChecked, w.ready]

theorem unlessPoison_of {s : State} {h : Hdr} {m : Lanes} {n : Nat} {srcs : List (Nat × Src)}
    (w : oncePoison s h m n srcs = none) (k : Unit → Act) : unlessPoison s h m n srcs k = k () := by
  simp only [unlessPoison, w]

theorem arrCheck_of {s : State} {off : Nat} (w : ArrivalOk s off) (h : Hdr) (m : Lanes) (wr : Bool) (k : Unit → Act) :
    arrCheck s h m wr off k = k () := by
  have h1 : ¬ off % 16 ≠ 0 := by simp [w.1]
  have h2 : ¬ scrSize s < off + 16 := by have := w.2; omega
  simp only [arrCheck, if_neg h1, if_neg h2]

theorem copyCmd_of {s : State} {h : Hdr} {m : Lanes} {k : CopyKind} {a b : Src} {msk : Option Src} {imm : BitVec 27} {c : Copy}
    {t : State} {ps : List (Nat × Nat)} (w : CopyOk s h m k a b msk imm c t ps) :
    copyCmd s h k a b msk imm = .next (enterCopy t h c ps) := by
  have e1 : ¬ (c.base.toNat % elSize c.ty ≠ 0 ∨ c.stride % elSize c.ty ≠ 0) := by simp [w.aligned.1, w.aligned.2.1]
  have e3 : ¬ c.arr.getD 0 % 16 ≠ 0 := by
    cases h2 : c.arr with
    | none => simp
    | some off => simpa using (w.arrival off h2).1
  have e4 : ¬ (!toPlane k && decide (scrSize s < c.other % 2 ^ 32 + c.dense)) = true := by
    rcases w.dense with h2 | h2
    · simp [h2]
    · simp; intro _; omega
  have e5 : ¬ (k = .s2s ∧ (List.range c.rows).any (fun i => decide (scrSize s < c.rowAt i + c.rowBytes)) = true) := by
    rintro ⟨h1, h2⟩
    obtain ⟨i, hi, h3⟩ := List.any_eq_true.mp h2
    have := w.rows h1 i (List.mem_range.mp hi)
    simp at h3; omega
  have e6 : ¬ (c.arr.isSome = true ∧ scrSize s < c.arr.getD 0 + 16) := by
    rintro ⟨h1, h2⟩
    cases h3 : c.arr with
    | none => simp [h3] at h1
    | some off => have := (w.arrival off h3).2; simp [h3] at h2; omega
  have e7 : ∀ n : Nat, ps.find? (fun q => n == 0x21 && redDenies t k q.2) = none := by
    intro n
    simp only [List.find?_eq_none]
    intro q hq
    simp [w.allowed q hq]
  unfold copyCmd
  simp only [onceAll, onceRun_of w.acts, w.ready, w.desc, w.form]
  simp only [Bool.false_eq_true, ↓reduceIte, if_neg e1, if_neg w.aligned.2.2, if_neg e3, if_neg e4, if_neg e5, if_neg e6, w.mapped,
    List.find?_map, Function.comp_def, e7]
  simp only [Option.map_none, w.producer, Bool.not_true, Bool.false_eq_true, ↓reduceIte]
  have e10 : (copyTo s h k msk).isNone = false := by have := w.targets; cases h2 : copyTo s h k msk <;> simp_all
  simp only [e10, w.descOk, w.clean, w.room, Bool.false_eq_true, ↓reduceIte, Bool.not_true, List.filterMap_map, Function.comp_def]
  exact congrArg (fun l => Act.next (enterCopy t h c l)) (List.filterMap_some ..)

/-! ## Transfers and words -/

theorem transfer_of {s : State} {lev : Nat} {ts : List W64} {t : State} (w : TransferOk s lev ts t) (m : Lanes) (k : State → Act) :
    transfer s lev m ts k = k t := by
  simp only [transfer, w.marked, w.inside, ↓reduceIte]

theorem onCond_of {s : State} {h : Hdr} {a : Src} {val own : Bool} {v : Option W64} (r : resolve s (Hdr.lv h) a val own = .val v false)
    {ts : Option W64 → List W64} {t : State} (w : TransferOk s (Hdr.lv h) (ts v) t) (k : State → Option W64 → Act) :
    onCond s h a val own ts k = k t v := by
  simp only [onCond, r, transfer_of w, Bool.false_eq_true, ↓reduceIte]

theorem wordGo_of {s : State} {h : Hdr} {width : Nat} {wr : Bool} {uses : List Use} {va : W64} {t : State} {pa : Nat}
    (w : WordOk s h width wr uses va t pa) (k : State → Nat → Act) : wordGo s h width wr uses va k = k t pa := by
  simp only [wordGo]
  rw [globalGo_of w.reach _ _ (by simp [w.home])]

theorem badWord_of {s : State} {h : Hdr} {width : Nat} {wr : Bool} {uses : List Use} {va : W64} {t : State} {pa : Nat}
    (w : WordOk s h width wr uses va t pa) : badWord t h pa width = none := by
  simp [badWord, w.clean]

theorem atWord_of {s : State} {h : Hdr} {m : Lanes} {srcs : List (Nat × Src)} {dst : List DUse} (w : WordReady s h m srcs dst)
    (f : Act) : atWord s h srcs dst f = f := by
  simp only [atWord, onceRun_of w.acts, w.ready]

theorem withName_of {s : State} {h : Hdr} {m : Lanes} {a : Src} {gk : Nat} {g : Group} (w : OnceReady s h m 2 [(1, a)] [])
    (k : pinGrp s = some (gk, g)) (f : Nat → Group → W64 → Act) : withName s h a f = f gk g (onceVal s h m 0 a.o) := by
  simp only [withName, onceReady_of (dst := fun _ => []) w, unlessPoison_of w.clean, k]

theorem withRing_of {s : State} {h : Hdr} {m : Lanes} {r : Nat} {x : Ring} (w : ActsOnce s h m) (k : ringOf s (bandHere s) r = some x)
    (f : Lanes → Ring → Act) : withRing s h r f = f m x := by
  simp only [withRing, onceRun_of w, k]

end Sys2Proof.Machine
end

