-- ==== Sys2Proof/Laws/WfBase.lean ====
section
/-! SUPPORT. What it means that an outcome leaves memory in canonical form, and the rules that carry it through the ways in which the
model puts steps together. -/

namespace Sys2Proof.Machine

/-- What an act leaves has its memory in canonical form. -/
@[irreducible] def ActWf (a : Act) : Prop :=
  match a with
  | .next s | .done s | .jump s _ | .stay s | .fault s _ => Memory.wf s.mem = true
  | .wait => True

/-- A state that is there has its memory in canonical form. -/
@[irreducible] def OptWf (o : Option State) : Prop := ∀ t, o = some t → Memory.wf t.mem = true

/-- A next state has its memory in canonical form. -/
@[irreducible] def OutWf (o : Host.Outcome State Fault Refusal) : Prop := ∀ t, o = .next t → Memory.wf t.mem = true

theorem act_next {s : State} (h : Memory.wf s.mem = true) : ActWf (.next s) := by unfold ActWf; exact h
theorem act_done {s : State} (h : Memory.wf s.mem = true) : ActWf (.done s) := by unfold ActWf; exact h
theorem act_jump {s : State} {a : W64} (h : Memory.wf s.mem = true) : ActWf (.jump s a) := by unfold ActWf; exact h
theorem act_stay {s : State} (h : Memory.wf s.mem = true) : ActWf (.stay s) := by unfold ActWf; exact h
theorem act_fault {s : State} {f : FaultReq} (h : Memory.wf s.mem = true) : ActWf (.fault s f) := by unfold ActWf; exact h
theorem act_wait : ActWf .wait := by unfold ActWf; trivial
theorem opt_none : OptWf none := by unfold OptWf; intro t h; cases h
theorem opt_some {s : State} (h : Memory.wf s.mem = true) : OptWf (some s) := by unfold OptWf; intro t e; cases e; exact h
theorem out_next {s : State} (h : Memory.wf s.mem = true) : OutWf (.next s) := by unfold OutWf; intro t e; cases e; exact h
theorem opt_get {r : Option State} {t : State} (h : OptWf r) (e : r = some t) : Memory.wf t.mem = true := by unfold OptWf at h; exact h t e
theorem snd_get {α : Type} {r : α × State} {a : α} {t : State} (h : Memory.wf r.2.mem = true) (e : r = (a, t)) :
    Memory.wf t.mem = true := by subst e; exact h
theorem fst_get {α : Type} {r : State × α} {a : α} {t : State} (h : Memory.wf r.1.mem = true) (e : r = (t, a)) :
    Memory.wf t.mem = true := by subst e; exact h
theorem snd3_get {α β : Type} {r : α × β × State} {a : α} {b : β} {t : State} (h : Memory.wf r.2.2.mem = true) (e : r = (a, b, t)) :
    Memory.wf t.mem = true := by subst e; exact h
/-- What an act that is there leaves has its memory in canonical form. -/
@[irreducible] def OptActWf (o : Option Act) : Prop := ∀ a, o = some a → ActWf a
theorem oa_none : OptActWf none := by unfold OptActWf; intro t h; cases h
theorem oa_some {a : Act} (h : ActWf a) : OptActWf (some a) := by unfold OptActWf; intro t e; cases e; exact h
theorem oa_get {r : Option Act} {a : Act} (h : OptActWf r) (e : r = some a) : ActWf a := by unfold OptActWf at h; exact h a e
theorem act_eq {r a : Act} (h : ActWf r) (e : r = a) : ActWf a := e ▸ h
theorem oa_orElse {a : Option Act} {f : Unit → Option Act} (h : OptActWf a) (k : ∀ x, OptActWf (f x)) : OptActWf (a.orElse f) := by
  cases a with
  | none => exact k ()
  | some s => exact h
theorem oa_map {α : Type} {o : Option α} {f : α → Act} (k : ∀ a, ActWf (f a)) : OptActWf (o.map f) := by
  cases o with
  | none => exact oa_none
  | some s => exact oa_some (k s)
theorem oa_bind {α : Type} {o : Option α} {f : α → Option Act} (k : ∀ a, OptActWf (f a)) : OptActWf (o.bind f) := by
  cases o with
  | none => exact oa_none
  | some s => exact k s
/-- What a condition's fault leaves has its memory in canonical form. -/
@[irreducible] def CondWf (c : Cond) : Prop := ∀ t f, c = .fault t f → Memory.wf t.mem = true
theorem cond_wait : CondWf .wait := by unfold CondWf; intro t f e; cases e
theorem cond_val {v : Option W64} {p : Bool} : CondWf (.val v p) := by unfold CondWf; intro t f e; cases e
theorem cond_fault {s : State} {g : FaultReq} (h : Memory.wf s.mem = true) : CondWf (.fault s g) := by
  unfold CondWf; intro t f e; cases e; exact h
theorem cond_get {c : Cond} {t : State} {f : FaultReq} (h : CondWf c) (e : c = .fault t f) : Memory.wf t.mem = true := by
  unfold CondWf at h; exact h t f e
/-- What taking in leaves has its memory in canonical form. -/
@[irreducible] def TakenWf (w : WaitRes) : Prop := ∀ t, w = .taken t → Memory.wf t.mem = true
theorem taken_cycle : TakenWf .cycle := by unfold TakenWf; intro t e; cases e
theorem taken_sleep : TakenWf .sleep := by unfold TakenWf; intro t e; cases e
theorem taken_taken {s : State} (h : Memory.wf s.mem = true) : TakenWf (.taken s) := by unfold TakenWf; intro t e; cases e; exact h
theorem taken_get {w : WaitRes} {t : State} (h : TakenWf w) (e : w = .taken t) : Memory.wf t.mem = true := by
  unfold TakenWf at h; exact h t e
/-- What a unit's issue leaves before its instruction runs has its memory in canonical form. -/
@[irreducible] def PrepWf (p : Prep) : Prop := (∀ t, p = .moved t → Memory.wf t.mem = true) ∧ ∀ i t, p = .run i t → Memory.wf t.mem = true
theorem prep_idle : PrepWf .idle := by unfold PrepWf; exact ⟨fun t e => (by cases e), fun i t e => (by cases e)⟩
theorem prep_moved {s : State} (h : Memory.wf s.mem = true) : PrepWf (.moved s) := by
  unfold PrepWf; exact ⟨fun t e => (by cases e; exact h), fun i t e => (by cases e)⟩
theorem prep_run {i : Instr} {s : State} (h : Memory.wf s.mem = true) : PrepWf (.run i s) := by
  unfold PrepWf; exact ⟨fun t e => (by cases e), fun i t e => (by cases e; exact h)⟩
theorem prep_get {p : Prep} {t : State} (h : PrepWf p) (e : p = .moved t) : Memory.wf t.mem = true := by
  unfold PrepWf at h; exact h.1 t e
theorem prep_get_run {p : Prep} {i : Instr} {t : State} (h : PrepWf p) (e : p = .run i t) : Memory.wf t.mem = true := by
  unfold PrepWf at h; exact h.2 i t e
/-- What a spawn leaves has its memory in canonical form. -/
@[irreducible] def SpawnWf (r : SpawnRes) : Prop := ∀ c t, r = .done c t → Memory.wf t.mem = true
theorem spawn_wait : SpawnWf .wait := by unfold SpawnWf; intro c t e; cases e
theorem spawn_done {c : Nat} {s : State} (h : Memory.wf s.mem = true) : SpawnWf (.done c s) := by
  unfold SpawnWf; intro c t e; cases e; exact h
theorem spawn_get {r : SpawnRes} {c : Nat} {t : State} (h : SpawnWf r) (e : r = .done c t) : Memory.wf t.mem = true := by
  unfold SpawnWf at h; exact h c t e
/-- A state beside a value that is there has its memory in canonical form. -/
@[irreducible] def OptSndWf {α : Type} (o : Option (α × State)) : Prop := ∀ a t, o = some (a, t) → Memory.wf t.mem = true
theorem oq_none {α : Type} : OptSndWf (none : Option (α × State)) := by unfold OptSndWf; intro a t h; cases h
theorem oq_some {α : Type} {a : α} {s : State} (h : Memory.wf s.mem = true) : OptSndWf (some (a, s)) := by
  unfold OptSndWf; intro a t e; cases e; exact h
theorem oq_get {α : Type} {r : Option (α × State)} {a : α} {t : State} (h : OptSndWf r) (e : r = some (a, t)) :
    Memory.wf t.mem = true := by unfold OptSndWf at h; exact h a t e
theorem oq_map {α β : Type} {o : Option α} {f : α → β × State} (k : ∀ a, Memory.wf (f a).2.mem = true) : OptSndWf (o.map f) := by
  cases o with
  | none => exact oq_none
  | some s => exact oq_some (k s)
theorem oq_bind {α β : Type} {o : Option α} {f : α → Option (β × State)} (k : ∀ a, OptSndWf (f a)) : OptSndWf (o.bind f) := by
  cases o with
  | none => exact oq_none
  | some s => exact k s
/-- What a step of a push leaves has its memory in canonical form. -/
@[irreducible] def PushWf (r : PushRes) : Prop :=
  (∀ p t, r = .goes p t → Memory.wf t.mem = true) ∧ ∀ t, r = .finished t → Memory.wf t.mem = true
theorem push_bad : PushWf .bad := by unfold PushWf; exact ⟨fun p t e => (by cases e), fun t e => (by cases e)⟩
theorem push_goes {p : Option (Nat × Bool)} {s : State} (h : Memory.wf s.mem = true) : PushWf (.goes p s) := by
  unfold PushWf; exact ⟨fun p t e => (by cases e; exact h), fun t e => (by cases e)⟩
theorem push_finished {s : State} (h : Memory.wf s.mem = true) : PushWf (.finished s) := by
  unfold PushWf; exact ⟨fun p t e => (by cases e), fun t e => (by cases e; exact h)⟩
theorem push_get_goes {r : PushRes} {p : Option (Nat × Bool)} {t : State} (h : PushWf r) (e : r = .goes p t) :
    Memory.wf t.mem = true := by unfold PushWf at h; exact h.1 p t e
theorem push_get_finished {r : PushRes} {t : State} (h : PushWf r) (e : r = .finished t) : Memory.wf t.mem = true := by
  unfold PushWf at h; exact h.2 t e
/-- What a step of a retry leaves has its memory in canonical form. -/
@[irreducible] def RetryWf (r : RetryRes) : Prop :=
  (∀ t, r = .ended t → Memory.wf t.mem = true) ∧ ∀ p t, r = .goes p t → Memory.wf t.mem = true
theorem retry_ended {s : State} (h : Memory.wf s.mem = true) : RetryWf (.ended s) := by
  unfold RetryWf; exact ⟨fun t e => (by cases e; exact h), fun p t e => (by cases e)⟩
theorem retry_goes {p : Nat × Bool} {s : State} (h : Memory.wf s.mem = true) : RetryWf (.goes p s) := by
  unfold RetryWf; exact ⟨fun t e => (by cases e), fun p t e => (by cases e; exact h)⟩
theorem retry_get_ended {r : RetryRes} {t : State} (h : RetryWf r) (e : r = .ended t) : Memory.wf t.mem = true := by
  unfold RetryWf at h; exact h.1 t e
theorem retry_get_goes {r : RetryRes} {p : Nat × Bool} {t : State} (h : RetryWf r) (e : r = .goes p t) : Memory.wf t.mem = true := by
  unfold RetryWf at h; exact h.2 p t e
theorem pair2 {α : Type} {a : α} {b : State} (h : Memory.wf b.mem = true) : Memory.wf (a, b).2.mem = true := h
theorem pair1 {α : Type} {a : State} {b : α} (h : Memory.wf a.mem = true) : Memory.wf (a, b).1.mem = true := h
theorem pair3 {α β : Type} {a : α} {b : β} {c : State} (h : Memory.wf c.mem = true) : Memory.wf (a, b, c).2.2.mem = true := h
theorem act_get {r : Act} {t : State} (h : ActWf r) (e : r = .next t) : Memory.wf t.mem = true := by subst e; unfold ActWf at h; exact h
theorem act_get_done {r : Act} {t : State} (h : ActWf r) (e : r = .done t) : Memory.wf t.mem = true := by
  subst e; unfold ActWf at h; exact h
theorem act_get_jump {r : Act} {t : State} {a : W64} (h : ActWf r) (e : r = .jump t a) : Memory.wf t.mem = true := by
  subst e; unfold ActWf at h; exact h
theorem act_get_stay {r : Act} {t : State} (h : ActWf r) (e : r = .stay t) : Memory.wf t.mem = true := by
  subst e; unfold ActWf at h; exact h
theorem act_get_fault {r : Act} {t : State} {f : FaultReq} (h : ActWf r) (e : r = .fault t f) : Memory.wf t.mem = true := by
  subst e; unfold ActWf at h; exact h
theorem oa_fault {r : Option Act} {t : State} {f : FaultReq} (h : OptActWf r) (e : r = some (.fault t f)) : Memory.wf t.mem = true :=
  act_get_fault (oa_get h e) rfl
theorem act_ite {p : Prop} [Decidable p] {a b : Act} (h : ActWf a) (k : ActWf b) : ActWf (if p then a else b) := by
  split <;> assumption
theorem wf_have {a : State} {P : Prop} (h : Memory.wf a.mem = true) (k : Memory.wf a.mem = true → P) : P := k h
theorem wf_foldl {α : Type} {f : State → α → State} {l : List α} {s : State} (h : Memory.wf s.mem = true)
    (k : ∀ s a, Memory.wf s.mem = true → Memory.wf (f s a).mem = true) : Memory.wf (l.foldl f s).mem = true := by
  induction l generalizing s with
  | nil => exact h
  | cons a r ih => exact ih (k s a h)

theorem wf_foldl_eq {α : Type} {f : State → α → State} {l : List α} {s : State} (h : Memory.wf s.mem = true)
    (k : ∀ s a r, Memory.wf s.mem = true → f s a = r → Memory.wf r.mem = true) : Memory.wf (l.foldl f s).mem = true := by
  induction l generalizing s with
  | nil => exact h
  | cons a r ih => exact ih (k s a _ h rfl)
theorem wf_of_eq {x : State} (k : ∀ r, x = r → Memory.wf r.mem = true) : Memory.wf x.mem = true := k x rfl
theorem wf_host {s : State} {r : HostRegs} (h : Memory.wf s.mem = true) : Memory.wf ({ s with host := r } : State).mem = true := h
theorem opt_foldl {α : Type} {f : Option State → α → Option State} {l : List α} {o : Option State} (h : OptWf o)
    (k : ∀ o a, OptWf o → OptWf (f o a)) : OptWf (l.foldl f o) := by
  induction l generalizing o with
  | nil => exact h
  | cons a r ih => exact ih (k o a h)
theorem opt_bind {o : Option State} {f : State → Option State} (h : OptWf o) (k : ∀ s, Memory.wf s.mem = true → OptWf (f s)) :
    OptWf (o.bind f) := by
  cases o with
  | none => exact opt_none
  | some s => exact k s (opt_get h rfl)
theorem opt_map {o : Option State} {f : State → State} (h : OptWf o) (k : ∀ s, Memory.wf s.mem = true → Memory.wf (f s).mem = true) :
    OptWf (o.map f) := by
  cases o with
  | none => exact opt_none
  | some s => exact opt_some (k s (opt_get h rfl))
theorem opt_map' {α : Type} {o : Option α} {f : α → State} (k : ∀ a, Memory.wf (f a).mem = true) : OptWf (o.map f) := by
  cases o with
  | none => exact opt_none
  | some s => exact opt_some (k s)
theorem opt_bind' {α : Type} {o : Option α} {f : α → Option State} (k : ∀ a, OptWf (f a)) : OptWf (o.bind f) := by
  cases o with
  | none => exact opt_none
  | some s => exact k s
theorem opt_findSome {α : Type} {l : List α} {f : α → Option State} (k : ∀ a, OptWf (f a)) : OptWf (l.findSome? f) := by
  induction l with
  | nil => exact opt_none
  | cons a r ih =>
    simp only [List.findSome?_cons]
    split
    · exact opt_some (opt_get (k a) (by assumption))
    · exact ih
theorem opt_getD {o : Option State} {s : State} (h : OptWf o) (k : Memory.wf s.mem = true) : Memory.wf (o.getD s).mem = true := by
  cases o with
  | none => exact k
  | some t => exact opt_get h rfl
theorem fst_foldl {α β : Type} {f : State × β → α → State × β} {l : List α} {x : State × β} (h : Memory.wf x.1.mem = true)
    (k : ∀ x a, Memory.wf x.1.mem = true → Memory.wf (f x a).1.mem = true) : Memory.wf (l.foldl f x).1.mem = true := by
  induction l generalizing x with
  | nil => exact h
  | cons a r ih => exact ih (k x a h)
theorem snd_foldl {α β : Type} {f : β × State → α → β × State} {l : List α} {x : β × State} (h : Memory.wf x.2.mem = true)
    (k : ∀ x a, Memory.wf x.2.mem = true → Memory.wf (f x a).2.mem = true) : Memory.wf (l.foldl f x).2.mem = true := by
  induction l generalizing x with
  | nil => exact h
  | cons a r ih => exact ih (k x a h)
theorem snd3_foldl {α β γ : Type} {f : β × γ × State → α → β × γ × State} {l : List α} {x : β × γ × State}
    (h : Memory.wf x.2.2.mem = true) (k : ∀ x a, Memory.wf x.2.2.mem = true → Memory.wf (f x a).2.2.mem = true) :
    Memory.wf (l.foldl f x).2.2.mem = true := by
  induction l generalizing x with
  | nil => exact h
  | cons a r ih => exact ih (k x a h)

theorem act_lanes {m : Lanes} {a : Act} (h : ActWf a) : ActWf (a.lanes m) := by
  unfold ActWf at h ⊢
  cases a <;> exact h
theorem out_get {o : Host.Outcome State Fault Refusal} {t : State} (h : OutWf o) (e : o = .next t) : Memory.wf t.mem = true := by
  unfold OutWf at h; exact h t e
theorem oq_pair {α β : Type} {o : Option (α × State)} {f : α × State → β × State} (h : OptSndWf o)
    (k : ∀ a s, Memory.wf s.mem = true → Memory.wf (f (a, s)).2.mem = true) : OptSndWf (o.map f) := by
  cases o with
  | none => exact oq_none
  | some p => obtain ⟨a, s⟩ := p; exact oq_some (k a s (oq_get h rfl))
theorem opt_pair {α : Type} {o : Option (α × State)} {f : α × State → State} (h : OptSndWf o)
    (k : ∀ a s, Memory.wf s.mem = true → Memory.wf (f (a, s)).mem = true) : OptWf (o.map f) := by
  cases o with
  | none => exact opt_none
  | some p => obtain ⟨a, s⟩ := p; exact opt_some (k a s (oq_get h rfl))
theorem opt_nth {α : Type} {l : List α} {f : α → Option State} {n : Nat} (k : ∀ a, OptWf (f a)) : OptWf (nth? (l.filterMap f) n) := by
  unfold OptWf
  intro t e
  obtain ⟨a, -, ha⟩ := List.mem_filterMap.mp (List.mem_of_getElem? e)
  exact opt_get (k a) ha
theorem oa_getD {o : Option Act} {a : Act} (h : OptActWf o) (k : ActWf a) : ActWf (o.getD a) := by
  cases o with
  | none => exact k
  | some t => exact oa_get h rfl
theorem wf_eq {a b : State} (h : Memory.wf a.mem = true) (e : a = b) : Memory.wf b.mem = true := e ▸ h
theorem opt_map_eq {o : Option State} {f : State → State} (h : OptWf o)
    (k : ∀ s r, Memory.wf s.mem = true → f s = r → Memory.wf r.mem = true) : OptWf (o.map f) := by
  cases o with
  | none => exact opt_none
  | some s => exact opt_some (k s _ (opt_get h rfl) rfl)

end Sys2Proof.Machine
end

