-- ==== Sys2Proof/Laws/WfOps.lean ====
section
/-! SUPPORT. Every shared operation keeps the canonical form of memory, one lemma each. -/

namespace Sys2Proof.Machine

theorem wf_updLaunch (s : State) (gc : ℕ) (f : Launch → Launch) (hs : Memory.wf s.mem = true) :
    Memory.wf (State.updLaunch s gc f).mem = true := by
  unfold State.updLaunch
  repeat' first | with_reducible assumption

theorem wf_updCtx (s : State) (ck : ℕ) (f : Ctx → Ctx) (hs : Memory.wf s.mem = true) :
    Memory.wf (State.updCtx s ck f).mem = true := by
  unfold State.updCtx
  repeat' first | with_reducible assumption

theorem wf_updGrp (s : State) (gk : ℕ) (f : Group → Group) (hs : Memory.wf s.mem = true) :
    Memory.wf (State.updGrp s gk f).mem = true := by
  unfold State.updGrp
  repeat' first | with_reducible assumption

theorem wf_updBand (s : State) (bk : ℕ) (f : Band → Band) (hs : Memory.wf s.mem = true) :
    Memory.wf (State.updBand s bk f).mem = true := by
  unfold State.updBand
  repeat' first | with_reducible assumption

theorem wf_updCore (s : State) (c : ℕ) (f : Core → Core) (hs : Memory.wf s.mem = true) :
    Memory.wf (State.updCore s c f).mem = true := by
  unfold State.updCore
  repeat' first | with_reducible assumption

theorem wf_updCluster (s : State) (c : ℕ) (f : Cluster → Cluster) (hs : Memory.wf s.mem = true) :
    Memory.wf (State.updCluster s c f).mem = true := by
  unfold State.updCluster
  repeat' first | with_reducible assumption

theorem wf_updDie (s : State) (d : ℕ) (f : Cluster → Cluster) (hs : Memory.wf s.mem = true) :
    Memory.wf (State.updDie s d f).mem = true := by
  unfold State.updDie
  repeat' first | with_reducible assumption

theorem wf_tick1 (s : State) (hs : Memory.wf s.mem = true) :
    Memory.wf (State.tick1 s).mem = true := by
  unfold State.tick1
  repeat' first | with_reducible assumption

theorem wf_bankEvent (s : State) (b : ℕ) (cls : ℕ) (act : ℕ) (code : ℕ) (src : ℕ) (addr : W64) (misc0 : W64) (misc1 : W64)
    (hs : Memory.wf s.mem = true) :
    Memory.wf (State.bankEvent s b cls act code src addr misc0 misc1).mem = true := by
  unfold State.bankEvent
  repeat' first | with_reducible assumption | (extract_lets +onlyGivenNames x; subst x) | dsimp -zeta only | split

theorem wf_bankClear (s : State) (b : ℕ) (hs : Memory.wf s.mem = true) :
    Memory.wf (State.bankClear s b).mem = true := by
  unfold State.bankClear
  repeat' first | with_reducible assumption

theorem wf_sectorEvent (s : State) (pa : ℕ) (hs : Memory.wf s.mem = true) :
    Memory.wf (sectorEvent s pa).mem = true := by
  unfold sectorEvent
  repeat' first
    | with_reducible assumption | with_reducible apply wf_bankEvent | (extract_lets +onlyGivenNames x; subst x)
    | dsimp -zeta only | split

theorem wf_sectorEvents (s : State) (pa : ℕ) (n : ℕ) (hs : Memory.wf s.mem = true) :
    Memory.wf (sectorEvents s pa n).mem = true := by
  unfold sectorEvents
  repeat' first | with_reducible assumption | intro _ | with_reducible apply wf_sectorEvent | with_reducible apply wf_foldl

theorem wf_poisonSec (s : State) (k : ℕ) (hs : Memory.wf s.mem = true) :
    Memory.wf (poisonSec s k).mem = true := by
  unfold poisonSec
  repeat' first | with_reducible assumption

theorem wf_clearSec (s : State) (k : ℕ) (hs : Memory.wf s.mem = true) :
    Memory.wf (clearSec s k).mem = true := by
  unfold clearSec
  repeat' first | with_reducible assumption

theorem wf_softHits (s : State) (b : ℕ) (hs : Memory.wf s.mem = true) :
    Memory.wf (softHits s b).mem = true := by
  unfold softHits
  repeat' first | with_reducible assumption | intro _ | with_reducible apply wf_bankEvent | with_reducible apply wf_foldl | split

theorem wf_cellarHit (s : State) (u : Upset) (hs : Memory.wf s.mem = true) :
    Memory.wf (cellarHit s u).mem = true := by
  unfold cellarHit
  repeat' first
    | with_reducible assumption | with_reducible apply wf_poisonSec | with_reducible apply wf_bankEvent
    | (extract_lets +onlyGivenNames x; subst x) | split

theorem wf_readCheck (s : State) (pa : ℕ) (n : ℕ) (hs : Memory.wf s.mem = true) :
    Memory.wf (readCheck s pa n).2.mem = true := by
  unfold readCheck
  repeat' first
    | with_reducible assumption | intro _ | with_reducible apply wf_cellarHit | with_reducible apply wf_softHits
    | with_reducible apply wf_sectorEvents | with_reducible apply wf_foldl

theorem wf_ovfScan (s : State) (pa : ℕ) (n : ℕ) (hs : Memory.wf s.mem = true) :
    Memory.wf (ovfScan s pa n).mem = true := by
  unfold ovfScan
  repeat' first | with_reducible assumption

theorem wf_homeBytes (s : State) (pa : ℕ) (bs : List Byte) (hs : Memory.wf s.mem = true) :
    Memory.wf (homeBytes s pa bs).mem = true := by
  unfold homeBytes
  exact wf_ovfScan _ _ _ (memWrite_wf _ _ _ hs)

theorem wf_homeWrite (s : State) (pa : ℕ) (bs : List Byte) (poi : Bool) (hs : Memory.wf s.mem = true) :
    Memory.wf (homeWrite s pa bs poi).mem = true := by
  unfold homeWrite
  extract_lets n secs whole t
  have ht : Memory.wf t.mem = true := wf_homeBytes _ _ _ hs
  clear_value t secs
  refine wf_foldl ht ?_
  intro t a h
  have g : Memory.wf (if whole a then t else sectorEvent t (32 * a)).mem = true := by
    split
    · exact h
    · exact wf_sectorEvent _ _ h
  dsimp only
  generalize (if whole a = true then t else sectorEvent t (32 * a)) = u at g ⊢
  split
  · exact wf_poisonSec _ _ g
  · split
    · exact wf_clearSec _ _ g
    · exact g

theorem wf_homePut (s : State) (pa : ℕ) (n : ℕ) (v : ℕ) (hs : Memory.wf s.mem = true) :
    Memory.wf (homePut s pa n v).mem = true := by
  unfold homePut
  repeat' first | with_reducible assumption | with_reducible apply wf_homeWrite

theorem wf_devWrite (s : State) (pa : ℕ) (bs : List Byte) (poi : Bool) (hs : Memory.wf s.mem = true) :
    Memory.wf (devWrite s pa bs poi).mem = true := by
  unfold devWrite
  repeat' first | with_reducible assumption | with_reducible apply wf_homeWrite | split

theorem wf_devPut (s : State) (pa : ℕ) (n : ℕ) (v : ℕ) (hs : Memory.wf s.mem = true) :
    Memory.wf (devPut s pa n v).mem = true := by
  unfold devPut
  repeat' first | with_reducible assumption | with_reducible apply wf_devWrite

theorem wf_entryCheck (s : State) (ea : ℕ) (hs : Memory.wf s.mem = true) :
    Memory.wf (entryCheck s ea).2.mem = true := by
  unfold entryCheck
  repeat' first
    | with_reducible assumption | with_reducible apply wf_readCheck | with_reducible apply wf_bankEvent | dsimp -zeta only
    | split

theorem wf_walkFrom (s : State) (space : ℕ) (va : ℕ) (a3 : ℕ) (a4 : ℕ) (a5 : ℕ) (hs : Memory.wf s.mem = true) :
    Memory.wf (walkFrom s space va a3 a4 a5).2.mem = true := by
  induction a3 generalizing a4 a5 s with
  | zero => exact hs
  | succ k ih =>
    unfold walkFrom
    have h := wf_entryCheck s (a5 + 8 * pteIndex a4 va) hs
    dsimp only
    repeat' split
    all_goals first | exact h | exact ih _ _ _ h

theorem wf_walk (s : State) (space : ℕ) (top : ℕ) (va : ℕ) (hs : Memory.wf s.mem = true) :
    Memory.wf (walk s space top va).2.mem = true := by
  unfold walk
  repeat' first | with_reducible assumption | with_reducible apply wf_walkFrom | split

theorem wf_walked (s : State) (space : ℕ) (top : ℕ) (va : ℕ) (hs : Memory.wf s.mem = true) :
    Memory.wf (walked s space top va).mem = true := by
  unfold walked
  repeat' first | with_reducible assumption | with_reducible apply wf_walk

theorem wf_tlbForget (s : State) (pl : Place) (space : ℕ) (va : ℕ) (hs : Memory.wf s.mem = true) :
    Memory.wf (tlbForget s pl space va).mem = true := by
  unfold tlbForget
  repeat' first
    | with_reducible assumption | with_reducible apply wf_updCore | with_reducible apply wf_updCluster
    | (extract_lets +onlyGivenNames x; subst x) | dsimp -zeta only | split

theorem wf_count (s : State) (core : ℕ) (ev : ℕ) (n : ℕ) (hs : Memory.wf s.mem = true) :
    Memory.wf (State.count s core ev n).mem = true := by
  unfold State.count
  repeat' first | with_reducible assumption | with_reducible apply wf_updCore

theorem wf_leafUse (s : State) (pl : Place) (inCore : Bool) (inClus : Bool) (space : ℕ) (e : TlbEnt) (va : ℕ) (need : Need)
    (priv : Bool) (hs : Memory.wf s.mem = true) :
    Memory.wf (leafUse s pl inCore inClus space e va need priv).2.mem = true := by
  unfold leafUse
  repeat' first
    | with_reducible assumption | with_reducible apply wf_updCore | with_reducible apply wf_updCluster
    | with_reducible apply wf_tlbForget | (extract_lets +onlyGivenNames x; subst x) | dsimp -zeta only | split

theorem wf_countMiss (s : State) (pl : Place) (hs : Memory.wf s.mem = true) :
    Memory.wf (countMiss s pl).mem = true := by
  unfold countMiss
  repeat' first | with_reducible assumption | with_reducible apply wf_count | split

theorem wf_translate (s : State) (pl : Place) (space : ℕ) (top : ℕ) (va : ℕ) (need : Need) (priv : Bool)
    (hs : Memory.wf s.mem = true) :
    Memory.wf (translate s pl space top va need priv).2.mem = true := by
  unfold translate
  repeat' first
    | with_reducible assumption | with_reducible apply wf_leafUse | with_reducible apply wf_countMiss
    | with_reducible apply wf_walk | with_reducible apply wf_tlbForget | dsimp -zeta only | split
    | (refine snd_get ?_ (by assumption))

theorem wf_tlbDropAll (s : State) (p : TlbEnt → Bool) (hs : Memory.wf s.mem = true) :
    Memory.wf (tlbDropAll s p).mem = true := by
  unfold tlbDropAll
  repeat' first | with_reducible assumption

theorem wf_setLines (s : State) (pl : Place) (ls : List LineEnt) (hs : Memory.wf s.mem = true) :
    Memory.wf (setLines s pl ls).mem = true := by
  unfold setLines
  repeat' first
    | with_reducible assumption | with_reducible apply wf_updCore | with_reducible apply wf_updCluster
    | with_reducible apply wf_updDie | split

theorem wf_spendHit (s : State) (a1 : Option Upset) (hs : Memory.wf s.mem = true) :
    Memory.wf (spendHit s a1).mem = true := by
  unfold spendHit
  split <;> exact hs

theorem wf_refetched (s : State) (pl : Place) (pa : ℕ) (who : W64) (hs : Memory.wf s.mem = true) :
    Memory.wf (refetched s pl pa who).mem = true := by
  unfold refetched
  repeat' first | with_reducible assumption | with_reducible apply wf_bankEvent | with_reducible apply wf_count | split

theorem wf_keepLine (s : State) (pl : Place) (space : ℕ) (va : ℕ) (l : BitVec 512) (hs : Memory.wf s.mem = true) :
    Memory.wf (keepLine s pl space va l).mem = true := by
  unfold keepLine
  repeat' first | with_reducible assumption | with_reducible apply wf_setLines

theorem wf_lineBytes (s : State) (pa : ℕ) (hs : Memory.wf s.mem = true) :
    Memory.wf (lineBytes s pa).2.mem = true := by
  unfold lineBytes
  repeat' first | with_reducible assumption | with_reducible apply wf_tick1 | split

theorem wf_checkLine (s : State) (pl : Place) (space : ℕ) (va : ℕ) (l : BitVec 512) (hs : Memory.wf s.mem = true) :
    Memory.wf (checkLine s pl space va l).2.mem = true := by
  unfold checkLine
  repeat' first | with_reducible assumption | with_reducible apply wf_keepLine | split

theorem wf_takeAgain (s : State) (pl : Place) (space : ℕ) (va : ℕ) (pa : ℕ) (who : W64) (hit : Option Upset)
    (hs : Memory.wf s.mem = true) :
    Memory.wf (takeAgain s pl space va pa who hit).2.mem = true := by
  have h := wf_spendHit _ hit (wf_lineBytes s pa hs)
  rw [takeAgain]
  split
  · exact h
  · exact wf_checkLine _ _ _ _ _ (wf_refetched _ _ _ _ h)

theorem wf_takeLine (s : State) (pl : Place) (space : ℕ) (va : ℕ) (pa : ℕ) (who : W64) (hs : Memory.wf s.mem = true) :
    Memory.wf (takeLine s pl space va pa who).2.mem = true := by
  have h := wf_lineBytes s pa hs
  rw [takeLine]
  split
  · exact wf_checkLine _ _ _ _ _ h
  · exact wf_takeAgain _ _ _ _ _ _ _ h

theorem wf_fillFrom (s : State) (pl : Place) (space : ℕ) (va : ℕ) (pa : ℕ) (who : W64) (hs : Memory.wf s.mem = true) :
    Memory.wf (fillFrom s pl space va pa who).2.mem = true := by
  unfold fillFrom
  repeat' first
    | with_reducible assumption | with_reducible apply wf_readCheck | with_reducible apply wf_takeLine
    | (extract_lets +onlyGivenNames x; subst x) | split

theorem wf_fillLine (s : State) (pl : Place) (gc : ℕ) (va : ℕ) (hs : Memory.wf s.mem = true) :
    Memory.wf (fillLine s pl gc va).2.mem = true := by
  unfold fillLine
  repeat' first
    | with_reducible assumption | with_reducible apply wf_translate | with_reducible apply wf_fillFrom
    | (extract_lets +onlyGivenNames x; subst x) | dsimp -zeta only | split | (refine snd_get ?_ (by assumption))

theorem wf_fetchLine (s : State) (pl : Place) (gc : ℕ) (ia : W64) (hs : Memory.wf s.mem = true) :
    Memory.wf (fetchLine s pl gc ia).2.mem = true := by
  unfold fetchLine
  repeat' first | with_reducible assumption | with_reducible apply wf_fillLine | (extract_lets +onlyGivenNames x; subst x) | split

theorem wf_checkTgt (s : State) (pl : Place) (gc : ℕ) (ia : W64) (hs : Memory.wf s.mem = true) :
    Memory.wf (checkTgt s pl gc ia).2.mem = true := by
  unfold checkTgt
  repeat' first
    | with_reducible assumption | with_reducible apply wf_fetchLine | dsimp -zeta only | split
    | (refine snd_get ?_ (by assumption))

theorem wf_checkTgts (s : State) (pl : Place) (gc : ℕ) (a3 : List W64) (hs : Memory.wf s.mem = true) :
    Memory.wf (checkTgts s pl gc a3).2.mem = true := by
  induction a3 generalizing s with
  | nil => exact hs
  | cons a r ih =>
    unfold checkTgts
    split
    · exact ih _ (snd_get (wf_checkTgt _ _ _ _ hs) (by assumption))
    · exact snd_get (wf_checkTgt _ _ _ _ hs) (by assumption)
    · have h := ih _ (snd_get (wf_checkTgt _ _ _ _ hs) (by assumption))
      split
      · exact snd_get h (by assumption)
      · exact snd_get h (by assumption)

theorem wf_wakeOvf (s : State) (pa : ℕ) (hs : Memory.wf s.mem = true) :
    Memory.wf (wakeOvf s pa).mem = true := by
  unfold wakeOvf
  repeat' first | with_reducible assumption

theorem wf_futPut (s : State) (pa : ℕ) (f : Fut) (hs : Memory.wf s.mem = true) :
    Memory.wf (futPut s pa f).mem = true := by
  unfold futPut
  repeat' first | with_reducible assumption | with_reducible apply wf_wakeOvf | with_reducible apply wf_devWrite

theorem wf_unregister (s : State) (p : Wake → Bool) (hs : Memory.wf s.mem = true) :
    Memory.wf (unregister s p).mem = true := by
  unfold unregister
  repeat' first
    | with_reducible assumption | intro _ | with_reducible apply wf_wakeOvf | with_reducible apply wf_futPut
    | with_reducible apply wf_foldl

theorem wf_virtWrite (s : State) (gc : ℕ) (va : ℕ) (bs : List Byte) (poi : Bool) (hs : Memory.wf s.mem = true) :
    OptWf (virtWrite s gc va bs poi) := by
  unfold virtWrite
  repeat' first
    | with_reducible assumption | intro _ | with_reducible apply opt_none | with_reducible apply opt_some
    | with_reducible apply wf_devWrite | with_reducible apply opt_foldl | with_reducible apply opt_bind
    | (extract_lets +onlyGivenNames x; subst x) | split

theorem wf_virtTried (s : State) (gc : ℕ) (va : ℕ) (hs : Memory.wf s.mem = true) :
    Memory.wf (virtTried s gc va).mem = true := by
  unfold virtTried
  repeat' first | with_reducible assumption | with_reducible apply wf_walked

theorem wf_virtFailed (s : State) (gc : ℕ) (va : ℕ) (n : ℕ) (need : Need) (hs : Memory.wf s.mem = true) :
    Memory.wf (virtFailed s gc va n need).mem = true := by
  unfold virtFailed
  repeat' first | with_reducible assumption | with_reducible apply wf_virtTried | split

theorem wf_fatal (s : State) (hs : Memory.wf s.mem = true) :
    Memory.wf (fatal s).mem = true := by
  unfold fatal
  repeat' first | with_reducible assumption

theorem wf_addAcc (s : State) (a : Access) (hs : Memory.wf s.mem = true) :
    Memory.wf (State.addAcc s a).mem = true := by
  unfold State.addAcc
  repeat' first | with_reducible assumption

theorem wf_addAccs (s : State) (l : List Access) (hs : Memory.wf s.mem = true) :
    Memory.wf (State.addAccs s l).mem = true := by
  unfold State.addAccs
  repeat' first | with_reducible assumption | intro _ | with_reducible apply wf_foldl

theorem wf_spillRec (s : State) (gk : ℕ) (i : ℕ) (r : Rec) (hs : Memory.wf s.mem = true) :
    Memory.wf (spillRec s gk i r).mem = true := by
  unfold spillRec
  repeat' first
    | with_reducible assumption | with_reducible apply wf_updGrp | with_reducible apply wf_virtWrite
    | with_reducible apply wf_fatal | with_reducible apply wf_virtTried | with_reducible apply opt_getD | split

theorem wf_reloadRec (s : State) (gk : ℕ) (i : ℕ) (r : Rec) (hs : Memory.wf s.mem = true) :
    Memory.wf (reloadRec s gk i r).mem = true := by
  unfold reloadRec
  repeat' first
    | with_reducible assumption | with_reducible apply wf_fatal | with_reducible apply wf_virtTried
    | with_reducible apply wf_updGrp | split

theorem wf_balanceRecs (a0 : ℕ) (a1 : State) (a2 : ℕ) (ha1 : Memory.wf a1.mem = true) :
    Memory.wf (balanceRecs a0 a1 a2).mem = true := by
  induction a0 generalizing a1 with
  | zero => exact ha1
  | succ n ih =>
    unfold balanceRecs
    split
    · exact ha1
    · extract_lets here
      clear_value here
      split
      · split
        · exact ih _ (wf_spillRec _ _ _ _ ha1)
        · exact ha1
      · split
        · split
          · exact ih _ (wf_reloadRec _ _ _ _ ha1)
          · exact ha1
        · exact ha1

theorem wf_putTable (s : State) (gk : ℕ) (sp : List (Option Split)) (recs : Tab Rec) (hs : Memory.wf s.mem = true) :
    Memory.wf (putTable s gk sp recs).mem = true := by
  unfold putTable
  repeat' first
    | with_reducible assumption | intro _ | with_reducible apply wf_updGrp | with_reducible apply wf_balanceRecs
    | with_reducible apply wf_spillRec | with_reducible apply wf_foldl | (extract_lets +onlyGivenNames x; subst x) | split

theorem wf_settle (s : State) (gk : ℕ) (hs : Memory.wf s.mem = true) :
    Memory.wf (settle s gk).mem = true := by
  unfold settle
  repeat' first
    | with_reducible assumption | intro _ | with_reducible apply wf_putTable | with_reducible apply wf_addAcc
    | with_reducible apply wf_foldl | dsimp -zeta only | split

theorem wf_toHost (s : State) (rcd : List Byte) (k : FbKind) (hs : Memory.wf s.mem = true) :
    Memory.wf (toHost s rcd k).mem = true := by
  unfold toHost
  repeat' first | with_reducible assumption

theorem wf_dropDests (s : State) (p : Dest → Bool) (hs : Memory.wf s.mem = true) :
    Memory.wf (dropDests s p).mem = true := by
  unfold dropDests
  repeat' first | with_reducible assumption

theorem wf_freeChain (s : State) (bks : List ℕ) (hs : Memory.wf s.mem = true) :
    Memory.wf (freeChain s bks).mem = true := by
  unfold freeChain
  repeat' first | with_reducible assumption

theorem wf_clearBand (s : State) (gc : ℕ) (b : ℕ) (st : BandSt) (hs : Memory.wf s.mem = true) :
    Memory.wf (clearBand s gc b st).mem = true := by
  unfold clearBand
  repeat' first
    | with_reducible assumption | with_reducible apply wf_freeChain | with_reducible apply wf_updCore
    | with_reducible apply wf_updBand | split

theorem wf_killPins (s : State) (gc : ℕ) (b : ℕ) (hs : Memory.wf s.mem = true) :
    Memory.wf (killPins s gc b).mem = true := by
  unfold killPins
  repeat' first | with_reducible assumption

theorem wf_endBand (s : State) (gc : ℕ) (b : ℕ) (st : BandSt) (hs : Memory.wf s.mem = true) :
    Memory.wf (endBand s gc b st).mem = true := by
  unfold endBand
  repeat' first
    | with_reducible assumption | with_reducible apply wf_clearBand | with_reducible apply wf_dropDests
    | with_reducible apply wf_killPins

theorem wf_stopLaunch (s : State) (gc : ℕ) (out : ℕ) (code : ℕ) (hs : Memory.wf s.mem = true) :
    Memory.wf (stopLaunch s gc out code).mem = true := by
  unfold stopLaunch
  repeat' first
    | with_reducible assumption | intro _ | with_reducible apply wf_endBand | with_reducible apply wf_updLaunch
    | with_reducible apply wf_unregister | with_reducible apply wf_foldl

theorem wf_abortLaunch (s : State) (u : UnitRef) (f : FaultReq) (ia : W64) (insn : Insn) (seq : ℕ) (hs : Memory.wf s.mem = true) :
    Memory.wf (abortLaunch s u f ia insn seq).mem = true := by
  unfold abortLaunch
  repeat' first
    | with_reducible assumption | with_reducible apply wf_homeWrite | with_reducible apply wf_toHost
    | with_reducible apply wf_virtFailed | with_reducible apply wf_stopLaunch | split

theorem wf_readyAdd (s : State) (what : ReadyItem) (prio : ℕ) (hs : Memory.wf s.mem = true) :
    Memory.wf (readyAdd s what prio).mem = true := by
  unfold readyAdd
  repeat' first | with_reducible assumption

theorem wf_killUnit (s : State) (u : UnitRef) (f : FaultReq) (ia : W64) (insn : Insn) (seq : ℕ) (hs : Memory.wf s.mem = true) :
    Memory.wf (killUnit s u f ia insn seq).mem = true := by
  unfold killUnit
  repeat' first
    | with_reducible assumption | intro _ | with_reducible apply wf_abortLaunch | with_reducible apply wf_updBand
    | with_reducible apply wf_foldl | (extract_lets +onlyGivenNames x; subst x) | split

theorem wf_contain (s : State) (u : UnitRef) (f : FaultReq) (ia : W64) (insn : Insn) (seq : ℕ) (src : ℕ)
    (hs : Memory.wf s.mem = true) :
    Memory.wf (contain s u f ia insn seq src).mem = true := by
  unfold contain
  repeat' first
    | with_reducible assumption | intro _ | with_reducible apply wf_bankEvent | with_reducible apply wf_updGrp
    | with_reducible apply wf_killUnit | with_reducible apply wf_foldl | (extract_lets +onlyGivenNames x; subst x)
    | dsimp -zeta only | split

theorem wf_restartGroup (s : State) (gk : ℕ) (hs : Memory.wf s.mem = true) :
    Memory.wf (restartGroup s gk).mem = true := by
  unfold restartGroup
  repeat' first | with_reducible assumption | with_reducible apply wf_updCore | with_reducible apply wf_updGrp | split

theorem wf_requestPark (s : State) (gc : ℕ) (b : ℕ) (cause : ℕ) (byUnit : Bool) (hs : Memory.wf s.mem = true) :
    Memory.wf (requestPark s gc b cause byUnit).mem = true := by
  unfold requestPark
  repeat' first
    | with_reducible assumption | intro _ | with_reducible apply wf_updBand | with_reducible apply wf_updGrp
    | with_reducible apply wf_foldl | (extract_lets +onlyGivenNames x; subst x) | split

theorem wf_debugStop (s : State) (gc : ℕ) (b : ℕ) (w : Option (UnitRef × ℕ)) (ia : W64) (hs : Memory.wf s.mem = true) :
    Memory.wf (debugStop s gc b w ia).mem = true := by
  unfold debugStop
  repeat' first | with_reducible assumption | intro _ | with_reducible apply wf_updBand | with_reducible apply wf_foldl

theorem wf_stopUnit (s : State) (u : UnitRef) (e : ℕ) (ia : W64) (hs : Memory.wf s.mem = true) :
    Memory.wf (stopUnit s u e ia).mem = true := by
  unfold stopUnit
  repeat' first
    | with_reducible assumption | intro _ | with_reducible apply wf_debugStop | with_reducible apply wf_updLaunch
    | with_reducible apply wf_updCtx | with_reducible apply wf_foldl | (extract_lets +onlyGivenNames x; subst x) | split

theorem wf_killHandler (s : State) (u : UnitRef) (code : ℕ) (inner : ℕ) (lev : ℕ) (lanes : Lanes) (ia : W64) (insn : Insn)
    (seq : ℕ) (hs : Memory.wf s.mem = true) :
    Memory.wf (killHandler s u code inner lev lanes ia insn seq).mem = true := by
  unfold killHandler
  repeat' first | with_reducible assumption | with_reducible apply wf_contain

theorem wf_countFault (s : State) (gc : ℕ) (hs : Memory.wf s.mem = true) :
    Memory.wf (countFault s gc).2.mem = true := by
  unfold countFault
  repeat' first | with_reducible assumption | with_reducible apply wf_updLaunch

theorem wf_setStopped (s : State) (u : UnitRef) (hg : ℕ) (b : Bool) (hs : Memory.wf s.mem = true) :
    Memory.wf (setStopped s u hg b).mem = true := by
  unfold setStopped
  repeat' first
    | with_reducible assumption | intro _ | with_reducible apply wf_updCtx | with_reducible apply wf_updGrp
    | with_reducible apply wf_foldl | split

theorem wf_enterHandler (s : State) (u : UnitRef) (hg : ℕ) (g : Group) (e : ℕ) (f : FaultReq) (ia : W64) (insn : Insn) (seq : ℕ)
    (rep412 : Bool) (hs : Memory.wf s.mem = true) :
    Memory.wf (enterHandler s u hg g e f ia insn seq rep412).mem = true := by
  unfold enterHandler
  repeat' first | with_reducible assumption | with_reducible apply wf_updGrp | with_reducible apply wf_setStopped

theorem wf_startHandler (s : State) (u : UnitRef) (hg : ℕ) (e : ℕ) (f : FaultReq) (ia : W64) (insn : Insn) (seq : ℕ)
    (rep412 : Bool) (hs : Memory.wf s.mem = true) :
    Memory.wf (startHandler s u hg e f ia insn seq rep412).mem = true := by
  unfold startHandler
  repeat' first
    | with_reducible assumption | with_reducible apply wf_checkTgt | with_reducible apply wf_enterHandler
    | with_reducible apply wf_killHandler | (extract_lets +onlyGivenNames x; subst x) | split
    | (refine snd_get ?_ (by assumption))

theorem wf_writeFault (s : State) (u : UnitRef) (rcd : List Byte) (hs : Memory.wf s.mem = true) :
    OptWf (writeFault s u rcd) := by
  unfold writeFault
  repeat' first
    | with_reducible assumption | with_reducible apply opt_some | with_reducible apply wf_updBand
    | with_reducible apply wf_virtWrite | (extract_lets +onlyGivenNames x; subst x) | split

theorem wf_takeH (s : State) (u : UnitRef) (e : ℕ) (f : FaultReq) (ia : W64) (insn : Insn) (seq : ℕ) (rep412 : Bool)
    (hs : Memory.wf s.mem = true) :
    Memory.wf (takeH s u e f ia insn seq rep412).mem = true := by
  unfold takeH
  repeat' first
    | with_reducible assumption | with_reducible apply wf_abortLaunch | with_reducible apply wf_writeFault
    | with_reducible apply wf_fatal | with_reducible apply wf_virtFailed | with_reducible apply wf_updGrp
    | with_reducible apply wf_startHandler | (extract_lets +onlyGivenNames x; subst x) | split
    | (refine opt_get ?_ (by assumption))

theorem wf_dropHeld (s : State) (u : UnitRef) (hs : Memory.wf s.mem = true) :
    Memory.wf (dropHeld s u).mem = true := by
  unfold dropHeld
  repeat' first | with_reducible assumption | intro _ | with_reducible apply wf_updCtx | with_reducible apply wf_foldl | split

theorem wf_owePark (s : State) (rcd : List Byte) (gc : ℕ) (b : ℕ) (hs : Memory.wf s.mem = true) :
    Memory.wf (owePark s rcd gc b).mem = true := by
  unfold owePark
  repeat' first
    | with_reducible assumption | with_reducible apply wf_updBand | with_reducible apply wf_toHost
    | (extract_lets +onlyGivenNames x; subst x) | split

theorem wf_takeFault (s : State) (u : UnitRef) (e : ℕ) (f : FaultReq) (ia : W64) (insn : Insn) (src : ℕ)
    (hs : Memory.wf s.mem = true) :
    Memory.wf (takeFault s u e f ia insn src).mem = true := by
  unfold takeFault
  repeat' first
    | with_reducible assumption | with_reducible apply wf_dropHeld | with_reducible apply wf_countFault
    | with_reducible apply wf_killHandler | with_reducible apply wf_takeH | with_reducible apply wf_contain
    | with_reducible apply wf_toHost | with_reducible apply wf_stopUnit | with_reducible apply wf_updGrp
    | with_reducible apply wf_requestPark | with_reducible apply wf_owePark | with_reducible apply wf_updCtx
    | (extract_lets +onlyGivenNames x; subst x) | dsimp -zeta only | split

theorem wf_rejoinCheck (s : State) (gk : ℕ) (hs : Memory.wf s.mem = true) :
    Memory.wf (rejoinCheck s gk).mem = true := by
  unfold rejoinCheck
  repeat' first
    | with_reducible assumption | with_reducible apply wf_fetchLine | with_reducible apply wf_takeFault
    | (extract_lets +onlyGivenNames x; subst x) | dsimp -zeta only | split

theorem wf_returnHandler (s : State) (gk : ℕ) (hs : Memory.wf s.mem = true) :
    Memory.wf (returnHandler s gk).mem = true := by
  unfold returnHandler
  repeat' first
    | with_reducible assumption | intro _ | with_reducible apply wf_putTable | with_reducible apply wf_updGrp
    | with_reducible apply wf_setStopped | with_reducible apply wf_updCtx | with_reducible apply wf_settle
    | with_reducible apply wf_foldl | dsimp -zeta only | split

theorem wf_moveGrp (s : State) (gk : ℕ) (lane : Bool) (ia : W64) (hs : Memory.wf s.mem = true) :
    Memory.wf (moveGrp s gk lane ia).mem = true := by
  unfold moveGrp
  repeat' first
    | with_reducible assumption | with_reducible apply wf_updGrp | with_reducible apply wf_rejoinCheck
    | with_reducible apply wf_settle

theorem wf_moveCtx (s : State) (ck : ℕ) (ends : Bool) (ia : W64) (hs : Memory.wf s.mem = true) :
    Memory.wf (moveCtx s ck ends ia).mem = true := by
  unfold moveCtx
  repeat' first | with_reducible assumption | with_reducible apply wf_updCtx

theorem wf_haltWaiting (s : State) (hs : Memory.wf s.mem = true) :
    Memory.wf (haltWaiting s).mem = true := by
  unfold haltWaiting
  repeat' first | with_reducible assumption | with_reducible apply wf_updGrp | (extract_lets +onlyGivenNames x; subst x) | split

theorem wf_issued (s : State) (t : State) (hs : Memory.wf s.mem = true) (ht : Memory.wf t.mem = true) :
    Memory.wf (issued s t).mem = true := by
  unfold issued
  repeat' first | with_reducible assumption | with_reducible apply wf_count | with_reducible apply wf_updGrp | split

theorem wf_goOn (s : State) (lev : ℕ) (ends : Bool) (t : State) (ia : W64) (hs : Memory.wf s.mem = true)
    (ht : Memory.wf t.mem = true) :
    Memory.wf (goOn s lev ends t ia).mem = true := by
  unfold goOn
  repeat' first
    | with_reducible assumption | with_reducible apply wf_moveGrp | with_reducible apply wf_issued
    | with_reducible apply wf_moveCtx | with_reducible apply wf_updCtx | split

theorem wf_faultNow (s : State) (t : State) (f : FaultReq) (hs : Memory.wf s.mem = true) (ht : Memory.wf t.mem = true) :
    Memory.wf (faultNow s t f).mem = true := by
  unfold faultNow
  repeat' first | with_reducible assumption | with_reducible apply wf_takeFault | with_reducible apply wf_updCtx | split

theorem wf_finish (s : State) (lev : ℕ) (ends : Bool) (a : Act) (hs : Memory.wf s.mem = true) (ha : ActWf (a)) :
    OutWf (finish s lev ends a) := by
  unfold finish
  cases a <;> (unfold ActWf at ha)
  case wait => exact out_next (wf_haltWaiting _ hs)
  case next t => exact out_next (wf_goOn _ _ _ _ _ hs ha)
  case jump t a => exact out_next (wf_goOn _ _ _ _ _ hs ha)
  case done t => exact out_next (wf_issued _ _ hs ha)
  case stay t => exact out_next ha
  case fault t f => exact out_next (wf_faultNow _ _ _ hs (wf_issued _ _ hs ha))

theorem wf_checkUses (s : State) (u : UnitRef) (lev : ℕ) (act : Lanes) (uses : List Use) (dst : List DUse)
    (hs : Memory.wf s.mem = true) :
    OptActWf (checkUses s u lev act uses dst) := by
  unfold checkUses
  repeat' first
    | with_reducible assumption | with_reducible apply act_fault | with_reducible apply act_wait | with_reducible apply oa_none
    | with_reducible apply oa_some | (extract_lets +onlyGivenNames x; subst x) | dsimp -zeta only | split

theorem wf_checkPoison (s : State) (u : UnitRef) (lev : ℕ) (uses : List Use) (hs : Memory.wf s.mem = true) :
    OptActWf (checkPoison s u lev uses) := by
  unfold checkPoison
  repeat' first
    | with_reducible assumption | with_reducible apply act_fault | with_reducible apply oa_none | with_reducible apply oa_some
    | (extract_lets +onlyGivenNames x; subst x) | split

theorem wf_checkAll (s : State) (u : UnitRef) (lev : ℕ) (act : Lanes) (uses : List Use) (dst : List DUse)
    (hs : Memory.wf s.mem = true) :
    OptActWf (checkAll s u lev act uses dst) := by
  unfold checkAll
  repeat' first
    | with_reducible assumption | intro _ | with_reducible apply wf_checkUses | with_reducible apply wf_checkPoison
    | with_reducible apply oa_orElse

theorem wf_unhold (s : State) (core : ℕ) (pa : ℕ) (n : ℕ) (hs : Memory.wf s.mem = true) :
    Memory.wf (unhold s core pa n).mem = true := by
  unfold unhold
  repeat' first | with_reducible assumption | with_reducible apply wf_updCore

theorem wf_clearView (s : State) (core : ℕ) (hs : Memory.wf s.mem = true) :
    Memory.wf (clearView s core).mem = true := by
  unfold clearView
  repeat' first | with_reducible assumption | with_reducible apply wf_updCore

theorem wf_acquireView (s : State) (u : UnitRef) (hs : Memory.wf s.mem = true) :
    Memory.wf (acquireView s u).mem = true := by
  unfold acquireView
  repeat' first | with_reducible assumption | with_reducible apply wf_clearView | split

theorem wf_acquireOf (s : State) (a : Access) (hs : Memory.wf s.mem = true) :
    Memory.wf (acquireOf s a).mem = true := by
  unfold acquireOf
  repeat' first | with_reducible assumption | with_reducible apply wf_clearView | split

theorem wf_updAcc (s : State) (id : ℕ) (f : Access → Access) (hs : Memory.wf s.mem = true) :
    Memory.wf (updAcc s id f).mem = true := by
  unfold updAcc
  repeat' first | with_reducible assumption

theorem wf_scrWrite (s : State) (bk : ℕ) (off : ℕ) (bs : List Byte) (poi : Bool) (hs : Memory.wf s.mem = true) :
    Memory.wf (scrWrite s bk off bs poi).mem = true := by
  unfold scrWrite
  repeat' first | with_reducible assumption | with_reducible apply wf_updBand

theorem wf_viewRead (s : State) (core : ℕ) (pa : ℕ) (n : ℕ) (hs : Memory.wf s.mem = true) :
    Memory.wf (viewRead s core pa n).2.mem = true := by
  unfold viewRead
  repeat' first | with_reducible assumption | with_reducible apply wf_updCore

theorem wf_viewWrite (s : State) (core : ℕ) (pa : ℕ) (bs : List Byte) (poi : Bool) (hs : Memory.wf s.mem = true) :
    Memory.wf (viewWrite s core pa bs poi).mem = true := by
  unfold viewWrite
  repeat' first | with_reducible assumption | with_reducible apply wf_updCore

theorem wf_fillDest (s : State) (d : Dest) (bs : List Byte) (poi : Bool) (hs : Memory.wf s.mem = true) :
    Memory.wf (fillDest s d bs poi).mem = true := by
  unfold fillDest
  repeat' first
    | with_reducible assumption | with_reducible apply wf_updCtx | with_reducible apply wf_updGrp
    | (extract_lets +onlyGivenNames x; subst x) | dsimp -zeta only | split

theorem wf_addProd (s : State) (d : Dest) (bs : List Byte) (poi : Bool) (hs : Memory.wf s.mem = true) :
    Memory.wf (State.addProd s d bs poi).mem = true := by
  unfold State.addProd
  repeat' first | with_reducible assumption | split

theorem wf_emit (s : State) (ck : ℕ) (only : Bool) (rep : Option ReportReq) (hs : Memory.wf s.mem = true) :
    OptWf (emit s ck only rep) := by
  unfold emit
  repeat' first
    | with_reducible assumption | with_reducible apply opt_none | with_reducible apply opt_some | with_reducible apply wf_updCtx
    | (extract_lets +onlyGivenNames x; subst x) | split

theorem wf_finishSeg (s : State) (u : UnitRef) (hs : Memory.wf s.mem = true) :
    Memory.wf (finishSeg s u).mem = true := by
  unfold finishSeg
  repeat' first
    | with_reducible assumption | with_reducible apply wf_updCtx | with_reducible apply wf_updGrp
    | (extract_lets +onlyGivenNames x; subst x) | split

theorem wf_leaveParent (s : State) (u : UnitRef) (hs : Memory.wf s.mem = true) :
    Memory.wf (leaveParent s u).mem = true := by
  unfold leaveParent
  repeat' first | with_reducible assumption | with_reducible apply wf_updCtx | (extract_lets +onlyGivenNames x; subst x) | split

theorem wf_startSeg (s : State) (u : UnitRef) (hs : Memory.wf s.mem = true) :
    OptWf (startSeg s u) := by
  unfold startSeg
  repeat' first
    | with_reducible assumption | with_reducible apply opt_none | with_reducible apply opt_some
    | with_reducible apply wf_acquireView | with_reducible apply wf_updGrp | with_reducible apply wf_updCtx
    | (extract_lets +onlyGivenNames x; subst x) | split

theorem wf_condCheck (s : State) (gk : ℕ) (g : Group) (a : Src) (m : Lanes) (hs : Memory.wf s.mem = true) :
    OptActWf (condCheck s gk g a m) := by
  unfold condCheck
  split
  · exact oa_none
  · exact wf_checkAll s (.grp gk) 0 m (vecUses a m) [] hs

theorem wf_ctxFault (s : State) (ck : ℕ) (c : Ctx) (f : FaultReq) (ia : W64) (w : Insn) (src : ℕ) (hs : Memory.wf s.mem = true) :
    Memory.wf (ctxFault s ck c f ia w src).mem = true := by
  unfold ctxFault
  repeat' first | with_reducible assumption | with_reducible apply wf_takeFault | with_reducible apply wf_updCtx | split

theorem wf_withCur (s : State) (u : UnitRef) (e : ℕ) (ia : W64) (w : Insn) (hs : Memory.wf s.mem = true) :
    Memory.wf (withCur s u e ia w).mem = true := by
  unfold withCur
  repeat' first | with_reducible assumption

theorem wf_ctxSlot (s : State) (ck : ℕ) (c : Ctx) (w : Insn) (hs : Memory.wf s.mem = true) :
    PrepWf (ctxSlot s ck c w) := by
  unfold ctxSlot
  repeat' first
    | with_reducible assumption | with_reducible apply prep_idle | with_reducible apply prep_moved
    | with_reducible apply prep_run | with_reducible apply wf_emit | with_reducible apply wf_ctxFault
    | with_reducible apply wf_withCur | (extract_lets +onlyGivenNames x; subst x) | split | (refine opt_get ?_ (by assumption))

theorem wf_prepCtx (s : State) (ck : ℕ) (hs : Memory.wf s.mem = true) :
    PrepWf (prepCtx s ck) := by
  unfold prepCtx
  repeat' first
    | with_reducible assumption | with_reducible apply prep_idle | with_reducible apply prep_moved
    | with_reducible apply wf_startSeg | with_reducible apply wf_emit | with_reducible apply wf_fetchLine
    | with_reducible apply wf_ctxFault | with_reducible apply wf_ctxSlot | with_reducible apply wf_updCtx
    | (extract_lets +onlyGivenNames x; subst x) | split | (refine opt_get ?_ (by assumption))
    | (refine snd_get ?_ (by assumption))

theorem wf_grpFault (s : State) (gk : ℕ) (e : ℕ) (g : Group) (lev : ℕ) (f : FaultReq) (ia : W64) (w : Insn) (src : ℕ)
    (hs : Memory.wf s.mem = true) :
    Memory.wf (grpFault s gk e g lev f ia w src).mem = true := by
  unfold grpFault
  repeat' first | with_reducible assumption | with_reducible apply wf_takeFault

theorem wf_tookTurn (s : State) (gk : ℕ) (e : ℕ) (hs : Memory.wf s.mem = true) :
    Memory.wf (tookTurn s gk e).mem = true := by
  unfold tookTurn
  repeat' first | with_reducible assumption | with_reducible apply wf_updGrp | split

theorem wf_grpSlot (s : State) (gk : ℕ) (e : ℕ) (g : Group) (ia : W64) (m : Lanes) (hs : Memory.wf s.mem = true) :
    PrepWf (grpSlot s gk e g ia m) := by
  unfold grpSlot
  repeat' first
    | with_reducible assumption | with_reducible apply prep_idle | with_reducible apply prep_moved
    | with_reducible apply prep_run | with_reducible apply wf_fetchLine | with_reducible apply wf_takeFault
    | with_reducible apply wf_moveGrp | with_reducible apply wf_withCur | with_reducible apply wf_rejoinCheck
    | with_reducible apply wf_grpFault | with_reducible apply wf_tookTurn | (extract_lets +onlyGivenNames x; subst x)
    | dsimp -zeta only | split | (refine snd_get ?_ (by assumption))

theorem wf_entrySlot (s : State) (gk : ℕ) (e : ℕ) (g : Group) (hs : Memory.wf s.mem = true) :
    PrepWf (entrySlot s gk e g) := by
  unfold entrySlot
  repeat' first
    | with_reducible assumption | with_reducible apply prep_idle | with_reducible apply prep_moved
    | with_reducible apply wf_startSeg | with_reducible apply wf_grpSlot | split | (refine opt_get ?_ (by assumption))

theorem wf_prepGrp (s : State) (gk : ℕ) (e : ℕ) (hs : Memory.wf s.mem = true) :
    PrepWf (prepGrp s gk e) := by
  unfold prepGrp
  repeat' first
    | with_reducible assumption | with_reducible apply prep_idle | with_reducible apply prep_moved
    | with_reducible apply wf_entrySlot | with_reducible apply wf_tookTurn | split

theorem wf_prep (s : State) (u : UnitRef) (e : ℕ) (hs : Memory.wf s.mem = true) :
    PrepWf (prep s u e) := by
  unfold prep
  repeat' first
    | with_reducible assumption | with_reducible apply prep_idle | with_reducible apply wf_softHits
    | with_reducible apply wf_prepCtx | with_reducible apply wf_prepGrp | (extract_lets +onlyGivenNames x; subst x) | split

theorem wf_fin (s : State) (h : Hdr) (ends : Bool) (a : Act) (hs : Memory.wf s.mem = true) (ha : ActWf (a)) :
    OutWf (fin s h ends a) := by
  unfold fin
  repeat' first | with_reducible assumption | with_reducible apply wf_finish

theorem wf_flt (s : State) (code : ℕ) (lev : ℕ) (lanes : Lanes) (hs : Memory.wf s.mem = true) :
    ActWf (flt s code lev lanes) := by
  unfold flt
  repeat' first | with_reducible assumption | with_reducible apply act_fault

theorem wf_atCtx (s : State) (h : Hdr) (f : ℕ → Ctx → Act) (hs : Memory.wf s.mem = true) (hf : ∀ v0 v1, ActWf (f v0 v1)) :
    ActWf (atCtx s h f) := by
  unfold atCtx
  repeat' first
    | with_reducible assumption | with_reducible apply hf | with_reducible apply act_next
    | (extract_lets +onlyGivenNames x; subst x) | split

theorem wf_atLanes (s : State) (h : Hdr) (f : ℕ → Group → Lanes → Act) (hs : Memory.wf s.mem = true) (hf : ∀ v0 v1 v2, ActWf
    (f v0 v1 v2)) :
    ActWf (atLanes s h f) := by
  unfold atLanes
  repeat' first
    | with_reducible assumption | with_reducible apply hf | with_reducible apply act_next
    | (extract_lets +onlyGivenNames x; subst x) | split

theorem wf_transfer (s : State) (lev : ℕ) (lanes : Lanes) (ts : List W64) (k : State → Act) (hs : Memory.wf s.mem = true)
    (hk : ∀ v0, Memory.wf v0.mem = true → ActWf (k v0)) :
    ActWf (transfer s lev lanes ts k) := by
  unfold transfer
  repeat' first
    | with_reducible assumption | with_reducible apply hk | with_reducible apply act_fault | with_reducible apply wf_checkTgts
    | with_reducible apply wf_flt | (extract_lets +onlyGivenNames x; subst x) | dsimp -zeta only | split
    | (refine snd_get ?_ (by assumption))

theorem wf_transOne (s : State) (u : UnitRef) (va : ℕ) (need : Need) (hs : Memory.wf s.mem = true) :
    Memory.wf (transOne s u va need).2.mem = true := by
  unfold transOne
  repeat' first | with_reducible assumption | with_reducible apply wf_translate

theorem wf_ctxReady (s : State) (h : Hdr) (srcs : List (ℕ × Src)) (d : Option Opd) (k : ℕ → Ctx → Act)
    (hs : Memory.wf s.mem = true) (hk : ∀ v0 v1, ActWf (k v0 v1)) :
    ActWf (ctxReady s h srcs d k) := by
  unfold ctxReady
  repeat' first
    | with_reducible assumption | intro _ | with_reducible apply hk | with_reducible apply wf_atCtx
    | with_reducible apply wf_checkAll | split | (refine oa_get ?_ (by assumption))

theorem wf_putScal (s : State) (ck : ℕ) (c : Ctx) (d : Opd) (v : W64) (hs : Memory.wf s.mem = true) :
    ActWf (putScal s ck c d v) := by
  unfold putScal
  repeat' first
    | with_reducible assumption | with_reducible apply act_next | with_reducible apply act_wait | with_reducible apply wf_updCtx
    | split

theorem wf_scalRun (s : State) (h : Hdr) (srcs : List Src) (d : Opd) (imm : W64) (f : List W64 → W64)
    (hs : Memory.wf s.mem = true) :
    ActWf (scalRun s h srcs d imm f) := by
  unfold scalRun
  repeat' first | with_reducible assumption | intro _ | with_reducible apply wf_ctxReady | with_reducible apply wf_putScal

theorem wf_writeLanes (s : State) (gk : ℕ) (d : Opd) (n : ℕ) (m : Lanes) (v : ℕ → W64) (hs : Memory.wf s.mem = true) :
    Memory.wf (writeLanes s gk d n m v).mem = true := by
  unfold writeLanes
  repeat' first | with_reducible assumption | with_reducible apply wf_updGrp

theorem wf_gate (s : State) (gk : ℕ) (g : Group) (m : Lanes) (resid : Bool) (hs : Memory.wf s.mem = true) :
    ActWf (gate s gk g m resid) := by
  unfold gate
  repeat' first
    | with_reducible assumption | with_reducible apply act_next | with_reducible apply act_fault | with_reducible apply act_wait
    | with_reducible apply wf_count | with_reducible apply wf_flt | (extract_lets +onlyGivenNames x; subst x) | dsimp -zeta only
    | split

theorem wf_logged (s : State) (gk : ℕ) (g : Group) (m : Lanes) (t : State) (hs : Memory.wf s.mem = true)
    (ht : Memory.wf t.mem = true) :
    Memory.wf (logged s gk g m t).mem = true := by
  unfold logged
  repeat' first | with_reducible assumption | with_reducible apply wf_updCore | split

theorem wf_checked (s : State) (gk : ℕ) (g : Group) (m : Lanes) (resid : Bool) (k : State → State) (hs : Memory.wf s.mem = true)
    (hk : ∀ v0, Memory.wf v0.mem = true → Memory.wf (k v0).mem = true) :
    ActWf (checked s gk g m resid k) := by
  unfold checked
  repeat' first
    | with_reducible assumption | with_reducible apply hk | with_reducible apply act_next | with_reducible apply wf_gate
    | with_reducible apply wf_logged | split | (refine act_get ?_ (by assumption))

theorem wf_laneReady (s : State) (h : Hdr) (uses : Lanes → List Use) (d : Opd) (dn : ℕ) (resid : Bool)
    (k : State → ℕ → Group → Lanes → State) (hs : Memory.wf s.mem = true)
    (hk : ∀ v0 v1 v2 v3, Memory.wf v0.mem = true → Memory.wf (k v0 v1 v2 v3).mem = true) :
    ActWf (laneReady s h uses d dn resid k) := by
  unfold laneReady
  repeat' first
    | with_reducible assumption | intro _ | with_reducible apply hk | with_reducible apply wf_atLanes
    | with_reducible apply wf_checkAll | with_reducible apply wf_checked | split | (refine oa_get ?_ (by assumption))

theorem wf_laneRun (s : State) (h : Hdr) (n : ℕ) (dn : ℕ) (srcs : List Src) (d : Opd) (imm : W64) (resid : Bool)
    (f : List W64 → W64) (hs : Memory.wf s.mem = true) :
    ActWf (laneRun s h n dn srcs d imm resid f) := by
  unfold laneRun
  repeat' first | with_reducible assumption | intro _ | with_reducible apply wf_laneReady | with_reducible apply wf_writeLanes

theorem wf_lanePred (s : State) (h : Hdr) (n : ℕ) (srcs : List Src) (d : Opd) (imm : W64) (f : List W64 → Bool)
    (hs : Memory.wf s.mem = true) :
    ActWf (lanePred s h n srcs d imm f) := by
  unfold lanePred
  repeat' first | with_reducible assumption | intro _ | with_reducible apply wf_laneReady | with_reducible apply wf_updGrp | split

theorem wf_accFault (s : State) (code : ℕ) (lev : ℕ) (d : AccDesc) (bad : List (ℕ × ℕ)) (all : List (ℕ × ℕ))
    (hs : Memory.wf s.mem = true) :
    ActWf (accFault s code lev d bad all) := by
  unfold accFault
  repeat' first | with_reducible assumption | with_reducible apply act_fault

theorem wf_xlate (s : State) (u : UnitRef) (need : Need) (es : List (ℕ × ℕ)) (hs : Memory.wf s.mem = true) :
    Memory.wf (xlate s u need es).2.mem = true := by
  unfold xlate
  repeat' first
    | with_reducible assumption | intro _ | with_reducible apply wf_transOne | with_reducible apply snd3_foldl
    | (extract_lets +onlyGivenNames x; subst x) | dsimp -zeta only | split

theorem wf_globalGo (s : State) (lev : ℕ) (d : AccDesc) (al : ℕ) (need : Need) (es : List (ℕ × W64)) (uses : List Use)
    (deny : ℕ → Bool) (k : State → List (ℕ × ℕ) → Act) (hs : Memory.wf s.mem = true)
    (hk : ∀ v0 v1, Memory.wf v0.mem = true → ActWf (k v0 v1)) :
    ActWf (globalGo s lev d al need es uses deny k) := by
  unfold globalGo
  repeat' first
    | with_reducible assumption | with_reducible apply hk | with_reducible apply wf_accFault | with_reducible apply wf_xlate
    | with_reducible apply wf_checkPoison | (extract_lets +onlyGivenNames x; subst x) | dsimp -zeta only | split
    | (refine oa_get ?_ (by assumption))

theorem wf_scrGo (s : State) (d : AccDesc) (al : ℕ) (es : List (ℕ × ℤ)) (uses : List Use) (k : List (ℕ × ℕ) → Act)
    (hs : Memory.wf s.mem = true) (hk : ∀ v0, ActWf (k v0)) :
    ActWf (scrGo s d al es uses k) := by
  unfold scrGo
  repeat' first
    | with_reducible assumption | with_reducible apply hk | with_reducible apply act_fault | with_reducible apply wf_checkPoison
    | (extract_lets +onlyGivenNames x; subst x) | dsimp -zeta only | split | (refine oa_get ?_ (by assumption))

theorem wf_unholdAtomics (s : State) (l : List Access) (hs : Memory.wf s.mem = true) :
    Memory.wf (unholdAtomics s l).mem = true := by
  unfold unholdAtomics
  repeat' first | with_reducible assumption | intro _ | with_reducible apply wf_unhold | with_reducible apply wf_foldl | split

theorem wf_issueAccs (s : State) (l : List Access) (hs : Memory.wf s.mem = true) :
    Memory.wf (issueAccs s l).mem = true := by
  unfold issueAccs
  repeat' first | with_reducible assumption | with_reducible apply wf_unholdAtomics | with_reducible apply wf_addAccs

theorem wf_emptyDest (s : State) (gk : ℕ) (d : Opd) (t : Ty) (m : Lanes) (hs : Memory.wf s.mem = true) :
    Memory.wf (emptyDest s gk d t m).mem = true := by
  unfold emptyDest
  repeat' first | with_reducible assumption | with_reducible apply wf_updGrp | split

theorem wf_emptyScal (s : State) (ck : ℕ) (c : Ctx) (d : Opd) (k : State → BitVec 5 → Act) (hs : Memory.wf s.mem = true)
    (hk : ∀ v0 v1, Memory.wf v0.mem = true → ActWf (k v0 v1)) :
    ActWf (emptyScal s ck c d k) := by
  unfold emptyScal
  repeat' first
    | with_reducible assumption | with_reducible apply hk | with_reducible apply act_next | with_reducible apply act_wait
    | with_reducible apply wf_updCtx | (extract_lets +onlyGivenNames x; subst x) | split

theorem wf_countPasses (s : State) (g : Group) (w : ℕ) (es : List (ℕ × ℕ)) (alone : Bool) (hs : Memory.wf s.mem = true) :
    Memory.wf (countPasses s g w es alone).mem = true := by
  unfold countPasses
  repeat' first | with_reducible assumption | with_reducible apply wf_count

theorem wf_loadAct (s : State) (h : Hdr) (m : OpM) (konst : Bool) (hs : Memory.wf s.mem = true) :
    ActWf (loadAct s h m konst) := by
  unfold loadAct
  repeat' first
    | with_reducible assumption | intro _ | with_reducible apply act_next | with_reducible apply wf_atLanes
    | with_reducible apply wf_checkUses | with_reducible apply wf_globalGo | with_reducible apply wf_emptyDest
    | with_reducible apply wf_issueAccs | (extract_lets +onlyGivenNames x; subst x) | split | (refine oa_get ?_ (by assumption))

theorem wf_prefGo (s : State) (lev : ℕ) (m : OpM) (lanes : Lanes) (mask : Lanes) (hs : Memory.wf s.mem = true) :
    Memory.wf (prefGo s lev m lanes mask).mem = true := by
  unfold prefGo
  repeat' first | with_reducible assumption | with_reducible apply wf_xlate | with_reducible apply wf_addAccs

theorem wf_atomAct (s : State) (h : Hdr) (op : Aop) (m : OpM) (ret : Bool) (hs : Memory.wf s.mem = true) :
    ActWf (atomAct s h op m ret) := by
  unfold atomAct
  repeat' first
    | with_reducible assumption | intro _ | with_reducible apply act_next | with_reducible apply wf_atLanes
    | with_reducible apply wf_checkUses | with_reducible apply wf_globalGo | with_reducible apply wf_issueAccs
    | with_reducible apply wf_emptyDest | (extract_lets +onlyGivenNames x; subst x) | split | (refine oa_get ?_ (by assumption))

theorem wf_setWait (s : State) (lev : ℕ) (w : WaitSt) (hs : Memory.wf s.mem = true) :
    Memory.wf (setWait s lev w).mem = true := by
  unfold setWait
  repeat' first | with_reducible assumption | with_reducible apply wf_updCtx | with_reducible apply wf_updGrp | split

theorem wf_arrNotify (s : State) (bk : ℕ) (hs : Memory.wf s.mem = true) :
    Memory.wf (arrNotify s bk).mem = true := by
  unfold arrNotify
  repeat' first | with_reducible assumption | split

theorem wf_scrStore (s : State) (bk : ℕ) (off : ℕ) (bs : List Byte) (poi : Bool) (hs : Memory.wf s.mem = true) :
    Memory.wf (scrStore s bk off bs poi).mem = true := by
  unfold scrStore
  repeat' first | with_reducible assumption | with_reducible apply wf_arrNotify | with_reducible apply wf_scrWrite

theorem wf_arrPut (s : State) (bk : ℕ) (off : ℕ) (w : ArrWord) (hs : Memory.wf s.mem = true) :
    Memory.wf (arrPut s bk off w).mem = true := by
  unfold arrPut
  repeat' first | with_reducible assumption | with_reducible apply wf_scrStore

theorem wf_onceRun (s : State) (h : Hdr) (f : Lanes → Act) (hs : Memory.wf s.mem = true) (hf : ∀ v0, ActWf (f v0)) :
    ActWf (onceRun s h f) := by
  unfold onceRun
  repeat' first
    | with_reducible assumption | intro _ | with_reducible apply hf | with_reducible apply wf_atLanes
    | with_reducible apply wf_atCtx | split

theorem wf_standBy (s : State) (h : Hdr) (w : WaitSt) (hs : Memory.wf s.mem = true) :
    ActWf (standBy s h w) := by
  unfold standBy
  repeat' first
    | with_reducible assumption | with_reducible apply act_stay | with_reducible apply act_wait
    | with_reducible apply wf_rejoinCheck | with_reducible apply wf_haltWaiting | with_reducible apply wf_setWait | split

theorem wf_stayAt (s : State) (h : Hdr) (w : WaitSt) (hs : Memory.wf s.mem = true) :
    ActWf (stayAt s h w) := by
  unfold stayAt
  repeat' first
    | with_reducible assumption | with_reducible apply act_stay | with_reducible apply wf_setWait
    | with_reducible apply wf_rejoinCheck | (extract_lets +onlyGivenNames x; subst x) | split

theorem wf_onceAll (s : State) (h : Hdr) (f : Lanes → Act) (hs : Memory.wf s.mem = true) (hf : ∀ v0, ActWf (f v0)) :
    ActWf (onceAll s h f) := by
  unfold onceAll
  repeat' first
    | with_reducible assumption | intro _ | with_reducible apply hf | with_reducible apply wf_onceRun
    | with_reducible apply act_lanes

theorem wf_oncePoison (s : State) (h : Hdr) (m : Lanes) (n : ℕ) (srcs : List (ℕ × Src)) (hs : Memory.wf s.mem = true) :
    OptActWf (oncePoison s h m n srcs) := by
  unfold oncePoison
  repeat' first | with_reducible assumption | with_reducible apply wf_checkPoison

theorem wf_onceChecked (s : State) (h : Hdr) (n : ℕ) (srcs : List (ℕ × Src)) (dst : Lanes → List DUse) (f : Lanes → Act)
    (m : Lanes) (hs : Memory.wf s.mem = true) (hf : ∀ v0, ActWf (f v0)) :
    ActWf (onceChecked s h n srcs dst f m) := by
  unfold onceChecked
  repeat' first
    | with_reducible assumption | with_reducible apply hf | with_reducible apply wf_checkUses | split
    | (refine oa_get ?_ (by assumption))

theorem wf_onceReady (s : State) (h : Hdr) (n : ℕ) (srcs : List (ℕ × Src)) (dst : Lanes → List DUse) (f : Lanes → Act)
    (hs : Memory.wf s.mem = true) (hf : ∀ v0, ActWf (f v0)) :
    ActWf (onceReady s h n srcs dst f) := by
  unfold onceReady
  repeat' first | with_reducible assumption | intro _ | with_reducible apply wf_onceRun | with_reducible apply wf_onceChecked

theorem wf_unlessPoison (s : State) (h : Hdr) (m : Lanes) (n : ℕ) (srcs : List (ℕ × Src)) (k : Unit → Act)
    (hs : Memory.wf s.mem = true) (hk : ∀ v0, ActWf (k v0)) :
    ActWf (unlessPoison s h m n srcs k) := by
  unfold unlessPoison
  repeat' first
    | with_reducible assumption | with_reducible apply hk | with_reducible apply wf_oncePoison | split
    | (refine oa_get ?_ (by assumption))

theorem wf_putPred (s : State) (h : Hdr) (m : Lanes) (p : BitVec 4) (v : Bool) (hs : Memory.wf s.mem = true) :
    Memory.wf (putPred s h m p v).mem = true := by
  unfold putPred
  repeat' first | with_reducible assumption | with_reducible apply wf_updGrp | with_reducible apply wf_updCtx | split

theorem wf_putOnce (s : State) (h : Hdr) (m : Lanes) (d : Opd) (n : ℕ) (v : W64) (hs : Memory.wf s.mem = true) :
    ActWf (putOnce s h m d n v) := by
  unfold putOnce
  repeat' first
    | with_reducible assumption | with_reducible apply act_next | with_reducible apply wf_writeLanes
    | with_reducible apply wf_putScal | (extract_lets +onlyGivenNames x; subst x) | split

theorem wf_areaFault (s : State) (h : Hdr) (code : ℕ) (m : Lanes) (d : AccDesc) (off : ℕ) (n : ℕ) (hs : Memory.wf s.mem = true) :
    ActWf (areaFault s h code m d off n) := by
  unfold areaFault
  repeat' first | with_reducible assumption | with_reducible apply act_fault

theorem wf_scrFault (s : State) (h : Hdr) (code : ℕ) (m : Lanes) (d : AccDesc) (off : ℕ) (hs : Memory.wf s.mem = true) :
    ActWf (scrFault s h code m d off) := by
  unfold scrFault
  repeat' first | with_reducible assumption | with_reducible apply wf_areaFault

theorem wf_feFailed (s : State) (space : ℕ) (top : ℕ) (va : ℕ) (n : ℕ) (need : Need) (hs : Memory.wf s.mem = true) :
    Memory.wf (feFailed s space top va n need).mem = true := by
  unfold feFailed
  repeat' first | with_reducible assumption | with_reducible apply wf_walked | split

theorem wf_addCtx (s : State) (gc : ℕ) (lvl : ℕ) (g : ℕ) (place : ℕ) (hs : Memory.wf s.mem = true) :
    Memory.wf (addCtx s gc lvl g place).mem = true := by
  unfold addCtx
  repeat' first | with_reducible assumption | (extract_lets +onlyGivenNames x; subst x) | split

theorem wf_freshLines (s : State) (gc : ℕ) (core : ℕ) (hs : Memory.wf s.mem = true) :
    Memory.wf (freshLines s gc core).mem = true := by
  unfold freshLines
  repeat' first
    | with_reducible assumption | with_reducible apply wf_updCore | with_reducible apply wf_updCluster
    | (extract_lets +onlyGivenNames x; subst x) | split

theorem wf_placeBandAt (s : State) (gc : ℕ) (b : ℕ) (core : ℕ) (slot : ℕ) (slots : List ℕ) (hs : Memory.wf s.mem = true) :
    Memory.wf (placeBandAt s gc b core slot slots).mem = true := by
  unfold placeBandAt
  repeat' first
    | with_reducible assumption | intro _ | with_reducible apply wf_clearView | with_reducible apply wf_freshLines
    | with_reducible apply wf_updCore | with_reducible apply wf_tick1 | with_reducible apply wf_addCtx
    | with_reducible apply wf_foldl

theorem wf_tryBand (s : State) (gc : ℕ) (b : ℕ) (cores : List ℕ) (hs : Memory.wf s.mem = true) :
    OptWf (tryBand s gc b cores) := by
  unfold tryBand
  repeat' first
    | with_reducible assumption | intro _ | with_reducible apply wf_placeBandAt | with_reducible apply opt_findSome
    | with_reducible apply opt_map'

theorem wf_tryBands (s : State) (gc : ℕ) (bs : List ℕ) (cores : List ℕ) (hs : Memory.wf s.mem = true) :
    OptWf (tryBands s gc bs cores) := by
  unfold tryBands
  repeat' first
    | with_reducible assumption | intro _ | with_reducible apply opt_some | with_reducible apply wf_tryBand
    | with_reducible apply opt_foldl | with_reducible apply opt_bind

theorem wf_addCtxs (s : State) (gc : ℕ) (k : ℕ) (g : ℕ) (dom : ℕ) (place : ℕ) (hs : Memory.wf s.mem = true) :
    Memory.wf (addCtxs s gc k g dom place).mem = true := by
  unfold addCtxs
  repeat' first | with_reducible assumption | intro _ | with_reducible apply wf_addCtx | with_reducible apply wf_foldl

theorem wf_tryClus (s : State) (gc : ℕ) (k : ℕ) (g : ℕ) (cs : List ℕ) (hs : Memory.wf s.mem = true) :
    OptWf (tryClus s gc k g cs) := by
  unfold tryClus
  repeat' first
    | with_reducible assumption | intro _ | with_reducible apply opt_none | with_reducible apply wf_addCtxs
    | with_reducible apply wf_tryBands | with_reducible apply opt_map | with_reducible apply opt_findSome | split

theorem wf_tryDie (s : State) (gc : ℕ) (k : ℕ) (g : ℕ) (ds : List ℕ) (hs : Memory.wf s.mem = true) :
    OptWf (tryDie s gc k g ds) := by
  unfold tryDie
  repeat' first
    | with_reducible assumption | intro _ | with_reducible apply opt_none | with_reducible apply opt_some
    | with_reducible apply wf_tryClus | with_reducible apply wf_tryBands | with_reducible apply wf_addCtxs
    | with_reducible apply opt_foldl | with_reducible apply opt_bind | with_reducible apply opt_map
    | with_reducible apply opt_findSome | (extract_lets +onlyGivenNames x; subst x) | split

theorem wf_startTops (s : State) (gc : ℕ) (k : ℕ) (g : ℕ) (hs : Memory.wf s.mem = true) :
    Memory.wf (startTops s gc k g).mem = true := by
  unfold startTops
  repeat' first
    | with_reducible assumption | intro _ | with_reducible apply wf_updDie | with_reducible apply wf_addCtx
    | with_reducible apply wf_checkTgt | with_reducible apply wf_takeFault | with_reducible apply wf_foldl
    | (extract_lets +onlyGivenNames x; subst x) | split | (refine snd_get ?_ (by assumption))

theorem wf_placeChunk (s : State) (gc : ℕ) (g : ℕ) (pick : ℕ) (hs : Memory.wf s.mem = true) :
    OptWf (placeChunk s gc g pick) := by
  unfold placeChunk
  repeat' first
    | with_reducible assumption | intro _ | with_reducible apply opt_none | with_reducible apply opt_some
    | with_reducible apply wf_tryClus | with_reducible apply wf_tryDie | with_reducible apply wf_tryBand
    | with_reducible apply wf_startTops | with_reducible apply opt_bind | with_reducible apply opt_map | split

theorem wf_placeMore (s : State) (gc : ℕ) (pick : ℕ) (hs : Memory.wf s.mem = true) :
    OptWf (placeMore s gc pick) := by
  unfold placeMore
  repeat' first
    | with_reducible assumption | intro _ | with_reducible apply opt_none | with_reducible apply opt_some
    | with_reducible apply wf_updLaunch | with_reducible apply wf_placeChunk | with_reducible apply opt_foldl
    | with_reducible apply opt_bind | with_reducible apply opt_map | dsimp -zeta only | split

theorem wf_setTaskState (s : State) (pa : ℕ) (st : ℕ) (hs : Memory.wf s.mem = true) :
    Memory.wf (setTaskState s pa st).mem = true := by
  unfold setTaskState
  repeat' first | with_reducible assumption | with_reducible apply wf_devPut

theorem wf_freePend (s : State) (bk : Option ℕ) (rcd : W64) (hs : Memory.wf s.mem = true) :
    Memory.wf (freePend s bk rcd).mem = true := by
  unfold freePend
  repeat' first | with_reducible assumption | with_reducible apply wf_updBand | split

theorem wf_placeTask (s : State) (t : Task) (bk : Option ℕ) (pick : ℕ) (hs : Memory.wf s.mem = true) :
    OptWf (placeTask s t bk pick) := by
  unfold placeTask
  repeat' first
    | with_reducible assumption | intro _ | with_reducible apply opt_none | with_reducible apply wf_freePend
    | with_reducible apply wf_setTaskState | with_reducible apply wf_placeMore | with_reducible apply opt_map | split

theorem wf_moveFaults (s : State) (bk : ℕ) (core : ℕ) (hs : Memory.wf s.mem = true) :
    Memory.wf (moveFaults s bk core).mem = true := by
  unfold moveFaults
  repeat' first | with_reducible assumption | intro _ | with_reducible apply wf_updCore | with_reducible apply wf_foldl | split

theorem wf_reoccupy (s : State) (gc : ℕ) (b : ℕ) (core : ℕ) (slot : ℕ) (slots : List ℕ) (hs : Memory.wf s.mem = true) :
    Memory.wf (reoccupy s gc b core slot slots).mem = true := by
  unfold reoccupy
  repeat' first
    | with_reducible assumption | intro _ | with_reducible apply wf_moveFaults | with_reducible apply wf_freshLines
    | with_reducible apply wf_updBand | with_reducible apply wf_updCore | with_reducible apply wf_updGrp
    | with_reducible apply wf_updCtx | with_reducible apply wf_foldl

theorem wf_reoccupyKept (s : State) (x : Band) (hs : Memory.wf s.mem = true) :
    Memory.wf (reoccupyKept s x).mem = true := by
  unfold reoccupyKept
  repeat' first | with_reducible assumption | with_reducible apply wf_reoccupy | with_reducible apply wf_updBand

theorem wf_tryResume (s : State) (gc : ℕ) (b : ℕ) (cores : List ℕ) (hs : Memory.wf s.mem = true) :
    OptWf (tryResume s gc b cores) := by
  unfold tryResume
  repeat' first
    | with_reducible assumption | intro _ | with_reducible apply opt_none | with_reducible apply opt_some
    | with_reducible apply wf_reoccupyKept | with_reducible apply wf_reoccupy | with_reducible apply opt_findSome
    | with_reducible apply opt_map' | split

theorem wf_movePlace (s : State) (gc : ℕ) (k : ℕ) (g : ℕ) (dom : ℕ) (place : ℕ) (hs : Memory.wf s.mem = true) :
    Memory.wf (movePlace s gc k g dom place).mem = true := by
  unfold movePlace
  repeat' first | with_reducible assumption | intro _ | with_reducible apply wf_updCtx | with_reducible apply wf_foldl | split

theorem wf_resumeBandsOn (s : State) (gc : ℕ) (bs : List ℕ) (cores : List ℕ) (hs : Memory.wf s.mem = true) :
    OptWf (resumeBandsOn s gc bs cores) := by
  unfold resumeBandsOn
  repeat' first
    | with_reducible assumption | intro _ | with_reducible apply opt_some | with_reducible apply wf_tryResume
    | with_reducible apply opt_foldl | with_reducible apply opt_bind

theorem wf_resumeClus (s : State) (gc : ℕ) (k : ℕ) (g : ℕ) (cs : List ℕ) (hs : Memory.wf s.mem = true) :
    OptWf (resumeClus s gc k g cs) := by
  unfold resumeClus
  repeat' first
    | with_reducible assumption | intro _ | with_reducible apply opt_none | with_reducible apply opt_some
    | with_reducible apply wf_movePlace | with_reducible apply wf_resumeBandsOn | with_reducible apply opt_map
    | with_reducible apply opt_findSome | (extract_lets +onlyGivenNames x; subst x) | split

theorem wf_resumeDie (s : State) (gc : ℕ) (k : ℕ) (g : ℕ) (ds : List ℕ) (hs : Memory.wf s.mem = true) :
    OptWf (resumeDie s gc k g ds) := by
  unfold resumeDie
  repeat' first
    | with_reducible assumption | intro _ | with_reducible apply opt_none | with_reducible apply opt_some
    | with_reducible apply wf_resumeClus | with_reducible apply wf_resumeBandsOn | with_reducible apply wf_movePlace
    | with_reducible apply opt_foldl | with_reducible apply opt_bind | with_reducible apply opt_map
    | with_reducible apply opt_findSome | (extract_lets +onlyGivenNames x; subst x) | split

theorem wf_resumeChunk (s : State) (gc : ℕ) (g : ℕ) (pick : ℕ) (hs : Memory.wf s.mem = true) :
    OptWf (resumeChunk s gc g pick) := by
  unfold resumeChunk
  repeat' first
    | with_reducible assumption | with_reducible apply wf_resumeClus | with_reducible apply wf_resumeDie
    | with_reducible apply wf_resumeBandsOn | (extract_lets +onlyGivenNames x; subst x) | split

theorem wf_placeUnit (s : State) (gc : ℕ) (b : ℕ) (pick : ℕ) (hs : Memory.wf s.mem = true) :
    OptWf (placeUnit s gc b pick) := by
  unfold placeUnit
  repeat' first
    | with_reducible assumption | intro _ | with_reducible apply opt_none | with_reducible apply opt_some
    | with_reducible apply wf_placeChunk | with_reducible apply wf_resumeChunk | with_reducible apply opt_foldl
    | with_reducible apply opt_bind | split

theorem wf_tryItem (s : State) (what : ReadyItem) (pick : ℕ) (hs : Memory.wf s.mem = true) :
    OptWf (tryItem s what pick) := by
  unfold tryItem
  repeat' first
    | with_reducible assumption | with_reducible apply wf_placeTask | with_reducible apply wf_placeUnit
    | with_reducible apply wf_placeMore | split

theorem wf_leaveReady (s : State) (t : State) (i : ℕ) (e : ReadyEnt) (hs : Memory.wf s.mem = true) (ht : Memory.wf t.mem = true) :
    Memory.wf (leaveReady s t i e).mem = true := by
  unfold leaveReady
  repeat' first | with_reducible assumption

theorem wf_placeWanted (s : State) (what : ReadyItem) (core : ℕ) (hs : Memory.wf s.mem = true) :
    Memory.wf (placeWanted s what core).mem = true := by
  unfold placeWanted
  repeat' first
    | with_reducible assumption | with_reducible apply wf_tryItem | with_reducible apply wf_leaveReady | split
    | (refine opt_get ?_ (by assumption))

theorem wf_setBar (s : State) (ck : ℕ) (j : ℕ) (b : Barrier) (hs : Memory.wf s.mem = true) :
    Memory.wf (State.setBar s ck j b).mem = true := by
  unfold State.setBar
  repeat' first | with_reducible assumption

theorem wf_barFences (s : State) (ck : ℕ) (c : Ctx) (hs : Memory.wf s.mem = true) :
    Memory.wf (barFences s ck c).mem = true := by
  unfold barFences
  repeat' first
    | with_reducible assumption | intro _ | with_reducible apply wf_addAcc | with_reducible apply wf_foldl
    | (extract_lets +onlyGivenNames x; subst x) | split

theorem wf_barSettle (s : State) (ck : ℕ) (j : ℕ) (hs : Memory.wf s.mem = true) :
    Memory.wf (barSettle s ck j).mem = true := by
  unfold barSettle
  repeat' first
    | with_reducible assumption | with_reducible apply wf_barFences | with_reducible apply wf_setBar
    | (extract_lets +onlyGivenNames x; subst x) | split

theorem wf_barArrive (s : State) (ck : ℕ) (j : ℕ) (ms : List ℕ) (hs : Memory.wf s.mem = true) :
    Memory.wf (barArrive s ck j ms).mem = true := by
  unfold barArrive
  repeat' first | with_reducible assumption | with_reducible apply wf_barSettle | with_reducible apply wf_setBar

theorem wf_barAll (s : State) (ck : ℕ) (hs : Memory.wf s.mem = true) :
    Memory.wf (barAll s ck).mem = true := by
  unfold barAll
  repeat' first | with_reducible assumption | intro _ | with_reducible apply wf_barSettle | with_reducible apply wf_foldl

theorem wf_exitLanes (s : State) (gk : ℕ) (e : ℕ) (m : Lanes) (ia : W64) (hs : Memory.wf s.mem = true) :
    Memory.wf (exitLanes s gk e m ia).mem = true := by
  unfold exitLanes
  repeat' first
    | with_reducible assumption | with_reducible apply wf_settle | with_reducible apply wf_updGrp
    | with_reducible apply wf_rejoinCheck | with_reducible apply wf_barAll | (extract_lets +onlyGivenNames x; subst x) | split

theorem wf_reapBand (s : State) (gc : ℕ) (b : ℕ) (hs : Memory.wf s.mem = true) :
    Memory.wf (reapBand s gc b).mem = true := by
  unfold reapBand
  repeat' first | with_reducible assumption | with_reducible apply wf_clearBand | split

theorem wf_endUnit (s : State) (gc : ℕ) (lvl : ℕ) (g : ℕ) (hs : Memory.wf s.mem = true) :
    Memory.wf (endUnit s gc lvl g).mem = true := by
  unfold endUnit
  repeat' first
    | with_reducible assumption | intro _ | with_reducible apply wf_leaveParent | with_reducible apply wf_updCtx
    | with_reducible apply wf_updGrp | with_reducible apply wf_reapBand | with_reducible apply wf_updBand
    | with_reducible apply wf_barAll | with_reducible apply wf_updLaunch | with_reducible apply wf_foldl
    | (extract_lets +onlyGivenNames x; subst x) | split

theorem wf_barWait (s : State) (h : Hdr) (ck : ℕ) (j : ℕ) (ms : List ℕ) (rest : Lanes) (hs : Memory.wf s.mem = true) :
    ActWf (barWait s h ck j ms rest) := by
  unfold barWait
  repeat' first
    | with_reducible assumption | with_reducible apply act_next | with_reducible apply wf_barArrive
    | with_reducible apply wf_stayAt | (extract_lets +onlyGivenNames x; subst x) | split

theorem wf_baraPut (s : State) (h : Hdr) (m : Lanes) (d : Opd) (t : ℕ) (hs : Memory.wf s.mem = true) :
    ActWf (baraPut s h m d t) := by
  unfold baraPut
  repeat' first | with_reducible assumption | with_reducible apply wf_putOnce

theorem wf_loadRoutes (s : State) (hs : Memory.wf s.mem = true) :
    Memory.wf (loadRoutes s).mem = true := by
  unfold loadRoutes
  repeat' first | with_reducible assumption

theorem wf_linkDrain (s : State) (k : Option ℕ) (hs : Memory.wf s.mem = true) :
    Memory.wf (linkDrain s k).mem = true := by
  unfold linkDrain
  repeat' first | with_reducible assumption | with_reducible apply wf_tick1 | split

theorem wf_pickRoute (s : State) (c : ℕ) (t : ℕ) (hs : Memory.wf s.mem = true) :
    OptSndWf (pickRoute s c t) := by
  unfold pickRoute
  repeat' first
    | with_reducible assumption | intro _ | with_reducible apply oq_map | with_reducible apply oq_bind
    | with_reducible apply wf_linkDrain | dsimp -zeta only | split

theorem wf_linkAdd (s : State) (c : ℕ) (id : ℕ) (r : List ℕ) (hs : Memory.wf s.mem = true) :
    Memory.wf (linkAdd s c id r).mem = true := by
  unfold linkAdd
  repeat' first | with_reducible assumption | split

theorem wf_inject (s : State) (ep : ℕ) (t : ℕ) (id : ℕ) (hs : Memory.wf s.mem = true) :
    OptSndWf (inject s ep t id) := by
  unfold inject
  repeat' first
    | with_reducible assumption | intro _ | with_reducible apply oq_pair | with_reducible apply wf_linkAdd
    | with_reducible apply wf_tick1 | with_reducible apply wf_pickRoute

theorem wf_ev (s : State) (o : Option State) (hs : Memory.wf s.mem = true) (ho : OptWf (o)) :
    OutWf (ev s o) := by
  unfold ev
  repeat' first | with_reducible assumption | with_reducible apply out_next | with_reducible apply opt_getD

theorem wf_bucketTake (s : State) (ep : ℕ) (cls : ℕ) (f : ℕ) (hs : Memory.wf s.mem = true) :
    OptWf (bucketTake s ep cls f) := by
  unfold bucketTake
  repeat' first
    | with_reducible assumption | with_reducible apply opt_none | with_reducible apply opt_some
    | (extract_lets +onlyGivenNames x; subst x) | split

theorem wf_bucketDebit (s : State) (ep : ℕ) (cls : ℕ) (f : ℕ) (hs : Memory.wf s.mem = true) :
    Memory.wf (bucketDebit s ep cls f).mem = true := by
  unfold bucketDebit
  repeat' first | with_reducible assumption | (extract_lets +onlyGivenNames x; subst x) | split

theorem wf_tookValue (s : State) (a : Access) (bs : List Byte) (poi : Bool) (hs : Memory.wf s.mem = true) :
    Memory.wf (tookValue s a bs poi).mem = true := by
  unfold tookValue
  repeat' first
    | with_reducible assumption | with_reducible apply wf_updAcc | with_reducible apply wf_addProd
    | with_reducible apply wf_acquireOf

theorem wf_konstRead (s : State) (core : ℕ) (pa : ℕ) (n : ℕ) (hs : Memory.wf s.mem = true) :
    Memory.wf (konstRead s core pa n).2.mem = true := by
  unfold konstRead
  repeat' first
    | with_reducible assumption | with_reducible apply wf_updCore | (extract_lets +onlyGivenNames x; subst x) | dsimp -zeta only
    | split

theorem wf_l1Struck (s : State) (a : Access) (core : ℕ) (pa : ℕ) (hs : Memory.wf s.mem = true) :
    OptWf (l1Struck s a core pa) := by
  unfold l1Struck
  repeat' first
    | with_reducible assumption | intro _ | with_reducible apply opt_none | with_reducible apply wf_bankEvent
    | with_reducible apply wf_count | with_reducible apply wf_unhold | with_reducible apply opt_map'
    | (extract_lets +onlyGivenNames x; subst x) | split

theorem wf_fillView (s : State) (core : ℕ) (pa : ℕ) (hs : Memory.wf s.mem = true) :
    Memory.wf (fillView s core pa).mem = true := by
  unfold fillView
  repeat' first | with_reducible assumption | with_reducible apply wf_viewRead | with_reducible apply wf_readCheck

theorem wf_readView (s : State) (a : Access) (core : ℕ) (pa : ℕ) (hs : Memory.wf s.mem = true) :
    OptWf (readView s a core pa) := by
  unfold readView
  repeat' first
    | with_reducible assumption | with_reducible apply opt_none | with_reducible apply opt_some
    | with_reducible apply wf_l1Struck | with_reducible apply wf_fillView | with_reducible apply wf_viewRead
    | with_reducible apply wf_tookValue | (extract_lets +onlyGivenNames x; subst x) | dsimp -zeta only | split
    | (refine opt_get ?_ (by assumption))

theorem wf_readHome (s : State) (a : Access) (pa : ℕ) (hs : Memory.wf s.mem = true) :
    Memory.wf (readHome s a pa).mem = true := by
  unfold readHome
  repeat' first | with_reducible assumption | with_reducible apply wf_readCheck | with_reducible apply wf_tookValue

theorem wf_readMem (s : State) (a : Access) (pa : ℕ) (hs : Memory.wf s.mem = true) :
    OptWf (readMem s a pa) := by
  unfold readMem
  repeat' first
    | with_reducible assumption | with_reducible apply opt_none | with_reducible apply opt_some
    | with_reducible apply wf_readCheck | with_reducible apply wf_konstRead | with_reducible apply wf_tookValue
    | with_reducible apply wf_readView | with_reducible apply wf_readHome | with_reducible apply wf_unhold
    | (extract_lets +onlyGivenNames x; subst x) | dsimp -zeta only | split

theorem wf_prefLine (s : State) (a : Access) (core : ℕ) (pa : ℕ) (hs : Memory.wf s.mem = true) :
    OptWf (prefLine s a core pa) := by
  unfold prefLine
  repeat' first
    | with_reducible assumption | with_reducible apply opt_none | with_reducible apply opt_some | with_reducible apply wf_updAcc
    | with_reducible apply wf_fillView | (extract_lets +onlyGivenNames x; subst x) | dsimp -zeta only | split

theorem wf_scrStruck (s : State) (who : W64 × W64) (bk : ℕ) (off : ℕ) (n : ℕ) (hs : Memory.wf s.mem = true) :
    Memory.wf (scrStruck s who bk off n).mem = true := by
  unfold scrStruck
  repeat' first
    | with_reducible assumption | intro _ | with_reducible apply wf_bankEvent | with_reducible apply wf_updBand
    | with_reducible apply wf_foldl | (extract_lets +onlyGivenNames x; subst x) | split

theorem wf_atomHome (s : State) (a : Access) (pa : ℕ) (op : Aop) (t : Ty) (b : W64) (c : W64) (hs : Memory.wf s.mem = true) :
    Memory.wf (atomHome s a pa op t b c).mem = true := by
  unfold atomHome
  repeat' first
    | with_reducible assumption | with_reducible apply wf_readCheck | with_reducible apply wf_homeWrite
    | with_reducible apply wf_tookValue | with_reducible apply wf_updAcc | split

theorem wf_atomView (s : State) (a : Access) (core : ℕ) (pa : ℕ) (op : Aop) (t : Ty) (b : W64) (c : W64)
    (hs : Memory.wf s.mem = true) :
    Memory.wf (atomView s a core pa op t b c).mem = true := by
  unfold atomView
  repeat' first
    | with_reducible assumption | with_reducible apply wf_fillView | with_reducible apply wf_viewRead
    | with_reducible apply wf_tookValue | with_reducible apply wf_updAcc | with_reducible apply wf_viewWrite
    | (extract_lets +onlyGivenNames x; subst x) | dsimp -zeta only | split

theorem wf_atomScr (s : State) (a : Access) (bk : ℕ) (off : ℕ) (op : Aop) (t : Ty) (b : W64) (c : W64)
    (hs : Memory.wf s.mem = true) :
    OptWf (atomScr s a bk off op t b c) := by
  unfold atomScr
  repeat' first
    | with_reducible assumption | intro _ | with_reducible apply wf_scrStruck | with_reducible apply wf_scrStore
    | with_reducible apply wf_tookValue | with_reducible apply wf_updAcc | with_reducible apply opt_map' | split

theorem wf_applyFirst (s : State) (a : Access) (hs : Memory.wf s.mem = true) :
    OptWf (applyFirst s a) := by
  unfold applyFirst
  repeat' first
    | with_reducible assumption | intro _ | with_reducible apply opt_none | with_reducible apply opt_some
    | with_reducible apply wf_updAcc | with_reducible apply wf_viewWrite | with_reducible apply wf_homeWrite
    | with_reducible apply wf_atomHome | with_reducible apply wf_l1Struck | with_reducible apply wf_atomView
    | with_reducible apply wf_scrStore | with_reducible apply wf_atomScr | with_reducible apply opt_map' | split
    | (refine opt_get ?_ (by assumption))

theorem wf_fenceAcquire (s : State) (a : Access) (hs : Memory.wf s.mem = true) :
    Memory.wf (fenceAcquire s a).mem = true := by
  unfold fenceAcquire
  repeat' first | with_reducible assumption | with_reducible apply wf_clearView | split

theorem wf_afterFill (s : State) (d : Dest) (hs : Memory.wf s.mem = true) :
    Memory.wf (afterFill s d).mem = true := by
  unfold afterFill
  repeat' first | with_reducible assumption | with_reducible apply wf_reapBand | split

theorem wf_winAnswer (s : State) (a : Access) (bs : List Byte) (poi : Bool) (hs : Memory.wf s.mem = true) :
    OptWf (winAnswer s a bs poi) := by
  unfold winAnswer
  repeat' first
    | with_reducible assumption | with_reducible apply opt_none | with_reducible apply opt_some
    | with_reducible apply wf_tookValue | with_reducible apply wf_updAcc | split

theorem wf_copyReport (s : State) (a : Access) (port : ℕ) (hs : Memory.wf s.mem = true) :
    OptWf (copyReport s a port) := by
  unfold copyReport
  repeat' first
    | with_reducible assumption | with_reducible apply opt_none | with_reducible apply opt_some | with_reducible apply wf_updAcc
    | split

theorem wf_replyDebit (s : State) (a : Access) (hs : Memory.wf s.mem = true) :
    Memory.wf (replyDebit s a).mem = true := by
  unfold replyDebit
  repeat' first
    | with_reducible assumption | with_reducible apply wf_bucketDebit | (extract_lets +onlyGivenNames x; subst x) | split

theorem wf_arrCheck (s : State) (h : Hdr) (m : Lanes) (w : Bool) (off : ℕ) (k : Unit → Act) (hs : Memory.wf s.mem = true)
    (hk : ∀ v0, ActWf (k v0)) :
    ActWf (arrCheck s h m w off k) := by
  unfold arrCheck
  repeat' first | with_reducible assumption | with_reducible apply hk | with_reducible apply wf_scrFault | split

theorem wf_copyFault (s : State) (h : Hdr) (m : Lanes) (code : ℕ) (c : Copy) (scr : Bool) (addr : ℕ)
    (hs : Memory.wf s.mem = true) :
    ActWf (copyFault s h m code c scr addr) := by
  unfold copyFault
  repeat' first | with_reducible assumption | with_reducible apply act_fault

theorem wf_copyXlate (s : State) (c : Copy) (secs : List ℕ) (hs : Memory.wf s.mem = true) :
    Memory.wf (copyXlate s c secs).2.mem = true := by
  unfold copyXlate
  repeat' first | with_reducible assumption | with_reducible apply wf_xlate

theorem wf_enterCopy (s : State) (h : Hdr) (c : Copy) (secs : List (ℕ × ℕ)) (hs : Memory.wf s.mem = true) :
    Memory.wf (enterCopy s h c secs).mem = true := by
  unfold enterCopy
  split
  · exact hs
  · rename_i g _
    extract_lets core id acc t u secL v
    have ht : Memory.wf t.mem = true := wf_addAcc _ _ hs
    have hu : Memory.wf u.mem = true := by
      subst u
      split
      · exact wf_foldl ht (fun w b hw => wf_arrPut _ _ _ _ hw)
      · exact ht
    have hv : Memory.wf v.mem = true := by
      subst v
      split
      · refine wf_foldl_eq hu (fun w x r hw e => ?_)
        subst e
        refine wf_foldl_eq hw (fun w' p r' hw' e' => ?_)
        by_cases c : isMem w'.floor x.pa = true
        · exact (if_pos c).symm.trans e' ▸ wf_unhold _ _ _ _ hw'
        · exact (if_neg c).symm.trans e' ▸ hw'
      · exact hu
    split
    · exact wf_updAcc _ _ _ hv
    · exact wf_updCore _ _ _ hv

theorem wf_copyMap (s : State) (c : Copy) (hs : Memory.wf s.mem = true) :
    Memory.wf (copyMap s c).2.mem = true := by
  unfold copyMap
  repeat' first | with_reducible assumption | with_reducible apply wf_copyXlate | split

theorem wf_copyCmd (s : State) (h : Hdr) (k : CopyKind) (a : Src) (b : Src) (msk : Option Src) (imm : BitVec 27)
    (hs : Memory.wf s.mem = true) :
    ActWf (copyCmd s h k a b msk imm) := by
  unfold copyCmd
  repeat' first
    | with_reducible assumption | intro _ | with_reducible apply act_next | with_reducible apply act_wait
    | with_reducible apply wf_onceAll | with_reducible apply wf_checkUses | with_reducible apply wf_copyFault
    | with_reducible apply wf_scrFault | with_reducible apply wf_copyMap | with_reducible apply wf_flt
    | with_reducible apply wf_checkPoison | with_reducible apply wf_enterCopy | with_reducible apply act_ite
    | (extract_lets +onlyGivenNames x; subst x) | dsimp -zeta only | split | (refine oa_get ?_ (by assumption))

theorem wf_scrTake (s : State) (who : W64 × W64) (bk : ℕ) (off : ℕ) (n : ℕ) (hs : Memory.wf s.mem = true) :
    Memory.wf (scrTake s who bk off n).2.mem = true := by
  unfold scrTake
  repeat' first
    | with_reducible assumption | with_reducible apply wf_scrStruck | (extract_lets +onlyGivenNames x; subst x) | split

theorem wf_readPiece (s : State) (core : ℕ) (c : Copy) (x : Sector) (p : Piece) (hs : Memory.wf s.mem = true) :
    OptSndWf (readPiece s core c x p) := by
  unfold readPiece
  repeat' first
    | with_reducible assumption | with_reducible apply oq_none | with_reducible apply oq_some | with_reducible apply wf_scrTake
    | with_reducible apply wf_tick1 | with_reducible apply wf_readCheck | (extract_lets +onlyGivenNames x; subst x)
    | dsimp -zeta only | split

theorem wf_pieceToPlane (s : State) (c : Copy) (x : Sector) (p : Piece) (bs : List Byte) (poi : Bool)
    (hs : Memory.wf s.mem = true) :
    Memory.wf (pieceToPlane s c x p bs poi).mem = true := by
  unfold pieceToPlane
  repeat' first | with_reducible assumption | with_reducible apply wf_updCore

theorem wf_copyPacket (s : State) (c : Copy) (pa : ℕ) (hs : Memory.wf s.mem = true) :
    OptWf (copyPacket s c pa) := by
  unfold copyPacket
  repeat' first
    | with_reducible assumption | intro _ | with_reducible apply opt_pair | with_reducible apply opt_none
    | with_reducible apply opt_some | with_reducible apply wf_updAcc | with_reducible apply wf_inject
    | (extract_lets +onlyGivenNames x; subst x) | split

theorem wf_reducePiece (s : State) (c : Copy) (op : RedOp) (pa : ℕ) (n : ℕ) (bs : List Byte) (poi : Bool)
    (hs : Memory.wf s.mem = true) :
    Memory.wf (reducePiece s c op pa n bs poi).mem = true := by
  unfold reducePiece
  repeat' first
    | with_reducible assumption | with_reducible apply wf_readCheck | with_reducible apply wf_poisonSec
    | with_reducible apply wf_homePut | dsimp -zeta only | split

theorem wf_coverSec (s : State) (c : Copy) (x : Sector) (hs : Memory.wf s.mem = true) :
    Memory.wf (coverSec s c x).mem = true := by
  unfold coverSec
  repeat' first | with_reducible assumption | split

theorem wf_pieceToHome (s : State) (core : ℕ) (c : Copy) (x : Sector) (pa : ℕ) (n : ℕ) (bs : List Byte) (poi : Bool)
    (hs : Memory.wf s.mem = true) :
    Memory.wf (pieceToHome s core c x pa n bs poi).mem = true := by
  unfold pieceToHome
  repeat' first
    | with_reducible assumption | with_reducible apply wf_coverSec | with_reducible apply wf_unhold
    | with_reducible apply wf_reducePiece | with_reducible apply wf_homeBytes | with_reducible apply wf_homeWrite
    | with_reducible apply wf_updAcc | (extract_lets +onlyGivenNames x; subst x) | split

theorem wf_writePiece (s : State) (core : ℕ) (c : Copy) (x : Sector) (p : Piece) (bs : List Byte) (poi : Bool)
    (hs : Memory.wf s.mem = true) :
    OptWf (writePiece s core c x p bs poi) := by
  unfold writePiece
  split
  · exact opt_none
  · split
    · exact opt_some (wf_pieceToPlane _ _ _ _ _ _ hs)
    · split
      · extract_lets pa
        clear_value pa
        split
        · exact opt_none
        · exact opt_map_eq (wf_copyPacket _ _ _ hs) (fun t r ht e => wf_eq (wf_pieceToHome _ _ _ _ _ _ _ _ ht) e)
      · exact opt_some (wf_scrStore _ _ _ _ _ hs)

theorem wf_countSector (s : State) (c : Copy) (x : Sector) (poi : Bool) (hs : Memory.wf s.mem = true) :
    Memory.wf (countSector s c x poi).mem = true := by
  unfold countSector
  repeat' first | with_reducible assumption | with_reducible apply wf_arrPut | split

theorem wf_putSector (s : State) (core : ℕ) (c : Copy) (i : ℕ) (x : Sector) (hs : Memory.wf s.mem = true) :
    Memory.wf (putSector s core c i x).mem = true := by
  unfold putSector
  repeat' first
    | with_reducible assumption | with_reducible apply wf_updCore | with_reducible apply wf_updAcc
    | (extract_lets +onlyGivenNames x; subst x) | split

theorem wf_cleanSector (s : State) (c : Copy) (x : Sector) (hs : Memory.wf s.mem = true) :
    Memory.wf (cleanSector s c x).mem = true := by
  unfold cleanSector
  repeat' first | with_reducible assumption | with_reducible apply wf_clearSec | (extract_lets +onlyGivenNames x; subst x) | split

theorem wf_endSector (s : State) (core : ℕ) (c : Copy) (i : ℕ) (x : Sector) (hs : Memory.wf s.mem = true) :
    Memory.wf (endSector s core c i x).mem = true := by
  unfold endSector
  repeat' first
    | with_reducible assumption | intro _ | with_reducible apply wf_countSector | with_reducible apply wf_cleanSector
    | with_reducible apply wf_updAcc | with_reducible apply wf_updCore | with_reducible apply wf_reapBand
    | with_reducible apply wf_foldl | (extract_lets +onlyGivenNames x; subst x) | split

theorem wf_movePiece (s : State) (core : ℕ) (c : Copy) (i : ℕ) (x : Sector) (l : List Piece) (k : ℕ) (p : Piece)
    (hs : Memory.wf s.mem = true) :
    OptWf (movePiece s core c i x l k p) := by
  unfold movePiece
  repeat' first
    | with_reducible assumption | intro _ | with_reducible apply opt_pair | with_reducible apply wf_putSector
    | with_reducible apply wf_readPiece | with_reducible apply wf_endSector | with_reducible apply wf_writePiece
    | with_reducible apply opt_map | (extract_lets +onlyGivenNames x; subst x) | split

theorem wf_sendPacket (s : State) (ep t cls f id : Nat) (hs : Memory.wf s.mem = true) {r : Nat × List Nat × State}
    (e : sendPacket s ep t cls f id = some r) : Memory.wf r.2.2.mem = true := by
  unfold sendPacket at e
  dsimp only at e
  split at e
  · obtain ⟨u, hu, e⟩ := Option.bind_eq_some_iff.1 e
    obtain ⟨v, hv, rfl⟩ := Option.map_eq_some_iff.1 e
    exact oq_get (wf_inject _ _ _ _ (opt_get (wf_bucketTake _ _ _ _ hs) hu)) (r := inject u ep t id) (a := v.1) (t := v.2) hv
  · cases e

theorem wf_sectorPacket (s : State) (core : ℕ) (c : Copy) (x : Sector) (hs : Memory.wf s.mem = true) :
    OptWf (sectorPacket s core c x) := by
  unfold sectorPacket
  extract_lets ep cls
  split
  · exact opt_some hs
  · split
    · exact opt_none
    · split
      · exact wf_bucketTake _ _ _ _ hs
      · unfold OptWf
        intro t e
        obtain ⟨r, hr, rfl⟩ := Option.map_eq_some_iff.1 e
        exact wf_sendPacket _ _ _ _ _ _ hs hr

theorem wf_writeMap (s : State) (bk : ℕ) (d : BitVec 4) (x : W64) (hs : Memory.wf s.mem = true) :
    Memory.wf (writeMap s bk d x).mem = true := by
  unfold writeMap
  repeat' first | with_reducible assumption | with_reducible apply wf_updCore | with_reducible apply wf_updBand | split

theorem wf_plstTile (s : State) (bk : ℕ) (role : Bool) (m : W64) (off : ℕ) (hs : Memory.wf s.mem = true) :
    Memory.wf (plstTile s bk role m off).mem = true := by
  unfold plstTile
  repeat' first
    | with_reducible assumption | with_reducible apply wf_updCore | (extract_lets +onlyGivenNames x; subst x) | dsimp -zeta only
    | split

theorem wf_accUndef (s : State) (core : ℕ) (as : List ℕ) (hs : Memory.wf s.mem = true) :
    Memory.wf (accUndef s core as).mem = true := by
  unfold accUndef
  repeat' first | with_reducible assumption | with_reducible apply wf_updCore | with_reducible apply wf_tick1

theorem wf_enqMat (s : State) (bk : ℕ) (k : MatKind) (rd : List ℕ) (wr : List ℕ) (acc : Option ℕ) (hs : Memory.wf s.mem = true) :
    Memory.wf (enqMat s bk k rd wr acc).mem = true := by
  unfold enqMat
  repeat' first | with_reducible assumption | with_reducible apply wf_updCore

theorem wf_deferFault (s : State) (core : ℕ) (id : ℕ) (f : MatFault) (hs : Memory.wf s.mem = true) :
    Memory.wf (deferFault s core id f).mem = true := by
  unfold deferFault
  repeat' first | with_reducible assumption | with_reducible apply wf_updCore

theorem wf_mmaPart (s : State) (bk : ℕ) (b : Band) (o : OpMma) (steps : ℕ) (hs : Memory.wf s.mem = true) :
    Memory.wf (mmaPart s bk b o steps).mem = true := by
  unfold mmaPart
  repeat' first
    | with_reducible assumption | with_reducible apply wf_tick1 | with_reducible apply wf_enqMat
    | with_reducible apply wf_deferFault | with_reducible apply wf_updCore | (extract_lets +onlyGivenNames x; subst x) | split

theorem wf_mmaAct (s : State) (h : Hdr) (o : OpMma) (steps : ℕ) (hs : Memory.wf s.mem = true) :
    ActWf (mmaAct s h o steps) := by
  unfold mmaAct
  repeat' first
    | with_reducible assumption | intro _ | with_reducible apply act_next | with_reducible apply act_wait
    | with_reducible apply wf_onceAll | with_reducible apply wf_flt | with_reducible apply wf_mmaPart
    | with_reducible apply wf_atCtx | with_reducible apply wf_foldl | (extract_lets +onlyGivenNames x; subst x) | split

theorem wf_queueAct (s : State) (bk : ℕ) (k : MatKind) (rd : List ℕ) (wr : List ℕ) (acc : Option ℕ) (pre : State → State)
    (hs : Memory.wf s.mem = true) (hpre : ∀ v0, Memory.wf v0.mem = true → Memory.wf (pre v0).mem = true) :
    ActWf (queueAct s bk k rd wr acc pre) := by
  unfold queueAct
  repeat' first
    | with_reducible assumption | with_reducible apply hpre | with_reducible apply act_next | with_reducible apply act_wait
    | with_reducible apply wf_enqMat | (extract_lets +onlyGivenNames x; subst x) | split

theorem wf_rowAct (s : State) (h : Hdr) (t : Ty) (d : Opd) (a : BitVec 3) (b : Src) (row : BitVec 6)
    (k : ℕ → ℕ → Lanes → ℕ → MatKind) (f64 : Bool) (hs : Memory.wf s.mem = true) :
    ActWf (rowAct s h t d a b row k f64) := by
  unfold rowAct
  repeat' first
    | with_reducible assumption | intro _ | with_reducible apply wf_atLanes | with_reducible apply wf_checkAll
    | with_reducible apply wf_updGrp | with_reducible apply wf_queueAct | with_reducible apply act_lanes
    | (extract_lets +onlyGivenNames x; subst x) | split | (refine oa_get ?_ (by assumption))

theorem wf_areaAct (s : State) (h : Hdr) (es : ℕ) (off : BitVec 27) (w : Bool) (k : MatKind) (rd : List ℕ) (wr : List ℕ)
    (hs : Memory.wf s.mem = true) :
    ActWf (areaAct s h es off w k rd wr) := by
  unfold areaAct
  repeat' first
    | with_reducible assumption | intro _ | with_reducible apply wf_onceAll | with_reducible apply wf_areaFault
    | with_reducible apply wf_queueAct | with_reducible apply wf_addAcc | (extract_lets +onlyGivenNames x; subst x) | split

theorem wf_rowProds (s : State) (gk : ℕ) (reg : ℕ) (gap : ℕ) (lanes : Lanes) (t : Ty) (v : ℕ → ℕ) (bad : ℕ → Bool)
    (hs : Memory.wf s.mem = true) :
    Memory.wf (rowProds s gk reg gap lanes t v bad).mem = true := by
  unfold rowProds
  repeat' first | with_reducible assumption | intro _ | with_reducible apply wf_addProd | with_reducible apply wf_foldl

theorem wf_deferMat (s : State) (core : ℕ) (o : MatOp) (code : ℕ) (src : ℕ) (hs : Memory.wf s.mem = true) :
    Memory.wf (deferMat s core o code src).mem = true := by
  unfold deferMat
  repeat' first | with_reducible assumption | with_reducible apply wf_deferFault

theorem wf_strikeMat (s : State) (core : ℕ) (hs : Memory.wf s.mem = true) :
    Memory.wf (strikeMat s core).mem = true := by
  unfold strikeMat
  repeat' first
    | with_reducible assumption | intro _ | with_reducible apply wf_updCore | with_reducible apply wf_foldl
    | (extract_lets +onlyGivenNames x; subst x) | split

theorem wf_matEffect (s : State) (core : ℕ) (o : MatOp) (hs : Memory.wf s.mem = true) :
    Memory.wf (matEffect s core o).mem = true := by
  unfold matEffect
  repeat' first
    | with_reducible assumption | with_reducible apply wf_deferMat | with_reducible apply wf_accUndef
    | with_reducible apply wf_updCore | with_reducible apply wf_rowProds | (extract_lets +onlyGivenNames x; subst x)
    | dsimp -zeta only | split

theorem wf_elToScr (s : State) (core : ℕ) (o : MatOp) (at_ : ℕ) (es : ℕ) (v : ℕ) (bad : List Bool) (hs : Memory.wf s.mem = true) :
    Memory.wf (elToScr s core o at_ es v bad).mem = true := by
  unfold elToScr
  repeat' first
    | with_reducible assumption | intro _ | with_reducible apply wf_bankEvent | with_reducible apply wf_scrStore
    | with_reducible apply wf_foldl | split

theorem wf_matElement (s : State) (core : ℕ) (o : MatOp) (n : ℕ) (hs : Memory.wf s.mem = true) :
    Memory.wf (matElement s core o n).mem = true := by
  unfold matElement
  repeat' first
    | with_reducible assumption | with_reducible apply wf_elToScr | with_reducible apply wf_scrTake
    | with_reducible apply wf_deferMat | with_reducible apply wf_tick1 | with_reducible apply wf_updCore
    | (extract_lets +onlyGivenNames x; subst x) | dsimp -zeta only | split

theorem wf_endMat (s : State) (core : ℕ) (o : MatOp) (hs : Memory.wf s.mem = true) :
    Memory.wf (endMat s core o).mem = true := by
  unfold endMat
  repeat' first
    | with_reducible assumption | with_reducible apply wf_updAcc | with_reducible apply wf_updCore
    | with_reducible apply wf_count | split

theorem wf_setCtxWait (s : State) (ck : ℕ) (w : WaitSt) (hs : Memory.wf s.mem = true) :
    Memory.wf (setCtxWait s ck w).mem = true := by
  unfold setCtxWait
  repeat' first | with_reducible assumption | with_reducible apply wf_updGrp | with_reducible apply wf_updCtx | split

theorem wf_addWake (s : State) (pa : ℕ) (task : ℕ) (ck : ℕ) (fut : Bool) (hs : Memory.wf s.mem = true) :
    Memory.wf (addWake s pa task ck fut).mem = true := by
  unfold addWake
  repeat' first | with_reducible assumption | split

theorem wf_dropWake (s : State) (pa : ℕ) (ck : ℕ) (hs : Memory.wf s.mem = true) :
    Memory.wf (dropWake s pa ck).mem = true := by
  unfold dropWake
  repeat' first | with_reducible assumption | with_reducible apply wf_unregister

theorem wf_wakeAll (s : State) (pa : ℕ) (hs : Memory.wf s.mem = true) :
    Memory.wf (wakeAll s pa).mem = true := by
  unfold wakeAll
  repeat' first | with_reducible assumption | with_reducible apply wf_wakeOvf

theorem wf_makeReady (s : State) (gc : ℕ) (b : ℕ) (hs : Memory.wf s.mem = true) :
    Memory.wf (makeReady s gc b).mem = true := by
  unfold makeReady
  repeat' first | with_reducible assumption | with_reducible apply wf_readyAdd | with_reducible apply wf_updBand | split

theorem wf_dueScan (s : State) (hs : Memory.wf s.mem = true) :
    Memory.wf (dueScan s).mem = true := by
  unfold dueScan
  repeat' first
    | with_reducible assumption | intro _ | with_reducible apply wf_makeReady | with_reducible apply wf_updBand
    | with_reducible apply wf_foldl | split

theorem wf_wakeScan (s : State) (hs : Memory.wf s.mem = true) :
    Memory.wf (wakeScan s).mem = true := by
  unfold wakeScan
  repeat' first | with_reducible assumption | intro _ | with_reducible apply wf_makeReady | with_reducible apply wf_foldl | split

theorem wf_futWait (s : State) (pa : ℕ) (task : ℕ) (ck : ℕ) (hs : Memory.wf s.mem = true) :
    Memory.wf (futWait s pa task ck).mem = true := by
  unfold futWait
  repeat' first
    | with_reducible assumption | with_reducible apply wf_addWake | with_reducible apply wf_futPut
    | (extract_lets +onlyGivenNames x; subst x) | split

theorem wf_futFill (s : State) (pa : ℕ) (v : W64) (orph : Bool) (hs : Memory.wf s.mem = true) :
    Memory.wf (futFill s pa v orph).mem = true := by
  unfold futFill
  repeat' first
    | with_reducible assumption | with_reducible apply wf_wakeScan | with_reducible apply wf_wakeAll
    | with_reducible apply wf_futPut

theorem wf_putLink (s : State) (pa : ℕ) (off : ℕ) (id : ℕ) (hs : Memory.wf s.mem = true) :
    Memory.wf (putLink s pa off id).mem = true := by
  unfold putLink
  repeat' first | with_reducible assumption | with_reducible apply wf_devPut

theorem wf_putOwnLink (s : State) (gc : ℕ) (off : ℕ) (id : ℕ) (hs : Memory.wf s.mem = true) :
    Memory.wf (putOwnLink s gc off id).mem = true := by
  unfold putOwnLink
  repeat' first | with_reducible assumption | with_reducible apply wf_putLink | split

theorem wf_markTaken (s : State) (what : ReadyItem) (b : Bool) (hs : Memory.wf s.mem = true) :
    Memory.wf (markTaken s what b).mem = true := by
  unfold markTaken
  repeat' first | with_reducible assumption

theorem wf_agreeTake (s : State) (gcW : ℕ) (b : ℕ) (pa : ℕ) (idO : ℕ) (e : ReadyEnt) (gcO : ℕ) (hs : Memory.wf s.mem = true) :
    Memory.wf (agreeTake s gcW b pa idO e gcO).mem = true := by
  unfold agreeTake
  repeat' first
    | with_reducible assumption | with_reducible apply wf_markTaken | with_reducible apply wf_updLaunch
    | with_reducible apply wf_putLink | with_reducible apply wf_setTaskState | with_reducible apply wf_putOwnLink
    | with_reducible apply wf_requestPark | with_reducible apply wf_updBand

theorem wf_takeReady (s : State) (gcW : ℕ) (b : ℕ) (pa : ℕ) (x : Band) (e : ReadyEnt) (t : Task) (hs : Memory.wf s.mem = true) :
    OptWf (takeReady s gcW b pa x e t) := by
  unfold takeReady
  repeat' first
    | with_reducible assumption | with_reducible apply opt_none | with_reducible apply opt_some
    | with_reducible apply wf_agreeTake | split

theorem wf_takeParked (s : State) (gcW : ℕ) (b : ℕ) (pa : ℕ) (x : Band) (e : ReadyEnt) (gcO : ℕ) (bO : ℕ)
    (hs : Memory.wf s.mem = true) :
    OptWf (takeParked s gcW b pa x e gcO bO) := by
  unfold takeParked
  repeat' first
    | with_reducible assumption | with_reducible apply opt_none | with_reducible apply opt_some
    | with_reducible apply wf_agreeTake | split

theorem wf_takeIn (s : State) (gcW : ℕ) (b : ℕ) (pa : ℕ) (hs : Memory.wf s.mem = true) :
    OptWf (takeIn s gcW b pa) := by
  unfold takeIn
  repeat' first
    | with_reducible assumption | with_reducible apply opt_none | with_reducible apply wf_takeReady
    | with_reducible apply wf_takeParked | split

theorem wf_undoTake (s : State) (bk : ℕ) (hs : Memory.wf s.mem = true) :
    Memory.wf (undoTake s bk).mem = true := by
  unfold undoTake
  repeat' first
    | with_reducible assumption | with_reducible apply wf_putLink | with_reducible apply wf_setTaskState
    | with_reducible apply wf_putOwnLink | with_reducible apply wf_updLaunch | with_reducible apply wf_updBand
    | with_reducible apply wf_markTaken | dsimp -zeta only | split

theorem wf_sweepTakes (s : State) (hs : Memory.wf s.mem = true) :
    Memory.wf (sweepTakes s).mem = true := by
  unfold sweepTakes
  repeat' first | with_reducible assumption | intro _ | with_reducible apply wf_undoTake | with_reducible apply wf_foldl | split

theorem wf_placeOwner (s : State) (bk : ℕ) (hs : Memory.wf s.mem = true) :
    Memory.wf (placeOwner s bk).mem = true := by
  unfold placeOwner
  repeat' first
    | with_reducible assumption | with_reducible apply wf_makeReady | with_reducible apply wf_putOwnLink
    | with_reducible apply wf_updBand | with_reducible apply wf_placeBandAt | with_reducible apply wf_addCtxs
    | with_reducible apply wf_updLaunch | with_reducible apply wf_startTops | with_reducible apply wf_freePend
    | with_reducible apply wf_reoccupy | with_reducible apply wf_movePlace | (extract_lets +onlyGivenNames x; subst x)
    | dsimp -zeta only | split

theorem wf_ownerTest (s : State) (ck : ℕ) (idO : ℕ) (hs : Memory.wf s.mem = true) :
    TakenWf (ownerTest s ck idO) := by
  unfold ownerTest
  repeat' first
    | with_reducible assumption | with_reducible apply taken_cycle | with_reducible apply taken_sleep
    | with_reducible apply taken_taken | with_reducible apply wf_takeIn | (extract_lets +onlyGivenNames x; subst x) | split
    | (refine opt_get ?_ (by assumption))

theorem wf_writeImg (s : State) (gc : ℕ) (base : ℕ) (l : Img) (hs : Memory.wf s.mem = true) :
    OptWf (writeImg s gc base l) := by
  unfold writeImg
  repeat' first
    | with_reducible assumption | intro _ | with_reducible apply opt_some | with_reducible apply wf_virtWrite
    | with_reducible apply opt_foldl | with_reducible apply opt_bind

theorem wf_readBand (s : State) (gc : ℕ) (b : ℕ) (hs : Memory.wf s.mem = true) :
    Memory.wf (readBand s gc b).mem = true := by
  unfold readBand
  repeat' first
    | with_reducible assumption | intro _ | with_reducible apply wf_updCtx | with_reducible apply wf_updGrp
    | with_reducible apply wf_updBand | with_reducible apply wf_updCore | with_reducible apply wf_foldl
    | (extract_lets +onlyGivenNames x; subst x) | dsimp -zeta only | split

theorem wf_readUnit (s : State) (gc : ℕ) (j : ℕ) (g : ℕ) (hs : Memory.wf s.mem = true) :
    Memory.wf (readUnit s gc j g).mem = true := by
  unfold readUnit
  repeat' first | with_reducible assumption | intro _ | with_reducible apply wf_updCtx | with_reducible apply wf_foldl

theorem wf_bumpCounter (s : State) (t : Task) (va : ℕ) (hs : Memory.wf s.mem = true) :
    Memory.wf (bumpCounter s t va).mem = true := by
  unfold bumpCounter
  repeat' first
    | with_reducible assumption | with_reducible apply wf_wakeScan | with_reducible apply wf_devPut
    | with_reducible apply wf_walked | split

theorem wf_readyTask (s : State) (t : Task) (bk : Option ℕ) (hs : Memory.wf s.mem = true) :
    Memory.wf (readyTask s t bk).mem = true := by
  unfold readyTask
  repeat' first | with_reducible assumption | with_reducible apply wf_readyAdd

theorem wf_blockTask (s : State) (pa : ℕ) (t : Task) (hs : Memory.wf s.mem = true) :
    Memory.wf (blockTask s pa t).mem = true := by
  unfold blockTask
  repeat' first | with_reducible assumption

theorem wf_idFailed (s : State) (t : Task) (id : ℕ) (hs : Memory.wf s.mem = true) :
    Memory.wf (idFailed s t id).mem = true := by
  unfold idFailed
  repeat' first | with_reducible assumption | with_reducible apply wf_feFailed | split

theorem wf_decReady (u : State) (pa : Nat) (z : Task) (hu : Memory.wf u.mem = true) :
    Memory.wf (readyTask (setTaskState { u with blocked := u.blocked.filter (fun p => p.1 != pa) } pa 2) z none).mem = true :=
  wf_readyTask _ _ _ (wf_setTaskState _ _ _ hu)

theorem wf_decSucc (s : State) (t : Task) (id : ℕ) (hs : Memory.wf s.mem = true) :
    Memory.wf (decSucc s t id).1.mem = true := by
  unfold decSucc
  rcases taskOfId s t id with _ | va
  · exact wf_idFailed _ _ _ hs
  · dsimp only
    rcases feAddr s t.space t.top va .write with _ | pa
    · exact wf_walked _ _ _ _ hs
    · dsimp only
      have hu : Memory.wf (devPut s pa 8 (devGet s pa 8 - 2 ^ 48)).mem = true := wf_devPut _ _ _ _ hs
      generalize devPut s pa 8 (devGet s pa 8 - 2 ^ 48) = u at hu ⊢
      by_cases c : bitsOf (devGet s pa 8) 63 48 = 0
      · rw [if_pos c]; exact hs
      · rw [if_neg c]
        by_cases d : bitsOf (devGet s pa 8) 34 32 = 1 ∧ bitsOf (devGet s pa 8) 63 48 = 1
        · rw [if_pos d]; exact pair1 (wf_decReady _ _ _ hu)
        · rw [if_neg d]; exact hu

theorem wf_retStatus (s : State) (pa : ℕ) (out : ℕ) (code : ℕ) (hs : Memory.wf s.mem = true) :
    Memory.wf (retStatus s pa out code).mem = true := by
  unfold retStatus
  repeat' first | with_reducible assumption | with_reducible apply wf_devPut

theorem wf_retLost (s : State) (pa : ℕ) (hs : Memory.wf s.mem = true) :
    Memory.wf (retLost s pa).mem = true := by
  unfold retLost
  repeat' first | with_reducible assumption | with_reducible apply wf_devPut

theorem wf_retFuture (s : State) (t : Task) (bs : List Byte) (hs : Memory.wf s.mem = true) :
    Memory.wf (retFuture s t bs).mem = true := by
  unfold retFuture
  repeat' first
    | with_reducible assumption | with_reducible apply wf_futFill | with_reducible apply wf_walked
    | (extract_lets +onlyGivenNames x; subst x) | split

theorem wf_retSucc (s : State) (t : Task) (pa : ℕ) (id : ℕ) (hs : Memory.wf s.mem = true) :
    Memory.wf (retSucc s t pa id).mem = true := by
  unfold retSucc
  repeat' first
    | with_reducible assumption | with_reducible apply wf_decSucc | with_reducible apply wf_retLost | dsimp -zeta only | split

theorem wf_retireRec (s : State) (t : Task) (pa : ℕ) (bs : List Byte) (out : ℕ) (code : ℕ) (own : Bool)
    (hs : Memory.wf s.mem = true) :
    Memory.wf (retireRec s t pa bs out code own).mem = true := by
  unfold retireRec
  repeat' first
    | with_reducible assumption | intro _ | with_reducible apply wf_retStatus | with_reducible apply wf_retFuture
    | with_reducible apply wf_bumpCounter | with_reducible apply wf_retSucc | with_reducible apply wf_retLost
    | with_reducible apply wf_setTaskState | with_reducible apply wf_foldl | split

theorem wf_spawn (s : State) (va : ℕ) (space : ℕ) (top : ℕ) (tdir : W64) (tdlim : ℕ) (priv : Bool) (bk : Option ℕ)
    (hs : Memory.wf s.mem = true) :
    SpawnWf (spawn s va space top tdir tdlim priv bk) := by
  unfold spawn
  split
  · rename_i bs pa _ _
    extract_lets t h seen dn v drop reject fva f? taken w
    have hd : ∀ c u, Memory.wf u.mem = true → SpawnWf (dn c u) := by
      intro c u hu
      subst dn
      dsimp only
      split
      · exact spawn_done hu
      · exact spawn_wait
    have hp := wf_readCheck s pa 128 hs
    have hv : Memory.wf v.mem = true := by
      subst v seen
      dsimp only
      split
      · exact wf_readCheck _ _ _ hp
      · exact hp
    clear_value taken f?
    have hw : Memory.wf w.mem = true := by
      subst w
      split
      · exact wf_futPut _ _ _ hv
      · exact hv
    have hr : ∀ c, SpawnWf (reject c) := fun c => hd _ _ (wf_freePend _ _ _ (wf_retireRec _ _ _ _ _ _ _ hv))
    have hq : ∀ u, Memory.wf u.mem = true → Memory.wf (drop u).mem = true := fun u hu => wf_freePend _ _ _ hu
    have hz : Memory.wf (feFailed v space top (bfld bs 0x20 8) 256 .read).mem = true := wf_feFailed _ _ _ _ _ _ hv
    have hrr : ∀ c, Memory.wf (retireRec (feFailed v space top (bfld bs 0x20 8) 256 .read) t pa bs 3 c true).mem = true := fun c => wf_retireRec _ _ _ _ _ _ _ hz
    clear_value w reject drop v dn seen
    split
    · exact spawn_done hp
    · split
      · split
        · exact hr _
        · split
          · exact hr _
          · split
            · exact hr _
            · split
              · exact hd _ _ (wf_readyTask _ _ _ (wf_setTaskState _ _ _ hw))
              · exact spawn_done (hq _ (wf_blockTask _ _ _ (wf_setTaskState _ _ _ hw)))
      · exact hd _ _ (hq _ (hrr _))
  · exact spawn_done (wf_freePend _ _ _ (wf_feFailed _ _ _ _ _ _ hs))

theorem wf_wordGo (s : State) (h : Hdr) (width : ℕ) (wr : Bool) (uses : List Use) (va : W64) (k : State → ℕ → Act)
    (hs : Memory.wf s.mem = true) (hk : ∀ v0 v1, Memory.wf v0.mem = true → ActWf (k v0 v1)) :
    ActWf (wordGo s h width wr uses va k) := by
  unfold wordGo
  repeat' first
    | with_reducible assumption | intro _ | with_reducible apply hk | with_reducible apply act_wait
    | with_reducible apply wf_globalGo | split

theorem wf_badWord (s : State) (h : Hdr) (pa : ℕ) (width : ℕ) (hs : Memory.wf s.mem = true) :
    OptActWf (badWord s h pa width) := by
  unfold badWord
  repeat' first
    | with_reducible assumption | with_reducible apply oa_none | with_reducible apply oa_some | with_reducible apply wf_flt
    | with_reducible apply wf_sectorEvents | split

theorem wf_acquireHere (s : State) (hs : Memory.wf s.mem = true) :
    Memory.wf (acquireHere s).mem = true := by
  unfold acquireHere
  repeat' first | with_reducible assumption | with_reducible apply wf_acquireView

theorem wf_atWord (s : State) (h : Hdr) (srcs : List (ℕ × Src)) (dst : List DUse) (f : Act) (hs : Memory.wf s.mem = true)
    (hf : ActWf (f)) :
    ActWf (atWord s h srcs dst f) := by
  unfold atWord
  repeat' first
    | with_reducible assumption | intro _ | with_reducible apply wf_onceRun | with_reducible apply wf_checkUses | split
    | (refine oa_get ?_ (by assumption))

theorem wf_poisonLast (s : State) (h : Hdr) (srcs : List (ℕ × Src)) (a : Act) (hs : Memory.wf s.mem = true) (ha : ActWf (a)) :
    ActWf (poisonLast s h srcs a) := by
  unfold poisonLast
  repeat' first
    | with_reducible assumption | with_reducible apply wf_checkPoison | with_reducible apply oa_getD
    | (extract_lets +onlyGivenNames x; subst x) | split

theorem wf_unwait (s : State) (ck : ℕ) (hs : Memory.wf s.mem = true) :
    Memory.wf (unwait s ck).mem = true := by
  unfold unwait
  repeat' first
    | with_reducible assumption | with_reducible apply wf_setCtxWait | with_reducible apply wf_dropWake
    | with_reducible apply wf_updCtx | split

theorem wf_fwaitStep (s : State) (h : Hdr) (ck : ℕ) (pa : ℕ) (r : BitVec 5) (hs : Memory.wf s.mem = true) :
    ActWf (fwaitStep s h ck pa r) := by
  unfold fwaitStep
  repeat' first
    | with_reducible assumption | with_reducible apply act_next | with_reducible apply act_stay | with_reducible apply act_fault
    | with_reducible apply wf_badWord | with_reducible apply wf_unwait | with_reducible apply wf_acquireHere
    | with_reducible apply wf_setCtxWait | with_reducible apply wf_updCtx | with_reducible apply wf_futWait
    | with_reducible apply wf_ownerTest | (extract_lets +onlyGivenNames x; subst x) | dsimp -zeta only | split
    | (refine taken_get ?_ (by assumption)) | (refine oa_fault ?_ (by assumption)) | (refine oa_get ?_ (by assumption))

theorem wf_lockPut (s : State) (pa : ℕ) (v : ℕ) (hs : Memory.wf s.mem = true) :
    Memory.wf (lockPut s pa v).mem = true := by
  unfold lockPut
  repeat' first
    | with_reducible assumption | with_reducible apply wf_wakeScan | with_reducible apply wf_wakeOvf
    | with_reducible apply wf_homePut

theorem wf_lockTry (s : State) (pa : ℕ) (task : ℕ) (hs : Memory.wf s.mem = true) :
    OptWf (lockTry s pa task) := by
  unfold lockTry
  repeat' first
    | with_reducible assumption | with_reducible apply opt_none | with_reducible apply opt_some | with_reducible apply wf_wakeOvf
    | with_reducible apply wf_lockPut | (extract_lets +onlyGivenNames x; subst x) | split

theorem wf_lockQueue (s : State) (h : Hdr) (ck : ℕ) (pa : ℕ) (hs : Memory.wf s.mem = true) :
    ActWf (lockQueue s h ck pa) := by
  unfold lockQueue
  repeat' first
    | with_reducible assumption | with_reducible apply act_stay | with_reducible apply act_fault
    | with_reducible apply wf_lockPut | with_reducible apply wf_setCtxWait | with_reducible apply wf_ownerTest
    | with_reducible apply wf_unwait | (extract_lets +onlyGivenNames x; subst x) | dsimp -zeta only | split
    | (refine taken_get ?_ (by assumption))

theorem wf_unlockStep (s : State) (pa : ℕ) (hs : Memory.wf s.mem = true) :
    Memory.wf (unlockStep s pa).mem = true := by
  unfold unlockStep
  repeat' first | with_reducible assumption | with_reducible apply wf_lockPut | (extract_lets +onlyGivenNames x; subst x) | split

theorem wf_withName (s : State) (h : Hdr) (a : Src) (f : ℕ → Group → W64 → Act) (hs : Memory.wf s.mem = true)
    (hf : ∀ v0 v1 v2, ActWf (f v0 v1 v2)) :
    ActWf (withName s h a f) := by
  unfold withName
  repeat' first
    | with_reducible assumption | intro _ | with_reducible apply hf | with_reducible apply act_next
    | with_reducible apply wf_onceReady | with_reducible apply wf_unlessPoison | split

theorem wf_dropDead (s : State) (gk : ℕ) (hs : Memory.wf s.mem = true) :
    Memory.wf (dropDead s gk).mem = true := by
  unfold dropDead
  repeat' first | with_reducible assumption

theorem wf_pushPut (s : State) (core : Option ℕ) (pa : ℕ) (v : ℕ) (hs : Memory.wf s.mem = true) :
    Memory.wf (pushPut s core pa v).mem = true := by
  unfold pushPut
  repeat' first
    | with_reducible assumption | with_reducible apply wf_wakeScan | with_reducible apply wf_unhold
    | with_reducible apply wf_homePut | split

theorem wf_pushStep (s : State) (core : Option ℕ) (x : W64) (pax : ℕ) (pah : ℕ) (p : Option (ℕ × Bool))
    (hs : Memory.wf s.mem = true) :
    PushWf (pushStep s core x pax pah p) := by
  unfold pushStep
  repeat' first
    | with_reducible assumption | with_reducible apply push_bad | with_reducible apply push_goes
    | with_reducible apply push_finished | with_reducible apply wf_readCheck | with_reducible apply wf_pushPut | split

theorem wf_deferAdd (s : State) (gc : ℕ) (x : W64) (hd : Option W64) (hs : Memory.wf s.mem = true) :
    Memory.wf (deferAdd s gc x hd).mem = true := by
  unfold deferAdd
  repeat' first | with_reducible assumption | with_reducible apply wf_updLaunch

theorem wf_reclaimEnd (s : State) (h : Hdr) (d : BitVec 4) (x : W64) (hd : Option W64) (found : Bool) (p : Option (ℕ × Bool))
    (hs : Memory.wf s.mem = true) :
    ActWf (reclaimEnd s h d x hd found p) := by
  unfold reclaimEnd
  repeat' first
    | with_reducible assumption | intro _ | with_reducible apply act_next | with_reducible apply act_stay
    | with_reducible apply act_wait | with_reducible apply wf_putPred | with_reducible apply wf_setWait
    | with_reducible apply wf_deferAdd | with_reducible apply wf_globalGo | with_reducible apply wf_pushStep
    | with_reducible apply wf_flt | with_reducible apply wf_sectorEvents | (extract_lets +onlyGivenNames x; subst x) | split
    | (refine push_get_goes ?_ (by assumption)) | (refine push_get_finished ?_ (by assumption))

theorem wf_retryEnt (s : State) (core : Option ℕ) (gc : ℕ) (e : DeferEnt) (addr : State → W64 → Option ℕ × State) (p : Option
    (ℕ × Bool)) (hs : Memory.wf s.mem = true) (haddr : ∀ v0 v1, Memory.wf v0.mem = true → Memory.wf (addr v0 v1).2.mem = true) :
    RetryWf (retryEnt s core gc e addr p) := by
  unfold retryEnt
  repeat' first
    | with_reducible assumption | with_reducible apply haddr | with_reducible apply retry_ended | with_reducible apply retry_goes
    | with_reducible apply wf_updLaunch | with_reducible apply wf_pushStep | with_reducible apply wf_sectorEvents
    | (extract_lets +onlyGivenNames x; subst x) | dsimp -zeta only | split | (refine push_get_goes ?_ (by assumption))
    | (refine push_get_finished ?_ (by assumption))

theorem wf_pushAddr (s : State) (va : W64) (hs : Memory.wf s.mem = true) :
    Memory.wf (pushAddr s va).2.mem = true := by
  unfold pushAddr
  repeat' first
    | with_reducible assumption | with_reducible apply wf_transOne | dsimp -zeta only | split
    | (refine snd_get ?_ (by assumption))

theorem wf_drainNext (s : State) (h : Hdr) (d : Opd) (todo : List ℕ) (t0 : ℕ) (hs : Memory.wf s.mem = true) :
    ActWf (drainNext s h d todo t0) := by
  unfold drainNext
  repeat' first
    | with_reducible assumption | with_reducible apply act_stay | with_reducible apply wf_setWait
    | with_reducible apply wf_updLaunch | with_reducible apply wf_putOnce | (extract_lets +onlyGivenNames x; subst x) | split

theorem wf_condOfRep (s : State) (lev : ℕ) (reps : List (ℕ × Report)) (r : Report) (hs : Memory.wf s.mem = true) :
    CondWf (condOfRep s lev reps r) := by
  unfold condOfRep
  repeat' first
    | with_reducible assumption | with_reducible apply cond_val | with_reducible apply cond_fault
    | (extract_lets +onlyGivenNames x; subst x) | split

theorem wf_resolve (s : State) (lev : ℕ) (a : Src) (val : Bool) (own : Bool) (hs : Memory.wf s.mem = true) :
    CondWf (resolve s lev a val own) := by
  unfold resolve
  repeat' first
    | with_reducible assumption | with_reducible apply cond_wait | with_reducible apply cond_val
    | with_reducible apply cond_fault | with_reducible apply wf_condOfRep | with_reducible apply wf_checkUses
    | (extract_lets +onlyGivenNames x; subst x) | split | (refine oa_fault ?_ (by assumption))

theorem wf_onCond (s : State) (h : Hdr) (a : Src) (val : Bool) (own : Bool) (ts : Option W64 → List W64)
    (k : State → Option W64 → Act) (hs : Memory.wf s.mem = true) (hk : ∀ v0 v1, Memory.wf v0.mem = true → ActWf (k v0 v1)) :
    ActWf (onCond s h a val own ts k) := by
  unfold onCond
  repeat' first
    | with_reducible assumption | intro _ | with_reducible apply hk | with_reducible apply act_fault
    | with_reducible apply act_wait | with_reducible apply wf_resolve | with_reducible apply wf_transfer
    | with_reducible apply wf_flt | (extract_lets +onlyGivenNames x; subst x) | split | (refine cond_get ?_ (by assumption))

theorem wf_branch (s : State) (h : Hdr) (cc : Cc) (a : Src) (tgt : BitVec 24) (own : Bool) (hs : Memory.wf s.mem = true) :
    ActWf (branch s h cc a tgt own) := by
  unfold branch
  repeat' first
    | with_reducible assumption | intro _ | with_reducible apply act_next | with_reducible apply act_jump
    | with_reducible apply wf_atCtx | with_reducible apply wf_onCond | split

theorem wf_stackFault (s : State) (c : Ctx) (code : ℕ) (va : ℕ) (w : Bool) (hs : Memory.wf s.mem = true) :
    ActWf (stackFault s c code va w) := by
  unfold stackFault
  repeat' first | with_reducible assumption | with_reducible apply act_fault

theorem wf_pushCall (s : State) (ck : ℕ) (c : Ctx) (poi : Bool) (e : CallEnt) (k : State → Act) (hs : Memory.wf s.mem = true)
    (hk : ∀ v0, Memory.wf v0.mem = true → ActWf (k v0)) :
    ActWf (pushCall s ck c poi e k) := by
  unfold pushCall
  repeat' first
    | with_reducible assumption | with_reducible apply hk | with_reducible apply wf_updCtx | with_reducible apply wf_flt
    | with_reducible apply wf_transOne | with_reducible apply wf_stackFault | with_reducible apply wf_addAcc
    | (extract_lets +onlyGivenNames x; subst x) | dsimp -zeta only | split | (refine snd_get ?_ (by assumption))

theorem wf_callTo (s : State) (h : Hdr) (ck : ℕ) (c : Ctx) (poi : Bool) (t : W64) (hs : Memory.wf s.mem = true) :
    ActWf (callTo s h ck c poi t) := by
  unfold callTo
  repeat' first
    | with_reducible assumption | intro _ | with_reducible apply act_jump | with_reducible apply act_wait
    | with_reducible apply wf_transfer | with_reducible apply wf_flt | with_reducible apply wf_pushCall | split

theorem wf_popCall (s : State) (ck : ℕ) (c : Ctx) (d : ℕ) (k : State → Act) (hs : Memory.wf s.mem = true)
    (hk : ∀ v0, Memory.wf v0.mem = true → ActWf (k v0)) :
    ActWf (popCall s ck c d k) := by
  unfold popCall
  repeat' first
    | with_reducible assumption | with_reducible apply hk | with_reducible apply act_stay | with_reducible apply act_wait
    | with_reducible apply wf_updCtx | with_reducible apply wf_flt | with_reducible apply wf_setWait
    | with_reducible apply wf_transOne | with_reducible apply wf_stackFault | with_reducible apply wf_addAcc
    | (extract_lets +onlyGivenNames x; subst x) | dsimp -zeta only | split | (refine snd_get ?_ (by assumption))

theorem wf_brlAct (s : State) (h : Hdr) (cc : Cc) (a : Src) (tgt : BitVec 24) (rcv : BitVec 24) (gk : ℕ) (g : Group) (x : Split)
    (hs : Memory.wf s.mem = true) :
    ActWf (brlAct s h cc a tgt rcv gk g x) := by
  unfold brlAct
  repeat' first
    | with_reducible assumption | intro _ | with_reducible apply act_next | with_reducible apply act_done
    | with_reducible apply act_jump | with_reducible apply wf_checkUses | with_reducible apply wf_transfer
    | with_reducible apply wf_flt | with_reducible apply wf_rejoinCheck | with_reducible apply wf_settle
    | with_reducible apply wf_putTable | (extract_lets +onlyGivenNames x; subst x) | split | (refine oa_get ?_ (by assumption))

theorem wf_atGroup (s : State) (h : Hdr) (f : ℕ → Group → Lanes → Act) (hs : Memory.wf s.mem = true) (hf : ∀ v0 v1 v2, ActWf
    (f v0 v1 v2)) :
    ActWf (atGroup s h f) := by
  unfold atGroup
  repeat' first
    | with_reducible assumption | with_reducible apply hf | with_reducible apply act_next | with_reducible apply wf_atLanes
    | split

theorem wf_countOf (s : State) (h : Hdr) (a : Src) (imm : BitVec 27) (m : Lanes) (k : ℕ → Act) (hs : Memory.wf s.mem = true)
    (hk : ∀ v0, ActWf (k v0)) :
    ActWf (countOf s h a imm m k) := by
  unfold countOf
  repeat' first
    | with_reducible assumption | with_reducible apply hk | with_reducible apply wf_checkAll
    | (extract_lets +onlyGivenNames x; subst x) | split | (refine oa_get ?_ (by assumption))

theorem wf_growNow (s : State) (gk : ℕ) (hs : Memory.wf s.mem = true) :
    Memory.wf (growNow s gk).mem = true := by
  unfold growNow
  repeat' first
    | with_reducible assumption | with_reducible apply wf_goOn | with_reducible apply wf_updGrp
    | (extract_lets +onlyGivenNames x; subst x) | split

theorem wf_growAll (a0 : ℕ) (a1 : State) (a2 : ℕ) (ha1 : Memory.wf a1.mem = true) :
    Memory.wf (growAll a0 a1 a2).mem = true := by
  induction a0 generalizing a1 with
  | zero => exact ha1
  | succ n ih =>
    unfold growAll
    split
    · exact ih _ (wf_growNow _ _ ha1)
    · exact ha1

theorem wf_growPark (s : State) (core : ℕ) (hs : Memory.wf s.mem = true) :
    Memory.wf (growPark s core).mem = true := by
  unfold growPark
  repeat' first
    | with_reducible assumption | with_reducible apply wf_requestPark | (extract_lets +onlyGivenNames x; subst x)
    | dsimp -zeta only | split

theorem wf_sendOwed (s : State) (gc : ℕ) (bs : List ℕ) (hs : Memory.wf s.mem = true) :
    Memory.wf (sendOwed s gc bs).mem = true := by
  unfold sendOwed
  repeat' first
    | with_reducible assumption | intro _ | with_reducible apply wf_updBand | with_reducible apply wf_toHost
    | with_reducible apply wf_foldl | split

theorem wf_pendingHandler (s : State) (gk : ℕ) (hs : Memory.wf s.mem = true) :
    Memory.wf (pendingHandler s gk).mem = true := by
  unfold pendingHandler
  repeat' first | with_reducible assumption | with_reducible apply wf_startHandler | with_reducible apply wf_updGrp | split

theorem wf_askAnew (s : State) (ck : ℕ) (hs : Memory.wf s.mem = true) :
    Memory.wf (askAnew s ck).mem = true := by
  unfold askAnew
  repeat' first | with_reducible assumption | with_reducible apply wf_updCtx

theorem wf_runInPlace (s : State) (gc : ℕ) (bs : List ℕ) (hs : Memory.wf s.mem = true) :
    Memory.wf (runInPlace s gc bs).mem = true := by
  unfold runInPlace
  repeat' first
    | with_reducible assumption | intro _ | with_reducible apply wf_updGrp | with_reducible apply wf_askAnew
    | with_reducible apply wf_pendingHandler | with_reducible apply wf_foldl

theorem wf_abandonPark (s : State) (gc : ℕ) (b : ℕ) (cause : ℕ) (bs : List ℕ) (hs : Memory.wf s.mem = true) :
    Memory.wf (abandonPark s gc b cause bs).mem = true := by
  unfold abandonPark
  repeat' first
    | with_reducible assumption | intro _ | with_reducible apply wf_updBand | with_reducible apply wf_undoTake
    | with_reducible apply wf_futWait | with_reducible apply wf_sendOwed | with_reducible apply wf_growPark
    | with_reducible apply wf_runInPlace | with_reducible apply wf_foldl | (extract_lets +onlyGivenNames x; subst x)
    | dsimp -zeta only | split

theorem wf_untake (s : State) (gc : ℕ) (w : WaitSt) (hs : Memory.wf s.mem = true) :
    Memory.wf (untake s gc w).mem = true := by
  unfold untake
  repeat' first | with_reducible assumption | with_reducible apply wf_updLaunch | split

theorem wf_keepMasks (s : State) (gks : List ℕ) (hs : Memory.wf s.mem = true) :
    Memory.wf (keepMasks s gks).mem = true := by
  unfold keepMasks
  repeat' first | with_reducible assumption | intro _ | with_reducible apply wf_updGrp | with_reducible apply wf_foldl | split

theorem wf_withdraw (s : State) (gc : ℕ) (gks : List ℕ) (cks : List ℕ) (hs : Memory.wf s.mem = true) :
    Memory.wf (withdraw s gc gks cks).mem = true := by
  unfold withdraw
  repeat' first
    | with_reducible assumption | intro _ | with_reducible apply wf_dropDests | with_reducible apply wf_count
    | with_reducible apply wf_untake | with_reducible apply wf_updCtx | with_reducible apply wf_updGrp
    | with_reducible apply wf_foldl | split

theorem wf_moveOut (s : State) (gc : ℕ) (names : List (ℕ × W64)) (bars : List (ℕ × W64)) (gks : List ℕ)
    (hs : Memory.wf s.mem = true) :
    Memory.wf (moveOut s gc names bars gks).mem = true := by
  unfold moveOut
  repeat' first | with_reducible assumption | intro _ | with_reducible apply wf_updGrp | with_reducible apply wf_foldl

theorem wf_writeImages (s : State) (gc : ℕ) (cause : ℕ) (bs : List ℕ) (hs : Memory.wf s.mem = true) :
    OptWf (writeImages s gc cause bs) := by
  unfold writeImages
  repeat' first
    | with_reducible assumption | intro _ | with_reducible apply opt_some | with_reducible apply wf_writeImg
    | with_reducible apply opt_foldl | with_reducible apply opt_bind

theorem wf_imagesFailed (s : State) (gc : ℕ) (cause : ℕ) (bs : List ℕ) (hs : Memory.wf s.mem = true) :
    Memory.wf (imagesFailed s gc cause bs).mem = true := by
  unfold imagesFailed
  repeat' first
    | with_reducible assumption | with_reducible apply wf_virtFailed | (extract_lets +onlyGivenNames x; subst x) | split

theorem wf_freeUnits (s : State) (gc : ℕ) (cause : ℕ) (bs : List ℕ) (gks : List ℕ) (cks : List ℕ) (hs : Memory.wf s.mem = true) :
    Memory.wf (freeUnits s gc cause bs gks cks).mem = true := by
  unfold freeUnits
  repeat' first
    | with_reducible assumption | intro _ | with_reducible apply wf_updBand | with_reducible apply wf_updGrp
    | with_reducible apply wf_updCtx | with_reducible apply wf_foldl

theorem wf_launchState (s : State) (gc : ℕ) (st : ℕ) (hs : Memory.wf s.mem = true) :
    Memory.wf (launchState s gc st).mem = true := by
  unfold launchState
  repeat' first | with_reducible assumption | with_reducible apply wf_setTaskState | split

theorem wf_afterPark (s : State) (gc : ℕ) (cause : ℕ) (bs : List ℕ) (hs : Memory.wf s.mem = true) :
    Memory.wf (afterPark s gc cause bs).mem = true := by
  unfold afterPark
  repeat' first
    | with_reducible assumption | intro _ | with_reducible apply wf_placeOwner | with_reducible apply wf_requestPark
    | with_reducible apply wf_updBand | with_reducible apply wf_makeReady | with_reducible apply wf_growAll
    | with_reducible apply wf_wakeScan | with_reducible apply wf_placeWanted | with_reducible apply wf_foldl
    | (extract_lets +onlyGivenNames x; subst x) | split

theorem wf_leaveReserve (s : State) (gc : ℕ) (cause : ℕ) (bs : List ℕ) (hs : Memory.wf s.mem = true) :
    Memory.wf (leaveReserve s gc cause bs).mem = true := by
  unfold leaveReserve
  repeat' first | with_reducible assumption | with_reducible apply wf_freeChain | split

theorem wf_moveIn (s : State) (gks : List ℕ) (cks : List ℕ) (hs : Memory.wf s.mem = true) :
    Memory.wf (moveIn s gks cks).mem = true := by
  unfold moveIn
  repeat' first | with_reducible assumption

theorem wf_imagesLost (s : State) (gc : ℕ) (bs : List ℕ) (hs : Memory.wf s.mem = true) :
    Memory.wf (imagesLost s gc bs).mem = true := by
  unfold imagesLost
  repeat' first | with_reducible assumption | with_reducible apply wf_virtFailed | split

theorem wf_bandBack (s : State) (gc : ℕ) (b : ℕ) (hs : Memory.wf s.mem = true) :
    Memory.wf (bandBack s gc b).mem = true := by
  unfold bandBack
  repeat' first
    | with_reducible assumption | with_reducible apply wf_updCore | with_reducible apply wf_clearView
    | with_reducible apply wf_updBand | split

theorem wf_keptAsk (s : State) (gc : ℕ) (b : ℕ) (hs : Memory.wf s.mem = true) :
    Memory.wf (keptAsk s gc b).mem = true := by
  unfold keptAsk
  repeat' first | with_reducible assumption | with_reducible apply wf_requestPark | with_reducible apply wf_updBand | split

theorem wf_unlinked (s : State) (gc : ℕ) (b : ℕ) (hs : Memory.wf s.mem = true) :
    Memory.wf (unlinked s gc b).mem = true := by
  unfold unlinked
  repeat' first | with_reducible assumption | with_reducible apply wf_putOwnLink | with_reducible apply wf_updBand | split

theorem wf_resumeNow (s : State) (gc : ℕ) (bs : List ℕ) (gks : List ℕ) (cks : List ℕ) (areas : List (ℕ × ℕ))
    (hs : Memory.wf s.mem = true) :
    Memory.wf (resumeNow s gc bs gks cks areas).mem = true := by
  unfold resumeNow
  repeat' first
    | with_reducible assumption | intro _ | with_reducible apply wf_readUnit | with_reducible apply wf_readBand
    | with_reducible apply wf_moveIn | with_reducible apply wf_updCtx | with_reducible apply wf_bandBack
    | with_reducible apply wf_unlinked | with_reducible apply wf_launchState | with_reducible apply wf_settle
    | with_reducible apply wf_pendingHandler | with_reducible apply wf_keptAsk | with_reducible apply wf_foldl

theorem wf_reportFault (s : State) (u : UnitRef) (f : FaultReq) (q : ReportReq) (hs : Memory.wf s.mem = true) :
    Memory.wf (reportFault s u f q).mem = true := by
  unfold reportFault
  repeat' first
    | with_reducible assumption | with_reducible apply wf_dropHeld | with_reducible apply wf_countFault
    | with_reducible apply wf_contain | with_reducible apply wf_takeH | (extract_lets +onlyGivenNames x; subst x)
    | dsimp -zeta only | split

theorem wf_forgetBands (s : State) (gc : ℕ) (bs : List ℕ) (hs : Memory.wf s.mem = true) :
    Memory.wf (forgetBands s gc bs).mem = true := by
  unfold forgetBands
  repeat' first | with_reducible assumption

theorem wf_replaceUnit (s : State) (gc : ℕ) (b : ℕ) (bs : List ℕ) (hs : Memory.wf s.mem = true) :
    Memory.wf (replaceUnit s gc b bs).mem = true := by
  unfold replaceUnit
  repeat' first
    | with_reducible assumption | intro _ | with_reducible apply wf_untake | with_reducible apply wf_forgetBands
    | with_reducible apply wf_endBand | with_reducible apply wf_updBand | with_reducible apply wf_dropDests
    | with_reducible apply wf_unregister | with_reducible apply wf_makeReady | with_reducible apply wf_updLaunch
    | with_reducible apply wf_foldl | split

theorem wf_killNow (s : State) (gc : ℕ) (b : ℕ) (k : Kill) (hs : Memory.wf s.mem = true) :
    Memory.wf (killNow s gc b k).mem = true := by
  unfold killNow
  repeat' first
    | with_reducible assumption | with_reducible apply wf_replaceUnit | with_reducible apply wf_abortLaunch
    | (extract_lets +onlyGivenNames x; subst x) | split

theorem wf_freeLaunch (s : State) (gc : ℕ) (hs : Memory.wf s.mem = true) :
    Memory.wf (freeLaunch s gc).mem = true := by
  unfold freeLaunch
  repeat' first | with_reducible assumption | intro _ | with_reducible apply wf_clearBand | with_reducible apply wf_foldl

theorem wf_handBack (s : State) (gc : ℕ) (hs : Memory.wf s.mem = true) :
    Memory.wf (handBack s gc).mem = true := by
  unfold handBack
  repeat' first
    | with_reducible assumption | intro _ | with_reducible apply wf_updBand | with_reducible apply wf_reoccupyKept
    | with_reducible apply wf_makeReady | with_reducible apply wf_foldl | (extract_lets +onlyGivenNames x; subst x) | split

theorem wf_retStage (s : State) (gc : ℕ) (n : ℕ) (ids : List ℕ) (push : Option (ℕ × Bool)) (hs : Memory.wf s.mem = true) :
    Memory.wf (retStage s gc n ids push).mem = true := by
  unfold retStage
  repeat' first | with_reducible assumption | with_reducible apply wf_updLaunch

theorem wf_retDefer (s : State) (gc : ℕ) (id : ℕ) (rest : List ℕ) (l : Launch) (hs : Memory.wf s.mem = true) :
    Memory.wf (retDefer s gc id rest l).mem = true := by
  unfold retDefer
  repeat' first
    | with_reducible assumption | intro _ | with_reducible apply wf_retStage | with_reducible apply wf_retryEnt
    | (extract_lets +onlyGivenNames x; subst x) | split | (refine retry_get_goes ?_ (by assumption))
    | (refine retry_get_ended ?_ (by assumption))

theorem wf_retEnd (s : State) (gc : ℕ) (t : Task) (hs : Memory.wf s.mem = true) :
    Memory.wf (retEnd s gc t).mem = true := by
  unfold retEnd
  repeat' first
    | with_reducible assumption | with_reducible apply wf_wakeScan | with_reducible apply wf_handBack
    | with_reducible apply wf_freeLaunch | with_reducible apply wf_setTaskState | split

theorem wf_updPeer (s : State) (w : ℕ) (f : PeerPort → PeerPort) (hs : Memory.wf s.mem = true) :
    Memory.wf (State.updPeer s w f).mem = true := by
  unfold State.updPeer
  repeat' first | with_reducible assumption

theorem wf_dropHeaders (s : State) (w : ℕ) (hs : Memory.wf s.mem = true) :
    Memory.wf (dropHeaders s w).mem = true := by
  unfold dropHeaders
  repeat' first | with_reducible assumption | intro _ | with_reducible apply wf_bankEvent | with_reducible apply wf_foldl

theorem wf_peerHeard (s : State) (w : ℕ) (hs : Memory.wf s.mem = true) :
    Memory.wf (peerHeard s w).mem = true := by
  unfold peerHeard
  repeat' first | with_reducible assumption | with_reducible apply wf_updPeer | with_reducible apply wf_dropHeaders

theorem wf_peerTakes (s : State) (w : ℕ) (x : BitVec 128) (k : State → Wayfare → State) (hs : Memory.wf s.mem = true)
    (hk : ∀ v0 v1, Memory.wf v0.mem = true → Memory.wf (k v0 v1).mem = true) :
    Memory.wf (peerTakes s w x k).mem = true := by
  unfold peerTakes
  repeat' first
    | with_reducible assumption | with_reducible apply hk | with_reducible apply wf_bankEvent | with_reducible apply wf_peerHeard
    | split

theorem wf_refuseAcc (s : State) (a : Access) (hs : Memory.wf s.mem = true) :
    Memory.wf (refuseAcc s a).mem = true := by
  unfold refuseAcc
  repeat' first
    | with_reducible assumption | with_reducible apply wf_winAnswer | with_reducible apply wf_replyDebit
    | with_reducible apply opt_getD

theorem wf_copyLost (s : State) (w : ℕ) (a : Access) (hs : Memory.wf s.mem = true) :
    Memory.wf (copyLost s w a).mem = true := by
  unfold copyLost
  repeat' first
    | with_reducible assumption | intro _ | with_reducible apply wf_bankEvent | with_reducible apply wf_updAcc
    | with_reducible apply wf_foldl

theorem wf_linkDown (s : State) (w : ℕ) (hs : Memory.wf s.mem = true) :
    Memory.wf (linkDown s w).mem = true := by
  unfold linkDown
  repeat' first
    | with_reducible assumption | intro _ | with_reducible apply wf_bankEvent | with_reducible apply wf_updPeer
    | with_reducible apply wf_copyLost | with_reducible apply wf_refuseAcc | with_reducible apply wf_foldl | split

theorem wf_hostFree (s : State) (n : ℕ) (hs : Memory.wf s.mem = true) :
    Memory.wf (hostFree s n).mem = true := by
  unfold hostFree
  repeat' first | with_reducible assumption | with_reducible apply wf_tick1 | with_reducible apply wf_addProd

theorem wf_hostWrites (s : State) (pa : ℕ) (bs : List Byte) (hs : Memory.wf s.mem = true) :
    Memory.wf (hostWrites s pa bs).mem = true := by
  unfold hostWrites
  repeat' first | with_reducible assumption | with_reducible apply wf_addAcc | split

theorem wf_hostReads (s : State) (pa : ℕ) (n : ℕ) (hs : Memory.wf s.mem = true) :
    Memory.wf (hostReads s pa n).mem = true := by
  unfold hostReads
  repeat' first | with_reducible assumption | with_reducible apply wf_addAcc | with_reducible apply wf_hostFree | split

theorem wf_hostAtomics (s : State) (pa : ℕ) (o : Aop) (t : Ty) (b : W64) (c : W64) (hs : Memory.wf s.mem = true) :
    Memory.wf (hostAtomics s pa o t b c).mem = true := by
  unfold hostAtomics
  repeat' first | with_reducible assumption | with_reducible apply wf_addAcc | with_reducible apply wf_hostFree | split

theorem wf_put64 (s : State) (h : Hdr) (d : Opd) (k : State → W64 × State) (hs : Memory.wf s.mem = true)
    (hk : ∀ v0, Memory.wf v0.mem = true → Memory.wf (k v0).2.mem = true) :
    ActWf (put64 s h d k) := by
  unfold put64
  repeat' first
    | with_reducible assumption | intro _ | with_reducible apply hk | with_reducible apply wf_onceReady
    | with_reducible apply wf_putOnce

theorem wf_setMc (s : State) (h : Hdr) (sel : ℕ) (l : List W64) (hs : Memory.wf s.mem = true) :
    Memory.wf (setMc s h sel l).mem = true := by
  unfold setMc
  repeat' first | with_reducible assumption | with_reducible apply wf_updGrp | with_reducible apply wf_updCtx | split

theorem wf_crRead (s : State) (h : Hdr) (cr : ℕ) (hs : Memory.wf s.mem = true) :
    Memory.wf (crRead s h cr).2.mem = true := by
  unfold crRead
  repeat' first
    | with_reducible assumption | with_reducible apply wf_setMc | (extract_lets +onlyGivenNames x; subst x) | dsimp -zeta only
    | split

theorem wf_crWrite (s : State) (h : Hdr) (cr : ℕ) (v : W64) (hs : Memory.wf s.mem = true) :
    Memory.wf (crWrite s h cr v).mem = true := by
  unfold crWrite
  repeat' first
    | with_reducible assumption | with_reducible apply wf_updGrp | with_reducible apply wf_setMc
    | with_reducible apply wf_bankClear | dsimp -zeta only | split

theorem wf_sawCyc (s : State) (h : Hdr) (loc : ℕ) (net : ℕ) (hs : Memory.wf s.mem = true) :
    Memory.wf (sawCyc s h loc net).mem = true := by
  unfold sawCyc
  repeat' first | with_reducible assumption | with_reducible apply wf_updGrp | with_reducible apply wf_updCtx | split

theorem wf_cycRead (s : State) (h : Hdr) (src : CycSrc) (hs : Memory.wf s.mem = true) :
    Memory.wf (cycRead s h src).2.mem = true := by
  unfold cycRead
  repeat' first
    | with_reducible assumption | with_reducible apply wf_sawCyc | with_reducible apply wf_tick1
    | (extract_lets +onlyGivenNames x; subst x) | dsimp -zeta only | split

theorem wf_evRead (s : State) (ev : ℕ) (hs : Memory.wf s.mem = true) :
    Memory.wf (evRead s ev).2.mem = true := by
  unfold evRead
  repeat' first
    | with_reducible assumption | with_reducible apply wf_tick1 | with_reducible apply wf_count
    | (extract_lets +onlyGivenNames x; subst x) | dsimp -zeta only | split

theorem wf_updQueue (s : State) (q : ℕ) (f : QDesc → QDesc) (hs : Memory.wf s.mem = true) :
    Memory.wf (State.updQueue s q f).mem = true := by
  unfold State.updQueue
  repeat' first | with_reducible assumption

theorem wf_raise (s : State) (v : ℕ) (hs : Memory.wf s.mem = true) :
    Memory.wf (raise s v).mem = true := by
  unfold raise
  repeat' first | with_reducible assumption

theorem wf_queueCheck (s : State) (q : ℕ) (hs : Memory.wf s.mem = true) :
    Memory.wf (queueCheck s q).mem = true := by
  unfold queueCheck
  repeat' first
    | with_reducible assumption | with_reducible apply wf_raise | with_reducible apply wf_updQueue
    | (extract_lets +onlyGivenNames x; subst x) | split

theorem wf_consume (s : State) (q : ℕ) (bs : List Byte) (code : ℕ) (hs : Memory.wf s.mem = true) :
    Memory.wf (consume s q bs code).mem = true := by
  unfold consume
  repeat' first
    | with_reducible assumption | with_reducible apply wf_homePut | with_reducible apply wf_updQueue
    | with_reducible apply wf_raise | (extract_lets +onlyGivenNames x; subst x) | split

theorem wf_onPacket (s : State) (q : ℕ) (ty : ℕ) (f : QDesc → List Byte → State) (hs : Memory.wf s.mem = true)
    (hf : ∀ v0 v1, Memory.wf (f v0 v1).mem = true) :
    OutWf (onPacket s q ty f) := by
  unfold onPacket
  repeat' first
    | with_reducible assumption | with_reducible apply hf | with_reducible apply out_next | with_reducible apply wf_consume
    | (extract_lets +onlyGivenNames x; subst x) | split

theorem wf_parkResolved (s : State) (gc : ℕ) (b : ℕ) (hs : Memory.wf s.mem = true) :
    Memory.wf (parkResolved s gc b).mem = true := by
  unfold parkResolved
  repeat' first
    | with_reducible assumption | intro _ | with_reducible apply wf_makeReady | with_reducible apply wf_updBand
    | with_reducible apply wf_keptAsk | with_reducible apply wf_runInPlace | with_reducible apply wf_foldl
    | (extract_lets +onlyGivenNames x; subst x) | split

theorem wf_fbFree (s : State) (idx : ℕ) (hs : Memory.wf s.mem = true) :
    Memory.wf (fbFree s idx).mem = true := by
  unfold fbFree
  repeat' first | with_reducible assumption

theorem wf_abortRecord (s : State) (gc : ℕ) (rcd : List Byte) (hs : Memory.wf s.mem = true) :
    Memory.wf (abortRecord s gc rcd).mem = true := by
  unfold abortRecord
  repeat' first
    | with_reducible assumption | with_reducible apply wf_homeWrite | with_reducible apply wf_toHost
    | with_reducible apply wf_stopLaunch | split

theorem wf_tlbCommand (s : State) (kind : ℕ) (space : ℕ) (p : TlbEnt → Bool) (hs : Memory.wf s.mem = true) :
    OutWf (tlbCommand s kind space p) := by
  unfold tlbCommand
  repeat' first
    | with_reducible assumption | with_reducible apply out_next | with_reducible apply wf_tlbDropAll
    | (extract_lets +onlyGivenNames x; subst x) | dsimp -zeta only | split

theorem wf_stepGrp (s : State) (gk : ℕ) (e : ℕ) (ia : W64) (hs : Memory.wf s.mem = true) :
    Memory.wf (stepGrp s gk e ia).mem = true := by
  unfold stepGrp
  repeat' first | with_reducible assumption | with_reducible apply wf_moveGrp | split

theorem wf_stepPast (s : State) (u : UnitRef) (e : ℕ) (ia : W64) (hs : Memory.wf s.mem = true) :
    Memory.wf (stepPast s u e ia).mem = true := by
  unfold stepPast
  repeat' first | with_reducible assumption | with_reducible apply wf_stepGrp | with_reducible apply wf_moveCtx | split

theorem wf_runOn (s : State) (gc : ℕ) (b : ℕ) (hs : Memory.wf s.mem = true) :
    Memory.wf (runOn s gc b).mem = true := by
  unfold runOn
  repeat' first
    | with_reducible assumption | intro _ | with_reducible apply wf_updBand | with_reducible apply wf_updGrp
    | with_reducible apply wf_keptAsk | with_reducible apply wf_foldl | (extract_lets +onlyGivenNames x; subst x) | split

theorem wf_ctxRunOn (s : State) (gc : ℕ) (past : Bool) (p : ℕ × W64) (hs : Memory.wf s.mem = true) :
    Memory.wf (ctxRunOn s gc past p).mem = true := by
  unfold ctxRunOn
  repeat' first
    | with_reducible assumption | intro _ | with_reducible apply wf_stepPast | with_reducible apply wf_updLaunch
    | with_reducible apply wf_updCtx | with_reducible apply wf_runOn | with_reducible apply wf_foldl | split

theorem wf_dbgResume (s : State) (gc : ℕ) (b : ℕ) (past : Bool) (hs : Memory.wf s.mem = true) :
    OutWf (dbgResume s gc b past) := by
  unfold dbgResume
  repeat' first
    | with_reducible assumption | intro _ | with_reducible apply out_next | with_reducible apply wf_stepPast
    | with_reducible apply wf_runOn | with_reducible apply wf_ctxRunOn | with_reducible apply wf_foldl | split

theorem wf_sendMsg (s : State) (h : Hdr) (hdl : W64) (off : ℕ) (n : ℕ) (tag : BitVec 12) (hs : Memory.wf s.mem = true) :
    ActWf (sendMsg s h hdl off n tag) := by
  unfold sendMsg
  extract_lets from_ dst cls first
  split
  · exact act_wait
  · rename_i k route t e
    have ht : Memory.wf t.mem = true := by
      split at e
      · exact wf_sendPacket _ _ _ _ _ _ hs e
      · cases e
    extract_lets m
    exact act_stay (wf_setWait _ _ _ ht)

theorem wf_withRing (s : State) (h : Hdr) (r : ℕ) (f : Lanes → Ring → Act) (hs : Memory.wf s.mem = true) (hf : ∀ v0 v1, ActWf
    (f v0 v1)) :
    ActWf (withRing s h r f) := by
  unfold withRing
  repeat' first
    | with_reducible assumption | intro _ | with_reducible apply hf | with_reducible apply wf_onceRun
    | with_reducible apply wf_flt | split

theorem wf_ringZero (s : State) (bk : ℕ) (d : W64) (h : ℕ) (m : ℕ) (hs : Memory.wf s.mem = true) :
    Memory.wf (ringZero s bk d h m).mem = true := by
  unfold ringZero
  repeat' first | with_reducible assumption | intro _ | with_reducible apply wf_scrStore | with_reducible apply wf_foldl

theorem wf_ringConfigure (s : State) (bk : ℕ) (r : ℕ) (d : W64) (hs : Memory.wf s.mem = true) :
    OptWf (ringConfigure s bk r d) := by
  unfold ringConfigure
  repeat' first
    | with_reducible assumption | intro _ | with_reducible apply opt_none | with_reducible apply opt_some
    | with_reducible apply wf_updCluster | with_reducible apply wf_ringZero | with_reducible apply wf_updBand
    | with_reducible apply opt_bind' | (extract_lets +onlyGivenNames x; subst x) | split

theorem wf_answerMsg (s : State) (m : Msg) (ok : Bool) (hs : Memory.wf s.mem = true) :
    Memory.wf (answerMsg s m ok).mem = true := by
  unfold answerMsg
  repeat' first
    | with_reducible assumption | with_reducible apply wf_updCtx | with_reducible apply wf_updGrp
    | (extract_lets +onlyGivenNames x; subst x) | dsimp -zeta only | split

theorem wf_unitStore (s : State) (bk : ℕ) (m : Msg) (x : Ring) (hs : Memory.wf s.mem = true) :
    Memory.wf (unitStore s bk m x).mem = true := by
  unfold unitStore
  repeat' first | with_reducible assumption | intro _ | with_reducible apply wf_scrStore | with_reducible apply wf_foldl

theorem wf_ringAdvance (s : State) (bk : ℕ) (r : ℕ) (x : Ring) (len8 : ℕ) (hs : Memory.wf s.mem = true) :
    Memory.wf (ringAdvance s bk r x len8).mem = true := by
  unfold ringAdvance
  repeat' first | with_reducible assumption | with_reducible apply wf_updBand

theorem wf_appendCore (s : State) (bk : ℕ) (r : ℕ) (x : Ring) (m : Msg) (hs : Memory.wf s.mem = true) :
    OptWf (appendCore s bk r x m) := by
  unfold appendCore
  repeat' first
    | with_reducible assumption | intro _ | with_reducible apply opt_some | with_reducible apply wf_ringAdvance
    | with_reducible apply wf_unitStore | with_reducible apply wf_arrPut | with_reducible apply opt_map'
    | (extract_lets +onlyGivenNames x; subst x) | split

theorem wf_appendImage (s : State) (bk : ℕ) (r : ℕ) (x : Ring) (m : Msg) (hs : Memory.wf s.mem = true) :
    OptWf (appendImage s bk r x m) := by
  unfold appendImage
  repeat' first
    | with_reducible assumption | intro _ | with_reducible apply opt_some | with_reducible apply wf_virtWrite
    | with_reducible apply wf_ringAdvance | with_reducible apply opt_foldl | with_reducible apply opt_bind
    | with_reducible apply opt_bind' | (extract_lets +onlyGivenNames x; subst x) | split

theorem wf_answerFrom (s : State) (ep : ℕ) (m : Msg) (ok : Bool) (hs : Memory.wf s.mem = true) :
    Memory.wf (answerFrom s ep m ok).mem = true := by
  unfold answerFrom
  repeat' first
    | with_reducible assumption | with_reducible apply wf_bucketDebit | with_reducible apply wf_answerMsg
    | with_reducible apply wf_pickRoute | with_reducible apply wf_linkAdd | with_reducible apply wf_tick1 | split
    | (refine oq_get ?_ (by assumption))

theorem wf_forwardMsg (s : State) (home : ℕ) (b : Band) (m : Msg) (hs : Memory.wf s.mem = true) :
    OptWf (forwardMsg s home b m) := by
  unfold forwardMsg
  extract_lets at_
  split
  · exact opt_some hs
  · unfold OptWf
    intro t e
    obtain ⟨r, hr, rfl⟩ := Option.map_eq_some_iff.1 e
    exact wf_sendPacket _ _ _ _ _ _ hs hr

theorem wf_islWrite (s : State) (i : ℕ) (mode : ℕ) (fmax : ℕ) (hs : Memory.wf s.mem = true) :
    Memory.wf (islWrite s i mode fmax).mem = true := by
  unfold islWrite
  repeat' first
    | with_reducible assumption | with_reducible apply wf_updCluster | (extract_lets +onlyGivenNames x; subst x)
    | dsimp -zeta only | split

theorem wf_bucketWrite (s : State) (k : ℕ) (v : W64) (hs : Memory.wf s.mem = true) :
    Memory.wf (bucketWrite s k v).mem = true := by
  unfold bucketWrite
  repeat' first | with_reducible assumption | (extract_lets +onlyGivenNames x; subst x) | split

theorem wf_tlbIdleWrite (s : State) (v : W64) (hs : Memory.wf s.mem = true) :
    Memory.wf (tlbIdleWrite s v).mem = true := by
  unfold tlbIdleWrite
  repeat' first | with_reducible assumption | (extract_lets +onlyGivenNames x; subst x) | split

theorem wf_resetState (s : State) (hs : Memory.wf s.mem = true) :
    Memory.wf (resetState s).mem = true := by
  unfold resetState
  repeat' first
    | with_reducible apply wf_loadRoutes | (extract_lets +onlyGivenNames x; subst x) | dsimp -zeta only | split | trivial

theorem wf_bootChanged (s : State) (t : State) (hs : Memory.wf s.mem = true) (ht : Memory.wf t.mem = true) :
    Memory.wf (bootChanged s t).mem = true := by
  unfold bootChanged
  repeat' first | with_reducible assumption | with_reducible apply wf_raise | split

theorem wf_moduleReset (s : State) (hs : Memory.wf s.mem = true) :
    Memory.wf (moduleReset s).mem = true := by
  unfold moduleReset
  repeat' first | with_reducible assumption | with_reducible apply wf_bootChanged | with_reducible apply wf_resetState

theorem wf_fullStart (s : State) (hs : Memory.wf s.mem = true) :
    Memory.wf (fullStart s).mem = true := by
  unfold fullStart
  repeat' first | with_reducible assumption | with_reducible apply wf_bootChanged | with_reducible apply wf_resetState

theorem wf_setMeas (s : State) (k : ℕ) (v : BitVec 256) (hs : Memory.wf s.mem = true) :
    Memory.wf (setMeas s k v).mem = true := by
  unfold setMeas
  repeat' first | with_reducible assumption

theorem wf_startFails (s : State) (code : BitVec 8) (hs : Memory.wf s.mem = true) :
    Memory.wf (startFails s code).mem = true := by
  unfold startFails
  repeat' first
    | with_reducible assumption | with_reducible apply wf_bootChanged | with_reducible apply wf_resetState
    | with_reducible apply wf_tick1 | (extract_lets +onlyGivenNames x; subst x) | dsimp -zeta only | split

theorem wf_stageWork (s : State) (n : ℕ) (hs : Memory.wf s.mem = true) :
    Memory.wf (stageWork s n).mem = true := by
  unfold stageWork
  repeat' first
    | with_reducible assumption | with_reducible apply wf_setMeas | with_reducible apply wf_loadRoutes
    | (extract_lets +onlyGivenNames x; subst x) | split

theorem wf_respond (s : State) (st : ℕ) (bs : List Byte) (hs : Memory.wf s.mem = true) :
    Memory.wf (respond s st bs).mem = true := by
  unfold respond
  repeat' first | with_reducible assumption

theorem wf_msgStatus (s : State) (hs : Memory.wf s.mem = true) :
    Memory.wf (msgStatus s).mem = true := by
  unfold msgStatus
  repeat' first | with_reducible assumption | with_reducible apply wf_respond

theorem wf_msgBankRead (s : State) (b : ℕ) (hs : Memory.wf s.mem = true) :
    Memory.wf (msgBankRead s b).mem = true := by
  unfold msgBankRead
  repeat' first | with_reducible assumption | with_reducible apply wf_respond | (extract_lets +onlyGivenNames x; subst x) | split

theorem wf_msgBankClear (s : State) (b : ℕ) (hs : Memory.wf s.mem = true) :
    Memory.wf (msgBankClear s b).mem = true := by
  unfold msgBankClear
  repeat' first | with_reducible assumption | with_reducible apply wf_respond | with_reducible apply wf_bankClear | split

theorem wf_msgPowerCap (s : State) (v : W64) (hs : Memory.wf s.mem = true) :
    Memory.wf (msgPowerCap s v).mem = true := by
  unfold msgPowerCap
  repeat' first | with_reducible assumption | with_reducible apply wf_respond | (extract_lets +onlyGivenNames x; subst x) | split

theorem wf_msgFirmware (s : State) (off : ℕ) (data : List Byte) (hs : Memory.wf s.mem = true) :
    Memory.wf (msgFirmware s off data).mem = true := by
  unfold msgFirmware
  repeat' first | with_reducible assumption | with_reducible apply wf_respond

theorem wf_msgActivate (s : State) (hs : Memory.wf s.mem = true) :
    Memory.wf (msgActivate s).mem = true := by
  unfold msgActivate
  repeat' first | with_reducible assumption | with_reducible apply wf_respond

theorem wf_msgFloorMap (s : State) (data : List Byte) (hs : Memory.wf s.mem = true) :
    Memory.wf (msgFloorMap s data).mem = true := by
  unfold msgFloorMap
  repeat' first | with_reducible assumption | with_reducible apply wf_respond

theorem wf_msgExtend (s : State) (k : ℕ) (data : List Byte) (hs : Memory.wf s.mem = true) :
    Memory.wf (msgExtend s k data).mem = true := by
  unfold msgExtend
  repeat' first | with_reducible assumption | with_reducible apply wf_respond | with_reducible apply wf_setMeas | split

theorem wf_msgAttest (s : State) (mail : Bool) (nonce : List Byte) (hs : Memory.wf s.mem = true) :
    Memory.wf (msgAttest s mail nonce).mem = true := by
  unfold msgAttest
  repeat' first | with_reducible assumption | with_reducible apply wf_respond | (extract_lets +onlyGivenNames x; subst x) | split

theorem wf_attestStep (s : State) (hs : Memory.wf s.mem = true) :
    Memory.wf (attestStep s).mem = true := by
  unfold attestStep
  repeat' first
    | with_reducible assumption | with_reducible apply wf_tick1 | (extract_lets +onlyGivenNames x; subst x) | dsimp -zeta only
    | split

theorem wf_serveMail (s : State) (n : ℕ) (hs : Memory.wf s.mem = true) :
    Memory.wf (serveMail s n).mem = true := by
  unfold serveMail
  repeat' first
    | with_reducible assumption | with_reducible apply wf_msgStatus | with_reducible apply wf_msgBankRead
    | with_reducible apply wf_msgBankClear | with_reducible apply wf_msgPowerCap | with_reducible apply wf_msgFirmware
    | with_reducible apply wf_msgActivate | with_reducible apply wf_msgFloorMap | with_reducible apply wf_msgExtend
    | with_reducible apply wf_msgAttest | with_reducible apply wf_moduleReset | with_reducible apply wf_fullStart
    | with_reducible apply wf_respond | (extract_lets +onlyGivenNames x; subst x) | dsimp -zeta only | split

theorem wf_mailWrite (s : State) (off : ℕ) (bs : List Byte) (hs : Memory.wf s.mem = true) :
    Memory.wf (mailWrite s off bs).mem = true := by
  unfold mailWrite
  repeat' first | with_reducible assumption

theorem wf_float1Act (s : State) (h : Hdr) (t : Ty) (o : Op1) (f : Ieee → FV → ℕ) (hs : Memory.wf s.mem = true) :
    OutWf (float1Act s h t o f) := by
  unfold float1Act
  repeat' first | with_reducible assumption | with_reducible apply wf_fin | with_reducible apply wf_laneRun

theorem wf_float2Act (s : State) (h : Hdr) (t : Ty) (o : Op2) (resid : Bool) (f : Ieee → FV → FV → ℕ)
    (hs : Memory.wf s.mem = true) :
    OutWf (float2Act s h t o resid f) := by
  unfold float2Act
  repeat' first | with_reducible assumption | with_reducible apply wf_fin | with_reducible apply wf_laneRun

theorem wf_fSelAct (s : State) (h : Hdr) (t : Ty) (o : Op2) (f : W64 → W64 → W64) (hs : Memory.wf s.mem = true) :
    OutWf (fSelAct s h t o f) := by
  unfold fSelAct
  repeat' first | with_reducible assumption | with_reducible apply wf_fin | with_reducible apply wf_laneRun

theorem wf_convAct (s : State) (h : Hdr) (src : Ty) (dst : Ty) (d : Opd) (a : Src) (f : FV → W64) (hs : Memory.wf s.mem = true) :
    OutWf (convAct s h src dst d a f) := by
  unfold convAct
  repeat' first | with_reducible assumption | with_reducible apply wf_fin | with_reducible apply wf_laneRun

theorem wf_predAct (s : State) (h : Hdr) (d : BitVec 4) (f : (BitVec 4 → Bool) → Bool) (hs : Memory.wf s.mem = true) :
    OutWf (predAct s h d f) := by
  unfold predAct
  repeat' first
    | with_reducible assumption | intro _ | with_reducible apply act_next | with_reducible apply wf_fin
    | with_reducible apply wf_atLanes | with_reducible apply wf_updGrp | with_reducible apply wf_atCtx
    | with_reducible apply wf_updCtx | split

theorem wf_scal2Act (s : State) (h : Hdr) (o : Op2) (f : W64 → W64 → W64) (hs : Memory.wf s.mem = true) :
    OutWf (scal2Act s h o f) := by
  unfold scal2Act
  repeat' first | with_reducible assumption | with_reducible apply wf_fin | with_reducible apply wf_scalRun

theorem wf_scal1Act (s : State) (h : Hdr) (o : Op1) (f : W64 → W64) (hs : Memory.wf s.mem = true) :
    OutWf (scal1Act s h o f) := by
  unfold scal1Act
  repeat' first | with_reducible assumption | with_reducible apply wf_fin | with_reducible apply wf_scalRun

theorem wf_lane2Act (s : State) (h : Hdr) (t : Ty) (o : Op2) (resid : Bool) (f : (w : ℕ) → BitVec w → BitVec w → BitVec w)
    (hs : Memory.wf s.mem = true) :
    OutWf (lane2Act s h t o resid f) := by
  unfold lane2Act
  repeat' first | with_reducible assumption | with_reducible apply wf_fin | with_reducible apply wf_laneRun

theorem wf_lane1Act (s : State) (h : Hdr) (t : Ty) (o : Op1) (f : (w : ℕ) → BitVec w → BitVec w) (hs : Memory.wf s.mem = true) :
    OutWf (lane1Act s h t o f) := by
  unfold lane1Act
  repeat' first | with_reducible assumption | with_reducible apply wf_fin | with_reducible apply wf_laneRun

theorem wf_shuffle (s : State) (h : Hdr) (t : Ty) (d : Opd) (a : Src) (b : Src) (immA : W64) (immB : W64) (bn : ℕ)
    (sel : ℕ → W64 → ℕ) (hs : Memory.wf s.mem = true) :
    OutWf (shuffle s h t d a b immA immB bn sel) := by
  unfold shuffle
  repeat' first
    | with_reducible assumption | intro _ | with_reducible apply act_fault | with_reducible apply wf_fin
    | with_reducible apply wf_atLanes | with_reducible apply wf_checkAll | with_reducible apply wf_checked
    | with_reducible apply wf_writeLanes | (extract_lets +onlyGivenNames x; subst x) | dsimp -zeta only | split
    | (refine oa_fault ?_ (by assumption)) | (refine oa_get ?_ (by assumption))

theorem wf_scanAct (s : State) (h : Hdr) (op : RedOp) (t : Ty) (o : Op1) (red : Bool) (excl : Bool)
    (hs : Memory.wf s.mem = true) :
    OutWf (scanAct s h op t o red excl) := by
  unfold scanAct
  repeat' first
    | with_reducible assumption | intro _ | with_reducible apply wf_fin | with_reducible apply wf_laneReady
    | with_reducible apply wf_writeLanes

theorem wf_pairTurn (t : State) (gk : ℕ) (e : ℕ) (ht : Memory.wf t.mem = true) :
    Memory.wf (pairTurn t gk e).mem = true := by
  unfold pairTurn
  repeat' first | with_reducible assumption | with_reducible apply wf_updGrp

theorem wf_thenPair (s : State) (o : Host.Outcome State Fault Refusal) (hs : Memory.wf s.mem = true) (ho : OutWf (o)) :
    OutWf (thenPair s o) := by
  unfold thenPair
  split
  · have h := out_get ho rfl
    refine out_next ?_
    split
    · exact wf_pairTurn _ _ _ h
    · exact h
  · exact ho

theorem wf_begin1 (s : State) (hs : Memory.wf s.mem = true) :
    Memory.wf (begin1 s).mem = true := by
  unfold begin1
  repeat' first | with_reducible assumption

end Sys2Proof.Machine
end

