-- ==== Sys2Proof/Laws/WfExec.lean ====
section
/-! SUPPORT. Every meaning of an instruction keeps the canonical form of memory, one lemma each. -/

namespace Sys2Proof.Machine

theorem wf_execLd (h : Hdr) (m : OpM) (s : State) (hs : Memory.wf s.mem = true) :
    OutWf (execLd h m s) := by
  unfold execLd
  repeat' first | with_reducible assumption | with_reducible apply wf_fin | with_reducible apply wf_loadAct

theorem wf_execLdk (h : Hdr) (m : OpM) (s : State) (hs : Memory.wf s.mem = true) :
    OutWf (execLdk h m s) := by
  unfold execLdk
  repeat' first | with_reducible assumption | with_reducible apply wf_fin | with_reducible apply wf_loadAct

theorem wf_execLds (h : Hdr) (m : OpM) (s : State) (hs : Memory.wf s.mem = true) :
    OutWf (execLds h m s) := by
  unfold execLds
  repeat' first
    | with_reducible assumption | intro _ | with_reducible apply act_next | with_reducible apply wf_fin
    | with_reducible apply wf_atLanes | with_reducible apply wf_checkUses | with_reducible apply wf_scrGo
    | with_reducible apply wf_countPasses | with_reducible apply wf_emptyDest | with_reducible apply wf_issueAccs
    | (extract_lets +onlyGivenNames x; subst x) | split | (refine oa_get ?_ (by assumption))

theorem wf_execSld (h : Hdr) (m : OpM) (s : State) (hs : Memory.wf s.mem = true) :
    OutWf (execSld h m s) := by
  unfold execSld
  repeat' first
    | with_reducible assumption | intro _ | with_reducible apply act_next | with_reducible apply wf_fin
    | with_reducible apply wf_atCtx | with_reducible apply wf_checkUses | with_reducible apply wf_globalGo
    | with_reducible apply wf_emptyScal | with_reducible apply wf_issueAccs | (extract_lets +onlyGivenNames x; subst x) | split
    | (refine oa_get ?_ (by assumption))

theorem wf_execPref (h : Hdr) (m : OpM) (s : State) (hs : Memory.wf s.mem = true) :
    OutWf (execPref h m s) := by
  unfold execPref
  repeat' first
    | with_reducible assumption | intro _ | with_reducible apply act_next | with_reducible apply act_wait
    | with_reducible apply wf_prefGo | with_reducible apply wf_fin | with_reducible apply wf_atLanes
    | with_reducible apply wf_atCtx | (extract_lets +onlyGivenNames x; subst x) | dsimp -zeta only | split

theorem wf_execSt (h : Hdr) (m : OpM) (s : State) (hs : Memory.wf s.mem = true) :
    OutWf (execSt h m s) := by
  unfold execSt
  repeat' first
    | with_reducible assumption | intro _ | with_reducible apply act_next | with_reducible apply wf_fin
    | with_reducible apply wf_atLanes | with_reducible apply wf_checkUses | with_reducible apply wf_globalGo
    | with_reducible apply wf_issueAccs | (extract_lets +onlyGivenNames x; subst x) | split | (refine oa_get ?_ (by assumption))

theorem wf_execSts (h : Hdr) (m : OpM) (s : State) (hs : Memory.wf s.mem = true) :
    OutWf (execSts h m s) := by
  unfold execSts
  repeat' first
    | with_reducible assumption | intro _ | with_reducible apply act_next | with_reducible apply wf_fin
    | with_reducible apply wf_atLanes | with_reducible apply wf_checkUses | with_reducible apply wf_scrGo
    | with_reducible apply wf_countPasses | with_reducible apply wf_issueAccs | (extract_lets +onlyGivenNames x; subst x) | split
    | (refine oa_get ?_ (by assumption))

theorem wf_execSst (h : Hdr) (m : OpM) (s : State) (hs : Memory.wf s.mem = true) :
    OutWf (execSst h m s) := by
  unfold execSst
  repeat' first
    | with_reducible assumption | intro _ | with_reducible apply act_next | with_reducible apply wf_fin
    | with_reducible apply wf_atCtx | with_reducible apply wf_checkUses | with_reducible apply wf_globalGo
    | with_reducible apply wf_issueAccs | (extract_lets +onlyGivenNames x; subst x) | split | (refine oa_get ?_ (by assumption))

theorem wf_execAtom (h : Hdr) (op : Aop) (m : OpM) (s : State) (hs : Memory.wf s.mem = true) :
    OutWf (execAtom h op m s) := by
  unfold execAtom
  repeat' first | with_reducible assumption | with_reducible apply wf_fin | with_reducible apply wf_atomAct

theorem wf_execRed (h : Hdr) (op : Aop) (m : OpM) (s : State) (hs : Memory.wf s.mem = true) :
    OutWf (execRed h op m s) := by
  unfold execRed
  repeat' first | with_reducible assumption | with_reducible apply wf_fin | with_reducible apply wf_atomAct

theorem wf_execAtoms (h : Hdr) (op : Aop) (m : OpM) (s : State) (hs : Memory.wf s.mem = true) :
    OutWf (execAtoms h op m s) := by
  unfold execAtoms
  repeat' first
    | with_reducible assumption | intro _ | with_reducible apply act_next | with_reducible apply wf_fin
    | with_reducible apply wf_atLanes | with_reducible apply wf_checkUses | with_reducible apply wf_scrGo
    | with_reducible apply wf_issueAccs | with_reducible apply wf_countPasses | with_reducible apply wf_emptyDest
    | (extract_lets +onlyGivenNames x; subst x) | split | (refine oa_get ?_ (by assumption))

theorem wf_execSatom (h : Hdr) (op : Aop) (m : OpM) (s : State) (hs : Memory.wf s.mem = true) :
    OutWf (execSatom h op m s) := by
  unfold execSatom
  repeat' first
    | with_reducible assumption | intro _ | with_reducible apply act_next | with_reducible apply wf_fin
    | with_reducible apply wf_atCtx | with_reducible apply wf_checkUses | with_reducible apply wf_globalGo
    | with_reducible apply wf_emptyScal | with_reducible apply wf_issueAccs | (extract_lets +onlyGivenNames x; subst x) | split
    | (refine oa_get ?_ (by assumption))

theorem wf_execFence (h : Hdr) (ord : Ord) (sc : BitVec 3) (s : State) (hs : Memory.wf s.mem = true) :
    OutWf (execFence h ord sc s) := by
  unfold execFence
  repeat' first
    | with_reducible assumption | intro _ | with_reducible apply act_next | with_reducible apply wf_addAcc
    | with_reducible apply wf_fin | with_reducible apply wf_atLanes | with_reducible apply wf_addAccs
    | with_reducible apply wf_atCtx | (extract_lets +onlyGivenNames x; subst x) | dsimp -zeta only | split

theorem wf_execBar (h : Hdr) (j : BitVec 3) (s : State) (hs : Memory.wf s.mem = true) :
    OutWf (execBar h j s) := by
  unfold execBar
  repeat' first
    | with_reducible assumption | intro _ | with_reducible apply act_next | with_reducible apply act_wait
    | with_reducible apply wf_fin | with_reducible apply wf_onceRun | with_reducible apply wf_barWait
    | (extract_lets +onlyGivenNames x; subst x) | split

theorem wf_execBara (h : Hdr) (d : Opd) (j : BitVec 3) (s : State) (hs : Memory.wf s.mem = true) :
    OutWf (execBara h d j s) := by
  unfold execBara
  repeat' first
    | with_reducible assumption | intro _ | with_reducible apply act_next | with_reducible apply act_wait
    | with_reducible apply wf_fin | with_reducible apply wf_onceReady | with_reducible apply wf_baraPut
    | with_reducible apply wf_barArrive | with_reducible apply wf_stayAt | (extract_lets +onlyGivenNames x; subst x)
    | dsimp -zeta only | split | (refine act_get ?_ (by assumption))

theorem wf_execBarw (h : Hdr) (a : Src) (j : BitVec 3) (s : State) (hs : Memory.wf s.mem = true) :
    OutWf (execBarw h a j s) := by
  unfold execBarw
  repeat' first
    | with_reducible assumption | intro _ | with_reducible apply act_next | with_reducible apply wf_fin
    | with_reducible apply wf_onceReady | with_reducible apply wf_unlessPoison | with_reducible apply wf_standBy
    | (extract_lets +onlyGivenNames x; subst x) | split

theorem wf_execPacketInject (id : ℕ) (s : State) (hs : Memory.wf s.mem = true) :
    OutWf (execPacketInject id s) := by
  unfold execPacketInject
  repeat' first
    | with_reducible assumption | intro _ | with_reducible apply opt_pair | with_reducible apply opt_none
    | with_reducible apply wf_ev | with_reducible apply wf_bucketTake | with_reducible apply wf_updAcc
    | with_reducible apply wf_inject | with_reducible apply opt_bind | with_reducible apply opt_bind'
    | (extract_lets +onlyGivenNames x; subst x) | split

theorem wf_execBucketRefill (ep : ℕ) (cls : ℕ) (s : State) (hs : Memory.wf s.mem = true) :
    OutWf (execBucketRefill ep cls s) := by
  unfold execBucketRefill
  repeat' first
    | with_reducible assumption | with_reducible apply opt_none | with_reducible apply opt_some | with_reducible apply wf_ev
    | (extract_lets +onlyGivenNames x; subst x) | split

theorem wf_execReadPerform (id : ℕ) (s : State) (hs : Memory.wf s.mem = true) :
    OutWf (execReadPerform id s) := by
  unfold execReadPerform
  repeat' first
    | with_reducible assumption | intro _ | with_reducible apply opt_none | with_reducible apply wf_ev
    | with_reducible apply wf_prefLine | with_reducible apply wf_readMem | with_reducible apply wf_scrStruck
    | with_reducible apply wf_tookValue | with_reducible apply opt_bind' | with_reducible apply opt_map' | split

theorem wf_execWriteApply (id : ℕ) (s : State) (hs : Memory.wf s.mem = true) :
    OutWf (execWriteApply id s) := by
  unfold execWriteApply
  repeat' first
    | with_reducible assumption | intro _ | with_reducible apply opt_none | with_reducible apply wf_ev
    | with_reducible apply wf_applyFirst | with_reducible apply opt_bind' | (extract_lets +onlyGivenNames x; subst x) | split

theorem wf_execWriteDeliver (id : ℕ) (s : State) (hs : Memory.wf s.mem = true) :
    OutWf (execWriteDeliver id s) := by
  unfold execWriteDeliver
  repeat' first
    | with_reducible assumption | intro _ | with_reducible apply opt_none | with_reducible apply opt_some
    | with_reducible apply wf_ev | with_reducible apply wf_updAcc | with_reducible apply wf_homeWrite
    | with_reducible apply opt_bind' | split

theorem wf_execViewRefresh (core : ℕ) (pa : ℕ) (s : State) (hs : Memory.wf s.mem = true) :
    OutWf (execViewRefresh core pa s) := by
  unfold execViewRefresh
  repeat' first
    | with_reducible assumption | with_reducible apply opt_none | with_reducible apply opt_some | with_reducible apply wf_ev
    | with_reducible apply wf_updCore | (extract_lets +onlyGivenNames x; subst x) | dsimp -zeta only | split

theorem wf_execViewEvict (core : ℕ) (pa : ℕ) (s : State) (hs : Memory.wf s.mem = true) :
    OutWf (execViewEvict core pa s) := by
  unfold execViewEvict
  repeat' first | with_reducible assumption | with_reducible apply out_next | with_reducible apply wf_updCore

theorem wf_execCellarEvict (pa : ℕ) (s : State) (hs : Memory.wf s.mem = true) :
    OutWf (execCellarEvict pa s) := by
  unfold execCellarEvict
  repeat' first
    | with_reducible assumption | intro _ | with_reducible apply out_next | with_reducible apply wf_cellarHit
    | with_reducible apply wf_foldl

theorem wf_execAccessComplete (id : ℕ) (s : State) (hs : Memory.wf s.mem = true) :
    OutWf (execAccessComplete id s) := by
  unfold execAccessComplete
  repeat' first
    | with_reducible assumption | intro _ | with_reducible apply opt_none | with_reducible apply opt_some
    | with_reducible apply wf_ev | with_reducible apply wf_fenceAcquire | with_reducible apply opt_bind'
    | (extract_lets +onlyGivenNames x; subst x) | dsimp -zeta only | split

theorem wf_execProducerCompletion (n : ℕ) (s : State) (hs : Memory.wf s.mem = true) :
    OutWf (execProducerCompletion n s) := by
  unfold execProducerCompletion
  repeat' first
    | with_reducible assumption | intro _ | with_reducible apply wf_ev | with_reducible apply wf_afterFill
    | with_reducible apply wf_fillDest | with_reducible apply opt_map'

theorem wf_execHostCompletion (id : ℕ) (data : List (BitVec 8)) (s : State) (hs : Memory.wf s.mem = true) :
    OutWf (execHostCompletion id data s) := by
  unfold execHostCompletion
  repeat' first
    | with_reducible assumption | intro _ | with_reducible apply opt_none | with_reducible apply wf_ev
    | with_reducible apply wf_copyReport | with_reducible apply wf_bucketDebit | with_reducible apply wf_winAnswer
    | with_reducible apply wf_replyDebit | with_reducible apply opt_bind' | split

theorem wf_execPageWalk (core : ℕ) (gc : ℕ) (va : W64) (s : State) (hs : Memory.wf s.mem = true) :
    OutWf (execPageWalk core gc va s) := by
  unfold execPageWalk
  repeat' first
    | with_reducible assumption | intro _ | with_reducible apply opt_none | with_reducible apply opt_some
    | with_reducible apply wf_ev | with_reducible apply wf_walk | with_reducible apply wf_updCore
    | with_reducible apply wf_updCluster | with_reducible apply opt_bind' | (extract_lets +onlyGivenNames x; subst x) | split
    | (refine snd_get ?_ (by assumption))

theorem wf_execTlbDrop (core : Bool) (n : ℕ) (idx : ℕ) (s : State) (hs : Memory.wf s.mem = true) :
    OutWf (execTlbDrop core n idx s) := by
  unfold execTlbDrop
  repeat' first
    | with_reducible assumption | with_reducible apply out_next | with_reducible apply wf_updCore
    | with_reducible apply wf_updCluster | dsimp -zeta only | split

theorem wf_execLineFill (u : UnitRef) (va : W64) (s : State) (hs : Memory.wf s.mem = true) :
    OutWf (execLineFill u va s) := by
  unfold execLineFill
  repeat' first
    | with_reducible assumption | with_reducible apply opt_none | with_reducible apply opt_some | with_reducible apply wf_ev
    | with_reducible apply wf_fillLine | dsimp -zeta only | split

theorem wf_execArvi (h : Hdr) (off16 : BitVec 14) (n : BitVec 13) (s : State) (hs : Memory.wf s.mem = true) :
    OutWf (execArvi h off16 n s) := by
  unfold execArvi
  repeat' first
    | with_reducible assumption | intro _ | with_reducible apply act_next | with_reducible apply act_wait
    | with_reducible apply wf_fin | with_reducible apply wf_onceAll | with_reducible apply wf_arrCheck
    | with_reducible apply wf_arrPut | (extract_lets +onlyGivenNames x; subst x) | split

theorem wf_execArv (h : Hdr) (a : Src) (imm : BitVec 27) (s : State) (hs : Memory.wf s.mem = true) :
    OutWf (execArv h a imm s) := by
  unfold execArv
  repeat' first
    | with_reducible assumption | intro _ | with_reducible apply act_next | with_reducible apply act_wait
    | with_reducible apply wf_fin | with_reducible apply wf_onceAll | with_reducible apply wf_onceChecked
    | with_reducible apply wf_arrCheck | with_reducible apply wf_unlessPoison | with_reducible apply wf_arrPut
    | (extract_lets +onlyGivenNames x; subst x) | split

theorem wf_execArwt (h : Hdr) (d : BitVec 4) (a : Src) (b : Src) (imm : BitVec 27) (s : State) (hs : Memory.wf s.mem = true) :
    OutWf (execArwt h d a b imm s) := by
  unfold execArwt
  repeat' first
    | with_reducible assumption | intro _ | with_reducible apply act_next | with_reducible apply act_wait
    | with_reducible apply wf_fin | with_reducible apply wf_onceAll | with_reducible apply wf_onceChecked
    | with_reducible apply wf_arrCheck | with_reducible apply wf_unlessPoison | with_reducible apply wf_putPred
    | with_reducible apply wf_stayAt | (extract_lets +onlyGivenNames x; subst x) | dsimp -zeta only | split

theorem wf_execArtst (h : Hdr) (c : ArtstCond) (d : BitVec 4) (a : Src) (b : Src) (imm : BitVec 27) (s : State)
    (hs : Memory.wf s.mem = true) :
    OutWf (execArtst h c d a b imm s) := by
  unfold execArtst
  repeat' first
    | with_reducible assumption | intro _ | with_reducible apply act_next | with_reducible apply wf_fin
    | with_reducible apply wf_onceAll | with_reducible apply wf_onceChecked | with_reducible apply wf_arrCheck
    | with_reducible apply wf_unlessPoison | with_reducible apply wf_putPred | (extract_lets +onlyGivenNames x; subst x) | split

theorem wf_execCpy (h : Hdr) (dir : CpyDir) (a : Src) (b : Src) (imm : BitVec 27) (s : State) (hs : Memory.wf s.mem = true) :
    OutWf (execCpy h dir a b imm s) := by
  unfold execCpy
  repeat' first | with_reducible assumption | with_reducible apply wf_fin | with_reducible apply wf_copyCmd

theorem wf_execCpyp (h : Hdr) (a : Src) (b : Src) (imm : BitVec 27) (s : State) (hs : Memory.wf s.mem = true) :
    OutWf (execCpyp h a b imm s) := by
  unfold execCpyp
  repeat' first | with_reducible assumption | with_reducible apply wf_fin | with_reducible apply wf_copyCmd

theorem wf_execCpym (h : Hdr) (tgt : CpymTo) (a : Src) (b : Src) (c : Src) (imm : BitVec 27) (s : State)
    (hs : Memory.wf s.mem = true) :
    OutWf (execCpym h tgt a b c imm s) := by
  unfold execCpym
  repeat' first | with_reducible assumption | with_reducible apply wf_fin | with_reducible apply wf_copyCmd

theorem wf_execCpys (h : Hdr) (a : Src) (b : Src) (imm : BitVec 27) (s : State) (hs : Memory.wf s.mem = true) :
    OutWf (execCpys h a b imm s) := by
  unfold execCpys
  repeat' first | with_reducible assumption | with_reducible apply wf_fin | with_reducible apply wf_copyCmd

theorem wf_execCpyr (h : Hdr) (op : RedOp) (a : Src) (b : Src) (imm : BitVec 27) (s : State) (hs : Memory.wf s.mem = true) :
    OutWf (execCpyr h op a b imm s) := by
  unfold execCpyr
  repeat' first | with_reducible assumption | with_reducible apply wf_fin | with_reducible apply wf_copyCmd

theorem wf_execDroverStart (core : ℕ) (s : State) (hs : Memory.wf s.mem = true) :
    OutWf (execDroverStart core s) := by
  unfold execDroverStart
  repeat' first
    | with_reducible assumption | with_reducible apply opt_none | with_reducible apply opt_some | with_reducible apply wf_ev
    | with_reducible apply wf_updCore | split

theorem wf_execSectorComplete (core : ℕ) (copy : ℕ) (sector : ℕ) (s : State) (hs : Memory.wf s.mem = true) :
    OutWf (execSectorComplete core copy sector s) := by
  unfold execSectorComplete
  refine wf_ev _ _ hs ?_
  refine opt_bind' (fun c => opt_bind' (fun x => ?_))
  split
  · exact opt_map (wf_sectorPacket _ _ _ _ hs) (fun t ht => wf_putSector _ _ _ _ _ ht)
  · exact opt_nth (fun p => wf_movePiece _ _ _ _ _ _ _ _ (wf_tick1 _ hs))

theorem wf_execOmap (h : Hdr) (role : Bool) (lines : Bool) (i4 : Bool) (t : Ty) (d : BitVec 4) (buf : BitVec 3) (p : BitVec 6)
    (w : BitVec 3) (kb : BitVec 5) (s : State) (hs : Memory.wf s.mem = true) :
    OutWf (execOmap h role lines i4 t d buf p w kb s) := by
  unfold execOmap
  repeat' first
    | with_reducible assumption | intro _ | with_reducible apply act_next | with_reducible apply wf_fin
    | with_reducible apply wf_onceAll | with_reducible apply wf_flt | with_reducible apply wf_writeMap
    | (extract_lets +onlyGivenNames x; subst x) | split

theorem wf_execPlst (h : Hdr) (role : Bool) (m : BitVec 4) (off : BitVec 27) (s : State) (hs : Memory.wf s.mem = true) :
    OutWf (execPlst h role m off s) := by
  unfold execPlst
  repeat' first
    | with_reducible assumption | intro _ | with_reducible apply act_next | with_reducible apply act_wait
    | with_reducible apply wf_fin | with_reducible apply wf_onceAll | with_reducible apply wf_areaFault
    | with_reducible apply wf_flt | with_reducible apply wf_plstTile | with_reducible apply wf_scrStruck
    | (extract_lets +onlyGivenNames x; subst x) | dsimp -zeta only | split

theorem wf_execMma (h : Hdr) (o : OpMma) (s : State) (hs : Memory.wf s.mem = true) :
    OutWf (execMma h o s) := by
  unfold execMma
  repeat' first | with_reducible assumption | with_reducible apply wf_fin | with_reducible apply wf_mmaAct

theorem wf_execMmaloop (h : Hdr) (o : OpMma) (s : State) (hs : Memory.wf s.mem = true) :
    OutWf (execMmaloop h o s) := by
  unfold execMmaloop
  repeat' first | with_reducible assumption | with_reducible apply wf_fin | with_reducible apply wf_mmaAct

theorem wf_execMfence (h : Hdr) (s : State) (hs : Memory.wf s.mem = true) :
    OutWf (execMfence h s) := by
  unfold execMfence
  repeat' first
    | with_reducible assumption | intro _ | with_reducible apply act_next | with_reducible apply wf_fin
    | with_reducible apply wf_onceAll | with_reducible apply wf_updCore

theorem wf_execMwait (h : Hdr) (a : Option (BitVec 3)) (s : State) (hs : Memory.wf s.mem = true) :
    OutWf (execMwait h a s) := by
  unfold execMwait
  repeat' first
    | with_reducible assumption | intro _ | with_reducible apply act_next | with_reducible apply act_fault
    | with_reducible apply wf_fin | with_reducible apply wf_onceRun | with_reducible apply wf_standBy
    | with_reducible apply wf_updCore | (extract_lets +onlyGivenNames x; subst x) | split

theorem wf_execAclr (h : Hdr) (d : BitVec 3) (s : State) (hs : Memory.wf s.mem = true) :
    OutWf (execAclr h d s) := by
  unfold execAclr
  repeat' first
    | with_reducible assumption | intro _ | with_reducible apply wf_fin | with_reducible apply wf_onceAll
    | with_reducible apply wf_queueAct | trivial

theorem wf_execAscl (h : Hdr) (f : AccFmt) (t : Ty) (d : BitVec 3) (a : BitVec 3) (b : Src) (c : Src) (s : State)
    (hs : Memory.wf s.mem = true) :
    OutWf (execAscl h f t d a b c s) := by
  unfold execAscl
  repeat' first
    | with_reducible assumption | intro _ | with_reducible apply wf_fin | with_reducible apply wf_onceAll
    | with_reducible apply wf_checkAll | with_reducible apply wf_queueAct | (extract_lets +onlyGivenNames x; subst x) | split
    | (refine oa_get ?_ (by assumption)) | trivial

theorem wf_execAmovv (h : Hdr) (t : Ty) (d : Opd) (a : BitVec 3) (b : Src) (row : BitVec 6) (s : State)
    (hs : Memory.wf s.mem = true) :
    OutWf (execAmovv h t d a b row s) := by
  unfold execAmovv
  repeat' first | with_reducible assumption | with_reducible apply wf_fin | with_reducible apply wf_rowAct

theorem wf_execAsts (h : Hdr) (t : Ty) (d : BitVec 3) (off : BitVec 27) (s : State) (hs : Memory.wf s.mem = true) :
    OutWf (execAsts h t d off s) := by
  unfold execAsts
  repeat' first | with_reducible assumption | with_reducible apply wf_fin | with_reducible apply wf_areaAct

theorem wf_execAlds (h : Hdr) (t : Ty) (d : BitVec 3) (off : BitVec 27) (s : State) (hs : Memory.wf s.mem = true) :
    OutWf (execAlds h t d off s) := by
  unfold execAlds
  repeat' first | with_reducible assumption | with_reducible apply wf_fin | with_reducible apply wf_areaAct

theorem wf_execAcvt (h : Hdr) (sform : Bool) (f : AccFmt) (wrap : Bool) (t : Ty) (d : Opd) (a : BitVec 3) (b : Src)
    (row : BitVec 6) (off : BitVec 27) (s : State) (hs : Memory.wf s.mem = true) :
    OutWf (execAcvt h sform f wrap t d a b row off s) := by
  unfold execAcvt
  repeat' first
    | with_reducible assumption | with_reducible apply wf_fin | with_reducible apply wf_areaAct | with_reducible apply wf_rowAct
    | split

theorem wf_execMatrixOpStart (core : ℕ) (s : State) (hs : Memory.wf s.mem = true) :
    OutWf (execMatrixOpStart core s) := by
  unfold execMatrixOpStart
  repeat' first
    | with_reducible assumption | intro _ | with_reducible apply opt_none | with_reducible apply opt_some
    | with_reducible apply wf_ev | with_reducible apply wf_updCore | with_reducible apply opt_bind' | split

theorem wf_execMatrixOpComplete (core : ℕ) (op : ℕ) (mismatch : Bool) (s : State) (hs : Memory.wf s.mem = true) :
    OutWf (execMatrixOpComplete core op mismatch s) := by
  unfold execMatrixOpComplete
  repeat' first
    | with_reducible assumption | intro _ | with_reducible apply opt_none | with_reducible apply opt_some
    | with_reducible apply wf_ev | with_reducible apply wf_strikeMat | with_reducible apply wf_updCore
    | with_reducible apply wf_endMat | with_reducible apply wf_matElement | with_reducible apply wf_tick1
    | with_reducible apply wf_accUndef | with_reducible apply wf_matEffect | with_reducible apply wf_deferMat
    | with_reducible apply opt_bind' | (extract_lets +onlyGivenNames x; subst x) | dsimp -zeta only | split

theorem wf_execSpawnStep (gc : ℕ) (b : ℕ) (s : State) (hs : Memory.wf s.mem = true) :
    OutWf (execSpawnStep gc b s) := by
  unfold execSpawnStep
  refine out_next ?_
  split
  · exact hs
  · split
    · exact hs
    · rename_i x _ _ va _ _
      extract_lets t i u
      have hu : Memory.wf u.mem = true := wf_updBand _ _ _ hs
      clear_value u
      have h := wf_spawn u va.toNat t.space t.top t.tdir t.tdlim (s.lrec gc).priv (some (bandKey gc b)) hu
      generalize spawn u va.toNat t.space t.top t.tdir t.tdlim (s.lrec gc).priv (some (bandKey gc b)) = r at h ⊢
      cases r with
      | wait => exact hs
      | done c t =>
        have ht := spawn_get h rfl
        split
        · exact hs
        · rename_i e; cases e; exact wf_freePend _ _ _ ht
        · rename_i e; cases e; exact ht

theorem wf_execTspawn (h : Hdr) (a : Src) (s : State) (hs : Memory.wf s.mem = true) :
    OutWf (execTspawn h a s) := by
  unfold execTspawn
  repeat' first
    | with_reducible assumption | with_reducible apply act_next | with_reducible apply act_fault | with_reducible apply act_wait
    | with_reducible apply wf_fin | with_reducible apply wf_atWord | with_reducible apply wf_checkPoison
    | with_reducible apply wf_updBand | (extract_lets +onlyGivenNames x; subst x) | dsimp -zeta only | split
    | (refine oa_get ?_ (by assumption))

theorem wf_execTself (h : Hdr) (d : Opd) (s : State) (hs : Memory.wf s.mem = true) :
    OutWf (execTself h d s) := by
  unfold execTself
  repeat' first
    | with_reducible assumption | with_reducible apply wf_fin | with_reducible apply wf_atWord | with_reducible apply wf_putOnce

theorem wf_execFwrite (h : Hdr) (a : Src) (b : Src) (s : State) (hs : Memory.wf s.mem = true) :
    OutWf (execFwrite h a b s) := by
  unfold execFwrite
  repeat' first
    | with_reducible assumption | intro _ | with_reducible apply act_next | with_reducible apply act_wait
    | with_reducible apply wf_fin | with_reducible apply wf_atWord | with_reducible apply wf_wordGo
    | with_reducible apply wf_badWord | with_reducible apply wf_flt | with_reducible apply wf_checkPoison
    | with_reducible apply wf_futFill | split | (refine oa_get ?_ (by assumption))

theorem wf_execFwait (h : Hdr) (d : Opd) (a : Src) (s : State) (hs : Memory.wf s.mem = true) :
    OutWf (execFwait h d a s) := by
  unfold execFwait
  repeat' first
    | with_reducible assumption | intro _ | with_reducible apply act_wait | with_reducible apply wf_fin
    | with_reducible apply wf_onceRun | with_reducible apply wf_fwaitStep | with_reducible apply wf_atWord
    | with_reducible apply wf_wordGo | with_reducible apply wf_poisonLast | with_reducible apply wf_emptyScal
    | with_reducible apply wf_setWait | (extract_lets +onlyGivenNames x; subst x) | split

theorem wf_execFtest (h : Hdr) (c : FtestCond) (d : BitVec 4) (a : Src) (s : State) (hs : Memory.wf s.mem = true) :
    OutWf (execFtest h c d a s) := by
  unfold execFtest
  repeat' first
    | with_reducible assumption | intro _ | with_reducible apply act_next | with_reducible apply wf_fin
    | with_reducible apply wf_atWord | with_reducible apply wf_wordGo | with_reducible apply wf_badWord
    | with_reducible apply wf_putPred | with_reducible apply wf_acquireHere | (extract_lets +onlyGivenNames x; subst x) | split
    | (refine oa_get ?_ (by assumption))

theorem wf_execCntwt (h : Hdr) (a : Src) (b : Src) (s : State) (hs : Memory.wf s.mem = true) :
    OutWf (execCntwt h a b s) := by
  unfold execCntwt
  repeat' first
    | with_reducible assumption | intro _ | with_reducible apply act_next | with_reducible apply act_stay
    | with_reducible apply act_fault | with_reducible apply act_wait | with_reducible apply wf_fin
    | with_reducible apply wf_badWord | with_reducible apply wf_unwait | with_reducible apply wf_acquireHere
    | with_reducible apply wf_setCtxWait | with_reducible apply wf_dropWake | with_reducible apply wf_addWake
    | with_reducible apply wf_onceRun | with_reducible apply wf_atWord | with_reducible apply wf_wordGo
    | (extract_lets +onlyGivenNames x; subst x) | dsimp -zeta only | split | (refine oa_fault ?_ (by assumption))
    | (refine oa_get ?_ (by assumption))

theorem wf_execLock (h : Hdr) (a : Src) (s : State) (hs : Memory.wf s.mem = true) :
    OutWf (execLock h a s) := by
  unfold execLock
  repeat' first
    | with_reducible assumption | intro _ | with_reducible apply act_next | with_reducible apply act_fault
    | with_reducible apply act_wait | with_reducible apply wf_fin | with_reducible apply wf_badWord
    | with_reducible apply wf_unwait | with_reducible apply wf_lockTry | with_reducible apply wf_acquireHere
    | with_reducible apply wf_setCtxWait | with_reducible apply wf_lockQueue | with_reducible apply wf_onceRun
    | with_reducible apply wf_atWord | with_reducible apply wf_wordGo | with_reducible apply wf_poisonLast
    | (extract_lets +onlyGivenNames x; subst x) | dsimp -zeta only | split | (refine opt_get ?_ (by assumption))
    | (refine oa_fault ?_ (by assumption)) | (refine oa_get ?_ (by assumption))

theorem wf_execTrylock (h : Hdr) (d : BitVec 4) (a : Src) (s : State) (hs : Memory.wf s.mem = true) :
    OutWf (execTrylock h d a s) := by
  unfold execTrylock
  repeat' first
    | with_reducible assumption | intro _ | with_reducible apply act_next | with_reducible apply wf_fin
    | with_reducible apply wf_atWord | with_reducible apply wf_wordGo | with_reducible apply wf_badWord
    | with_reducible apply wf_lockTry | with_reducible apply wf_acquireHere | with_reducible apply wf_putPred | split
    | (refine opt_get ?_ (by assumption)) | (refine oa_get ?_ (by assumption))

theorem wf_execUnlock (h : Hdr) (a : Src) (s : State) (hs : Memory.wf s.mem = true) :
    OutWf (execUnlock h a s) := by
  unfold execUnlock
  repeat' first
    | with_reducible assumption | intro _ | with_reducible apply act_next | with_reducible apply act_wait
    | with_reducible apply wf_fin | with_reducible apply wf_atWord | with_reducible apply wf_wordGo
    | with_reducible apply wf_badWord | with_reducible apply wf_unlockStep | split | (refine oa_get ?_ (by assumption))

theorem wf_execPin (h : Hdr) (q : BitVec 2) (a : Src) (s : State) (hs : Memory.wf s.mem = true) :
    OutWf (execPin h q a s) := by
  unfold execPin
  repeat' first
    | with_reducible assumption | intro _ | with_reducible apply act_next | with_reducible apply wf_fin
    | with_reducible apply wf_withName | with_reducible apply wf_updGrp

theorem wf_execPinx (h : Hdr) (q : BitVec 2) (a : Src) (s : State) (hs : Memory.wf s.mem = true) :
    OutWf (execPinx h q a s) := by
  unfold execPinx
  repeat' first
    | with_reducible assumption | intro _ | with_reducible apply act_next | with_reducible apply act_wait
    | with_reducible apply wf_fin | with_reducible apply wf_withName | with_reducible apply wf_updGrp
    | with_reducible apply wf_addAcc | (extract_lets +onlyGivenNames x; subst x) | split

theorem wf_execUnpin (h : Hdr) (q : BitVec 2) (s : State) (hs : Memory.wf s.mem = true) :
    OutWf (execUnpin h q s) := by
  unfold execUnpin
  repeat' first
    | with_reducible assumption | intro _ | with_reducible apply act_next | with_reducible apply act_wait
    | with_reducible apply wf_fin | with_reducible apply wf_onceRun | with_reducible apply wf_updGrp
    | with_reducible apply wf_addAcc | (extract_lets +onlyGivenNames x; subst x) | split

theorem wf_execShadowWithdraw (gk : ℕ) (q : ℕ) (s : State) (hs : Memory.wf s.mem = true) :
    OutWf (execShadowWithdraw gk q s) := by
  unfold execShadowWithdraw
  repeat' first
    | with_reducible assumption | with_reducible apply out_next | with_reducible apply wf_dropDead
    | with_reducible apply wf_reapBand | with_reducible apply wf_updGrp | (extract_lets +onlyGivenNames x; subst x) | split

theorem wf_execPinSearch (u : UnitRef) (_e : ℕ) (s : State) (hs : Memory.wf s.mem = true) :
    OutWf (execPinSearch u _e s) := by
  unfold execPinSearch
  repeat' first
    | with_reducible assumption | with_reducible apply out_next | with_reducible apply wf_updGrp | with_reducible apply wf_updCtx
    | split

theorem wf_execReclaim (h : Hdr) (d : BitVec 4) (a : Src) (b : Src) (s : State) (hs : Memory.wf s.mem = true) :
    OutWf (execReclaim h d a b s) := by
  unfold execReclaim
  repeat' first
    | with_reducible assumption | intro _ | with_reducible apply act_stay | with_reducible apply act_wait
    | with_reducible apply wf_fin | with_reducible apply wf_onceRun | with_reducible apply wf_reclaimEnd
    | with_reducible apply wf_atWord | with_reducible apply wf_setWait | with_reducible apply wf_globalGo
    | with_reducible apply wf_checkPoison | (extract_lets +onlyGivenNames x; subst x) | dsimp -zeta only | split
    | (refine oa_get ?_ (by assumption))

theorem wf_execRcdrain (h : Hdr) (d : Opd) (s : State) (hs : Memory.wf s.mem = true) :
    OutWf (execRcdrain h d s) := by
  unfold execRcdrain
  repeat' first
    | with_reducible assumption | intro _ | with_reducible apply act_stay | with_reducible apply act_wait
    | with_reducible apply wf_fin | with_reducible apply wf_drainNext | with_reducible apply wf_updLaunch
    | with_reducible apply wf_retryEnt | with_reducible apply wf_pushAddr | with_reducible apply wf_setWait
    | with_reducible apply wf_atWord | (extract_lets +onlyGivenNames x; subst x) | split
    | (refine retry_get_goes ?_ (by assumption)) | (refine retry_get_ended ?_ (by assumption))

theorem wf_execNop (h : Hdr) (s : State) (hs : Memory.wf s.mem = true) :
    OutWf (execNop h s) := by
  unfold execNop
  repeat' first | with_reducible assumption | with_reducible apply act_next | with_reducible apply wf_fin

theorem wf_execBr (h : Hdr) (cc : Cc) (a : Src) (tgt : BitVec 24) (s : State) (hs : Memory.wf s.mem = true) :
    OutWf (execBr h cc a tgt s) := by
  unfold execBr
  repeat' first | with_reducible assumption | with_reducible apply wf_fin | with_reducible apply wf_branch

theorem wf_execBra (h : Hdr) (cc : Cc) (a : Src) (tgt : BitVec 24) (s : State) (hs : Memory.wf s.mem = true) :
    OutWf (execBra h cc a tgt s) := by
  unfold execBra
  repeat' first | with_reducible assumption | with_reducible apply wf_fin | with_reducible apply wf_branch

theorem wf_execJmpi (h : Hdr) (a : Src) (s : State) (hs : Memory.wf s.mem = true) :
    OutWf (execJmpi h a s) := by
  unfold execJmpi
  repeat' first
    | with_reducible assumption | intro _ | with_reducible apply act_next | with_reducible apply act_jump
    | with_reducible apply wf_fin | with_reducible apply wf_atCtx | with_reducible apply wf_onCond | split

theorem wf_execCall (h : Hdr) (tgt : BitVec 24) (s : State) (hs : Memory.wf s.mem = true) :
    OutWf (execCall h tgt s) := by
  unfold execCall
  repeat' first
    | with_reducible assumption | intro _ | with_reducible apply wf_fin | with_reducible apply wf_atCtx
    | with_reducible apply wf_callTo

theorem wf_execCalli (h : Hdr) (a : Src) (s : State) (hs : Memory.wf s.mem = true) :
    OutWf (execCalli h a s) := by
  unfold execCalli
  repeat' first
    | with_reducible assumption | intro _ | with_reducible apply act_next | with_reducible apply act_fault
    | with_reducible apply act_wait | with_reducible apply wf_fin | with_reducible apply wf_atCtx
    | with_reducible apply wf_resolve | with_reducible apply wf_callTo | split | (refine cond_get ?_ (by assumption))

theorem wf_execRet (h : Hdr) (s : State) (hs : Memory.wf s.mem = true) :
    OutWf (execRet h s) := by
  unfold execRet
  repeat' first
    | with_reducible assumption | intro _ | with_reducible apply act_jump | with_reducible apply wf_fin
    | with_reducible apply wf_atCtx | with_reducible apply wf_flt | with_reducible apply wf_transfer
    | with_reducible apply wf_popCall | (extract_lets +onlyGivenNames x; subst x) | split

theorem wf_execLoop (h : Hdr) (a : Src) (exit : BitVec 24) (s : State) (hs : Memory.wf s.mem = true) :
    OutWf (execLoop h a exit s) := by
  unfold execLoop
  repeat' first
    | with_reducible assumption | intro _ | with_reducible apply act_jump | with_reducible apply act_fault
    | with_reducible apply act_wait | with_reducible apply wf_fin | with_reducible apply wf_atCtx
    | with_reducible apply wf_resolve | with_reducible apply wf_transfer | with_reducible apply wf_flt
    | with_reducible apply wf_updCtx | (extract_lets +onlyGivenNames x; subst x) | split | (refine cond_get ?_ (by assumption))

theorem wf_execEndl (h : Hdr) (s : State) (hs : Memory.wf s.mem = true) :
    OutWf (execEndl h s) := by
  unfold execEndl
  repeat' first
    | with_reducible assumption | intro _ | with_reducible apply act_next | with_reducible apply act_jump
    | with_reducible apply wf_fin | with_reducible apply wf_atCtx | with_reducible apply wf_flt
    | with_reducible apply wf_transfer | with_reducible apply wf_updCtx | (extract_lets +onlyGivenNames x; subst x) | split

theorem wf_execBrk (h : Hdr) (cc : Cc) (a : Src) (exit : BitVec 24) (s : State) (hs : Memory.wf s.mem = true) :
    OutWf (execBrk h cc a exit s) := by
  unfold execBrk
  repeat' first
    | with_reducible assumption | intro _ | with_reducible apply act_next | with_reducible apply act_jump
    | with_reducible apply act_fault | with_reducible apply act_wait | with_reducible apply wf_fin
    | with_reducible apply wf_atCtx | with_reducible apply wf_resolve | with_reducible apply wf_flt
    | with_reducible apply wf_transfer | with_reducible apply wf_updCtx | (extract_lets +onlyGivenNames x; subst x) | split
    | (refine cond_get ?_ (by assumption))

theorem wf_execCont (h : Hdr) (cc : Cc) (a : Src) (cont : BitVec 24) (s : State) (hs : Memory.wf s.mem = true) :
    OutWf (execCont h cc a cont s) := by
  unfold execCont
  repeat' first
    | with_reducible assumption | intro _ | with_reducible apply act_next | with_reducible apply act_jump
    | with_reducible apply act_fault | with_reducible apply act_wait | with_reducible apply wf_fin
    | with_reducible apply wf_atCtx | with_reducible apply wf_resolve | with_reducible apply wf_flt
    | with_reducible apply wf_transfer | (extract_lets +onlyGivenNames x; subst x) | split | (refine cond_get ?_ (by assumption))

theorem wf_execUnif (h : Hdr) (a : Src) (s : State) (hs : Memory.wf s.mem = true) :
    OutWf (execUnif h a s) := by
  unfold execUnif
  repeat' first
    | with_reducible assumption | intro _ | with_reducible apply act_next | with_reducible apply wf_fin
    | with_reducible apply wf_atCtx | with_reducible apply wf_onCond

theorem wf_execLevsync (h : Hdr) (s : State) (hs : Memory.wf s.mem = true) :
    OutWf (execLevsync h s) := by
  unfold execLevsync
  repeat' first
    | with_reducible assumption | intro _ | with_reducible apply act_next | with_reducible apply act_wait
    | with_reducible apply wf_fin | with_reducible apply wf_atCtx | with_reducible apply wf_acquireView
    | (extract_lets +onlyGivenNames x; subst x) | split

theorem wf_execBrl (h : Hdr) (cc : Cc) (a : Src) (tgt : BitVec 24) (rcv : BitVec 24) (s : State) (hs : Memory.wf s.mem = true) :
    OutWf (execBrl h cc a tgt rcv s) := by
  unfold execBrl
  repeat' first
    | with_reducible assumption | with_reducible apply act_next | with_reducible apply wf_fin | with_reducible apply wf_brlAct
    | split

theorem wf_execRjoin (h : Hdr) (s : State) (hs : Memory.wf s.mem = true) :
    OutWf (execRjoin h s) := by
  unfold execRjoin
  repeat' first
    | with_reducible assumption | intro _ | with_reducible apply act_done | with_reducible apply wf_fin
    | with_reducible apply wf_atLanes | with_reducible apply wf_rejoinCheck | with_reducible apply wf_settle
    | with_reducible apply wf_updGrp

theorem wf_execExit (h : Hdr) (s : State) (hs : Memory.wf s.mem = true) :
    OutWf (execExit h s) := by
  unfold execExit
  repeat' first
    | with_reducible assumption | intro _ | with_reducible apply act_done | with_reducible apply wf_fin
    | with_reducible apply wf_atLanes | with_reducible apply wf_exitLanes | with_reducible apply wf_atCtx
    | with_reducible apply wf_endUnit | split

theorem wf_execYield (h : Hdr) (s : State) (hs : Memory.wf s.mem = true) :
    OutWf (execYield h s) := by
  unfold execYield
  repeat' first
    | with_reducible assumption | intro _ | with_reducible apply act_next | with_reducible apply wf_fin
    | with_reducible apply wf_atLanes | with_reducible apply wf_updGrp | with_reducible apply wf_atCtx
    | with_reducible apply wf_requestPark | with_reducible apply wf_foldl | (extract_lets +onlyGivenNames x; subst x) | split

theorem wf_execSafept (h : Hdr) (entry : BitVec 49) (s : State) (hs : Memory.wf s.mem = true) :
    OutWf (execSafept h entry s) := by
  unfold execSafept
  repeat' first
    | with_reducible assumption | intro _ | with_reducible apply act_next | with_reducible apply wf_fin
    | with_reducible apply wf_atLanes | with_reducible apply wf_updGrp | (extract_lets +onlyGivenNames x; subst x) | split

theorem wf_execIdem (h : Hdr) (kind : IdemKind) (index : BitVec 16) (s : State) (hs : Memory.wf s.mem = true) :
    OutWf (execIdem h kind index s) := by
  unfold execIdem
  repeat' first
    | with_reducible assumption | intro _ | with_reducible apply act_next | with_reducible apply wf_fin
    | with_reducible apply wf_atLanes | with_reducible apply wf_flt | with_reducible apply wf_updGrp
    | (extract_lets +onlyGivenNames x; subst x) | split

theorem wf_execIdemx (h : Hdr) (index : BitVec 16) (s : State) (hs : Memory.wf s.mem = true) :
    OutWf (execIdemx h index s) := by
  unfold execIdemx
  repeat' first
    | with_reducible assumption | intro _ | with_reducible apply act_next | with_reducible apply wf_fin
    | with_reducible apply wf_atLanes | with_reducible apply wf_updGrp | split

theorem wf_execVgrow (h : Hdr) (a : Src) (imm : BitVec 27) (s : State) (hs : Memory.wf s.mem = true) :
    OutWf (execVgrow h a imm s) := by
  unfold execVgrow
  repeat' first
    | with_reducible assumption | intro _ | with_reducible apply act_next | with_reducible apply act_stay
    | with_reducible apply wf_fin | with_reducible apply wf_atGroup | with_reducible apply wf_countOf
    | with_reducible apply wf_flt | with_reducible apply wf_updGrp | with_reducible apply wf_growPark
    | with_reducible apply wf_haltWaiting | split

theorem wf_execVgrowGrant (gk : ℕ) (s : State) (hs : Memory.wf s.mem = true) :
    OutWf (execVgrowGrant gk s) := by
  unfold execVgrowGrant
  repeat' first
    | with_reducible assumption | with_reducible apply out_next | with_reducible apply wf_growNow
    | with_reducible apply wf_growPark | split

theorem wf_execVgive (h : Hdr) (a : Src) (imm : BitVec 27) (s : State) (hs : Memory.wf s.mem = true) :
    OutWf (execVgive h a imm s) := by
  unfold execVgive
  repeat' first
    | with_reducible assumption | intro _ | with_reducible apply act_next | with_reducible apply act_wait
    | with_reducible apply wf_fin | with_reducible apply wf_atGroup | with_reducible apply wf_countOf
    | with_reducible apply wf_flt | with_reducible apply wf_updGrp | (extract_lets +onlyGivenNames x; subst x) | split

theorem wf_execPark (gc : ℕ) (b : ℕ) (s : State) (hs : Memory.wf s.mem = true) :
    OutWf (execPark gc b s) := by
  unfold execPark
  repeat' first
    | with_reducible assumption | with_reducible apply out_next | with_reducible apply wf_abandonPark
    | with_reducible apply wf_moveOut | with_reducible apply wf_withdraw | with_reducible apply wf_keepMasks
    | with_reducible apply wf_sendOwed | with_reducible apply wf_writeImages | with_reducible apply wf_fatal
    | with_reducible apply wf_imagesFailed | with_reducible apply wf_afterPark | with_reducible apply wf_leaveReserve
    | with_reducible apply wf_launchState | with_reducible apply wf_freeUnits | (extract_lets +onlyGivenNames x; subst x) | split
    | (refine opt_get ?_ (by assumption))

theorem wf_execUnitResume (gc : ℕ) (b : ℕ) (s : State) (hs : Memory.wf s.mem = true) :
    OutWf (execUnitResume gc b s) := by
  unfold execUnitResume
  repeat' first
    | with_reducible assumption | with_reducible apply out_next | with_reducible apply wf_fatal
    | with_reducible apply wf_imagesLost | with_reducible apply wf_resumeNow | (extract_lets +onlyGivenNames x; subst x) | split

theorem wf_execPreemptionRequest (gc : ℕ) (b : ℕ) (s : State) (hs : Memory.wf s.mem = true) :
    OutWf (execPreemptionRequest gc b s) := by
  unfold execPreemptionRequest
  repeat' first
    | with_reducible assumption | with_reducible apply out_next | with_reducible apply wf_updBand
    | with_reducible apply wf_requestPark | split

theorem wf_execPreemptionTimeout (gk : ℕ) (s : State) (hs : Memory.wf s.mem = true) :
    OutWf (execPreemptionTimeout gk s) := by
  unfold execPreemptionTimeout
  repeat' first | with_reducible assumption | with_reducible apply out_next | with_reducible apply wf_updGrp | split

theorem wf_execSegmentEmit (ck : ℕ) (s : State) (hs : Memory.wf s.mem = true) :
    OutWf (execSegmentEmit ck s) := by
  unfold execSegmentEmit
  repeat' first
    | with_reducible assumption | with_reducible apply out_next | with_reducible apply wf_prep | split
    | (refine prep_get ?_ (by assumption))

theorem wf_execSegmentFinish (u : UnitRef) (s : State) (hs : Memory.wf s.mem = true) :
    OutWf (execSegmentFinish u s) := by
  unfold execSegmentFinish
  repeat' first | with_reducible assumption | with_reducible apply out_next | with_reducible apply wf_finishSeg | split

theorem wf_execConditionReport (u : UnitRef) (s : State) (hs : Memory.wf s.mem = true) :
    OutWf (execConditionReport u s) := by
  unfold execConditionReport
  repeat' first
    | with_reducible assumption | with_reducible apply out_next | with_reducible apply wf_updCtx
    | with_reducible apply wf_reportFault | split

theorem wf_execFaultDelivery (u : UnitRef) (s : State) (hs : Memory.wf s.mem = true) :
    OutWf (execFaultDelivery u s) := by
  unfold execFaultDelivery
  repeat' first
    | with_reducible assumption | with_reducible apply out_next | with_reducible apply wf_takeFault
    | with_reducible apply wf_updCtx | split

theorem wf_execHandlerTimeLimit (gk : ℕ) (s : State) (hs : Memory.wf s.mem = true) :
    OutWf (execHandlerTimeLimit gk s) := by
  unfold execHandlerTimeLimit
  repeat' first
    | with_reducible assumption | with_reducible apply out_next | with_reducible apply wf_countFault
    | with_reducible apply wf_killHandler | (extract_lets +onlyGivenNames x; subst x) | dsimp -zeta only | split

theorem wf_execReplayCompare (core : ℕ) (q : ℕ) (diff : Lanes) (s : State) (hs : Memory.wf s.mem = true) :
    OutWf (execReplayCompare core q diff s) := by
  unfold execReplayCompare
  repeat' first
    | with_reducible assumption | with_reducible apply out_next | with_reducible apply wf_updCore
    | with_reducible apply wf_updGrp | (extract_lets +onlyGivenNames x; subst x) | split

theorem wf_execReplayMismatch (gk : ℕ) (s : State) (hs : Memory.wf s.mem = true) :
    OutWf (execReplayMismatch gk s) := by
  unfold execReplayMismatch
  repeat' first
    | with_reducible assumption | with_reducible apply out_next | with_reducible apply wf_takeFault
    | with_reducible apply wf_updGrp | (extract_lets +onlyGivenNames x; subst x) | split

theorem wf_execRegionRestart (gk : ℕ) (s : State) (hs : Memory.wf s.mem = true) :
    OutWf (execRegionRestart gk s) := by
  unfold execRegionRestart
  repeat' first
    | with_reducible assumption | with_reducible apply out_next | with_reducible apply wf_restartGroup
    | (extract_lets +onlyGivenNames x; subst x) | split

theorem wf_execBandKill (gc : ℕ) (b : ℕ) (s : State) (hs : Memory.wf s.mem = true) :
    OutWf (execBandKill gc b s) := by
  unfold execBandKill
  repeat' first | with_reducible assumption | with_reducible apply out_next | with_reducible apply wf_killNow | split

theorem wf_execFatalError (s : State) (hs : Memory.wf s.mem = true) :
    OutWf (execFatalError s) := by
  unfold execFatalError
  repeat' first
    | with_reducible assumption | with_reducible apply out_next | with_reducible apply wf_fatal
    | with_reducible apply wf_bankEvent | with_reducible apply wf_tick1 | (extract_lets +onlyGivenNames x; subst x)
    | dsimp -zeta only | split

theorem wf_execWalkroundStart (clu : ℕ) (s : State) (hs : Memory.wf s.mem = true) :
    OutWf (execWalkroundStart clu s) := by
  unfold execWalkroundStart
  repeat' first | with_reducible assumption | with_reducible apply out_next | with_reducible apply wf_updCluster | split

theorem wf_execWalkroundAbandon (clu : ℕ) (s : State) (hs : Memory.wf s.mem = true) :
    OutWf (execWalkroundAbandon clu s) := by
  unfold execWalkroundAbandon
  repeat' first | with_reducible assumption | with_reducible apply out_next | with_reducible apply wf_updCluster | split

theorem wf_execWalkroundComplete (clu : ℕ) (failed : List (ℕ × ℕ)) (s : State) (hs : Memory.wf s.mem = true) :
    OutWf (execWalkroundComplete clu failed s) := by
  unfold execWalkroundComplete
  repeat' first
    | with_reducible assumption | intro _ | with_reducible apply out_next | with_reducible apply wf_updCluster
    | with_reducible apply wf_updCore | with_reducible apply wf_bankEvent | with_reducible apply wf_foldl
    | (extract_lets +onlyGivenNames x; subst x) | split

theorem wf_execDispatch (pick : ℕ) (s : State) (hs : Memory.wf s.mem = true) :
    OutWf (execDispatch pick s) := by
  unfold execDispatch
  refine out_next ?_
  split
  · exact hs
  · dsimp only
    have h := wf_dueScan _ (wf_wakeScan _ (wf_sweepTakes _ hs))
    generalize dueScan (wakeScan (sweepTakes s)) = t at h
    split
    · rename_i i e u k
      refine wf_leaveReady _ _ _ _ h ?_
      obtain ⟨p, -, hp⟩ := List.exists_of_findSome?_eq_some k
      simp only [Option.map_eq_some_iff, Prod.mk.injEq] at hp
      obtain ⟨v, hv, -, -, rfl⟩ := hp
      exact opt_get (wf_tryItem _ _ _ h) hv
    · split
      · exact wf_updBand _ _ _ (wf_requestPark _ _ _ _ _ h)
      · exact h

theorem wf_execTaskRetire (gc : ℕ) (s : State) (hs : Memory.wf s.mem = true) :
    OutWf (execTaskRetire gc s) := by
  unfold execTaskRetire
  repeat' first
    | with_reducible assumption | with_reducible apply out_next | with_reducible apply wf_retStage
    | with_reducible apply wf_retDefer | with_reducible apply wf_updLaunch | with_reducible apply wf_sweepTakes
    | with_reducible apply wf_retStatus | with_reducible apply wf_retEnd | with_reducible apply wf_retFuture
    | with_reducible apply wf_bumpCounter | with_reducible apply wf_retLost | with_reducible apply wf_retSucc
    | (extract_lets +onlyGivenNames x; subst x) | dsimp -zeta only | split

theorem wf_execWayfareRead (w : ℕ) (cls : BitVec 2) (addr : BitVec 46) (len : ℕ) (tag : ℕ) (s : State)
    (hs : Memory.wf s.mem = true) :
    OutWf (execWayfareRead w cls addr len tag s) := by
  unfold execWayfareRead
  repeat' first
    | with_reducible assumption | intro _ | with_reducible apply out_next | with_reducible apply wf_peerTakes
    | with_reducible apply wf_addAcc | split

theorem wf_execWayfareWrite (w : ℕ) (cls : BitVec 2) (addr : BitVec 46) (data : List (BitVec 8)) (s : State)
    (hs : Memory.wf s.mem = true) :
    OutWf (execWayfareWrite w cls addr data s) := by
  unfold execWayfareWrite
  repeat' first
    | with_reducible assumption | intro _ | with_reducible apply out_next | with_reducible apply wf_peerTakes
    | with_reducible apply wf_addAcc | split

theorem wf_execWayfareAtomic (w : ℕ) (cls : BitVec 2) (addr : BitVec 46) (op : Aop) (t : Ty) (b : W64) (c : W64) (tag : ℕ)
    (s : State) (hs : Memory.wf s.mem = true) :
    OutWf (execWayfareAtomic w cls addr op t b c tag s) := by
  unfold execWayfareAtomic
  repeat' first
    | with_reducible assumption | intro _ | with_reducible apply out_next | with_reducible apply wf_peerTakes
    | with_reducible apply wf_addAcc | (extract_lets +onlyGivenNames x; subst x) | split

theorem wf_execWayfareFenceMarker (w : ℕ) (seq : ℕ) (s : State) (hs : Memory.wf s.mem = true) :
    OutWf (execWayfareFenceMarker w seq s) := by
  unfold execWayfareFenceMarker
  repeat' first | with_reducible assumption | with_reducible apply out_next | with_reducible apply wf_peerHeard | split

theorem wf_execWayfareAck (w : ℕ) (id : ℕ) (s : State) (hs : Memory.wf s.mem = true) :
    OutWf (execWayfareAck w id s) := by
  unfold execWayfareAck
  repeat' first
    | with_reducible assumption | intro _ | with_reducible apply opt_none | with_reducible apply wf_ev
    | with_reducible apply wf_copyReport | with_reducible apply wf_bucketDebit | with_reducible apply wf_peerHeard
    | with_reducible apply wf_winAnswer | with_reducible apply wf_replyDebit | with_reducible apply opt_bind' | split

theorem wf_execWayfareReadReply (w : ℕ) (id : ℕ) (data : List (BitVec 8)) (s : State) (hs : Memory.wf s.mem = true) :
    OutWf (execWayfareReadReply w id data s) := by
  unfold execWayfareReadReply
  repeat' first
    | with_reducible assumption | intro _ | with_reducible apply opt_none | with_reducible apply wf_ev
    | with_reducible apply wf_winAnswer | with_reducible apply wf_replyDebit | with_reducible apply wf_peerHeard
    | with_reducible apply opt_bind' | split

theorem wf_execWayfareRefusal (w : ℕ) (id : ℕ) (s : State) (hs : Memory.wf s.mem = true) :
    OutWf (execWayfareRefusal w id s) := by
  unfold execWayfareRefusal
  repeat' first
    | with_reducible assumption | with_reducible apply out_next | with_reducible apply wf_copyReport
    | with_reducible apply wf_peerHeard | with_reducible apply wf_refuseAcc | with_reducible apply opt_getD | split

theorem wf_execFlitCrcFailure (w : ℕ) (s : State) (hs : Memory.wf s.mem = true) :
    OutWf (execFlitCrcFailure w s) := by
  unfold execFlitCrcFailure
  repeat' first
    | with_reducible assumption | with_reducible apply out_next | with_reducible apply wf_updPeer
    | with_reducible apply wf_linkDown | (extract_lets +onlyGivenNames x; subst x) | split

theorem wf_execPeerLinkTrain (w : ℕ) (ok : Bool) (s : State) (hs : Memory.wf s.mem = true) :
    OutWf (execPeerLinkTrain w ok s) := by
  unfold execPeerLinkTrain
  repeat' first
    | with_reducible assumption | with_reducible apply out_next | with_reducible apply wf_updPeer
    | with_reducible apply wf_bankEvent | (extract_lets +onlyGivenNames x; subst x) | split

theorem wf_execHostAccess (op : HostOp) (off : BitVec 36) (data : List (BitVec 8)) (s : State) (hs : Memory.wf s.mem = true) :
    OutWf (execHostAccess op off data s) := by
  unfold execHostAccess
  refine out_next ?_
  split
  · exact hs
  · extract_lets pa
    clear_value pa
    split
    · exact wf_foldl_eq hs (fun t p r ht e => wf_eq (wf_hostWrites _ _ _ ht) e)
    · exact wf_foldl_eq hs (fun t p r ht e => wf_eq (wf_hostReads _ _ _ ht) e)
    · split
      · exact wf_hostAtomics _ _ _ _ _ _ hs
      · exact hs

theorem wf_execTrap (h : Hdr) (imm : BitVec 32) (s : State) (hs : Memory.wf s.mem = true) :
    OutWf (execTrap h imm s) := by
  unfold execTrap
  repeat' first
    | with_reducible assumption | intro _ | with_reducible apply act_fault | with_reducible apply wf_fin
    | with_reducible apply wf_onceRun

theorem wf_execRft (h : Hdr) (s : State) (hs : Memory.wf s.mem = true) :
    OutWf (execRft h s) := by
  unfold execRft
  repeat' first
    | with_reducible assumption | intro _ | with_reducible apply act_done | with_reducible apply act_wait
    | with_reducible apply wf_fin | with_reducible apply wf_atLanes | with_reducible apply wf_flt
    | with_reducible apply wf_returnHandler | split

theorem wf_execCtlrd (h : Hdr) (d : Opd) (cr : BitVec 12) (s : State) (hs : Memory.wf s.mem = true) :
    OutWf (execCtlrd h d cr s) := by
  unfold execCtlrd
  repeat' first
    | with_reducible assumption | intro _ | with_reducible apply wf_fin | with_reducible apply wf_put64
    | with_reducible apply wf_crRead

theorem wf_execCtlwr (h : Hdr) (a : Src) (cr : BitVec 12) (s : State) (hs : Memory.wf s.mem = true) :
    OutWf (execCtlwr h a cr s) := by
  unfold execCtlwr
  repeat' first
    | with_reducible assumption | intro _ | with_reducible apply act_next | with_reducible apply wf_fin
    | with_reducible apply wf_onceReady | with_reducible apply wf_flt | with_reducible apply wf_unlessPoison
    | with_reducible apply wf_crWrite | (extract_lets +onlyGivenNames x; subst x) | split

theorem wf_execCycle (h : Hdr) (src : CycSrc) (d : Opd) (s : State) (hs : Memory.wf s.mem = true) :
    OutWf (execCycle h src d s) := by
  unfold execCycle
  repeat' first
    | with_reducible assumption | intro _ | with_reducible apply wf_fin | with_reducible apply wf_put64
    | with_reducible apply wf_cycRead

theorem wf_execSleepc (h : Hdr) (a : Src) (imm : BitVec 27) (s : State) (hs : Memory.wf s.mem = true) :
    OutWf (execSleepc h a imm s) := by
  unfold execSleepc
  repeat' first
    | with_reducible assumption | intro _ | with_reducible apply act_next | with_reducible apply act_stay
    | with_reducible apply act_wait | with_reducible apply wf_fin | with_reducible apply wf_onceRun
    | with_reducible apply wf_setWait | with_reducible apply wf_onceReady | with_reducible apply wf_unlessPoison
    | (extract_lets +onlyGivenNames x; subst x) | split

theorem wf_execSleepExpire (u : UnitRef) (e : ℕ) (s : State) (hs : Memory.wf s.mem = true) :
    OutWf (execSleepExpire u e s) := by
  unfold execSleepExpire
  repeat' first
    | with_reducible assumption | with_reducible apply out_next | with_reducible apply wf_updCtx | with_reducible apply wf_updGrp
    | split

theorem wf_execEvrd (h : Hdr) (d : Opd) (ev : BitVec 8) (s : State) (hs : Memory.wf s.mem = true) :
    OutWf (execEvrd h d ev s) := by
  unfold execEvrd
  repeat' first
    | with_reducible assumption | intro _ | with_reducible apply wf_fin | with_reducible apply wf_put64
    | with_reducible apply wf_evRead

theorem wf_execBkpt (h : Hdr) (imm : BitVec 32) (s : State) (hs : Memory.wf s.mem = true) :
    OutWf (execBkpt h imm s) := by
  unfold execBkpt
  repeat' first
    | with_reducible assumption | intro _ | with_reducible apply act_next | with_reducible apply act_fault
    | with_reducible apply wf_fin | with_reducible apply wf_onceRun | (extract_lets +onlyGivenNames x; subst x) | split

theorem wf_execHalt (h : Hdr) (s : State) (hs : Memory.wf s.mem = true) :
    OutWf (execHalt h s) := by
  unfold execHalt
  repeat' first
    | with_reducible assumption | intro _ | with_reducible apply act_done | with_reducible apply wf_fin
    | with_reducible apply wf_onceRun | with_reducible apply wf_stopUnit

theorem wf_execTlbinv (h : Hdr) (k : TlbKind) (a : Src) (s : State) (hs : Memory.wf s.mem = true) :
    OutWf (execTlbinv h k a s) := by
  unfold execTlbinv
  repeat' first
    | with_reducible assumption | intro _ | with_reducible apply act_next | with_reducible apply act_stay
    | with_reducible apply act_fault | with_reducible apply act_wait | with_reducible apply wf_fin
    | with_reducible apply wf_onceRun | with_reducible apply wf_setWait | with_reducible apply wf_onceReady
    | with_reducible apply wf_unlessPoison | with_reducible apply wf_tlbDropAll | with_reducible apply wf_acquireView
    | (extract_lets +onlyGivenNames x; subst x) | split

theorem wf_execClone (h : Hdr) (m : CloneMode) (s : State) (hs : Memory.wf s.mem = true) :
    OutWf (execClone h m s) := by
  unfold execClone
  repeat' first
    | with_reducible assumption | intro _ | with_reducible apply act_next | with_reducible apply wf_fin
    | with_reducible apply wf_onceRun | with_reducible apply wf_updGrp | split

theorem wf_execDoorbell (q : ℕ) (v : W64) (s : State) (hs : Memory.wf s.mem = true) :
    OutWf (execDoorbell q v s) := by
  unfold execDoorbell
  repeat' first
    | with_reducible assumption | with_reducible apply out_next | with_reducible apply wf_queueCheck
    | with_reducible apply wf_updQueue | split

theorem wf_execQdescWrite (q : ℕ) (off : ℕ) (v : W64) (s : State) (hs : Memory.wf s.mem = true) :
    OutWf (execQdescWrite q off v s) := by
  unfold execQdescWrite
  repeat' first
    | with_reducible assumption | with_reducible apply out_next | with_reducible apply wf_queueCheck
    | with_reducible apply wf_updQueue | split

theorem wf_execLaunchPacket (q : ℕ) (s : State) (hs : Memory.wf s.mem = true) :
    OutWf (execLaunchPacket q s) := by
  unfold execLaunchPacket
  refine wf_onPacket _ _ _ _ hs (fun d bs => ?_)
  have h := wf_spawn s (bfld bs 0x10 8) d.space.toNat d.toptab.toNat d.tdir d.tdlim.toNat (d.cfg.getLsbD 8) none hs
  generalize spawn s (bfld bs 0x10 8) d.space.toNat d.toptab.toNat d.tdir d.tdlim.toNat (d.cfg.getLsbD 8) none = r at h
  cases r with
  | wait => exact hs
  | done c t => exact wf_consume _ _ _ _ (spawn_get h rfl)

theorem wf_execFencePacket (q : ℕ) (s : State) (hs : Memory.wf s.mem = true) :
    OutWf (execFencePacket q s) := by
  unfold execFencePacket
  repeat' first
    | with_reducible assumption | intro _ | with_reducible apply wf_onPacket | with_reducible apply wf_updQueue
    | with_reducible apply wf_consume | with_reducible apply wf_walked | with_reducible apply wf_foldl | split

theorem wf_execFencePacketPass (q : ℕ) (s : State) (hs : Memory.wf s.mem = true) :
    OutWf (execFencePacketPass q s) := by
  unfold execFencePacketPass
  repeat' first
    | with_reducible assumption | intro _ | with_reducible apply out_next | with_reducible apply wf_tick1
    | with_reducible apply wf_consume | with_reducible apply wf_walked | with_reducible apply wf_foldl
    | (extract_lets +onlyGivenNames x; subst x) | split

theorem wf_execSignalPacket (q : ℕ) (s : State) (hs : Memory.wf s.mem = true) :
    OutWf (execSignalPacket q s) := by
  unfold execSignalPacket
  repeat' first
    | with_reducible assumption | intro _ | with_reducible apply wf_onPacket | with_reducible apply wf_consume
    | with_reducible apply wf_walked | with_reducible apply wf_wakeScan | with_reducible apply wf_homePut | split

theorem wf_execNopPacket (q : ℕ) (s : State) (hs : Memory.wf s.mem = true) :
    OutWf (execNopPacket q s) := by
  unfold execNopPacket
  repeat' first | with_reducible assumption | intro _ | with_reducible apply wf_onPacket | with_reducible apply wf_consume

theorem wf_execFaultBufferWrite (s : State) (hs : Memory.wf s.mem = true) :
    OutWf (execFaultBufferWrite s) := by
  unfold execFaultBufferWrite
  extract_lets i n j pa
  refine out_next (wf_of_eq (fun r e => ?_))
  split at e
  · subst e; exact hs
  · extract_lets t src u at e
    split at e
    · subst e; exact hs
    · have ht : Memory.wf t.mem = true := by
        refine wf_of_eq (fun w k => ?_)
        by_cases c : isMem s.floor pa = true
        · have k' : homeWrite s pa _ false = w := (if_pos c).symm.trans k
          subst k'; exact wf_homeWrite _ _ _ _ hs
        · have k' : s = w := (if_neg c).symm.trans k
          subst k'; exact hs
      have hu : Memory.wf u.mem = true := wf_host ht
      clear_value u
      split at e
      · exact e ▸ wf_raise _ _ hu
      · exact e ▸ hu

theorem wf_execFbcfgWrite (v : W64) (s : State) (hs : Memory.wf s.mem = true) :
    OutWf (execFbcfgWrite v s) := by
  unfold execFbcfgWrite
  repeat' first | with_reducible assumption | with_reducible apply out_next | (extract_lets +onlyGivenNames x; subst x) | split

theorem wf_execFbresolveResume (idx : ℕ) (s : State) (hs : Memory.wf s.mem = true) :
    OutWf (execFbresolveResume idx s) := by
  unfold execFbresolveResume
  repeat' first
    | with_reducible assumption | with_reducible apply out_next | with_reducible apply wf_fbFree
    | with_reducible apply wf_parkResolved | with_reducible apply wf_updBand | with_reducible apply wf_askAnew
    | (extract_lets +onlyGivenNames x; subst x) | split

theorem wf_execFbresolveAbort (idx : ℕ) (s : State) (hs : Memory.wf s.mem = true) :
    OutWf (execFbresolveAbort idx s) := by
  unfold execFbresolveAbort
  repeat' first
    | with_reducible assumption | with_reducible apply out_next | with_reducible apply wf_fbFree
    | with_reducible apply wf_abortRecord | (extract_lets +onlyGivenNames x; subst x) | dsimp -zeta only | split

theorem wf_execTlbcmdPage (space : BitVec 16) (a1 : W64) (s : State) (hs : Memory.wf s.mem = true) :
    OutWf (execTlbcmdPage space a1 s) := by
  unfold execTlbcmdPage
  repeat' first | with_reducible assumption | with_reducible apply wf_tlbCommand

theorem wf_execTlbcmdSpace (space : BitVec 16) (s : State) (hs : Memory.wf s.mem = true) :
    OutWf (execTlbcmdSpace space s) := by
  unfold execTlbcmdSpace
  repeat' first | with_reducible assumption | with_reducible apply wf_tlbCommand

theorem wf_execTlbcmdAll (s : State) (hs : Memory.wf s.mem = true) :
    OutWf (execTlbcmdAll s) := by
  unfold execTlbcmdAll
  repeat' first | with_reducible assumption | with_reducible apply wf_tlbCommand

theorem wf_execDbgcmdResumeStopIa (gc : ℕ) (b : ℕ) (s : State) (hs : Memory.wf s.mem = true) :
    OutWf (execDbgcmdResumeStopIa gc b s) := by
  unfold execDbgcmdResumeStopIa
  repeat' first | with_reducible assumption | with_reducible apply wf_dbgResume

theorem wf_execDbgcmdResumeNext (gc : ℕ) (b : ℕ) (s : State) (hs : Memory.wf s.mem = true) :
    OutWf (execDbgcmdResumeNext gc b s) := by
  unfold execDbgcmdResumeNext
  repeat' first | with_reducible assumption | with_reducible apply wf_dbgResume

theorem wf_execDbgcmdKill (gc : ℕ) (b : ℕ) (s : State) (hs : Memory.wf s.mem = true) :
    OutWf (execDbgcmdKill gc b s) := by
  unfold execDbgcmdKill
  repeat' first
    | with_reducible assumption | intro _ | with_reducible apply out_next | with_reducible apply wf_countFault
    | with_reducible apply wf_tick1 | with_reducible apply wf_updBand | with_reducible apply wf_abortLaunch
    | with_reducible apply wf_foldl | (extract_lets +onlyGivenNames x; subst x) | dsimp -zeta only | split

theorem wf_execMsend (h : Hdr) (d : BitVec 4) (a : Src) (b : Src) (n8 : BitVec 5) (tag : BitVec 12) (s : State)
    (hs : Memory.wf s.mem = true) :
    OutWf (execMsend h d a b n8 tag s) := by
  unfold execMsend
  repeat' first
    | with_reducible assumption | intro _ | with_reducible apply act_next | with_reducible apply act_wait
    | with_reducible apply wf_fin | with_reducible apply wf_onceRun | with_reducible apply wf_putPred
    | with_reducible apply wf_setWait | with_reducible apply wf_onceReady | with_reducible apply wf_scrFault
    | with_reducible apply wf_unlessPoison | with_reducible apply wf_sendMsg | (extract_lets +onlyGivenNames x; subst x) | split

theorem wf_execRwait (h : Hdr) (d : Opd) (r : BitVec 2) (s : State) (hs : Memory.wf s.mem = true) :
    OutWf (execRwait h d r s) := by
  unfold execRwait
  repeat' first
    | with_reducible assumption | intro _ | with_reducible apply wf_fin | with_reducible apply wf_withRing
    | with_reducible apply wf_checkUses | with_reducible apply wf_standBy | with_reducible apply wf_putOnce
    | with_reducible apply wf_acquireView | split | (refine oa_get ?_ (by assumption))

theorem wf_execRack (h : Hdr) (a : Src) (r : BitVec 2) (s : State) (hs : Memory.wf s.mem = true) :
    OutWf (execRack h a r s) := by
  unfold execRack
  repeat' first
    | with_reducible assumption | intro _ | with_reducible apply act_next | with_reducible apply act_wait
    | with_reducible apply wf_fin | with_reducible apply wf_withRing | with_reducible apply wf_checkUses
    | with_reducible apply wf_scrFault | with_reducible apply wf_unlessPoison | with_reducible apply wf_ringZero
    | with_reducible apply wf_updBand | (extract_lets +onlyGivenNames x; subst x) | split | (refine oa_get ?_ (by assumption))

theorem wf_execRdesc (h : Hdr) (d : BitVec 4) (a : Src) (r : BitVec 2) (s : State) (hs : Memory.wf s.mem = true) :
    OutWf (execRdesc h d a r s) := by
  unfold execRdesc
  repeat' first
    | with_reducible assumption | intro _ | with_reducible apply act_next | with_reducible apply act_wait
    | with_reducible apply wf_fin | with_reducible apply wf_onceReady | with_reducible apply wf_unlessPoison
    | with_reducible apply wf_ringConfigure | with_reducible apply wf_putPred | with_reducible apply wf_updBand
    | (extract_lets +onlyGivenNames x; subst x) | split | (refine opt_get ?_ (by assumption))

theorem wf_execRingAppend (n : ℕ) (s : State) (hs : Memory.wf s.mem = true) :
    OutWf (execRingAppend n s) := by
  unfold execRingAppend
  repeat' first
    | with_reducible assumption | with_reducible apply out_next | with_reducible apply wf_answerFrom
    | with_reducible apply wf_forwardMsg | with_reducible apply wf_appendCore | with_reducible apply wf_appendImage
    | (extract_lets +onlyGivenNames x; subst x) | split | (refine opt_get ?_ (by assumption))

theorem wf_execIslctlAutomatic (i : ℕ) (fmax : BitVec 8) (s : State) (hs : Memory.wf s.mem = true) :
    OutWf (execIslctlAutomatic i fmax s) := by
  unfold execIslctlAutomatic
  repeat' first | with_reducible assumption | with_reducible apply out_next | with_reducible apply wf_islWrite

theorem wf_execIslctlHoldOn (i : ℕ) (fmax : BitVec 8) (s : State) (hs : Memory.wf s.mem = true) :
    OutWf (execIslctlHoldOn i fmax s) := by
  unfold execIslctlHoldOn
  repeat' first | with_reducible assumption | with_reducible apply out_next | with_reducible apply wf_islWrite

theorem wf_execIslctlGate (i : ℕ) (fmax : BitVec 8) (s : State) (hs : Memory.wf s.mem = true) :
    OutWf (execIslctlGate i fmax s) := by
  unfold execIslctlGate
  repeat' first | with_reducible assumption | with_reducible apply out_next | with_reducible apply wf_islWrite | split

theorem wf_execIslandGated (i : ℕ) (s : State) (hs : Memory.wf s.mem = true) :
    OutWf (execIslandGated i s) := by
  unfold execIslandGated
  repeat' first
    | with_reducible assumption | with_reducible apply out_next | with_reducible apply wf_updCluster
    | (extract_lets +onlyGivenNames x; subst x) | split

theorem wf_execMcbankClear (b : ℕ) (s : State) (hs : Memory.wf s.mem = true) :
    OutWf (execMcbankClear b s) := by
  unfold execMcbankClear
  repeat' first | with_reducible assumption | with_reducible apply out_next | with_reducible apply wf_bankClear | split

theorem wf_execModuleReset (s : State) (hs : Memory.wf s.mem = true) :
    OutWf (execModuleReset s) := by
  unfold execModuleReset
  repeat' first | with_reducible assumption | with_reducible apply out_next | with_reducible apply wf_moduleReset

theorem wf_execBootcmdReset (s : State) (hs : Memory.wf s.mem = true) :
    OutWf (execBootcmdReset s) := by
  unfold execBootcmdReset
  repeat' first | with_reducible assumption | with_reducible apply out_next | with_reducible apply wf_moduleReset

theorem wf_execBootcmdFullStart (s : State) (hs : Memory.wf s.mem = true) :
    OutWf (execBootcmdFullStart s) := by
  unfold execBootcmdFullStart
  repeat' first | with_reducible assumption | with_reducible apply out_next | with_reducible apply wf_fullStart

theorem wf_execStartupStageComplete (ok : Bool) (code : BitVec 8) (s : State) (hs : Memory.wf s.mem = true) :
    OutWf (execStartupStageComplete ok code s) := by
  unfold execStartupStageComplete
  repeat' first
    | with_reducible assumption | with_reducible apply out_next | with_reducible apply wf_startFails
    | with_reducible apply wf_stageWork | with_reducible apply wf_raise | (extract_lets +onlyGivenNames x; subst x) | split

theorem wf_execStartupStageTimeout (s : State) (hs : Memory.wf s.mem = true) :
    OutWf (execStartupStageTimeout s) := by
  unfold execStartupStageTimeout
  repeat' first | with_reducible assumption | with_reducible apply out_next | with_reducible apply wf_startFails | split

theorem wf_execPowerWindow (s : State) (hs : Memory.wf s.mem = true) :
    OutWf (execPowerWindow s) := by
  unfold execPowerWindow
  repeat' first
    | with_reducible assumption | intro _ | with_reducible apply out_next | with_reducible apply wf_attestStep
    | with_reducible apply wf_updCluster | with_reducible apply wf_foldl | (extract_lets +onlyGivenNames x; subst x)
    | dsimp -zeta only | split

theorem wf_execWorrenStatus (s : State) (hs : Memory.wf s.mem = true) :
    OutWf (execWorrenStatus s) := by
  unfold execWorrenStatus
  repeat' first | with_reducible assumption | with_reducible apply out_next | with_reducible apply wf_msgStatus

theorem wf_execWorrenBankRead (b : ℕ) (s : State) (hs : Memory.wf s.mem = true) :
    OutWf (execWorrenBankRead b s) := by
  unfold execWorrenBankRead
  repeat' first | with_reducible assumption | with_reducible apply out_next | with_reducible apply wf_msgBankRead

theorem wf_execWorrenBankClear (b : ℕ) (s : State) (hs : Memory.wf s.mem = true) :
    OutWf (execWorrenBankClear b s) := by
  unfold execWorrenBankClear
  repeat' first | with_reducible assumption | with_reducible apply out_next | with_reducible apply wf_msgBankClear

theorem wf_execWorrenPowerCap (v : W64) (s : State) (hs : Memory.wf s.mem = true) :
    OutWf (execWorrenPowerCap v s) := by
  unfold execWorrenPowerCap
  repeat' first | with_reducible assumption | with_reducible apply out_next | with_reducible apply wf_msgPowerCap

theorem wf_execWorrenFirmwareChunk (off : ℕ) (data : List (BitVec 8)) (s : State) (hs : Memory.wf s.mem = true) :
    OutWf (execWorrenFirmwareChunk off data s) := by
  unfold execWorrenFirmwareChunk
  repeat' first | with_reducible assumption | with_reducible apply out_next | with_reducible apply wf_msgFirmware

theorem wf_execWorrenActivate (s : State) (hs : Memory.wf s.mem = true) :
    OutWf (execWorrenActivate s) := by
  unfold execWorrenActivate
  repeat' first | with_reducible assumption | with_reducible apply out_next | with_reducible apply wf_msgActivate

theorem wf_execWorrenFloorMap (data : List (BitVec 8)) (s : State) (hs : Memory.wf s.mem = true) :
    OutWf (execWorrenFloorMap data s) := by
  unfold execWorrenFloorMap
  repeat' first | with_reducible assumption | with_reducible apply out_next | with_reducible apply wf_msgFloorMap

theorem wf_execWorrenExtend (k : ℕ) (data : List (BitVec 8)) (s : State) (hs : Memory.wf s.mem = true) :
    OutWf (execWorrenExtend k data s) := by
  unfold execWorrenExtend
  repeat' first | with_reducible assumption | with_reducible apply out_next | with_reducible apply wf_msgExtend

theorem wf_execWorrenAttest (nonce : List (BitVec 8)) (s : State) (hs : Memory.wf s.mem = true) :
    OutWf (execWorrenAttest nonce s) := by
  unfold execWorrenAttest
  repeat' first | with_reducible assumption | with_reducible apply out_next | with_reducible apply wf_msgAttest

theorem wf_execWorrenStartReset (s : State) (hs : Memory.wf s.mem = true) :
    OutWf (execWorrenStartReset s) := by
  unfold execWorrenStartReset
  repeat' first | with_reducible assumption | with_reducible apply out_next | with_reducible apply wf_moduleReset

theorem wf_execWorrenFullStart (s : State) (hs : Memory.wf s.mem = true) :
    OutWf (execWorrenFullStart s) := by
  unfold execWorrenFullStart
  repeat' first | with_reducible assumption | with_reducible apply out_next | with_reducible apply wf_fullStart

theorem wf_execMailboxRequest (req : List (BitVec 8)) (s : State) (hs : Memory.wf s.mem = true) :
    OutWf (execMailboxRequest req s) := by
  unfold execMailboxRequest
  repeat' first
    | with_reducible assumption | with_reducible apply out_next | with_reducible apply wf_serveMail
    | with_reducible apply wf_mailWrite | split

theorem wf_execControlSpaceWrite (off : ℕ) (v : W64) (s : State) (hs : Memory.wf s.mem = true) :
    OutWf (execControlSpaceWrite off v s) := by
  unfold execControlSpaceWrite
  repeat' first
    | with_reducible assumption | with_reducible apply out_next | with_reducible apply wf_tlbIdleWrite
    | with_reducible apply wf_bucketWrite | with_reducible apply wf_serveMail | with_reducible apply wf_mailWrite | split

theorem wf_execFadd (h : Hdr) (t : Ty) (o : Op2) (s : State) (hs : Memory.wf s.mem = true) :
    OutWf (execFadd h t o s) := by
  unfold execFadd
  repeat' first | with_reducible assumption | with_reducible apply wf_float2Act

theorem wf_execFsub (h : Hdr) (t : Ty) (o : Op2) (s : State) (hs : Memory.wf s.mem = true) :
    OutWf (execFsub h t o s) := by
  unfold execFsub
  repeat' first | with_reducible assumption | with_reducible apply wf_float2Act

theorem wf_execFmul (h : Hdr) (t : Ty) (o : Op2) (s : State) (hs : Memory.wf s.mem = true) :
    OutWf (execFmul h t o s) := by
  unfold execFmul
  repeat' first | with_reducible assumption | with_reducible apply wf_float2Act

theorem wf_execFfma (h : Hdr) (t : Ty) (o : Op3) (s : State) (hs : Memory.wf s.mem = true) :
    OutWf (execFfma h t o s) := by
  unfold execFfma
  repeat' first | with_reducible assumption | with_reducible apply wf_fin | with_reducible apply wf_laneRun

theorem wf_execFmin (h : Hdr) (t : Ty) (o : Op2) (s : State) (hs : Memory.wf s.mem = true) :
    OutWf (execFmin h t o s) := by
  unfold execFmin
  repeat' first | with_reducible assumption | with_reducible apply wf_fSelAct

theorem wf_execFmax (h : Hdr) (t : Ty) (o : Op2) (s : State) (hs : Memory.wf s.mem = true) :
    OutWf (execFmax h t o s) := by
  unfold execFmax
  repeat' first | with_reducible assumption | with_reducible apply wf_fSelAct

theorem wf_execFabs (h : Hdr) (t : Ty) (o : Op1) (s : State) (hs : Memory.wf s.mem = true) :
    OutWf (execFabs h t o s) := by
  unfold execFabs
  repeat' first | with_reducible assumption | with_reducible apply wf_fin | with_reducible apply wf_laneRun

theorem wf_execFneg (h : Hdr) (t : Ty) (o : Op1) (s : State) (hs : Memory.wf s.mem = true) :
    OutWf (execFneg h t o s) := by
  unfold execFneg
  repeat' first | with_reducible assumption | with_reducible apply wf_fin | with_reducible apply wf_laneRun

theorem wf_execFcmp (h : Hdr) (cc : Cmp) (t : Ty) (o : Op2) (s : State) (hs : Memory.wf s.mem = true) :
    OutWf (execFcmp h cc t o s) := by
  unfold execFcmp
  repeat' first | with_reducible assumption | with_reducible apply wf_fin | with_reducible apply wf_lanePred

theorem wf_execFclass (h : Hdr) (t : Ty) (o : Op1) (s : State) (hs : Memory.wf s.mem = true) :
    OutWf (execFclass h t o s) := by
  unfold execFclass
  repeat' first | with_reducible assumption | with_reducible apply wf_fin | with_reducible apply wf_laneRun

theorem wf_execFdiv (h : Hdr) (t : Ty) (o : Op2) (s : State) (hs : Memory.wf s.mem = true) :
    OutWf (execFdiv h t o s) := by
  unfold execFdiv
  repeat' first | with_reducible assumption | with_reducible apply wf_float2Act

theorem wf_execFsqrt (h : Hdr) (t : Ty) (o : Op1) (s : State) (hs : Memory.wf s.mem = true) :
    OutWf (execFsqrt h t o s) := by
  unfold execFsqrt
  repeat' first | with_reducible assumption | with_reducible apply wf_float1Act

theorem wf_execFrcp (h : Hdr) (t : Ty) (o : Op1) (s : State) (hs : Memory.wf s.mem = true) :
    OutWf (execFrcp h t o s) := by
  unfold execFrcp
  repeat' first | with_reducible assumption | with_reducible apply wf_float1Act

theorem wf_execFrsq (h : Hdr) (t : Ty) (o : Op1) (s : State) (hs : Memory.wf s.mem = true) :
    OutWf (execFrsq h t o s) := by
  unfold execFrsq
  repeat' first | with_reducible assumption | with_reducible apply wf_float1Act

theorem wf_execFexp2 (h : Hdr) (t : Ty) (o : Op1) (s : State) (hs : Memory.wf s.mem = true) :
    OutWf (execFexp2 h t o s) := by
  unfold execFexp2
  repeat' first | with_reducible assumption | with_reducible apply wf_float1Act

theorem wf_execFlog2 (h : Hdr) (t : Ty) (o : Op1) (s : State) (hs : Memory.wf s.mem = true) :
    OutWf (execFlog2 h t o s) := by
  unfold execFlog2
  repeat' first | with_reducible assumption | with_reducible apply wf_float1Act

theorem wf_execFscl (h : Hdr) (t : Ty) (o : Op2) (s : State) (hs : Memory.wf s.mem = true) :
    OutWf (execFscl h t o s) := by
  unfold execFscl
  repeat' first
    | with_reducible assumption | intro _ | with_reducible apply wf_fin | with_reducible apply wf_laneReady
    | with_reducible apply wf_writeLanes

theorem wf_execFcvt (h : Hdr) (src : Ty) (t : Ty) (d : Opd) (a : Src) (s : State) (hs : Memory.wf s.mem = true) :
    OutWf (execFcvt h src t d a s) := by
  unfold execFcvt
  repeat' first | with_reducible assumption | with_reducible apply wf_convAct

theorem wf_execIcvt (h : Hdr) (src : Ty) (wrap : Bool) (t : Ty) (d : Opd) (a : Src) (s : State) (hs : Memory.wf s.mem = true) :
    OutWf (execIcvt h src wrap t d a s) := by
  unfold execIcvt
  repeat' first | with_reducible assumption | with_reducible apply wf_convAct

theorem wf_execFrnd (h : Hdr) (t : Ty) (d : Opd) (a : Src) (s : State) (hs : Memory.wf s.mem = true) :
    OutWf (execFrnd h t d a s) := by
  unfold execFrnd
  repeat' first | with_reducible assumption | with_reducible apply wf_convAct

theorem wf_execPand (h : Hdr) (d : BitVec 4) (a : BitVec 4) (b : BitVec 4) (s : State) (hs : Memory.wf s.mem = true) :
    OutWf (execPand h d a b s) := by
  unfold execPand
  repeat' first | with_reducible assumption | with_reducible apply wf_predAct

theorem wf_execPor (h : Hdr) (d : BitVec 4) (a : BitVec 4) (b : BitVec 4) (s : State) (hs : Memory.wf s.mem = true) :
    OutWf (execPor h d a b s) := by
  unfold execPor
  repeat' first | with_reducible assumption | with_reducible apply wf_predAct

theorem wf_execPxor (h : Hdr) (d : BitVec 4) (a : BitVec 4) (b : BitVec 4) (s : State) (hs : Memory.wf s.mem = true) :
    OutWf (execPxor h d a b s) := by
  unfold execPxor
  repeat' first | with_reducible assumption | with_reducible apply wf_predAct

theorem wf_execPnot (h : Hdr) (d : BitVec 4) (a : BitVec 4) (s : State) (hs : Memory.wf s.mem = true) :
    OutWf (execPnot h d a s) := by
  unfold execPnot
  repeat' first | with_reducible assumption | with_reducible apply wf_predAct

theorem wf_execPmov (h : Hdr) (d : BitVec 4) (a : BitVec 4) (s : State) (hs : Memory.wf s.mem = true) :
    OutWf (execPmov h d a s) := by
  unfold execPmov
  repeat' first | with_reducible assumption | with_reducible apply wf_predAct

theorem wf_execPset (h : Hdr) (d : BitVec 4) (v : Bool) (s : State) (hs : Memory.wf s.mem = true) :
    OutWf (execPset h d v s) := by
  unfold execPset
  repeat' first | with_reducible assumption | with_reducible apply wf_predAct

theorem wf_execVote (h : Hdr) (v : VoteMode) (d : Opd) (a : BitVec 4) (t : BitVec 6) (all : Bool) (s : State)
    (hs : Memory.wf s.mem = true) :
    OutWf (execVote h v d a t all s) := by
  unfold execVote
  repeat' first
    | with_reducible assumption | intro _ | with_reducible apply act_next | with_reducible apply wf_fin
    | with_reducible apply wf_atLanes | with_reducible apply wf_checkAll | with_reducible apply wf_updGrp
    | with_reducible apply wf_writeLanes | (extract_lets +onlyGivenNames x; subst x) | split | (refine oa_get ?_ (by assumption))

theorem wf_execSmov (h : Hdr) (o : Op1) (s : State) (hs : Memory.wf s.mem = true) :
    OutWf (execSmov h o s) := by
  unfold execSmov
  repeat' first | with_reducible assumption | with_reducible apply wf_scal1Act

theorem wf_execSldi (h : Hdr) (d : Opd) (imm : BitVec 49) (s : State) (hs : Memory.wf s.mem = true) :
    OutWf (execSldi h d imm s) := by
  unfold execSldi
  repeat' first | with_reducible assumption | with_reducible apply wf_fin | with_reducible apply wf_scalRun

theorem wf_execSldih (h : Hdr) (d : Opd) (imm : BitVec 49) (s : State) (hs : Memory.wf s.mem = true) :
    OutWf (execSldih h d imm s) := by
  unfold execSldih
  repeat' first | with_reducible assumption | with_reducible apply wf_fin | with_reducible apply wf_scalRun

theorem wf_execSid (h : Hdr) (dim : SidDim) (d : Opd) (x : BitVec 6) (s : State) (hs : Memory.wf s.mem = true) :
    OutWf (execSid h dim d x s) := by
  unfold execSid
  repeat' first | with_reducible assumption | with_reducible apply wf_fin | with_reducible apply wf_scalRun

theorem wf_execSadd (h : Hdr) (o : Op2) (s : State) (hs : Memory.wf s.mem = true) :
    OutWf (execSadd h o s) := by
  unfold execSadd
  repeat' first | with_reducible assumption | with_reducible apply wf_scal2Act

theorem wf_execSsub (h : Hdr) (o : Op2) (s : State) (hs : Memory.wf s.mem = true) :
    OutWf (execSsub h o s) := by
  unfold execSsub
  repeat' first | with_reducible assumption | with_reducible apply wf_scal2Act

theorem wf_execSmul (h : Hdr) (o : Op2) (s : State) (hs : Memory.wf s.mem = true) :
    OutWf (execSmul h o s) := by
  unfold execSmul
  repeat' first | with_reducible assumption | with_reducible apply wf_scal2Act

theorem wf_execSmulh (h : Hdr) (t : Ty) (o : Op2) (s : State) (hs : Memory.wf s.mem = true) :
    OutWf (execSmulh h t o s) := by
  unfold execSmulh
  repeat' first | with_reducible assumption | with_reducible apply wf_scal2Act

theorem wf_execSdiv (h : Hdr) (t : Ty) (o : Op2) (s : State) (hs : Memory.wf s.mem = true) :
    OutWf (execSdiv h t o s) := by
  unfold execSdiv
  repeat' first | with_reducible assumption | with_reducible apply wf_scal2Act

theorem wf_execSrem (h : Hdr) (t : Ty) (o : Op2) (s : State) (hs : Memory.wf s.mem = true) :
    OutWf (execSrem h t o s) := by
  unfold execSrem
  repeat' first | with_reducible assumption | with_reducible apply wf_scal2Act

theorem wf_execSand (h : Hdr) (o : Op2) (s : State) (hs : Memory.wf s.mem = true) :
    OutWf (execSand h o s) := by
  unfold execSand
  repeat' first | with_reducible assumption | with_reducible apply wf_scal2Act

theorem wf_execSor (h : Hdr) (o : Op2) (s : State) (hs : Memory.wf s.mem = true) :
    OutWf (execSor h o s) := by
  unfold execSor
  repeat' first | with_reducible assumption | with_reducible apply wf_scal2Act

theorem wf_execSxor (h : Hdr) (o : Op2) (s : State) (hs : Memory.wf s.mem = true) :
    OutWf (execSxor h o s) := by
  unfold execSxor
  repeat' first | with_reducible assumption | with_reducible apply wf_scal2Act

theorem wf_execSshl (h : Hdr) (o : Op2) (s : State) (hs : Memory.wf s.mem = true) :
    OutWf (execSshl h o s) := by
  unfold execSshl
  repeat' first | with_reducible assumption | with_reducible apply wf_scal2Act

theorem wf_execSshr (h : Hdr) (o : Op2) (s : State) (hs : Memory.wf s.mem = true) :
    OutWf (execSshr h o s) := by
  unfold execSshr
  repeat' first | with_reducible assumption | with_reducible apply wf_scal2Act

theorem wf_execSsra (h : Hdr) (o : Op2) (s : State) (hs : Memory.wf s.mem = true) :
    OutWf (execSsra h o s) := by
  unfold execSsra
  repeat' first | with_reducible assumption | with_reducible apply wf_scal2Act

theorem wf_execScmp (h : Hdr) (cc : Cmp) (t : Ty) (o : Op2) (s : State) (hs : Memory.wf s.mem = true) :
    OutWf (execScmp h cc t o s) := by
  unfold execScmp
  repeat' first
    | with_reducible assumption | intro _ | with_reducible apply act_next | with_reducible apply wf_fin
    | with_reducible apply wf_ctxReady | with_reducible apply wf_updCtx | split

theorem wf_execSsel (h : Hdr) (o : Op3) (s : State) (hs : Memory.wf s.mem = true) :
    OutWf (execSsel h o s) := by
  unfold execSsel
  repeat' first | with_reducible assumption | with_reducible apply wf_fin | with_reducible apply wf_scalRun

theorem wf_execSmin (h : Hdr) (t : Ty) (o : Op2) (s : State) (hs : Memory.wf s.mem = true) :
    OutWf (execSmin h t o s) := by
  unfold execSmin
  repeat' first | with_reducible assumption | with_reducible apply wf_scal2Act

theorem wf_execSmax (h : Hdr) (t : Ty) (o : Op2) (s : State) (hs : Memory.wf s.mem = true) :
    OutWf (execSmax h t o s) := by
  unfold execSmax
  repeat' first | with_reducible assumption | with_reducible apply wf_scal2Act

theorem wf_execSclz (h : Hdr) (o : Op1) (s : State) (hs : Memory.wf s.mem = true) :
    OutWf (execSclz h o s) := by
  unfold execSclz
  repeat' first | with_reducible assumption | with_reducible apply wf_scal1Act

theorem wf_execVmov (h : Hdr) (t : Ty) (o : Op1) (s : State) (hs : Memory.wf s.mem = true) :
    OutWf (execVmov h t o s) := by
  unfold execVmov
  repeat' first | with_reducible assumption | with_reducible apply wf_lane1Act

theorem wf_execVldi (h : Hdr) (t : Ty) (d : Opd) (imm : BitVec 49) (s : State) (hs : Memory.wf s.mem = true) :
    OutWf (execVldi h t d imm s) := by
  unfold execVldi
  repeat' first | with_reducible assumption | with_reducible apply wf_fin | with_reducible apply wf_laneRun

theorem wf_execVadd (h : Hdr) (t : Ty) (sat : Bool) (o : Op2) (s : State) (hs : Memory.wf s.mem = true) :
    OutWf (execVadd h t sat o s) := by
  unfold execVadd
  repeat' first | with_reducible assumption | with_reducible apply wf_lane2Act

theorem wf_execVsub (h : Hdr) (t : Ty) (sat : Bool) (o : Op2) (s : State) (hs : Memory.wf s.mem = true) :
    OutWf (execVsub h t sat o s) := by
  unfold execVsub
  repeat' first | with_reducible assumption | with_reducible apply wf_lane2Act

theorem wf_execVmul (h : Hdr) (t : Ty) (o : Op2) (s : State) (hs : Memory.wf s.mem = true) :
    OutWf (execVmul h t o s) := by
  unfold execVmul
  repeat' first | with_reducible assumption | with_reducible apply wf_lane2Act

theorem wf_execVmulh (h : Hdr) (t : Ty) (o : Op2) (s : State) (hs : Memory.wf s.mem = true) :
    OutWf (execVmulh h t o s) := by
  unfold execVmulh
  repeat' first | with_reducible assumption | with_reducible apply wf_lane2Act

theorem wf_execVmad (h : Hdr) (t : Ty) (sat : Bool) (o : Op3) (s : State) (hs : Memory.wf s.mem = true) :
    OutWf (execVmad h t sat o s) := by
  unfold execVmad
  repeat' first | with_reducible assumption | with_reducible apply wf_fin | with_reducible apply wf_laneRun

theorem wf_execVabs (h : Hdr) (t : Ty) (sat : Bool) (o : Op1) (s : State) (hs : Memory.wf s.mem = true) :
    OutWf (execVabs h t sat o s) := by
  unfold execVabs
  repeat' first | with_reducible assumption | with_reducible apply wf_lane1Act

theorem wf_execVmin (h : Hdr) (t : Ty) (o : Op2) (s : State) (hs : Memory.wf s.mem = true) :
    OutWf (execVmin h t o s) := by
  unfold execVmin
  repeat' first | with_reducible assumption | with_reducible apply wf_lane2Act

theorem wf_execVmax (h : Hdr) (t : Ty) (o : Op2) (s : State) (hs : Memory.wf s.mem = true) :
    OutWf (execVmax h t o s) := by
  unfold execVmax
  repeat' first | with_reducible assumption | with_reducible apply wf_lane2Act

theorem wf_execVcmp (h : Hdr) (cc : Cmp) (t : Ty) (o : Op2) (s : State) (hs : Memory.wf s.mem = true) :
    OutWf (execVcmp h cc t o s) := by
  unfold execVcmp
  repeat' first | with_reducible assumption | with_reducible apply wf_fin | with_reducible apply wf_lanePred

theorem wf_execVsel (h : Hdr) (t : Ty) (o : Op3) (s : State) (hs : Memory.wf s.mem = true) :
    OutWf (execVsel h t o s) := by
  unfold execVsel
  repeat' first | with_reducible assumption | with_reducible apply wf_fin | with_reducible apply wf_laneRun

theorem wf_execVand (h : Hdr) (t : Ty) (o : Op2) (s : State) (hs : Memory.wf s.mem = true) :
    OutWf (execVand h t o s) := by
  unfold execVand
  repeat' first | with_reducible assumption | with_reducible apply wf_lane2Act

theorem wf_execVor (h : Hdr) (t : Ty) (o : Op2) (s : State) (hs : Memory.wf s.mem = true) :
    OutWf (execVor h t o s) := by
  unfold execVor
  repeat' first | with_reducible assumption | with_reducible apply wf_lane2Act

theorem wf_execVxor (h : Hdr) (t : Ty) (o : Op2) (s : State) (hs : Memory.wf s.mem = true) :
    OutWf (execVxor h t o s) := by
  unfold execVxor
  repeat' first | with_reducible assumption | with_reducible apply wf_lane2Act

theorem wf_execVnot (h : Hdr) (t : Ty) (o : Op1) (s : State) (hs : Memory.wf s.mem = true) :
    OutWf (execVnot h t o s) := by
  unfold execVnot
  repeat' first | with_reducible assumption | with_reducible apply wf_lane1Act

theorem wf_execVshl (h : Hdr) (t : Ty) (o : Op2) (s : State) (hs : Memory.wf s.mem = true) :
    OutWf (execVshl h t o s) := by
  unfold execVshl
  repeat' first | with_reducible assumption | with_reducible apply wf_lane2Act

theorem wf_execVshr (h : Hdr) (t : Ty) (o : Op2) (s : State) (hs : Memory.wf s.mem = true) :
    OutWf (execVshr h t o s) := by
  unfold execVshr
  repeat' first | with_reducible assumption | with_reducible apply wf_lane2Act

theorem wf_execVsra (h : Hdr) (t : Ty) (o : Op2) (s : State) (hs : Memory.wf s.mem = true) :
    OutWf (execVsra h t o s) := by
  unfold execVsra
  repeat' first | with_reducible assumption | with_reducible apply wf_lane2Act

theorem wf_execVclz (h : Hdr) (t : Ty) (o : Op1) (s : State) (hs : Memory.wf s.mem = true) :
    OutWf (execVclz h t o s) := by
  unfold execVclz
  repeat' first | with_reducible assumption | with_reducible apply wf_lane1Act

theorem wf_execVpop (h : Hdr) (t : Ty) (o : Op1) (s : State) (hs : Memory.wf s.mem = true) :
    OutWf (execVpop h t o s) := by
  unfold execVpop
  repeat' first | with_reducible assumption | with_reducible apply wf_lane1Act

theorem wf_execVbrev (h : Hdr) (t : Ty) (o : Op1) (s : State) (hs : Memory.wf s.mem = true) :
    OutWf (execVbrev h t o s) := by
  unfold execVbrev
  repeat' first | with_reducible assumption | with_reducible apply wf_lane1Act

theorem wf_execVbcast (h : Hdr) (t : Ty) (o : Op2) (s : State) (hs : Memory.wf s.mem = true) :
    OutWf (execVbcast h t o s) := by
  unfold execVbcast
  repeat' first | with_reducible assumption | with_reducible apply wf_shuffle

theorem wf_execVshfl (h : Hdr) (md : ShflMode) (t : Ty) (o : Op2) (s : State) (hs : Memory.wf s.mem = true) :
    OutWf (execVshfl h md t o s) := by
  unfold execVshfl
  repeat' first | with_reducible assumption | with_reducible apply wf_shuffle

theorem wf_execVred (h : Hdr) (op : RedOp) (t : Ty) (o : Op1) (s : State) (hs : Memory.wf s.mem = true) :
    OutWf (execVred h op t o s) := by
  unfold execVred
  repeat' first | with_reducible assumption | with_reducible apply wf_scanAct

theorem wf_execVscan (h : Hdr) (op : RedOp) (excl : Bool) (t : Ty) (o : Op1) (s : State) (hs : Memory.wf s.mem = true) :
    OutWf (execVscan h op excl t o s) := by
  unfold execVscan
  repeat' first | with_reducible assumption | with_reducible apply wf_scanAct

end Sys2Proof.Machine
end

