-- ==== Sys2Proof/Machine/AsmText.lean ====
section
/-! DEFINITION. The text of the assembly language (R71, R72, R74): statements, numbers, expressions, registers, and literals in
the number formats (R75, R85). -/

namespace Sys2Proof.Machine

/-- Why assembly stops (R70). -/
inductive AsmErr where
  | lexical | name | expr | range | mnemonic | operand | immediate | offset | encoding | level | pair | directive
  | template | region | live | textual | conditional | place
  deriving DecidableEq, Repr

/-- Text. -/
abbrev Chars := List Char

/-- The characters of a literal. -/
def chars (s : String) : Chars := s.toList

/-! ## Characters and words -/

/-- A decimal digit. -/
def isDig (c : Char) : Bool := decide ('0'.toNat ≤ c.toNat) && decide (c.toNat ≤ '9'.toNat)

/-- A letter. -/
def isLet (c : Char) : Bool :=
  (decide ('a'.toNat ≤ c.toNat) && decide (c.toNat ≤ 'z'.toNat)) || (decide ('A'.toNat ≤ c.toNat) && decide (c.toNat ≤ 'Z'.toNat))

/-- White space within a line. -/
def isBlank (c : Char) : Bool := c == ' ' || c == '\t' || c == '\r'

/-- What may begin a name; `$` begins a label local to an expansion (R71, R87). -/
def nameHead (c : Char) : Bool := isLet c || c == '_' || c == '$'

/-- What may follow in a name. `#` stands only in the names that expansions make (R87). -/
def nameTail (c : Char) : Bool := isLet c || isDig c || c == '_' || c == '#'

/-- A character in upper case. -/
def upC (c : Char) : Char := if decide ('a'.toNat ≤ c.toNat) && decide (c.toNat ≤ 'z'.toNat) then Char.ofNat (c.toNat - 32) else c

/-- Text in upper case. -/
def upper (s : Chars) : Chars := s.map upC

/-- Text in lower case. -/
def lower (s : Chars) : Chars :=
  s.map (fun c => if decide ('A'.toNat ≤ c.toNat) && decide (c.toNat ≤ 'Z'.toNat) then Char.ofNat (c.toNat + 32) else c)

/-- Text without blanks at its ends. -/
def trim (s : Chars) : Chars := ((s.dropWhile isBlank).reverse.dropWhile isBlank).reverse

/-- Cut text at a separator that stands outside brackets and parentheses; `depth` counts those open and `cur` is the piece in
hand, last character first. -/
def cutAt (sep : Char) : Nat → Chars → Chars → List Chars
  | _, cur, [] => [cur.reverse]
  | depth, cur, c :: r =>
    if c == sep && depth == 0 then cur.reverse :: cutAt sep 0 [] r
    else cutAt sep (if c == '(' || c == '[' then depth + 1 else if c == ')' || c == ']' then depth - 1 else depth) (c :: cur) r

/-- The operands of a statement, separated by commas (R74). -/
def operandTexts (s : Chars) : List Chars := if trim s == [] then [] else (cutAt ',' 0 [] s).map trim

/-- The lines of a source. -/
def sourceLines : Chars → Chars → List Chars
  | cur, [] => [cur.reverse]
  | cur, c :: r => if c == '\n' then cur.reverse :: sourceLines [] r else sourceLines (c :: cur) r

/-! ## Numbers (R72) -/

/-- The value of a digit in a base up to 16. -/
def digitVal (base : Nat) (c : Char) : Option Nat :=
  let c := upC c
  let v := if isDig c then c.toNat - 48 else if isLet c then c.toNat - 55 else base
  if v < base then some v else none

/-- The value of a string of digits. -/
def digitsVal (base : Nat) : Nat → Chars → Option Nat
  | v, [] => some v
  | v, c :: r => (digitVal base c).bind (fun d => digitsVal base (v * base + d) r)

/-- A decimal number in its one spelling without leading zeros, as register numbers are written. -/
def plainNat (s : Chars) : Option Nat :=
  if s == [] || (decide (1 < s.length) && s.head? == some '0') then none else digitsVal 10 0 s

/-- A hexadecimal digit string with `_` between digits. -/
def hexVal (s : Chars) : Option Nat :=
  let ds := s.filter (fun c => c != '_')
  if ds == [] || s.head? == some '_' || s.getLast? == some '_' then none else digitsVal 16 0 ds

/-- A real literal: its digits as a number and a power of ten. -/
structure RealLit where
  m : Nat
  e : Int
  deriving DecidableEq, Repr

/-- One item of an expression. -/
inductive Tok where
  | num (n : Nat)
  | real (x : RealLit)
  | word (w : Chars)
  | op (c : Char)
  | lp
  | rp
  deriving DecidableEq, Repr

/-- A number at the start of text, with the rest. `<<` and `>>` are the operators `<` and `>` here. -/
def lexNum (s : Chars) : Option (Tok × Chars) :=
  match s with
  | '0' :: x :: r =>
    if x == 'x' || x == 'X' then
      (hexVal (r.takeWhile (fun c => isDig c || isLet c || c == '_'))).map
        (fun v => (.num v, r.dropWhile (fun c => isDig c || isLet c || c == '_')))
    else if x == 'b' || x == 'B' then
      let ds := r.takeWhile isDig
      if ds == [] then none else (digitsVal 2 0 ds).map (fun v => (.num v, r.dropWhile isDig))
    else lexDec s
  | _ => lexDec s
where
  /-- A decimal integer or a real. -/
  lexDec (s : Chars) : Option (Tok × Chars) :=
    let ds := s.takeWhile isDig
    let r := s.dropWhile isDig
    let (fs, r1, dot) : Chars × Chars × Bool := match r with
      | '.' :: t => (t.takeWhile isDig, t.dropWhile isDig, true)
      | _ => ([], r, false)
    let exp : Option (Int × Chars) := match r1 with
      | c :: t =>
        if c == 'e' || c == 'E' then
          let (neg, t) : Bool × Chars := match t with | '-' :: u => (true, u) | '+' :: u => (false, u) | _ => (false, t)
          let es := t.takeWhile isDig
          if es == [] then none else (digitsVal 10 0 es).map (fun v => (if neg then -(v : Int) else v, t.dropWhile isDig))
        else none
      | [] => none
    if ds == [] then none
    else match exp with
      | some (x, r2) => (digitsVal 10 0 (ds ++ fs)).map (fun m => (.real ⟨m, x - fs.length⟩, r2))
      | none =>
        if dot then (digitsVal 10 0 (ds ++ fs)).map (fun m => (.real ⟨m, -(fs.length : Int)⟩, r1))
        else (digitsVal 10 0 ds).map (fun v => (.num v, r1))

/-- The items of text; the first argument bounds their count. A number and the name after it must not touch. -/
def lexToks : Nat → Chars → Option (List Tok)
  | 0, _ => none
  | n + 1, s =>
    match s with
    | [] => some []
    | c :: r =>
      if isBlank c then lexToks n r
      else if isDig c then
        (lexNum s).bind (fun (t, r) =>
          if (r.head?.map (fun c => nameTail c || c == '$' || c == '.')).getD false then none else (lexToks n r).map (t :: ·))
      else if nameHead c then (lexToks n (r.dropWhile nameTail)).map (.word (c :: r.takeWhile nameTail) :: ·)
      else if c == '(' then (lexToks n r).map (.lp :: ·)
      else if c == ')' then (lexToks n r).map (.rp :: ·)
      else if c == '<' || c == '>' then
        (match r with | d :: r => if d == c then (lexToks n r).map (.op c :: ·) else none | [] => none)
      else if ['+', '-', '*', '/', '%', '&', '|', '^', '~'].contains c then (lexToks n r).map (.op c :: ·)
      else none

/-! ## Expressions (R72) -/

/-- An integer expression. -/
inductive Exp where
  | num (n : Nat)
  | name (w : Chars)
  | un (c : Char) (e : Exp)
  | bin (c : Char) (l r : Exp)
  deriving Repr

/-- How tightly an operator of two sides binds; the manual gives no order, and the C language's is taken (log 21). -/
def binPrec (c : Char) : Nat :=
  if c == '|' then 1 else if c == '^' then 2 else if c == '&' then 3 else if c == '<' || c == '>' then 4
  else if c == '+' || c == '-' then 5 else if c == '*' || c == '/' || c == '%' then 6 else 0

/-- Read an expression whose operators bind tighter than p; `l` is the left side once it is read. The first argument bounds
the work. -/
def readExp : Nat → Nat → Option Exp → List Tok → Option (Exp × List Tok)
  | 0, _, _, _ => none
  | f + 1, p, none, ts =>
    match ts with
    | .num n :: r => readExp f p (some (.num n)) r
    | .word w :: r => readExp f p (some (.name w)) r
    | .lp :: r => (readExp f 0 none r).bind (fun (e, r) => match r with | .rp :: r => readExp f p (some e) r | _ => none)
    | .op c :: r =>
      if c == '-' || c == '~' || c == '+' then (readExp f 7 none r).bind (fun (e, r) => readExp f p (some (.un c e)) r) else none
    | _ => none
  | f + 1, p, some l, ts =>
    match ts with
    | .op c :: r =>
      if p < binPrec c then (readExp f (binPrec c) none r).bind (fun (e, r) => readExp f p (some (.bin c l e)) r) else some (l, ts)
    | _ => some (l, ts)

/-- The items of a whole text. -/
def toksOf (s : Chars) : Option (List Tok) := lexToks (s.length + 1) s

/-- The expression that a whole text spells. -/
def expOf (s : Chars) : Option Exp :=
  (toksOf s).bind (fun ts => (readExp (3 * ts.length + 3) 0 none ts).bind (fun (e, r) => if r.isEmpty then some e else none))

/-- What an address is counted from: a section of the file in hand, or an extern name. -/
inductive AsmSym where
  | code
  | data
  | rodata
  | ext (name : Chars)
  deriving DecidableEq, Repr

/-- A value: a number, or a distance from a place that the loader fixes. -/
structure AsmVal where
  sym : Option AsmSym
  off : Int
  deriving DecidableEq, Repr

/-- A plain number. -/
def AsmVal.num (v : Int) : AsmVal := ⟨none, v⟩

/-- What names stand for. -/
abbrev AsmEnv := Chars → Option AsmVal

/-- Two plain numbers under an operator, exact (R72); a shift count may not be negative, and a shift right rounds down (log 21). -/
def binInt (c : Char) (x y : Int) : Option Int :=
  if c == '*' then some (x * y)
  else if c == '/' then if y = 0 then none else some (x.tdiv y)
  else if c == '%' then if y = 0 then none else some (x.tmod y)
  else if c == '<' then if 0 ≤ y then some (x * 2 ^ y.toNat) else none
  else if c == '>' then if 0 ≤ y then some (x.fdiv (2 ^ y.toNat)) else none
  else
    let w := x.natAbs.log2 + y.natAbs.log2 + 3
    let f := fun (g : BitVec w → BitVec w → BitVec w) => some (g (BitVec.ofInt w x) (BitVec.ofInt w y)).toInt
    if c == '&' then f (· &&& ·) else if c == '|' then f (· ||| ·) else if c == '^' then f (· ^^^ ·) else none

/-- Evaluate an expression; a place may be moved by a number, and two of one section have a distance (log 21). -/
def evalExp (env : AsmEnv) : Exp → Option AsmVal
  | .num n => some (.num n)
  | .name w => env w
  | .un c e => (evalExp env e).bind (fun v =>
      if c == '+' then some v
      else if v.sym.isSome then none
      else if c == '-' then some (.num (-v.off)) else some (.num (-v.off - 1)))
  | .bin c l r => (evalExp env l).bind (fun x => (evalExp env r).bind (fun y =>
      if c == '+' then
        if x.sym.isSome && y.sym.isSome then none else some ⟨x.sym.orElse (fun _ => y.sym), x.off + y.off⟩
      else if c == '-' then
        if x.sym == y.sym then some (.num (x.off - y.off)) else if y.sym.isSome then none else some ⟨x.sym, x.off - y.off⟩
      else if x.sym.isSome || y.sym.isSome then none
      else (binInt c x.off y.off).map AsmVal.num))

/-- The value of an expression, at most `bits` bits wide (R72). -/
def valueW (bits : Nat) (env : AsmEnv) (s : Chars) : Except AsmErr AsmVal :=
  match (expOf s).bind (evalExp env) with
  | some v => if -(2 ^ 63 : Int) ≤ v.off ∧ v.off < (2 ^ bits : Nat) then .ok v else .error .range
  | none => .error .expr

/-- The value of an expression (R72). -/
def valueOf (env : AsmEnv) (s : Chars) : Except AsmErr AsmVal := valueW 64 env s

/-- The value of an expression that is a plain number. -/
def numOf (env : AsmEnv) (s : Chars) : Except AsmErr Int :=
  (valueOf env s).bind (fun v => if v.sym.isSome then .error .expr else .ok v.off)

/-- A plain number from lo to hi. -/
def numIn (env : AsmEnv) (lo hi : Int) (s : Chars) : Except AsmErr Nat :=
  (numOf env s).bind (fun v => if lo ≤ v ∧ v ≤ hi then .ok v.toNat else .error .range)

/-! ## Reals (R72, R75, R85) -/

/-- A real or special literal with its sign: none is a NaN or NaR. -/
abbrev RealText := Bool × Option RealLit

/-- The real that a whole text spells, with a sign before it; names `nan` and `nar` are the specials. -/
def realOf (s : Chars) : Option RealText :=
  match toksOf s with
  | some [.real x] | some [.op '+', .real x] => some (false, some x)
  | some [.op '-', .real x] => some (true, some x)
  | some [.word w] => if w == chars "nan" || w == chars "nar" then some (false, none) else none
  | _ => none

/-- A literal as a fraction. -/
def RealLit.frac (x : RealLit) : Nat × Nat := if 0 ≤ x.e then (x.m * 10 ^ x.e.toNat, 1) else (x.m, 10 ^ (-x.e).toNat)

/-- A fraction with 160 leading bits kept and the rest joined into one more bit, which no rounding of these formats can tell
from the fraction. -/
def dyadic (s : Bool) (n d : Nat) : FV :=
  if n = 0 then .fin s 0 0
  else
    let k : Int := 160 - log2Frac n d
    let (a, b) := scale2 n k
    .fin s (2 * (a / (b * d)) + b2n (a % (b * d) != 0)) (-k - 1)

/-- The pattern of a literal in a type, rounded as FCVT rounds (R85). -/
def roundReal (t : Ty) (x : RealText) : Nat :=
  match x with
  | (_, none) => encTy t .nan
  | (s, some x) => encTy t (dyadic s x.frac.1 x.frac.2)

/-- Whether a pattern stands for exactly (−1)^s · n / d. -/
def exactly (t : Ty) (p : Nat) (s : Bool) (n d : Nat) : Bool :=
  match decTy t (BitVec.ofNat 64 p) with
  | .fin s' m e => let (a, b) := scale2 m e
                   a * d == n * b && (n == 0 || s == s')
  | _ => false

/-- The pattern of a literal that must be exact (R75). -/
def exactReal (t : Ty) (x : RealText) : Option Nat :=
  match x with
  | (_, none) => some (encTy t .nan)
  | (s, some l) => let p := roundReal t x
                   if exactly t p s l.frac.1 l.frac.2 then some p else none

/-- An integer taken as a real. -/
def intReal (v : Int) : RealText := (decide (v < 0), some ⟨v.natAbs, 0⟩)

/-! ## Registers (R74, R107) -/

/-- The special values by IDX from 0x40 on (R107). -/
def specNames : List String :=
  ["lane", "nlive", "grp", "core", "clu", "die", "task", "launch", "id0", "id1", "id2", "id3", "id4", "id5", "id6", "id7",
   "ext0", "ext1", "ext2", "ext3", "ext4", "ext5", "ext6", "ext7", "top", "prio", "helper", "vcount", "scratch", "pins",
   "ncores", "nclus", "nslices", "nchan"]

/-- A numbered register below a bound. -/
def regBelow (n : Nat) (s : Chars) : Option Nat := (plainNat s).bind (fun v => if v < n then some v else none)

/-- The operand that a register name spells (R74). -/
def regOpd (s : Chars) : Option Opd :=
  match s with
  | ['_'] => some .none
  | '%' :: r => (specNames.findIdx? (fun n => chars n == r)).map (fun i => .spec (BitVec.ofNat 6 i))
  | 'v' :: r => (regBelow 256 r).map (fun i => .vec (BitVec.ofNat 8 i))
  | 'n' :: r => (regBelow 8 r).map (fun i => .near (BitVec.ofNat 3 i))
  | 'p' :: r => (regBelow 16 r).map (fun i => .pred (BitVec.ofNat 4 i))
  | 'm' :: r => (regBelow 16 r).map (fun i => .map (BitVec.ofNat 4 i))
  | 'a' :: r => (regBelow 8 r).map (fun i => .acc (BitVec.ofNat 3 i))
  | 'b' :: r => (regBelow 8 r).map (fun i => .buf (BitVec.ofNat 3 i))
  | 'q' :: r => (regBelow 4 r).map (fun i => .pin (BitVec.ofNat 2 i))
  | 's' :: r =>
    match cutAt ':' 0 [] r with
    | [n] => (regBelow 32 n).map (fun i => .scal 0 (BitVec.ofNat 5 i))
    | [n, l] => (regBelow 32 n).bind (fun i => (regBelow 8 l).bind (fun l =>
        if l = 0 then none else some (.scal (BitVec.ofNat 3 l) (BitVec.ofNat 5 i))))
    | _ => none
  | _ => none

/-- A source register with its suffix `?`, on the vector and scalar classes alone (R74). -/
def regSrc (s : Chars) : Option Src :=
  match s.getLast? with
  | some '?' => (regOpd s.dropLast).bind (fun o => match o with | .vec _ | .scal _ _ => some ⟨true, o⟩ | _ => none)
  | _ => (regOpd s).map (fun o => ⟨false, o⟩)

/-- Whether text is a name that a source may give to something: register names are reserved (R71). -/
def nameOk (s : Chars) : Bool :=
  (s.head?.map nameHead).getD false && s.tail.all nameTail && (regOpd s).isNone && s != chars "nan" && s != chars "nar"

/-! ## Statements (R71, R73) -/

/-- A statement: its labels, its guard, the first word of what follows, and the rest. -/
structure Stmt where
  labels : List Chars
  guard  : Option (Nat × Bool)
  head   : Chars
  args   : Chars
  deriving DecidableEq, Repr

/-- Labels at the start of text, first to last, with the rest; the first argument bounds their count. -/
def cutLabels : Nat → Chars → List Chars × Chars
  | 0, s => ([], s)
  | n + 1, s =>
    let t := s.dropWhile isBlank
    match t with
    | c :: r =>
      if nameHead c then
        let w := c :: r.takeWhile nameTail
        match (r.dropWhile nameTail).dropWhile isBlank with
        | ':' :: u => let (ls, z) := cutLabels n u
                      (w :: ls, z)
        | _ => ([], t)
      else ([], t)
    | [] => ([], t)

/-- A guard `(pN)` or `(!pN)` at the start of text (R73). -/
def cutGuard (s : Chars) : Option (Option (Nat × Bool) × Chars) :=
  match s with
  | '(' :: r =>
    let inner := trim (r.takeWhile (fun c => c != ')'))
    let rest := (r.dropWhile (fun c => c != ')')).drop 1
    let (neg, w) : Bool × Chars := match inner with | '!' :: w => (true, trim w) | w => (false, w)
    match regOpd w with
    | some (.pred p) => some (some (p.toNat, neg), trim rest)
    | _ => none
  | _ => some (none, s)

/-- One line of source as a statement. -/
def stmtOf (line : Chars) : Except AsmErr Stmt :=
  if line.any (fun c => decide (127 < c.toNat)) then .error .lexical
  else
    let s := line.takeWhile (fun c => c != ';')
    let (labels, r) := cutLabels s.length s
    match cutGuard (trim r) with
    | none => .error .lexical
    | some (g, r) =>
      if !labels.all nameOk then .error .name
      else .ok ⟨labels, g, r.takeWhile (fun c => !isBlank c), trim (r.dropWhile (fun c => !isBlank c))⟩

end Sys2Proof.Machine
end

