-- ==== Sys2Proof/Machine/Object.lean ====
section
/-! DEFINITION. The Ramhorn object format and the loader (R88 to R98): the file's structures, the loader's checks in their
order, relocation and placement. -/

namespace Sys2Proof.Machine

/-! ## Header and section table (R88 to R90) -/

/-- The fields of a file header (R88). -/
structure RhoHead where
  sectab : Nat
  nsect  : Nat
  strsec : Nat
  symsec : Nat
  fsize  : Nat
  deriving DecidableEq, Repr

/-- An entry of the section table (R89). -/
structure RhoSect where
  name    : Nat
  kind    : Nat
  flags   : Nat
  offset  : Nat
  size    : Nat
  align   : Nat
  zero    : Nat
  link    : Nat
  entsize : Nat
  deriving DecidableEq, Repr

/-- A symbol (R91). -/
structure RhoSym where
  name  : Nat
  sect  : Nat
  skind : Nat
  bind  : Nat
  value : Nat
  size  : Nat
  aux   : Nat
  zero  : Nat
  deriving DecidableEq, Repr

/-- A relocation (R92); `sec` is the section patched, `addend` is signed. -/
structure RhoRel where
  sec    : Nat
  wher   : Nat
  index  : Nat
  type   : Nat
  flags  : Nat
  addend : Int
  deriving DecidableEq, Repr

/-- MAGIC (R88). -/
def rhoMagic : List Byte := [0x7F, 0x52, 0x48, 0x4F]

/-- The header of a file. -/
def rhoHead (f : List Byte) : RhoHead := ⟨bfld f 0x08 8, bfld f 0x10 2, bfld f 0x12 2, bfld f 0x14 2, bfld f 0x18 8⟩

/-- The section-table entry whose 32 bytes are given. -/
def parseSect (e : List Byte) : RhoSect :=
  ⟨bfld e 0 4, bfld e 4 2, bfld e 6 2, bfld e 8 8, bfld e 0x10 8, bfld e 0x18 1, bfld e 0x19 1, bfld e 0x1A 2, bfld e 0x1C 4⟩

/-- `n` entries of `k` bytes each, from the start of a byte string. -/
def rhoEntries (k : Nat) : Nat → List Byte → List (List Byte)
  | 0, _ => []
  | n + 1, bs => bs.take k :: rhoEntries k n (bs.drop k)

/-- The section table. -/
def rhoSects (f : List Byte) : List RhoSect :=
  (rhoEntries 32 (rhoHead f).nsect (f.drop (rhoHead f).sectab)).map parseSect

/-- The contents of a section, zeros for KIND 4 (R89, R98). -/
def sectBytes (f : List Byte) (x : RhoSect) : List Byte :=
  if x.kind = 4 then List.replicate x.size 0 else (f.drop x.offset).take x.size

/-- FLAGS, ENTSIZE, the lowest ALIGN and the kind that LINK names, for each KIND (R90). -/
def kindRow (kind : Nat) : Option (Nat × Nat × Nat × Option Nat) :=
  match kind with
  | 1 => some (0b101, 64, 6, none)
  | 2 => some (0b011, 0, 0, none)
  | 3 => some (0b001, 0, 0, none)
  | 4 => some (0b011, 0, 0, none)
  | 5 => some (0, 0, 0, none)
  | 6 => some (0, 32, 3, some 5)
  | 7 => some (0, 24, 3, some 0)
  | 8 => some (0b001, 48, 6, some 1)
  | 9 => some (0b001, 256, 8, some 1)
  | 10 => some (0b001, 128, 7, some 9)
  | 11 => some (0, 24, 3, some 1)
  | 12 => some (0, 16, 3, some 1)
  | _ => none

/-- Whether LINK is what a kind asks for: zero where it is unused, any section for a relocation section, else a section of
the kind named. -/
def linkOk (ss : List RhoSect) (x : RhoSect) : Option Nat → Bool
  | none => x.link == 0
  | some k => match nth? ss x.link with | some y => k == 0 || y.kind == k | none => false

/-- Whether an entry keeps R89 and R90. -/
def sectOk (ss : List RhoSect) (x : RhoSect) : Bool :=
  match kindRow x.kind with
  | some (fl, es, al, lk) =>
    x.flags == fl && x.entsize == es && decide (al ≤ x.align) && decide (x.align ≤ 30) && x.zero == 0 &&
    (es == 0 || x.size % es == 0) && (if x.kind = 4 then x.offset == 0 else x.offset % 8 == 0) && linkOk ss x lk
  | none => false

/-- Whether the contents of two sections overlap in the file. -/
def sectsMeet (x y : RhoSect) : Bool :=
  x.kind != 4 && y.kind != 4 && decide (x.offset < y.offset + y.size) && decide (y.offset < x.offset + x.size) &&
  x.size != 0 && y.size != 0

/-- Whether a relation holds for no two entries of a list. -/
def noTwo {α : Type} (r : α → α → Bool) : List α → Bool
  | [] => true
  | x :: xs => xs.all (fun y => !r x y) && noTwo r xs

/-! ## The checks of R97 -/

/-- Check 0x01: MAGIC, VERSION, FSIZE and the header's zero fields. -/
def chkHead (f : List Byte) : Bool :=
  decide (64 ≤ f.length) && f.take 4 == rhoMagic && bfld f 4 2 == 0x0100 && (rhoHead f).fsize == f.length && bfld f 6 2 == 0 &&
  bfld f 0x16 2 == 0

/-- The file with its DIGEST taken as zero (R88). -/
def undigested (f : List Byte) : List Byte := f.take 0x20 ++ List.replicate 32 0 ++ f.drop 0x40

/-- Check 0x02, with the digest function given. -/
def chkDigest (dig : List Byte → BitVec 256) (f : List Byte) : Bool := bfld f 0x20 32 == (dig (undigested f)).toNat

/-- Check 0x03: header, table and sections lie and relate as R88 to R90 say. -/
def chkSects (f : List Byte) : Bool :=
  let h := rhoHead f
  let ss := rhoSects f
  let kindAt := fun (i : Nat) => (nth? ss i).map (·.kind)
  h.sectab % 8 == 0 && decide (64 ≤ h.sectab) && decide (1 ≤ h.nsect) && decide (h.nsect ≤ 65534) &&
  decide (h.sectab + 32 * h.nsect ≤ f.length) && kindAt h.strsec == some 5 && kindAt h.symsec == some 6 &&
  ss.all (fun x => sectOk ss x && (x.kind == 4 || decide (x.offset + x.size ≤ f.length))) && noTwo sectsMeet ss

/-- Whether an offset points inside a string section at a NUL-terminated string. -/
def strOk (strs : List Byte) (off : Nat) : Bool := decide (off < strs.length) && (strs.drop off).contains 0

/-- The string at an offset, without its NUL. -/
def strAt (strs : List Byte) (off : Nat) : List Byte := (strs.drop off).takeWhile (fun b => b != 0)

/-- The bytes of the section with an index. -/
def sectAt (f : List Byte) (ss : List RhoSect) (i : Nat) : List Byte :=
  match nth? ss i with | some x => sectBytes f x | none => []

/-- All entries of the sections of a kind, each with its section and its place among that section's entries. -/
def kindEntries (f : List Byte) (ss : List RhoSect) (kind : Nat) : List (Nat × Nat × List Byte) :=
  (ss.zipIdx.map (fun (p : RhoSect × Nat) =>
    if p.1.kind = kind then
      (rhoEntries p.1.entsize (p.1.size / p.1.entsize) (sectBytes f p.1)).zipIdx.map (fun (q : List Byte × Nat) => (p.2, q.2, q.1))
    else [])).flatten

/-- Check 0x04: every string offset (R89, R91, R96), and the empty name at offset 0 (R90). -/
def chkStrings (f : List Byte) : Bool :=
  let h := rhoHead f
  let ss := rhoSects f
  let strs := sectAt f ss h.strsec
  let linked := fun (i : Nat) => sectAt f ss ((nth? ss i).elim 0 (·.link))
  ss.all (fun x => strOk strs x.name && (x.kind != 5 || (sectBytes f x).head? == some 0)) &&
  (kindEntries f ss 6).all (fun e => strOk (linked e.1) (bfld e.2.2 0 4)) &&
  (kindEntries f ss 12).all (fun e => strOk strs (bfld e.2.2 8 4))

/-- A symbol from its 32 bytes (R91). -/
def parseSym (e : List Byte) : RhoSym :=
  ⟨bfld e 0 4, bfld e 4 2, bfld e 6 1, bfld e 7 1, bfld e 8 8, bfld e 0x10 8, bfld e 0x18 4, bfld e 0x1C 4⟩

/-- The symbols of the symbol section that the header names. -/
def rhoSyms (f : List Byte) : List RhoSym :=
  let h := rhoHead f
  ((kindEntries f (rhoSects f) 6).filter (fun e => e.1 == h.symsec)).map (fun e => parseSym e.2.2)

/-- The name of a symbol. -/
def symName (f : List Byte) (y : RhoSym) : List Byte :=
  let ss := rhoSects f
  strAt (sectAt f ss ((nth? ss (rhoHead f).symsec).elim 0 (·.link))) y.name

/-- The index of the first section of a kind. -/
def firstKind (ss : List RhoSect) (kind : Nat) : Option Nat := ss.findIdx? (fun x => x.kind == kind)

/-- How many launch templates the first KIND 9 section holds. -/
def templateCount (ss : List RhoSect) : Nat := ((firstKind ss 9).bind (nth? ss)).elim 0 (fun x => x.size / 256)

/-- Whether a symbol keeps R91. A kernel's code, whole lines from its entry on, lies in its section. -/
def symOk (ss : List RhoSect) (y : RhoSym) : Bool :=
  let extern := y.sect == 0xFFFF
  let ia := BitVec.ofNat 64 y.value
  y.name != 0 && decide (1 ≤ y.skind) && decide (y.skind ≤ 4) && decide (y.bind ≤ 2) && y.zero == 0 && extern == (y.bind == 2) &&
  (if extern then y.value == 0 else decide (y.sect < ss.length)) &&
  (match y.skind with
   | 1 =>
     iaOk ia && iaSlot ia == 0 && (y.aux == 0xFFFFFFFF || extern || decide (y.aux < templateCount ss)) &&
     (extern || (nth? ss y.sect).any (fun x => x.kind == 1 && y.size != 0 && y.size % 64 == 0 && decide (y.value + y.size ≤ x.size)))
   | 2 => iaOk ia && y.size == 0 && y.aux == 0 && (extern || (nth? ss y.sect).any (fun x => x.kind == 1))
   | 3 => y.aux == 0
   | _ => y.size == 0 && y.aux == 0)

/-- A global symbol that is loaded: its name and its S (R92). -/
abbrev Loaded := List (List Byte × Nat)

/-- The value of a loaded name. -/
def loadedAt (env : Loaded) (name : List Byte) : Option Nat := (env.find? (fun p => p.1 == name)).map (·.2)

/-- Every symbol of every symbol section, with its name. -/
def allSyms (f : List Byte) : List (RhoSym × List Byte) :=
  let ss := rhoSects f
  (kindEntries f ss 6).map (fun e =>
    let y := parseSym e.2.2
    (y, strAt (sectAt f ss ((nth? ss e.1).elim 0 (·.link))) y.name))

/-- Check 0x05: symbols, names of global symbols, extern symbols. -/
def chkSyms (env : Loaded) (f : List Byte) : Bool :=
  let ys := allSyms f
  let globals := (ys.filter (fun y => y.1.bind == 1)).map (·.2)
  ys.all (fun y => symOk (rhoSects f) y.1) && noTwo (fun a b => a == b) (globals ++ env.map (·.1)) &&
  ys.all (fun y => y.1.bind != 2 || (loadedAt env y.2).isSome)

/-- The lines of a code section. -/
def linesOf (bs : List Byte) : List (BitVec 512) := (rhoEntries 64 (bs.length / 64) bs).map (fun e => BitVec.ofNat 512 (leNat e))

/-- The line of a section that holds an IA relative to it. -/
def relLine (f : List Byte) (ss : List RhoSect) (sec : Nat) (ia : Nat) : BitVec 512 :=
  BitVec.ofNat 512 (leNat (((sectAt f ss sec).drop (ia / 64 * 64)).take 64))

/-- Check 0x06: the fill check of every line, and TGT of every kernel's entry (R47, R48, R50). -/
def chkCode (f : List Byte) : Bool :=
  let ss := rhoSects f
  ss.all (fun x => x.kind != 1 || (linesOf (sectBytes f x)).all (fun l => parityOk l && lineOk l)) &&
  (allSyms f).all (fun y => y.1.skind != 1 || y.1.bind == 2 || tgtOf (relLine f ss y.1.sect y.1.value) 0)

/-! ## Relocations (R92, R93) -/

/-- The formats of R57 to R61. -/
inductive Fmt where
  | r | i | b | m | x
  deriving DecidableEq, Repr

/-- The format of an opcode (R67); an unassigned opcode has none. -/
def fmtOf (op : BitVec 8) : Option Fmt :=
  let n := op.toNat
  if !Decode.assigned op then none
  else if 0x01 ≤ n ∧ n ≤ 0x0F then some .b
  else if [0x11, 0x12, 0x13, 0x21, 0x22, 0x41, 0xE0, 0xE7].contains n then some .i
  else if 0x80 ≤ n ∧ n ≤ 0x94 then some .m
  else if [0xB1, 0xB2, 0xB3, 0xB6, 0xB7, 0xB8, 0xB9, 0xBA, 0xBB].contains n then some .x
  else some .r

/-- A relocation from its 24 bytes, in a section with index i of the table (R92). -/
def parseRel (ss : List RhoSect) (i : Nat) (e : List Byte) : RhoRel :=
  ⟨(nth? ss i).elim 0 (·.link), bfld e 0 8, bfld e 8 4, bfld e 0xC 2, bfld e 0xE 2, (BitVec.ofNat 64 (bfld e 0x10 8)).toInt⟩

/-- The relocations in file order. -/
def rhoRels (f : List Byte) : List RhoRel := (kindEntries f (rhoSects f) 7).map (fun e => parseRel (rhoSects f) e.1 e.2.2)

/-- Whether a type patches a slot (R93). -/
def slotType (t : Nat) : Bool := decide (4 ≤ t) && decide (t ≤ 9)

/-- The bits that a type writes, lowest and count, from WHERE on (R93). -/
def relBits (t : Nat) : Nat × Nat :=
  match t with
  | 1 | 3 => (0, 64) | 2 => (0, 32) | 4 => (25, 24) | 5 => (1, 24) | 6 | 9 => (0, 27) | 7 | 8 => (0, 49) | 10 => (80, 48)
  | _ => (0, 0)

/-- The bytes that a type's field takes, as far as it must lie in its section. -/
def relSpan (t : Nat) : Nat := if t = 2 then 4 else if slotType t then 12 else if t = 10 then 16 else 8

/-- Whether a format holds a type's field (R93). -/
def fmtHolds (t : Nat) (fm : Fmt) : Bool :=
  match t with
  | 4 | 5 => fm == .b
  | 6 => fm == .r
  | 7 | 8 => fm == .i
  | 9 => fm == .r || fm == .m
  | _ => true

/-- The value of some bits at a byte offset. -/
def bitsAt (bs : List Byte) (wher : Nat) (lo n : Nat) : Nat := leNat ((bs.drop wher).take 16) / 2 ^ lo % 2 ^ n

/-- Whether a symbol has a placed S: it is absolute, extern, or of a section that is placed (R92). -/
def symPlaced (ss : List RhoSect) (y : RhoSym) : Bool :=
  y.bind == 2 || y.skind == 4 || (nth? ss y.sect).any (fun x => bitOf x.flags 0)

/-- Whether a relocation keeps R92 and R93, its value apart. The section patched and the one that S is taken from are
placed. -/
def relOk (f : List Byte) (ss : List RhoSect) (syms : List RhoSym) (r : RhoRel) : Bool :=
  let (lo, n) := relBits r.type
  (match nth? ss r.sec with
   | some x =>
     let bs := sectBytes f x
     bitOf x.flags 0 && decide (r.wher + relSpan r.type ≤ x.size) && bitsAt bs r.wher lo n == 0 &&
     (!slotType r.type ||
      (x.kind == 1 && r.wher % 64 % 12 == 0 && decide (r.wher % 64 < 60) &&
       (fmtOf (BitVec.ofNat 8 (bitsAt bs r.wher 88 8))).any (fmtHolds r.type)))
   | none => false) &&
  decide (1 ≤ r.type) && decide (r.type ≤ 10) && decide (r.flags ≤ 1) &&
  (if r.flags = 1 then (nth? ss r.index).any (fun x => bitOf x.flags 0) else (nth? syms r.index).any (symPlaced ss))

/-- Whether two relocations write overlapping bits. -/
def relsMeet (a b : RhoRel) : Bool :=
  let span := fun (r : RhoRel) => (8 * r.wher + (relBits r.type).1, 8 * r.wher + (relBits r.type).1 + (relBits r.type).2)
  a.sec == b.sec && decide ((span a).1 < (span b).2) && decide ((span b).1 < (span a).2)

/-- Check 0x07. -/
def chkRels (f : List Byte) : Bool :=
  (rhoRels f).all (relOk f (rhoSects f) (rhoSyms f)) && noTwo relsMeet (rhoRels f)

/-- Whether a list holds its keys in runs, one run a key, each counting from 0. `last` is the run in hand, `seen` the keys of
earlier runs. -/
def runsFrom0 : Option (Nat × Nat) → List Nat → List (Nat × Nat) → Bool
  | _, _, [] => true
  | last, seen, (k, i) :: r =>
    match last with
    | some (k', j) =>
      if k = k' then i == j + 1 && runsFrom0 (some (k, i)) seen r
      else i == 0 && !(k' :: seen).contains k && runsFrom0 (some (k, i)) (k' :: seen) r
    | none => i == 0 && runsFrom0 (some (k, i)) seen r

/-- Check 0x08: the live-mask entries of each kernel (R94). -/
def chkLive (f : List Byte) : Bool :=
  let es := kindEntries f (rhoSects f) 8
  runsFrom0 none [] (es.map (fun e => (bfld e.2.2 0 4, bfld e.2.2 4 2)))

/-- Whether the slot of a relative IA holds an opcode with an index in its immediate. -/
def holdsIdem (f : List Byte) (ss : List RhoSect) (sec : Nat) (op index ia : Nat) : Bool :=
  let w := slotOf (relLine f ss sec ia) (ia % 8)
  iaOk (BitVec.ofNat 64 ia) && decide (ia / 64 * 64 < (sectAt f ss sec).length) && (Decode.wOp w).toNat == op &&
  (Decode.wImm49 w).toNat == index

/-- Check 0x09: each idempotent region entry (R96). -/
def chkIdem (f : List Byte) : Bool :=
  let ss := rhoSects f
  (kindEntries f ss 11).all (fun e =>
    let sec := (nth? ss e.1).elim 0 (·.link)
    let index := bfld e.2.2 4 2
    holdsIdem f ss sec 0x12 index (bfld e.2.2 8 8) && holdsIdem f ss sec 0x13 index (bfld e.2.2 0x10 8))

/-- The first of the checks 0x01 to 0x09 that fails (R97). -/
def fileCode (dig : List Byte → BitVec 256) (env : Loaded) (f : List Byte) : Option Nat :=
  if !chkHead f then some 0x01
  else if !chkDigest dig f then some 0x02
  else if !chkSects f then some 0x03
  else if !chkStrings f then some 0x04
  else if !chkSyms env f then some 0x05
  else if !chkCode f then some 0x06
  else if !chkRels f then some 0x07
  else if !chkLive f then some 0x08
  else if !chkIdem f then some 0x09
  else none

/-! ## Placing and patching (R98) -/

/-- S of a symbol, or none where the symbol has no place: for a code symbol its IA, for data its address, for an absolute
symbol its value, for an extern symbol what is loaded (R91, R92). `bases` are the places of the sections. -/
def symS (env : Loaded) (f : List Byte) (bases : List Nat) (y : RhoSym) : Option Nat :=
  if y.bind = 2 then loadedAt env (symName f y)
  else if y.skind = 4 then some y.value
  else (nth? bases y.sect).map (fun b => b + y.value)

/-- S of a relocation. -/
def relS (env : Loaded) (f : List Byte) (bases : List Nat) (r : RhoRel) : Option Nat :=
  if r.flags = 1 then nth? bases r.index else (nth? (rhoSyms f) r.index).bind (symS env f bases)

/-- The IA that lies some slots away from another, as a number (R52). -/
def slotsAway (s : Nat) (a : Int) : Int :=
  let n : Int := (iaLin (BitVec.ofNat 64 s) : Int) + a
  n.fdiv 5 * 64 + n.fmod 5

/-- The IA of the slot at a byte offset of a placed section. -/
def slotIa (base wher : Nat) : Nat := base + wher / 64 * 64 + wher % 64 / 12

/-- The value that a relocation writes into its field, or none where it lies outside its limit (R93). S counts with the sign that an
address has by R226, and an absolute symbol by `.set`; `p` is the IA of the patched slot. -/
def relValue (r : RhoRel) (s p : Nat) : Option Nat :=
  let v : Int := (BitVec.ofNat 64 s).toInt + r.addend
  let within := fun (x : Int) (n : Nat) => decide (-(2 ^ (n - 1) : Int) ≤ x) && decide (x < (2 ^ (n - 1) : Int))
  let field := fun (x : Int) (n : Nat) => if within x n then some (BitVec.ofInt n x).toNat else none
  match r.type with
  | 1 => some (BitVec.ofInt 64 v).toNat
  | 2 => if 0 ≤ v ∧ v < 2 ^ 32 then some v.toNat else none
  | 3 =>
    let ia := BitVec.ofInt 64 (slotsAway s r.addend)
    if iaOk (BitVec.ofNat 64 s) ∧ iaOk ia then some ia.toNat else none
  | 4 | 5 =>
    if iaOk (BitVec.ofNat 64 s) then
      field ((iaLin (BitVec.ofNat 64 s) : Int) + r.addend - iaLin (BitVec.ofNat 64 p)) 24
    else none
  | 6 | 9 => field v 27
  | 7 => field v 49
  | 8 => field (v.fdiv (2 ^ 32)) 49
  | _ => if 0 ≤ v ∧ v < 2 ^ 57 ∧ v % 512 = 0 then some (v / 512).toNat else none

/-- Write bits of a little-endian field of n bytes at a byte offset. -/
def patchBits (bs : List Byte) (wher n lo w v : Nat) : List Byte :=
  let old := leNat ((bs.drop wher).take n)
  bs.take wher ++ leBytes n (old - old / 2 ^ lo % 2 ^ w * 2 ^ lo + v * 2 ^ lo) ++ bs.drop (wher + n)

/-- The line word with SPAR and LPAR set for its line, whatever they were (R47, R98). -/
def fixParity (l : BitVec 512) : BitVec 512 :=
  let w := (lineWord l).toNat
  let spar := sumL ((List.range 5).map (fun i => ones 96 (slotOf l i).toNat % 2 * 2 ^ (27 + i)))
  let w := w % 2 ^ 27 / 2 * 2 + spar
  BitVec.ofNat 32 (w + ones 32 w % 2) ++ l.extractLsb' 0 480

/-- Recompute the parity of the line around a byte offset. -/
def fixLineAt (bs : List Byte) (wher : Nat) : List Byte :=
  let o := wher / 64 * 64
  bs.take o ++ leBytes 64 (fixParity (BitVec.ofNat 512 (leNat ((bs.drop o).take 64)))).toNat ++ bs.drop (o + 64)

/-- Apply one relocation to the images of the sections (R98 step 2). -/
def applyRel (env : Loaded) (f : List Byte) (bases : List Nat) (imgs : List (List Byte)) (r : RhoRel) : Option (List (List Byte)) :=
  match relS env f bases r, nth? bases r.sec, nth? imgs r.sec with
  | some s, some base, some bs =>
    (relValue r s (slotIa base r.wher)).map (fun v =>
      setNth imgs r.sec (patchBits bs r.wher (relSpan r.type) (relBits r.type).1 (relBits r.type).2 v))
  | _, _, _ => none

/-- Apply relocations in file order. -/
def applyRels (env : Loaded) (f : List Byte) (bases : List Nat) : List (List Byte) → List RhoRel → Option (List (List Byte))
  | imgs, [] => some imgs
  | imgs, r :: rs => (applyRel env f bases imgs r).bind (fun imgs => applyRels env f bases imgs rs)

/-- Recompute the parity of every line that a slot relocation has patched, once all are applied (R98 step 3). -/
def fixLines (imgs : List (List Byte)) (rs : List RhoRel) : List (List Byte) :=
  (rs.filter (fun r => slotType r.type)).foldl (fun imgs r =>
    setNth imgs r.sec (fixLineAt ((nth? imgs r.sec).getD []) r.wher)) imgs

/-- A placed section: its address, whether it is mapped with write permission, and its bytes (R98 step 1). -/
structure Placed where
  va    : Nat
  write : Bool
  bytes : List Byte
  deriving DecidableEq, Repr

/-- Whether a launch template meets conditions 1 to 5 of R18. -/
def templateOk (bs : List Byte) : Bool :=
  let r := parseLRec bs
  cond1 r && cond2 r && cond3 r && cond4 bs r && cond5 r

/-- Check 0x0A over the patched images. -/
def chkTemplates (ss : List RhoSect) (imgs : List (List Byte)) : Bool :=
  (ss.zip imgs).all (fun p => p.1.kind != 9 || (rhoEntries 256 (p.2.length / 256) p.2).all templateOk)

/-- Whether places suit the sections that are placed: each at an address of R226's form, a multiple of 2^ALIGN, its last byte too, and
no two on each other (R98 step 1). -/
def basesOk (ss : List RhoSect) (bases : List Nat) : Bool :=
  let ps := (ss.zip bases).filter (fun p => bitOf p.1.flags 0)
  let formed := fun (a : Nat) => decide (a < 2 ^ 64) && vaOk (BitVec.ofNat 64 a)
  bases.length == ss.length &&
  ps.all (fun p => p.2 % 2 ^ p.1.align == 0 && formed p.2 && formed (p.2 + (p.1.size - 1))) &&
  noTwo (fun (a b : RhoSect × Nat) => a.1.size != 0 && b.1.size != 0 && decide (a.2 < b.2 + b.1.size) && decide (b.2 < a.2 + a.1.size)) ps

/-- Load a file: the reason code of R97, or the placed sections and the global symbols it adds. `bases` is the loader's choice of a
place for each section; no answer where it is none that R98 allows. -/
def loadWith (dig : List Byte → BitVec 256) (env : Loaded) (bases : List Nat) (f : List Byte) :
    Option (Except Nat (List Placed × Loaded)) :=
  match fileCode dig env f with
  | some c => some (.error c)
  | none =>
    let ss := rhoSects f
    if !basesOk ss bases then none
    else match applyRels env f bases (ss.map (sectBytes f)) (rhoRels f) with
    | none => some (.error 0x07)
    | some imgs =>
      let imgs := fixLines imgs (rhoRels f)
      if !chkTemplates ss imgs then some (.error 0x0A)
      else
        some (.ok (((ss.zip imgs).zip bases).filterMap (fun p =>
              if bitOf p.1.1.flags 0 then some ⟨p.2, bitOf p.1.1.flags 1, p.1.2⟩ else none),
          (rhoSyms f).filterMap (fun y => if y.bind = 1 then (symS env f bases y).map (fun s => (symName f y, s)) else none)))

/-- The page that a placed byte lies on, mapped as step 1 of R98 asks: to memory, and with write permission where the section has it
and only there. -/
def byteMap (s : State) (top : Nat) (p : Placed) (k : Nat) : Option Nat :=
  match (translate s .fab 0 top (p.va + k) .read true).1, (translate s .fab 0 top (p.va + k) .write true).1 with
  | .ok pa, w => if isMem s.floor pa && (match w with | .ok _ => p.write | .error _ => !p.write) then some pa else none
  | .error _, _ => none

/-- Put placed bytes into the home slices, where every agent at device scope reads them (R98 step 4). -/
def storePlaced (s : State) (top : Nat) : List Placed → Option State
  | [] => some s
  | p :: ps =>
    (((List.range p.bytes.length).zip p.bytes).foldl (fun (o : Option State) q => o.bind (fun t =>
      (byteMap s top p q.1).map (fun pa => homeWrite t pa [q.2] false))) (some s)).bind (fun t => storePlaced t top ps)

/-- Load a file into an address space with SHAKE256 as the digest (R88, R98). The loader's choices are the place of each section and
the page-table entries that map it, as physical addresses and values; no answer where they are none that R98 allows. -/
def loadFile (s : State) (top : Nat) (maps : List (Nat × W64)) (env : Loaded) (bases : List Nat) (f : List Byte) :
    Option (Except Nat (State × Loaded)) :=
  (loadWith shake256 env bases f).bind (fun x => match x with
    | .error c => some (.error c)
    | .ok (ps, names) =>
      let s := maps.foldl (fun s m => homeWrite s m.1 (leBytes 8 m.2.toNat) false) s
      (storePlaced s top ps).map (fun t => .ok (t, names)))

end Sys2Proof.Machine
end

