-- ==== Sys2Proof/Machine/AsmInsn.lean ====
section
/-! DEFINITION. The assembly of one slot: mnemonics (R73), operands (R74 to R77), immediates (R64, R75) and raw slots (R86). -/

namespace Sys2Proof.Machine

/-! ## Mnemonics (R67, R73) -/

/-- The mnemonics of R67 by the group of their opcodes. -/
def opNames : List (List String) :=
  [["NOP", "BR", "BRA", "BRL", "JMPI", "CALL", "CALLI", "RET", "LOOP", "ENDL", "BRK", "CONT", "RJOIN", "EXIT", "YIELD", "UNIF"],
   ["LEVSYNC", "SAFEPT", "IDEM", "IDEMX", "VGROW", "VGIVE"],
   ["SMOV", "SLDI", "SLDIH", "SID", "SADD", "SSUB", "SMUL", "SMULH", "SDIV", "SREM", "SAND", "SOR", "SXOR", "SSHL", "SSHR", "SSRA"],
   ["PAND", "POR", "PXOR", "PNOT", "PMOV", "PSET", "VOTE", "SCMP", "SSEL", "SMIN", "SMAX", "SCLZ"],
   ["VMOV", "VLDI", "VADD", "VSUB", "VMUL", "VMULH", "VMAD", "VABS", "VMIN", "VMAX", "VCMP", "VSEL", "VRED", "VSCAN"],
   ["VAND", "VOR", "VXOR", "VNOT", "VSHL", "VSHR", "VSRA", "VCLZ", "VPOP", "VBREV", "VBCAST", "VSHFL"],
   ["FADD", "FSUB", "FMUL", "FFMA", "FMIN", "FMAX", "FABS", "FNEG", "FCMP", "FCLASS", "FDIV", "FSQRT", "FRCP", "FRSQ", "FEXP2", "FLOG2"],
   ["FCVT", "ICVT", "FRND", "FSCL"],
   ["LD", "ST", "LDK", "LDS", "STS", "SLD", "SST", "PREF"],
   ["ATOM", "ATOMS", "SATOM", "RED", "FENCE"],
   ["CPY", "CPYP", "CPYM", "CPYS", "CPYR", "ARVI", "ARV", "ARWT", "ARTST"],
   ["OMAP", "PLST", "MMA", "MMALOOP", "MFENCE", "MWAIT", "ACLR", "ASCL", "AMOVV", "ASTS", "ALDS", "ACVT"],
   ["BAR", "BARA", "BARW", "TSPAWN", "TSELF", "FWRITE", "FWAIT", "FTEST", "LOCK", "TRYLOCK", "UNLOCK", "CNTWT"],
   ["PIN", "UNPIN", "PINX", "RECLAIM", "RCDRAIN", "MSEND", "RWAIT", "RACK", "RDESC"],
   ["TRAP", "RFT", "CTLRD", "CTLWR", "CYCLE", "SLEEPC", "EVRD", "BKPT", "HALT", "TLBINV", "CLONE"]]

/-- The opcode of a mnemonic in upper case. -/
def opNamed (w : Chars) : Option Nat :=
  (opNames.zipIdx.filterMap (fun (p : List String × Nat) =>
    (p.1.findIdx? (fun n => chars n == w)).map (fun i => 16 * p.2 + i))).head?

/-- Spellings numbered from 0. -/
def numbered (l : List String) : List (String × Nat) := l.zipIdx

/-- The spellings of TY (R56). -/
def tySpell : List String :=
  ["", "S8", "U8", "S16", "U16", "S32", "U32", "S64", "U64", "F32", "F64", "T6", "T8", "T16", "SC16"]

/-- The spellings of AOP (R60). -/
def aopSpell : List String := ["ADD", "MIN", "MAX", "AND", "OR", "XOR", "XCHG", "CAS", "INCW", "DECW", "FADD"]

/-- The spellings of ORD (R60). -/
def ordSpell : List String := ["WEAK", "ACQ", "REL", "AR"]

/-- The spellings of SCOPE (R60). -/
def scopeSpell : List String := ["LANE", "GRP", "BAND", "CLU", "DIE", "DEV", "SYS", "LVL"]

/-- The spellings of SUB for an opcode outside F-M; an opcode with none has SUB 0 alone, and an empty spelling is a SUB that is
written as nothing. -/
def subSpell (op : Nat) : List (String × Nat) :=
  let six := ["ADD", "MIN", "MAX", "AND", "OR", "XOR"]
  let tys := numbered tySpell |>.filter (fun p => p.2 != 0)
  if [0x01, 0x02, 0x03, 0x0A, 0x0B].contains op then numbered ["NZ", "Z"]
  else if op = 0x12 then numbered ["GRP", "BAND", "CORE"]
  else if op = 0x23 then numbered ["LIN", "X", "Y", "Z"]
  else if op = 0x36 then numbered ["QUO", "SAME", "CNT", "RANK", "MAP", "LEAD"]
  else if op = 0x37 || op = 0x4A then numbered ["EQ", "NE", "LT", "LE", "GT", "GE"]
  else if op = 0x68 then numbered ["EQ", "NE", "LT", "LE", "GT", "GE", "UN", "OD"]
  else if [0x42, 0x43, 0x46, 0x47].contains op then numbered ["", "SAT"]
  else if op = 0x4C || op = 0xA4 then numbered six
  else if op = 0x4D then numbered six ++ (numbered six).map (fun p => (p.1 ++ "X", p.2 + 8))
  else if op = 0x5B then numbered ["PICK", "ROT", "MIRROR", "DEAL", "UNDEAL"]
  else if op = 0x70 then tys
  else if op = 0x71 then tys ++ tys.map (fun p => (p.1 ++ "W", p.2 + 16))
  else if op = 0xA0 then numbered ["G2S", "S2G"]
  else if op = 0xA2 then numbered ["S", "P"]
  else if op = 0xA8 then numbered ["DONE", "POIS"]
  else if op = 0xB0 then numbered ["A", "B", "AL", "BL", "AN", "BN", "ALN", "BLN"]
  else if op = 0xB1 then numbered ["A", "B"]
  else if op = 0xB7 then numbered ["", "D", "I"]
  else if op = 0xBB then
    [("VF", 0), ("SF", 1), ("VD", 2), ("SD", 3), ("VI", 4), ("SI", 5), ("VFW", 8), ("SFW", 9), ("VDW", 10), ("SDW", 11),
     ("VIW", 12), ("SIW", 13)]
  else if op = 0xC7 then numbered ["FULL", "ORPH"]
  else if op = 0xE4 then numbered ["LOC", "NET"]
  else if op = 0xE9 then numbered ["PAGE", "SPACE", "ALL"]
  else if op = 0xEA then numbered ["OFF", "CNT", "STRICT"]
  else []

/-- The code of a spelling. -/
def spelled (l : List (String × Nat)) (w : Chars) : Option Nat := (l.find? (fun p => p.1 != "" && chars p.1 == w)).map (·.2)

/-- A mnemonic taken apart. -/
structure Mnem where
  op  : Nat
  sub : Nat
  lev : Nat
  ty  : Nat
  aop : Nat
  deriving DecidableEq, Repr

/-- Whether an opcode has format F-M. -/
def isM (op : Nat) : Bool := decide (0x80 ≤ op) && decide (op ≤ 0x94)

/-- The SUB part of a mnemonic, with the parts after it. -/
def subPart (op : Nat) (ps : List Chars) : Option (Nat × List Chars) :=
  if isM op then
    match ps with
    | o :: c :: r => (spelled (numbered ordSpell) o).bind (fun o => (spelled (numbered scopeSpell) c).map (fun c => (8 * o + c, r)))
    | _ => none
  else
    let l := subSpell op
    match ps with
    | p :: r =>
      match spelled l p with
      | some v => some (v, r)
      | none => if l.isEmpty || l.any (fun p => p.1 == "") then some (0, ps) else none
    | [] => if l.isEmpty || l.any (fun p => p.1 == "") then some (0, []) else none

/-- The `.Lk` part. -/
def levPart (ps : List Chars) : Nat × List Chars :=
  match ps with
  | ['L', d] :: r => if isDig d && d != '0' && d != '8' && d != '9' then (d.toNat - 48, r) else (0, ps)
  | _ => (0, ps)

/-- The TY part. -/
def tyPart (ps : List Chars) : Nat × List Chars :=
  match ps with
  | p :: r => match spelled (numbered tySpell) p with | some t => (t, r) | none => (0, ps)
  | [] => (0, [])

/-- A mnemonic (R73); the AOP spelling follows in group 0x9, FENCE apart. -/
def mnemOf (s : Chars) : Option Mnem :=
  match cutAt '.' 0 [] (upper s) with
  | n :: ps =>
    (opNamed n).bind (fun op => (subPart op ps).bind (fun (sub, ps) =>
      let (lev, ps) := levPart ps
      let (ty, ps) := tyPart ps
      if 0x90 ≤ op ∧ op ≤ 0x93 then
        match ps with
        | [p] => (spelled (numbered aopSpell) p).map (fun a => ⟨op, sub, lev, ty, a⟩)
        | _ => none
      else if ps.isEmpty then some ⟨op, sub, lev, ty, 0⟩ else none))
  | [] => none

/-! ## What operands a mnemonic takes, in the order written (R74, and the encoding tables) -/

/-- One operand of the assembly form. -/
inductive Part where
  /-- register or immediate fields -/
  | d | a | b | c
  /-- A where it may be left out, which encodes none -/
  | aOpt
  /-- the bracketed address, with an index or without -/
  | mem (index : Bool)
  /-- offsets of F-B -/
  | tgt | rcv
  /-- the third operand of BR, which may only be `_` -/
  | hole
  /-- a control field: lowest bit, width, and the value written v is held as v / scale − less; `dflt` where it may be left out -/
  | num (lo w scale less : Nat) (dflt : Option Nat)
  /-- the quorum of VOTE, or `all` -/
  | quorum
  /-- `seg=W` of VSHFL -/
  | seg
  /-- a control register's name or number -/
  | creg
  deriving DecidableEq, Repr

/-- The operands of an opcode with a SUB. -/
def partsOf (op sub : Nat) : List Part :=
  let n := fun (lo w : Nat) => Part.num lo w 1 0 none
  if [0x00, 0x07, 0x09, 0x0C, 0x0D, 0x0E, 0x10, 0x94, 0xB4, 0xE1, 0xE8, 0xEA].contains op then []
  else if op = 0x01 then [.a, .tgt, .hole]
  else if [0x02, 0x08, 0x0A, 0x0B].contains op then [.a, .tgt]
  else if op = 0x03 then [.a, .tgt, .rcv]
  else if op = 0x05 then [.tgt]
  else if op = 0x11 then [n 0 49]
  else if op = 0x12 || op = 0x13 then [n 0 16]
  else if op = 0xE0 || op = 0xE7 then [n 0 32]
  else if [0x04, 0x06, 0x0F, 0x14, 0x15, 0xA6, 0xB5, 0xC3, 0xC8, 0xCA, 0xE5].contains op then [.a]
  else if op = 0x36 then if sub = 0 then [.d, .a, .quorum] else [.d, .a]
  else if [0x38, 0x46, 0x4B, 0x63, 0xB7].contains op then [.d, .a, .b, .c]
  else if op = 0x5B then [.d, .a, .b, .seg]
  else if op = 0x80 || op = 0x82 || op = 0x85 then [.d, .mem true]
  else if op = 0x83 then [.d, .mem false]
  else if op = 0x87 then [.mem true]
  else if op = 0x81 || op = 0x84 || op = 0x86 || op = 0x93 then [.mem false, .b]
  else if 0x90 ≤ op ∧ op ≤ 0x92 then [.d, .mem false, .b]
  else if op = 0xA2 then [.a, .b, .c]
  else if 0xA0 ≤ op ∧ op ≤ 0xA4 then [.a, .b]
  else if op = 0xA5 then [.num 13 14 16 0 none, n 0 13]
  else if op = 0xA8 then if sub = 0 then [.d, .a, .b] else [.d, .a]
  else if op = 0xB0 then [.d, .a, n 0 6, .num 6 3 1 1 (some 8), .num 9 5 1 0 (some 0)]
  else if op = 0xB1 then [.a, n 0 27]
  else if op = 0xB3 then [.d, .a, .b, .num 16 11 1 1 none, n 8 8, n 0 8]
  else if op = 0xB6 || op = 0xC4 || op = 0xD1 || op = 0xD4 || op = 0xE4 then [.d]
  else if op = 0xB8 then [.d, .a, .b, n 0 6]
  else if op = 0xB9 || op = 0xBA then [.d, n 0 27]
  else if op = 0xBB then if sub % 2 = 1 then [.a, n 0 27] else [.d, .a, .b, n 0 6]
  else if op = 0xC0 then [n 0 3]
  else if op = 0xC1 then [.d, n 0 3]
  else if op = 0xC2 then [.a, n 0 3]
  else if op = 0xC5 || op = 0xCB then [.a, .b]
  else if op = 0xD5 then [.d, .a, .b, .num 0 5 8 0 none, n 5 12]
  else if op = 0xD6 then [.d, n 0 2]
  else if op = 0xD7 then [n 0 2, .aOpt]
  else if op = 0xD8 then [.d, .a, n 0 2]
  else if op = 0xE2 then [.d, .creg]
  else if op = 0xE3 then [.creg, .a]
  else if op = 0xE6 then [.d, n 0 8]
  else if op = 0xE9 then if sub = 0 then [.a] else []
  else if [0x20, 0x21, 0x22, 0x23, 0x33, 0x34, 0x35, 0x3B, 0x40, 0x41, 0x47, 0x4C, 0x4D, 0x53, 0x57, 0x58, 0x59, 0x66, 0x67, 0x69, 0x6B,
           0x6C, 0x6D, 0x6E, 0x6F, 0x70, 0x71, 0x72, 0xC6, 0xC7, 0xC9, 0xD0, 0xD2].contains op then [.d, .a]
  else [.d, .a, .b]

/-! ## The slot in hand -/

/-- What a slot's assembly has so far: its bits, the relocations of its fields, and the own-section places that its transfer
names: `tgts` by a label, `nums` by a bare offset. -/
structure SlotAsm where
  bits : Nat
  imms : List AsmVal
  rels : List (Nat × AsmVal)
  tgts : List Int
  nums : List Int
  deriving DecidableEq, Repr

/-- Set a field. -/
def SlotAsm.put (x : SlotAsm) (lo v : Nat) : SlotAsm := { x with bits := x.bits + v * 2 ^ lo }

/-- The width of an integer immediate of a type (R75). -/
def immW (ty : Nat) : Nat :=
  match Decode.tyOf (BitVec.ofNat 4 ty) with
  | some t => if ty = 0 then 64 else 8 * tyBytes t
  | none => 64

/-- The field of n bits that holds a number modulo 2^w: the test of R75. Where several numbers of the field stand for it, the one
that is not negative is written (log 21). -/
def foldImm (w n : Nat) (v : Int) : Option Nat :=
  if -(2 ^ (w - 1) : Int) ≤ v ∧ v < (2 ^ w : Int) then
    let r := v % (2 ^ w : Int)
    let fits := fun (x : Int) => decide (-(2 ^ (n - 1) : Int) ≤ x ∧ x < (2 ^ (n - 1) : Int))
    if fits r then some (BitVec.ofInt n r).toNat
    else if fits (r - 2 ^ w) then some (BitVec.ofInt n (r - 2 ^ w)).toNat else none
  else none

/-- How many low bits of a pattern R64 supplies as zeros. -/
def dropBits (t : Ty) (n : Nat) : Nat :=
  match t with
  | .f32 => if n = 27 then 5 else 0
  | .f64 => if n = 27 then 37 else 15
  | _ => 0

/-- The immediate field of n bits for a pattern of a type; the bits that R64 supplies must be zero (R75). -/
def patImm (t : Ty) (n p : Nat) : Option Nat := if p % 2 ^ dropBits t n = 0 then some (p / 2 ^ dropBits t n) else none

/-- The immediate that a text spells in a field of n bits: an integer, or an exact pattern where the type is one of those of R75;
the count of VBCAST and VSHFL is an integer whatever TY is, and the scale of FSCL an SC16 literal or its pattern. -/
def immText (env : AsmEnv) (op ty n : Nat) (isB : Bool) (s : Chars) : Except AsmErr AsmVal :=
  let t := (Decode.tyOf (BitVec.ofNat 4 ty)).getD .none
  let count := isB && (op == 0x5A || op == 0x5B)
  let real := !count && (op == 0x73 || tyFloat t || [Ty.t6, .t8, .t16, .sc16].contains t)
  let ft := if op == 0x73 then Ty.sc16 else t
  match realOf s with
  | some x =>
    if !real then .error .immediate
    else match (exactReal ft x).bind (patImm ft n) with | some v => .ok (.num v) | none => .error .immediate
  | none =>
    (valueOf env s).bind (fun v =>
      if v.sym.isSome then (if real || op == 0x5B then .error .immediate else .ok v)
      else
        let r : Option Nat :=
          if op == 0x73 then (if 0 ≤ v.off ∧ v.off < 2 ^ 16 then some v.off.toNat else none)
          else if real then (exactReal ft (intReal v.off)).bind (patImm ft n)
          else if op == 0x22 then (if -(2 ^ 31 : Int) ≤ v.off ∧ v.off < 2 ^ 32 then some ((BitVec.ofInt 32 v.off).signExtend 49).toNat else none)
          else foldImm (if op == 0x5A && isB then 64 else immW ty) (if op == 0x5B then 24 else n) v.off
        match r with | some f => .ok (.num f) | none => .error .immediate)

/-- A source operand in a field whose lowest bit is given. Sources that are no register are immediates, in F-R and F-I
alone. -/
def putSrc (env : AsmEnv) (m : Mnem) (fm : Fmt) (lo : Nat) (s : Chars) (x : SlotAsm) : Except AsmErr SlotAsm :=
  match regSrc s with
  | some r => .ok (x.put lo (Decode.srcCode r).toNat)
  | none =>
    if fm == .r || fm == .i then
      (immText env m.op m.ty (if fm == .i then 49 else 27) (lo == 38) s).bind (fun v =>
        .ok { x.put lo 0x3FF with imms := x.imms ++ [v] })
    else .error .operand

/-- A destination operand. -/
def putDst (s : Chars) (x : SlotAsm) : Except AsmErr SlotAsm :=
  match regOpd s with
  | some o => .ok (x.put 60 (Decode.opdCode o).toNat)
  | none => .error .operand

/-- Cut the inside of a memory operand into its base, its index if one is written, and the text of its offset with its
sign (R76). -/
def cutMem (s : Chars) : Option (Chars × Option Chars × Chars) :=
  let sign := fun (c : Char) => c != '+' && c != '-'
  match s with
  | '[' :: r =>
    if r.getLast? == some ']' then
      let r := r.dropLast
      let base := trim (r.takeWhile sign)
      match r.dropWhile sign with
      | '+' :: t =>
        let w := trim (t.takeWhile sign)
        if (regSrc w).isSome then some (base, some w, trim (t.dropWhile sign)) else some (base, none, '+' :: t)
      | t => some (base, none, t)
    else none
  | _ => none

/-- The bracketed address: A, B where there is an index, and OFF27. A form without an index operand leaves B to its own operand;
LDS has the none operand there. -/
def putMem (env : AsmEnv) (m : Mnem) (index : Bool) (s : Chars) (x : SlotAsm) : Except AsmErr SlotAsm :=
  match cutMem s with
  | none => .error .operand
  | some (base, ix, off) =>
    (putSrc env m .m 49 base x).bind (fun x =>
      (match ix with
       | some w => if index then putSrc env m .m 38 w x else .error .operand
       | none => .ok (if index || m.op == 0x83 then x.put 38 0x3FE else x)).bind (fun x =>
        if trim off == [] then .ok x
        else (valueOf env off).bind (fun v =>
          if v.sym.isSome then .ok { x with rels := x.rels ++ [(9, v)] }
          else if -(2 ^ 26 : Int) ≤ v.off ∧ v.off < 2 ^ 26 then .ok (x.put 0 (BitVec.ofInt 27 v.off).toNat) else .error .offset)))

/-- The linear slot index of a place in the code section (R52). -/
def linOf (ia : Int) : Int := ia / 64 * 5 + ia % 64

/-- The place of a slot by its number in the code section. -/
def slotPlace (n : Nat) : Nat := n / 5 * 64 + n % 5

/-- An offset of F-B: `+n`, `-n`, or the name of a place in the code section or of an extern symbol (R77). `here` is the slot's
number, `lo` the field and `type` its relocation. -/
def putTgt (env : AsmEnv) (here lo type : Nat) (s : Chars) (x : SlotAsm) : Except AsmErr SlotAsm :=
  let field := fun (d : Int) (x : SlotAsm) =>
    if -(2 ^ 23 : Int) ≤ d ∧ d < 2 ^ 23 then Except.ok (x.put lo (BitVec.ofInt 24 d).toNat) else .error AsmErr.offset
  let bare := fun (d : Int) => (field d x).map (fun x => { x with nums := x.nums ++ [(here : Int) + d] })
  match toksOf s with
  | some [.op '+', .num n] => bare n
  | some [.op '-', .num n] => bare (-(n : Int))
  | some [.word w] =>
    match env w with
    | some ⟨some .code, p⟩ => (field (linOf p - here) x).map (fun x => { x with tgts := x.tgts ++ [linOf p] })
    | some ⟨some (.ext n), p⟩ => .ok { x with rels := x.rels ++ [(type, ⟨some (.ext n), p⟩)] }
    | _ => .error .operand
  | _ => .error .operand

/-- The control registers that have names (R210). -/
def cregNames : List (String × Nat) :=
  [("RESUMEIA", 0x10), ("HLEFT", 0x11), ("HENTRY", 0x12), ("CHKMODE", 0x20), ("CTXFLAGS", 0x21), ("MCSEL", 0x100),
   ("MCSTATUS", 0x101), ("MCADDR", 0x102), ("MCMISC0", 0x103), ("MCMISC1", 0x104)]

/-- A control register by name or number. -/
def cregOf (env : AsmEnv) (s : Chars) : Except AsmErr Nat :=
  match spelled cregNames s with
  | some n => .ok n
  | none =>
    match s with
    | 'F' :: 'R' :: 'E' :: 'C' :: r => match regBelow 16 r with | some k => .ok k | none => numIn env 0 0xFFF s
    | _ => numIn env 0 0xFFF s

/-- The segment of VSHFL as the exponent of W (R152). -/
def segOf (s : Chars) : Option Nat :=
  match cutAt '=' 0 [] s with
  | [k, w] => if trim k == chars "seg" then (["1", "2", "4", "8", "16", "32"].findIdx? (fun n => chars n == trim w)) else none
  | _ => none

/-- Take one operand; `ops` are those still to come. -/
def putPart (env : AsmEnv) (m : Mnem) (fm : Fmt) (here : Nat) (p : Part) (ops : List Chars) (x : SlotAsm) :
    Except AsmErr (List Chars × SlotAsm) :=
  match p, ops with
  | .hole, [] => .ok ([], x)
  | .aOpt, [] => .ok ([], x.put 49 0x3FE)
  | .seg, [] => .ok ([], x.put 24 5)
  | .num lo _ _ less (some d), [] => .ok ([], x.put lo (d - less))
  | _, [] => .error .operand
  | .d, t :: r => (putDst t x).map (fun x => (r, x))
  | .a, t :: r | .aOpt, t :: r => (putSrc env m fm 49 t x).map (fun x => (r, x))
  | .b, t :: r => (putSrc env m fm 38 t x).map (fun x => (r, x))
  | .c, t :: r => (putSrc env m fm 27 t x).map (fun x => (r, x))
  | .mem ix, t :: r => (putMem env m ix t x).map (fun x => (r, x))
  | .tgt, t :: r => (putTgt env here 25 4 t x).map (fun x => (r, x))
  | .rcv, t :: r => (putTgt env here 1 5 t x).map (fun x => (r, x))
  | .hole, t :: r => if t == ['_'] then .ok (r, x) else .error .operand
  | .num lo w scale less _, t :: r =>
    (numIn env (less * scale) ((2 ^ w - 1 + less) * scale : Nat) t).bind (fun v =>
      if v % scale = 0 then .ok (r, x.put lo (v / scale - less)) else .error .range)
  | .quorum, t :: r => if t == chars "all" then .ok (r, x.put 0 64) else (numIn env 0 32 t).map (fun v => (r, x.put 0 v))
  | .seg, t :: r => match segOf t with | some z => .ok (r, x.put 24 z) | none => .error .operand
  | .creg, t :: r => (cregOf env t).map (fun v => (r, x.put 0 v))

/-- Take all operands in order (R74); none may be left over. -/
def putParts (env : AsmEnv) (m : Mnem) (fm : Fmt) (here : Nat) : List Part → List Chars → SlotAsm → Except AsmErr SlotAsm
  | [], [], x => .ok x
  | [], _ :: _, _ => .error .operand
  | p :: ps, ops, x => (putPart env m fm here p ops x).bind (fun (ops, x) => putParts env m fm here ps ops x)

/-- The immediate field: all immediate sources carry one value (R75); two are the same where their encoded fields are (log 21). A place becomes a relocation (R93): type 6 in F-R, 7 in F-I,
8 for SLDIH. -/
def putImm (m : Mnem) (fm : Fmt) (x : SlotAsm) : Except AsmErr SlotAsm :=
  match x.imms with
  | [] => .ok x
  | v :: r =>
    if !r.all (fun u => u == v) then .error .immediate
    else match v.sym with
      | none => .ok (x.put 0 v.off.toNat)
      | some _ => .ok { x with rels := x.rels ++ [(if fm == .r then 6 else if m.op == 0x22 then 8 else 7, v)] }

/-- The header of a slot (R54). -/
def headBits (m : Mnem) (g : Option (Nat × Bool)) : Nat :=
  let (gd, gn) := g.getD (15, false)
  m.op * 2 ^ 88 + m.sub * 2 ^ 82 + m.lev * 2 ^ 79 + m.ty * 2 ^ 75 + gd * 2 ^ 71 + b2n gn * 2 ^ 70

/-- An assembled slot: its word, the instruction it is unless it was written raw, its relocations, and the slots it needs a TGT
bit at: those a label names, and those an offset or the instruction itself gives. -/
structure SlotOut where
  word : Insn
  i    : Option Instr
  rels : List (Nat × AsmVal)
  tgts : List Int
  nums : List Int
  deriving DecidableEq, Repr

/-- One instruction (R73 to R77). The encoding is one that decodes: no reserved value, no operand that its row does not accept, no
nonzero field that must be zero (R70). A call needs TGT at the slot after it, and LOOP at its body (R50). -/
def asmInsn (env : AsmEnv) (here : Nat) (g : Option (Nat × Bool)) (head args : Chars) : Except AsmErr SlotOut :=
  match mnemOf head with
  | none => .error .mnemonic
  | some m =>
    match fmtOf (BitVec.ofNat 8 m.op) with
    | none => .error .mnemonic
    | some fm =>
      (putParts env m fm here (partsOf m.op m.sub) (operandTexts args) ⟨headBits m g + m.aop * 2 ^ 34, [], [], [], []⟩).bind (fun x =>
        (putImm m fm x).bind (fun x =>
          let w := BitVec.ofNat 96 x.bits
          match Decode.decode w with
          | .ok i => .ok ⟨w, some i, x.rels, x.tgts, x.nums ++ (if [0x05, 0x06, 0x08].contains m.op then [(here : Int) + 1] else [])⟩
          | .error _ => .error .encoding))

/-! ## Raw slots (R86) -/

/-- The fields of R54 and of one format: name, lowest bit, width. -/
def rawFields (fm : Fmt) : List (String × Nat × Nat) :=
  [("OP", 88, 8), ("SUB", 82, 6), ("LEV", 79, 3), ("TY", 75, 4), ("GD", 71, 4), ("GN", 70, 1)] ++
  match fm with
  | .r => [("D", 60, 10), ("A", 49, 11), ("B", 38, 11), ("C", 27, 11), ("IMM27", 0, 27)]
  | .i => [("D", 60, 10), ("A", 49, 11), ("IMM49", 0, 49)]
  | .b => [("A", 49, 11), ("TGT24", 25, 24), ("RCV24", 1, 24)]
  | .m => [("ORD", 85, 3), ("SCOPE", 82, 3), ("D", 60, 10), ("A", 49, 11), ("B", 38, 11), ("AOP", 34, 4), ("OFF27", 0, 27)]
  | .x => [("D", 60, 10), ("A", 49, 11), ("B", 38, 11), ("C", 27, 11), ("KSTEP", 16, 11), ("AINC", 8, 8), ("BINC", 0, 8)]

/-- The format of a letter. -/
def fmtLetter (s : Chars) : Option Fmt :=
  match upper s with
  | ['R'] => some .r | ['I'] => some .i | ['B'] => some .b | ['M'] => some .m | ['X'] => some .x | _ => none

/-- Set the named fields of a raw slot; a value wider than its field is an error, and so is a field set twice. The manual does not
say whether a label or an extern name as a field's value becomes a relocation: it is refused (log 27). -/
def rawPut (env : AsmEnv) (fm : Fmt) : List Chars → List Chars → Nat → Except AsmErr Nat
  | _, [], v => .ok v
  | seen, t :: r, v =>
    match cutAt '=' 0 [] t with
    | [k, e] =>
      let k := upper (trim k)
      match (rawFields fm).find? (fun f => chars f.1 == k) with
      | some (_, lo, w) =>
        if seen.contains k then .error .operand
        else (numOf env e).bind (fun x =>
          if -(2 ^ (w - 1) : Int) ≤ x ∧ x < (2 ^ w : Int) then rawPut env fm (k :: seen) r (v ||| (BitVec.ofInt w x).toNat * 2 ^ lo)
          else .error .range)
      | none => .error .operand
    | _ => .error .operand

/-- A raw slot: a 96-bit value, or a format with fields (R86). A place as the value is refused, as in a field (log 27). -/
def asmRaw (env : AsmEnv) (args : Chars) : Except AsmErr SlotOut :=
  match operandTexts args with
  | [] => .error .operand
  | f :: r =>
    match fmtLetter f with
    | some fm => (rawPut env fm [] r 0).map (fun v => ⟨BitVec.ofNat 96 v, none, [], [], []⟩)
    | none =>
      if !r.isEmpty then .error .operand
      else (valueW 96 env f).bind (fun v =>
        if v.sym.isSome || decide (v.off < 0) then .error .operand else .ok ⟨BitVec.ofNat 96 v.off.toNat, none, [], [], []⟩)

end Sys2Proof.Machine
end

