-- ==== Sys2Proof/Machine/Assembler.lean ====
section
/-! DEFINITION. The assembler (R70 to R87): directives, textual definitions and conditions, the placing of code and data, line
words, launch templates and tables, and the object file (R88 to R96). -/

namespace Sys2Proof.Machine

/-! ## First pass: what each line becomes, and where -/

/-- The section that a source is in. -/
inductive AsmSect where
  | none | code | data | rodata
  deriving DecidableEq, Repr

/-- What a line of source leaves for the second pass: its directive or mnemonic with the text after it. Slots count in the code
section, `off` in a data section. -/
inductive AsmWhat where
  | insn (slot : Nat) (guard : Option (Nat × Bool)) (head args : Chars)
  | raw (slot : Nat) (args : Chars)
  | fill (slot : Nat)
  | kernel (slot : Nat) (name : Chars)
  | endk (slot : Nat)
  | setting (name args : Chars)
  | set (name e : Chars)
  | data (sect : AsmSect) (off size : Nat) (name args : Chars)
  deriving DecidableEq, Repr

/-- An item with its source line and its kernel's number. -/
structure AsmItem where
  line : Nat
  kern : Nat
  what : AsmWhat
  deriving DecidableEq, Repr

/-- A named piece of text with its parameters (R87). -/
structure AsmText where
  name   : Chars
  params : List Chars
  body   : List Chars
  deriving DecidableEq, Repr

/-- A condition that is open: whether the text around it is taken, whether a branch was taken, whether this one is, and whether
`.else` was seen. -/
structure AsmCond where
  outer : Bool
  done  : Bool
  now   : Bool
  last  : Bool
  deriving DecidableEq, Repr

/-- The first pass. `items` stand newest first; a `.set` name whose value needs a label that stands later is bound to none. -/
structure AsmPass where
  sets    : List (Chars × Option AsmVal)
  labels  : List (Chars × AsmVal)
  globals : List Chars
  externs : List Chars
  texts   : List AsmText
  conds   : List AsmCond
  coll    : Option AsmText
  uniq    : Nat
  sect    : AsmSect
  inKern  : Bool
  kern    : Nat
  slots   : Nat
  dsize   : Nat
  rsize   : Nat
  lives   : List (Nat × Chars)
  items   : List AsmItem
  deriving DecidableEq, Repr

/-- Before the first line. -/
def AsmPass.start : AsmPass :=
  { sets := [], labels := [], globals := [], externs := [], texts := [], conds := [], coll := none, uniq := 0, sect := .none,
    inKern := false, kern := 0, slots := 0, dsize := 0, rsize := 0, lives := [], items := [] }

/-- What a name stands for: the last `.set`, a label, an extern symbol. -/
def AsmPass.env (p : AsmPass) : AsmEnv := fun w =>
  match (p.sets ++ p.labels.map (fun q => (q.1, some q.2))).find? (fun q => q.1 == w) with
  | some q => q.2
  | none => if p.externs.contains w then some ⟨some (.ext w), 0⟩ else none

/-- Whether a name is defined so far, whatever it stands for. -/
def AsmPass.defined (p : AsmPass) (w : Chars) : Bool :=
  p.sets.any (fun q => q.1 == w) || p.labels.any (fun q => q.1 == w) || p.externs.contains w || p.texts.any (fun t => t.name == w)

/-- Whether the text in hand is taken. -/
def AsmPass.live (p : AsmPass) : Bool := p.conds.all (fun c => c.now)

/-- Add an item. -/
def AsmPass.add (p : AsmPass) (line : Nat) (w : AsmWhat) : AsmPass := { p with items := ⟨line, p.kern, w⟩ :: p.items }

/-- Bytes of one value of a data directive (R84). -/
def dataSize (d : Chars) : Option Nat :=
  ([(".byte", 1), (".half", 2), (".word", 4), (".dword", 8), (".f32", 4), (".f64", 8), (".t6", 1), (".t8", 1), (".t16", 2),
    (".sc16", 2)].find? (fun p => chars p.1 == d)).map (·.2)

/-- The place where the section in hand goes on. -/
def AsmPass.here (p : AsmPass) : Option AsmVal :=
  match p.sect with
  | .none => none
  | .code => if p.inKern then some ⟨some .code, slotPlace p.slots⟩ else none
  | .data => some ⟨some .data, p.dsize⟩
  | .rodata => some ⟨some .rodata, p.rsize⟩

/-- Bind a label where the source is (R71). -/
def AsmPass.label (p : AsmPass) (w : Chars) : Except AsmErr AsmPass :=
  match p.here with
  | none => .error .place
  | some v =>
    if (p.labels.any (fun q => q.1 == w)) || p.sets.any (fun q => q.1 == w) || p.externs.contains w then .error .name
    else .ok { p with labels := (w, v) :: p.labels }

/-- Add bytes to a data section. -/
def AsmPass.bytes (p : AsmPass) (line size : Nat) (name args : Chars) : Except AsmErr AsmPass :=
  match p.sect, p.inKern with
  | .data, false => .ok { p.add line (.data .data p.dsize size name args) with dsize := p.dsize + size }
  | .rodata, false => .ok { p.add line (.data .rodata p.rsize size name args) with rsize := p.rsize + size }
  | _, _ => .error .place

/-- Add one slot. -/
def AsmPass.slot (p : AsmPass) (line : Nat) (w : Nat → AsmWhat) : Except AsmErr AsmPass :=
  if p.inKern then .ok { p.add line (w p.slots) with slots := p.slots + 1 } else .error .place

/-- Fill the line in hand with NOP (R78). -/
def AsmPass.fillLine (p : AsmPass) (line : Nat) : AsmPass :=
  (List.range ((5 - p.slots % 5) % 5)).foldl (fun p _ => { p.add line (.fill p.slots) with slots := p.slots + 1 }) p

/-- The names of a comma-separated list. -/
def namesOf (args : Chars) : Except AsmErr (List Chars) :=
  let l := operandTexts args
  if !l.isEmpty && l.all nameOk then .ok l else .error .name

/-- Open a condition (R87); at most 32 nest. -/
def AsmPass.openCond (p : AsmPass) (v : Bool) : Except AsmErr AsmPass :=
  if 32 ≤ p.conds.length then .error .conditional
  else .ok { p with conds := ⟨p.live, v, p.live && v, false⟩ :: p.conds }

/-- The truth of a condition. It stands on what is bound above it: an expression over a label that stands later is an error (log 21). -/
def AsmPass.test (p : AsmPass) (e : Chars) : Except AsmErr Bool := (numOf p.env e).map (fun v => v != 0)

/-- A line of a condition; the others answer none. In text that is not taken, the operands of `.if` and `.ifdef` are not read. -/
def AsmPass.condLine (p : AsmPass) (d args : Chars) : Option (Except AsmErr AsmPass) :=
  if d == chars ".if" then some (if p.live then (p.test args).bind p.openCond else p.openCond false)
  else if d == chars ".ifdef" then
    some (if !p.live then p.openCond false else if nameOk args then p.openCond (p.defined args) else .error .name)
  else if d == chars ".elif" then
    some (match p.conds with
      | c :: r =>
        if c.last then .error .conditional
        else if !c.outer || c.done then .ok { p with conds := { c with now := false } :: r }
        else (p.test args).map (fun v => { p with conds := { c with done := v, now := v } :: r })
      | [] => .error .conditional)
  else if d == chars ".else" then
    some (match p.conds with
      | c :: r => if c.last then .error .conditional else .ok { p with conds := { c with now := c.outer && !c.done, done := true, last := true } :: r }
      | [] => .error .conditional)
  else if d == chars ".endif" then some (match p.conds with | _ :: r => .ok { p with conds := r } | [] => .error .conditional)
  else none

/-- The directives that build a kernel's template and tables and emit no slot (R80 to R82). -/
def isSetting (d : Chars) : Bool :=
  [".level", ".vregs", ".scratch", ".producer", ".pins", ".resident", ".live", ".pair", ".target"].any (fun n => chars n == d)

/-- A directive (R78, R81 to R87). After `.endk` the source is in no section, so that a data directive needs `.data` or `.rodata`
again; the manual names none (log 21). -/
def AsmPass.directive (p : AsmPass) (line : Nat) (d args : Chars) : Except AsmErr AsmPass :=
  if d == chars ".kernel" then
    if p.inKern || !nameOk args then .error .place
    else
      let q := { p with inKern := true, sect := .code }
      (q.label args).map (fun q => q.add line (.kernel q.slots args))
  else if d == chars ".endk" then
    if !p.inKern || args != [] then .error .place
    else
      let q := p.fillLine line
      .ok { q.add line (.endk q.slots) with inKern := false, sect := .none, kern := q.kern + 1 }
  else if d == chars ".align" then
    if p.inKern then if args == chars "line" then .ok (p.fillLine line) else .error .directive
    else (numIn p.env 1 (2 ^ 63) args).bind (fun n =>
      let at_ := if p.sect = .data then p.dsize else p.rsize
      if 2 ^ n.log2 = n then p.bytes line ((n - at_ % n) % n) (chars ".space") args else .error .directive)
  else if d == chars ".raw" then p.slot line (fun n => .raw n args)
  else if d == chars ".idem" || d == chars ".endidem" then p.slot line (fun n => .insn n none d args)
  else if isSetting d then
    if !p.inKern then .error .place
    else
      let q := p.add line (.setting d args)
      if d == chars ".live" then
        match operandTexts args with
        | n :: _ => if nameOk n && !p.lives.contains (p.kern, n) then .ok { q with lives := q.lives ++ [(p.kern, n)] } else .error .live
        | [] => .error .live
      else .ok q
  else if d == chars ".data" || d == chars ".rodata" then
    if p.inKern || args != [] then .error .place else .ok { p with sect := if d == chars ".data" then .data else .rodata }
  else if d == chars ".space" then (numIn p.env 0 (2 ^ 64 - 1) args).bind (fun n => p.bytes line n d args)
  else if d == chars ".i4" then p.bytes line (((operandTexts args).length + 1) / 2) d args
  else if d == chars ".set" then
    match operandTexts args with
    | [n, e] =>
      if !nameOk n || p.labels.any (fun q => q.1 == n) || p.externs.contains n then .error .name
      else
        let q := p.add line (.set n e)
        .ok { q with sets := (n, (valueOf p.env e).toOption) :: q.sets }
    | _ => .error .directive
  else if d == chars ".global" then (namesOf args).map (fun l => { p with globals := p.globals ++ l })
  else if d == chars ".extern" then (namesOf args).bind (fun l =>
    if l.any (fun n => p.labels.any (fun q => q.1 == n) || p.sets.any (fun q => q.1 == n)) then .error .name
    else .ok { p with externs := p.externs ++ l })
  else match dataSize d with
    | some n => if (operandTexts args).isEmpty then .error .directive else p.bytes line (n * (operandTexts args).length) d args
    | none => .error .directive

/-- Put the arguments of an expansion into a line of its body, and give its local labels their unique names (R87). The first
argument bounds the length. -/
def expandLine (subs : List (Chars × Chars)) (uniq : Nat) : Nat → Chars → Except AsmErr Chars
  | 0, _ => .ok []
  | n + 1, s =>
    match s with
    | [] => .ok []
    | '\\' :: r =>
      let w := r.takeWhile nameTail
      match subs.find? (fun q => q.1 == w) with
      | some q => (expandLine subs uniq n (r.dropWhile nameTail)).map (q.2 ++ ·)
      | none => .error .textual
    | '$' :: r =>
      (expandLine subs uniq n (r.dropWhile nameTail)).map (fun t =>
        '$' :: r.takeWhile nameTail ++ '#' :: (Nat.toDigits 10 uniq) ++ t)
    | c :: r => (expandLine subs uniq n r).map (c :: ·)

/-- The directives that open and close a named text. -/
def dotText : Chars := chars ".mac" ++ chars "ro"

/-- The first word after the labels of a body line, and the rest: a body is kept as text, and only the line that ends it is read. -/
def bodyHead (s : Chars) : List Chars × Chars × Chars :=
  let t := s.takeWhile (fun c => c != ';')
  let (ls, r) := cutLabels t.length t
  let r := trim r
  (ls, lower (r.takeWhile (fun c => !isBlank c)), trim (r.dropWhile (fun c => !isBlank c)))

/-- One line of source, its expansions read by `rec`. Labels before a condition's directive are bound where they stand. Of text that
a condition does not take, only the conditions are read (R87). -/
def AsmPass.lineWith (rec : AsmPass → Nat → List Chars → Except AsmErr AsmPass) (p : AsmPass) (line : Nat) (s : Chars) :
    Except AsmErr AsmPass :=
  match p.coll with
  | some t =>
    let (ls, d, args) := bodyHead s
    if s.any (fun c => decide (127 < c.toNat)) then .error .lexical
    else if d == chars ".endm" then
      if !ls.isEmpty || args != [] then .error .textual
      else .ok { p with coll := none, texts := { t with body := t.body.reverse } :: p.texts }
    else if d == dotText then .error .textual
    else .ok { p with coll := some { t with body := s.takeWhile (fun c => c != ';') :: t.body } }
  | none =>
    if !p.live then
      let (_, d, args) := bodyHead s
      if s.any (fun c => decide (127 < c.toNat)) then .error .lexical else (p.condLine d args).getD (.ok p)
    else
    (stmtOf s).bind (fun x =>
      let low := lower x.head
      let dir := x.head.head? == some '.'
      (x.labels.foldlM AsmPass.label p).bind (fun p =>
        match if dir then p.condLine low x.args else none with
        | some r => if x.guard.isSome then .error .lexical else r
        | none =>
          if x.head == [] then if x.guard.isNone then .ok p else .error .lexical
          else if dir then
            if x.guard.isSome then .error .lexical
            else if low == dotText then
              (let n := x.args.takeWhile nameTail
               match namesOf (x.args.dropWhile nameTail), trim (x.args.dropWhile nameTail) with
               | .ok ps, _ => if nameOk n then .ok { p with coll := some ⟨n, ps, []⟩ } else .error .name
               | .error _, [] => if nameOk n then .ok { p with coll := some ⟨n, [], []⟩ } else .error .name
               | .error e, _ => .error e)
            else p.directive line low x.args
          else match p.texts.find? (fun t => t.name == x.head) with
            | some t =>
              let as := operandTexts x.args
              if x.guard.isSome || as.length != t.params.length then .error .textual
              else
                let u := p.uniq + 1
                (t.body.mapM (fun b => expandLine (t.params.zip as) u (b.length + 1) b)).bind (fun ls =>
                  rec { p with uniq := u } line ls)
            | none => p.slot line (fun n => .insn n x.guard x.head x.args)))

/-- Lines of one source line number, at a depth of expansion that is bounded (R87). -/
def AsmPass.deep : Nat → AsmPass → Nat → List Chars → Except AsmErr AsmPass
  | 0, _, _, _ => .error .textual
  | n + 1, p, line, ls => ls.foldlM (fun p s => p.lineWith (AsmPass.deep n) line s) p

/-- The first pass over a source. Expansions nest 64 deep at most. The mark that expansions put into names may not stand in it. -/
def firstPass (src : Chars) : Except AsmErr AsmPass :=
  if (sourceLines [] src).any (fun l => (l.takeWhile (fun c => c != ';')).contains '#') then .error .lexical
  else
  ((sourceLines [] src).zipIdx.foldlM (fun (p : AsmPass) (q : Chars × Nat) => p.lineWith (AsmPass.deep 64) (q.2 + 1) q.1)
    AsmPass.start).bind (fun p =>
      if p.inKern then .error .place
      else if p.coll.isSome then .error .textual
      else if !p.conds.isEmpty then .error .conditional
      else .ok p)

/-! ## Second pass: slots, data, templates -/

/-- An emitted slot with what stands beside it: source line and kernel, and whether the source produced it. -/
structure AsmSlot where
  out   : SlotOut
  line  : Nat
  kern  : Nat
  fill  : Bool
  pair  : Bool
  deriving DecidableEq, Repr

/-- A live-mask entry in hand (R94). -/
structure LiveEnt where
  kern : Nat
  idx  : Nat
  v    : Nat
  n    : Nat
  p    : Nat
  s    : Nat
  deriving DecidableEq, Repr

/-- An idempotent region in hand: kernel, index, kind, and its two slots (R83, R96). -/
structure IdemEnt where
  kern : Nat
  idx  : Nat
  kind : Nat
  from_ : Nat
  upto : Nat
  deriving DecidableEq, Repr

/-- A kernel in hand: its first slot and the slot after its last line, and what its directives set (R81). -/
structure KernSt where
  name   : Chars
  first  : Nat
  last   : Nat
  levels : List (Level × Option AsmVal)
  vregs  : Option (Nat × Nat)
  scr    : Nat
  prod   : Option Nat
  pins   : Option Nat
  resid  : Bool
  deriving DecidableEq, Repr

/-- A relocation in hand: the section patched by name, WHERE, type, value. -/
structure RelEnt where
  sect : String
  wher : Nat
  type : Nat
  v    : AsmVal
  deriving DecidableEq, Repr

/-- The second pass. -/
structure AsmOut where
  sets   : List (Chars × AsmVal)
  slots  : List AsmSlot
  kerns  : List KernSt
  lives  : List LiveEnt
  idems  : List IdemEnt
  openId : Option IdemEnt
  tgts   : List Int
  nums   : List Int
  trans  : List (Nat × Int)
  pair   : Bool
  target : Bool
  data   : List Byte
  rodata : List Byte
  rels   : List RelEnt
  deriving DecidableEq, Repr

/-- Before the first item. -/
def AsmOut.start : AsmOut :=
  { sets := [], slots := [], kerns := [], lives := [], idems := [], openId := none, tgts := [], nums := [], trans := [], pair := false,
    target := false, data := [], rodata := [], rels := [] }

/-- The NOP that fills lines (R78). -/
def fillNop : Insn := 0x0000_0780_0000_0000_0000_0000

/-- What a name stands for in the second pass: every label is bound, and the `.set` in force is the last one. -/
def AsmOut.env (o : AsmOut) (p : AsmPass) : AsmEnv := fun w =>
  match (o.sets ++ p.labels).find? (fun q => q.1 == w) with
  | some q => some q.2
  | none => if p.externs.contains w then some ⟨some (.ext w), 0⟩ else none

/-- Change the kernel in hand. -/
def AsmOut.kern (o : AsmOut) (f : KernSt → KernSt) : AsmOut :=
  match o.kerns with | k :: r => { o with kerns := f k :: r } | [] => o

/-- Emit a slot (R79): its relocations, the TGT bits it asks for, and the pair and target marks before it. -/
def AsmOut.emit (o : AsmOut) (it : AsmItem) (n : Nat) (x : SlotOut) (fill : Bool) : AsmOut :=
  { o with
    slots := o.slots ++ [⟨x, it.line, it.kern, fill, o.pair && !fill⟩]
    pair := if fill then o.pair else false
    target := if fill then o.target else false
    tgts := o.tgts ++ x.tgts ++ (if o.target && !fill then [(n : Int)] else [])
    nums := o.nums ++ x.nums
    trans := o.trans ++ (x.tgts ++ x.nums).map (fun t => (n, t))
    rels := o.rels ++ x.rels.map (fun r => ⟨".code", n / 5 * 64 + n % 5 * 12, r.1, r.2⟩) }

/-- The domains of `.level` (R81). -/
def domNames : List String := ["lane", "group", "band", "cluster", "die", "device"]

/-- A `key=value` operand. -/
def keyOf (s : Chars) : Option (Chars × Chars) := match cutAt '=' 0 [] s with | [k, v] => some (trim k, trim v) | _ => none

/-- The extents and keyed operands of `.level`. `n` extents have been read. -/
def levelRest (env : AsmEnv) : Nat → List Chars → Level × Option AsmVal → Except AsmErr (Level × Option AsmVal)
  | _, [], x => .ok x
  | n, t :: r, (l, stk) =>
    match keyOf t with
    | some (k, e) =>
      if k == chars "bar" then (numIn env 0 8 e).bind (fun v => levelRest env 3 r ({ l with nbar := v }, stk))
      else if k == chars "scal" then (numIn env 0 32 e).bind (fun v => levelRest env 3 r ({ l with nscal := v }, stk))
      else if k == chars "stack" then (valueOf env e).bind (fun v =>
        if v.sym.isSome then levelRest env 3 r (l, some v)
        else if 0 ≤ v.off ∧ v.off < 2 ^ 57 ∧ v.off % 512 = 0 then levelRest env 3 r ({ l with stk := v.off.toNat / 512 }, none)
        else .error .template)
      else .error .directive
    | none =>
      (numIn env 1 65535 t).bind (fun v =>
        if n = 0 then levelRest env 1 r ({ l with e0 := v }, stk)
        else if n = 1 then levelRest env 2 r ({ l with e1 := v }, stk)
        else if n = 2 then levelRest env 3 r ({ l with e2 := v }, stk)
        else .error .directive)

/-- `.level` (R16, R81): the next level without gaps. -/
def AsmOut.level (o : AsmOut) (env : AsmEnv) (args : Chars) : Except AsmErr AsmOut :=
  match operandTexts args, o.kerns with
  | k :: d :: c :: e :: r, x :: _ =>
    (numIn env 0 7 k).bind (fun k =>
      match domNames.findIdx? (fun n => chars n == d), (scopeSpell.take 7).findIdx? (fun n => chars n == c) with
      | some d, some c =>
        if k != x.levels.length then .error .template
        else (levelRest env 0 (e :: r) (⟨d, c, 0, 0, 1, 1, 1, 0⟩, none)).map (fun l =>
          o.kern (fun x => { x with levels := x.levels ++ [l] }))
      | _, _ => .error .directive)
  | _, _ => .error .directive

/-- A vector count of `.vregs` (R81). -/
def vregsNum (env : AsmEnv) (s : Chars) : Except AsmErr Nat :=
  (numIn env 8 256 s).bind (fun v => if v % 8 = 0 then .ok v else .error .template)

/-- Bits lo to hi of a register range `x0-x7`, or of one register, with the class's letter. -/
def liveRange (s : Chars) : Option (Char × Nat) :=
  match (cutAt '-' 0 [] s).map trim with
  | [a] => (regOpd a).bind (fun _ => match a with | c :: r => (plainNat r).map (fun i => (c, 2 ^ i)) | [] => none)
  | [a, b] =>
    match regOpd a, regOpd b, a, b with
    | some _, some _, c :: ra, d :: rb =>
      (plainNat ra).bind (fun i => (plainNat rb).bind (fun j => if c == d && i ≤ j then some (c, 2 ^ (j + 1) - 2 ^ i) else none))
    | _, _, _, _ => none
  | _ => none

/-- Add the registers of a list to a live-mask entry (R82); p15 may not be named (R94). -/
def liveAdd : List Chars → LiveEnt → Except AsmErr LiveEnt
  | [], e => .ok e
  | t :: r, e =>
    match liveRange t with
    | some ('v', m) => liveAdd r { e with v := e.v ||| m }
    | some ('n', m) => liveAdd r { e with n := e.n ||| m }
    | some ('s', m) => liveAdd r { e with s := e.s ||| m }
    | some ('p', m) => if m < 2 ^ 15 then liveAdd r { e with p := e.p ||| m } else .error .live
    | _ => .error .live

/-- A directive that emits no slot (R80 to R82). -/
def AsmOut.setting (o : AsmOut) (env : AsmEnv) (kern : Nat) (d args : Chars) : Except AsmErr AsmOut :=
  let ops := operandTexts args
  if d == chars ".level" then o.level env args
  else if d == chars ".vregs" then
    match ops with
    | [b] => (vregsNum env b).map (fun b => o.kern (fun x => { x with vregs := some (b, b) }))
    | [b, m] => (vregsNum env b).bind (fun b => (vregsNum env m).bind (fun m =>
        if b ≤ m then .ok (o.kern (fun x => { x with vregs := some (b, m) })) else .error .template))
    | _ => .error .directive
  else if d == chars ".scratch" then (numIn env 0 256 args).map (fun v => o.kern (fun x => { x with scr := v }))
  else if d == chars ".producer" then (numIn env 0 15 args).map (fun v => o.kern (fun x => { x with prod := some v }))
  else if d == chars ".pins" then (numIn env 0 4 args).map (fun v => o.kern (fun x => { x with pins := some v }))
  else if d == chars ".resident" then if args == [] then .ok (o.kern (fun x => { x with resid := true })) else .error .directive
  else if d == chars ".pair" then if args == [] then .ok { o with pair := true } else .error .directive
  else if d == chars ".target" then if args == [] then .ok { o with target := true } else .error .directive
  else
    let n := (o.lives.filter (fun e => e.kern == kern)).length
    if 1024 ≤ n then .error .live
    else (liveAdd (ops.drop 1) ⟨kern, n, 0, 0, 0, 0⟩).map (fun e => { o with lives := o.lives ++ [e] })

/-- The text of an instruction's operands with SAFEPT's entry name replaced by its index (R82). A name that is also a `.set` name, a
label or an extern name is read as that value (log 21). -/
def safeptArgs (p : AsmPass) (env : AsmEnv) (kern : Nat) (head args : Chars) : Chars :=
  if upper head == chars "SAFEPT" && nameOk args && (env args).isNone then
    match ((p.lives.filter (fun l => l.1 == kern)).findIdx? (fun l => l.2 == args)) with
    | some i => Nat.toDigits 10 i
    | none => args
  else args

/-- Opcodes that may not stand inside an idempotent region (R83). -/
def idemBarred : List Nat :=
  [0x90, 0x91, 0x92, 0x93, 0xA4, 0xC3, 0xC5, 0xC8, 0xC9, 0xCA, 0xD0, 0xD1, 0xD2, 0xD3, 0xD4, 0xD5, 0xD7]

/-- `.idem kind` (R83): IDEM with the region's index in the file's table. -/
def AsmOut.idem (o : AsmOut) (it : AsmItem) (n : Nat) (args : Chars) : Except AsmErr AsmOut :=
  match ["grp", "band", "core"].findIdx? (fun k => chars k == args), o.openId with
  | some k, none =>
    let i := o.idems.length
    if 65536 ≤ i then .error .region
    else
      let w := headBits ⟨0x12, k, 0, 0, 0⟩ none + i
      let o := { o with openId := some ⟨it.kern, i, k, n, n⟩ }
      .ok (o.emit it n ⟨BitVec.ofNat 96 w, (Decode.decode (BitVec.ofNat 96 w)).toOption, [], [], []⟩ false)
  | _, _ => .error .region

/-- `.endidem` (R83). -/
def AsmOut.endIdem (o : AsmOut) (it : AsmItem) (n : Nat) (args : Chars) : Except AsmErr AsmOut :=
  match o.openId with
  | some e =>
    if args != [] || e.kern != it.kern then .error .region
    else
      let w := headBits ⟨0x13, 0, 0, 0, 0⟩ none + e.idx
      let o := { o with openId := none, idems := o.idems ++ [{ e with upto := n }] }
      .ok (o.emit it n ⟨BitVec.ofNat 96 w, (Decode.decode (BitVec.ofNat 96 w)).toOption, [], [], []⟩ false)
  | none => .error .region

/-- The bytes of one value of a data directive (R84, R85), with the relocation of a place. -/
def dataValue (env : AsmEnv) (d s : Chars) : Except AsmErr (List Byte × Option (Nat × AsmVal)) :=
  let ft : Option (Ty × Nat) :=
    if d == chars ".f32" then some (.f32, 4) else if d == chars ".f64" then some (.f64, 8)
    else if d == chars ".t6" then some (.t6, 1) else if d == chars ".t8" then some (.t8, 1)
    else if d == chars ".t16" then some (.t16, 2) else if d == chars ".sc16" then some (.sc16, 2) else none
  match ft with
  | some (t, n) =>
    (match realOf s with
     | some x => Except.ok x
     | none => (numOf env s).map intReal).map (fun x => (leBytes n (roundReal t x), none))
  | none =>
    let n := (dataSize d).getD 1
    (valueOf env s).bind (fun v =>
      match v.sym with
      | some _ => if n = 8 then .ok (leBytes 8 0, some (1, v)) else if n = 4 then .ok (leBytes 4 0, some (2, v)) else .error .operand
      | none =>
        if -(2 ^ (8 * n - 1) : Int) ≤ v.off ∧ v.off < (2 ^ (8 * n) : Int) then .ok (leBytes n (BitVec.ofInt (8 * n) v.off).toNat, none)
        else .error .range)

/-- Two 4-bit values a byte, the first in [3:0] (R84). -/
def nibbles : List Nat → List Byte
  | [] => []
  | [a] => [BitVec.ofNat 8 a]
  | a :: b :: r => BitVec.ofNat 8 (a + 16 * b) :: nibbles r

/-- The values of a data directive from a place in a section on. -/
def dataValues (env : AsmEnv) (sect : String) (d : Chars) : Nat → List Chars → Except AsmErr (List Byte × List RelEnt)
  | _, [] => .ok ([], [])
  | off, t :: r =>
    (dataValue env d t).bind (fun (bs, rel) => (dataValues env sect d (off + bs.length) r).map (fun (cs, rels) =>
      (bs ++ cs, (match rel with | some (k, v) => [⟨sect, off, k, v⟩] | none => []) ++ rels)))

/-- A data directive. -/
def AsmOut.dataDir (o : AsmOut) (env : AsmEnv) (sect : AsmSect) (off size : Nat) (d args : Chars) : Except AsmErr AsmOut :=
  let put := fun (bs : List Byte) (rels : List RelEnt) =>
    if sect = .data then { o with data := o.data ++ bs, rels := o.rels ++ rels }
    else { o with rodata := o.rodata ++ bs, rels := o.rels ++ rels }
  if d == chars ".space" then .ok (put (List.replicate size 0) [])
  else if d == chars ".i4" then
    ((operandTexts args).mapM (fun t => (numOf env t).bind (fun v =>
      if -8 ≤ v ∧ v < 16 then .ok (v % 16).toNat else .error AsmErr.range))).map (fun l => put (nibbles l) [])
  else (dataValues env (if sect = .data then ".data" else ".rodata") d off (operandTexts args)).map (fun (bs, rels) => put bs rels)

/-- One item of the second pass. -/
def AsmOut.item (p : AsmPass) (o : AsmOut) (it : AsmItem) : Except AsmErr AsmOut :=
  let env := o.env p
  match it.what with
  | .insn n g head args =>
    let low := lower head
    if low == chars ".idem" then o.idem it n args
    else if low == chars ".endidem" then o.endIdem it n args
    else (asmInsn env n g head (safeptArgs p env it.kern head args)).bind (fun x =>
      if o.openId.isSome && idemBarred.contains (Decode.wOp x.word).toNat then .error .region else .ok (o.emit it n x false))
  | .raw n args => (asmRaw env args).map (fun x => o.emit it n x false)
  | .fill n => .ok (o.emit it n ⟨fillNop, none, [], [], []⟩ true)
  | .kernel n name => .ok { o with
      kerns := ⟨name, n, n, [], none, 0, none, none, false⟩ :: o.kerns
      tgts := o.tgts ++ [(n : Int)] }
  | .endk n =>
    if o.openId.isSome then .error .region
    else if o.pair || o.target then .error .directive
    else .ok (o.kern (fun x => { x with last := n }))
  | .setting d args => o.setting env it.kern d args
  | .set n e => (valueOf env e).map (fun v => { o with sets := (n, v) :: o.sets })
  | .data sect off size d args => o.dataDir env sect off size d args

/-! ## Checks over whole kernels (R70, R80, R81, R83) -/

/-- The numbers of a class of registers that an instruction's operands name. -/
def namedNums (f : Opd → Option Nat) (i : Instr) : List Nat :=
  (((srcsOf i).map (fun p => p.2.o)) ++ (dstOf i).toList ++ extraOpds i).filterMap f

/-- The launch record that a kernel's directives describe. Its privilege and its ownership of matrix state are not the
assembler's to give, so neither stops an instruction here (log 21). -/
def templRec (k : KernSt) : LRec :=
  { LRec.none with
    levels := k.levels.map (·.1), priv := true, mat := true, pins := k.pins.getD 0, resid := k.resid, scrg := k.scr
    prodv := k.prod.isSome, prod := k.prod.getD 0, vbase := (k.vregs.getD (8, 8)).1, vmax := (k.vregs.getD (8, 8)).2 }

/-- The defaults of `.vregs` and `.pins`, from the registers that the kernel's instructions name (R81). -/
def withDefaults (k : KernSt) (is : List Instr) : KernSt :=
  let top := fun (f : Opd → Option Nat) => maxL ((is.map (fun i => (namedNums f i).map (· + 1))).flatten)
  let v := max 8 ((top (fun o => match o with | .vec r => some r.toNat | _ => none) + 7) / 8 * 8)
  { k with vregs := some (k.vregs.getD (v, v)), pins := some (k.pins.getD (top (fun o => match o with | .pin q => some q.toNat | _ => none))) }

/-- Whether some levels accept an opcode at its LEV, for a kernel without a template (R70). -/
def levSome (w : Insn) : Bool :=
  let n := levOf w
  [domGroup, domBand, domCluster].any (fun d =>
    levAccept { LRec.none with levels := List.replicate n ⟨0, 0, 0, 0, 1, 1, 1, 0⟩ ++ [⟨d, 0, 8, 32, 1, 1, 1, 0⟩] ++
      [⟨domDevice, 0, 8, 32, 1, 1, 1, 0⟩] } w)

/-- Whether the fields of an instruction whose row depends on no level name an event, or a control register, that exists (R210, R217). -/
def rowFixed (i : Instr) : Bool :=
  match i with
  | .evrd .. | .ctlrd .. | .ctlwr .. => (rowCode LRec.none 0 i).isNone
  | _ => true

/-- The check of R70 on one instruction of a kernel. -/
def insnFits (k : KernSt) (w : Insn) (i : Instr) : Bool :=
  if k.levels.isEmpty then levSome w && rowFixed i
  else
    let r := templRec k
    decide (levOf w ≤ r.top) && levAccept r w && (step6 r (levOf w) i).isNone

/-- The check of `.pair` on two slots (R49, R80). -/
def pairOk (k : KernSt) (a b : AsmSlot) : Bool :=
  let grp := fun (x : Nat) => x == 1 && (k.levels.isEmpty || (templRec k).grpLev == some 1)
  a.kern == b.kern && pairShape grp a.out.word && pairShape grp b.out.word &&
  (match a.out.i, b.out.i with
   | some i, some j => pairFree i a.out.word j b.out.word
   | _, _ => true)

/-- Check every `.pair` of the code section. `n` is the first slot's number. -/
def pairsOk (ks : List KernSt) : Nat → List AsmSlot → Bool
  | _, [] => true
  | _, [a] => !a.pair
  | n, a :: b :: r =>
    (!a.pair || (n % 5 != 4 && (match nth? ks a.kern with | some k => pairOk k a b | none => false))) && pairsOk ks (n + 1) (b :: r)

/-- Whether no transfer from outside a region leads to a place inside it that a label names (R83). -/
def regionsOk (labels : List (Chars × AsmVal)) (o : AsmOut) : Bool :=
  o.idems.all (fun e => o.trans.all (fun t =>
    let inside := fun (x : Int) => decide ((e.from_ : Int) < x) && decide (x ≤ e.upto)
    !inside t.2 || inside (t.1 : Int) || t.1 == e.from_ ||
    !labels.any (fun l => l.2.sym == some .code && linOf l.2.off == t.2)))

/-- The checks over a finished second pass. -/
def outOk (p : AsmPass) (o : AsmOut) (ks : List KernSt) : Except AsmErr Unit :=
  if !pairsOk ks 0 o.slots then .error .pair
  else if !regionsOk p.labels o then .error .region
  else if !ks.all (fun k => k.levels.isEmpty ||
      (let r := templRec k
       cond1 r && cond2 r && cond3 r && cond5 r &&
       k.levels.zipIdx.all (fun q => q.2 != 0 || (q.1.1.nbar == 0 && q.1.1.nscal == 0 && decide (q.1.1.ext ≤ 32))))) then .error .template
  else if !o.slots.all (fun x => match x.out.i, nth? ks x.kern with | some i, some k => insnFits k x.out.word i | _, _ => true) then .error .level
  else .ok ()

/-! ## The object file -/

/-- A section to be written: name, kind, LINK's section by name, log2 alignment, contents. -/
structure OutSect where
  name  : String
  kind  : Nat
  link  : String
  align : Nat
  bytes : List Byte
  deriving DecidableEq, Repr

/-- A line of five slots with its line word (R46 to R48, R79). `tgts` and `nums` are slot numbers, `n` the number of the line's first
slot. A raw slot takes its TGT bit from a label or `.target` alone (R86). -/
def outLine (tgts nums : List Int) (n : Nat) (l : List AsmSlot) : BitVec 512 :=
  let v := l.zipIdx.foldl (fun v q => v + q.1.out.word.toNat * 2 ^ (96 * q.2)) 0
  let lvm := (l.foldl (fun m x => m ||| 2 ^ levOf x.out.word) 0) * 2 ^ 10
  let named := fun (x : AsmSlot) (k : Int) => tgts.contains k || (!(x.out.i.isNone && !x.fill) && nums.contains k)
  let tgt := sumL (l.zipIdx.map (fun q => if named q.1 ((n : Int) + (q.2 : Int)) then 2 ^ (18 + q.2) else 0))
  let pair := sumL (l.zipIdx.map (fun q => if q.1.pair then 2 ^ (23 + q.2) else 0))
  fixParity (BitVec.ofNat 512 (v + (lvm + tgt + pair) * 2 ^ 480))

/-- The code section. -/
def outLines (tgts nums : List Int) : Nat → Nat → List AsmSlot → List Byte
  | 0, _, _ => []
  | k + 1, n, l => leBytes 64 (outLine tgts nums n (l.take 5)).toNat ++ outLines tgts nums k (n + 5) (l.drop 5)

/-- A level entry (R16), its STK left for a relocation. -/
def levelBytes (l : Level) : List Byte :=
  leBytes 16 (l.dom + l.scope * 2 ^ 4 + l.nbar * 2 ^ 8 + l.nscal * 2 ^ 12 + l.e0 * 2 ^ 32 + l.e1 * 2 ^ 48 + l.e2 * 2 ^ 64 + l.stk * 2 ^ 80)

/-- A launch template (R81, R95, R333); `lives` is how many live-mask entries the kernel has. -/
def templBytes (k : KernSt) (lives : Nat) : List Byte :=
  let r := templRec k
  leBytes 8 (r.levels.length + b2n r.resid * 2 ^ 8 + b2n r.prodv * 2 ^ 11 + r.prod * 2 ^ 12 + r.pins * 2 ^ 16 + r.scrg * 2 ^ 32) ++
  leBytes 16 0 ++ leBytes 8 (r.vbase + r.vmax * 2 ^ 16) ++ leBytes 8 0 ++ leBytes 8 lives ++ List.replicate 80 0 ++
  (r.levels.map levelBytes).flatten ++ List.replicate (16 * (8 - r.levels.length)) 0

/-- A task template (R95, R336). -/
def taskBytes : List Byte :=
  List.replicate 0x50 0 ++ (List.replicate 8 (leBytes 4 0x3FFFFFFF)).flatten ++ List.replicate 16 0

/-- A live-mask entry (R94). -/
def liveBytes (ksym : Nat) (e : LiveEnt) : List Byte :=
  leBytes 4 ksym ++ leBytes 2 e.idx ++ leBytes 2 0 ++ leBytes 32 e.v ++ leBytes 1 e.n ++ leBytes 1 0 ++ leBytes 2 e.p ++ leBytes 4 e.s

/-- An idempotent region entry (R96). -/
def idemBytes (ksym : Nat) (e : IdemEnt) : List Byte :=
  leBytes 4 ksym ++ leBytes 2 e.idx ++ leBytes 1 e.kind ++ leBytes 1 0 ++ leBytes 8 (slotPlace e.from_) ++ leBytes 8 (slotPlace e.upto)

/-- A symbol to be written (R91). -/
structure OutSym where
  name  : Chars
  sect  : Nat
  skind : Nat
  bind  : Nat
  value : Nat
  size  : Nat
  aux   : Nat
  deriving DecidableEq, Repr

/-- Strings one after the other with their NULs (R90), and the offset of each; `off` is where the first one stands. -/
def strings : Nat → List Chars → List Byte × List (Chars × Nat)
  | _, [] => ([], [])
  | off, s :: r =>
    let (bs, t) := strings (off + s.length + 1) r
    (s.map (fun c => BitVec.ofNat 8 c.toNat) ++ 0 :: bs, (s, off) :: t)

/-- The offset of a string. -/
def strOff (t : List (Chars × Nat)) (s : Chars) : Nat := ((t.find? (fun p => p.1 == s)).map (·.2)).getD 0

/-- The name of the section that a place lies in; none for an extern symbol. -/
def sectNameOf (v : AsmSym) : String := match v with | .code => ".code" | .data => ".data" | .rodata => ".rodata" | .ext _ => ""

/-- The sections that hold something, apart from strings, symbols, relocations and lines, in table order. ALIGN of the data sections
is 8 whatever `.align` asks, so that an alignment above 256 bytes counts from the section's base (log 21). An empty data section
stands where a label lies in it. -/
def bodySects (p : AsmPass) (o : AsmOut) (ks : List KernSt) : List OutSect :=
  let labelled := fun (n : String) => p.labels.any (fun l => l.2.sym.any (fun v => n == sectNameOf v))
  let temps := ks.zipIdx.filter (fun q => !q.1.levels.isEmpty)
  let lv := fun (i : Nat) => (o.lives.filter (fun e => e.kern == i)).length
  [⟨".code", 1, "", 6, outLines o.tgts o.nums (o.slots.length / 5) 0 o.slots⟩, ⟨".data", 2, "", 8, o.data⟩, ⟨".rodata", 3, "", 8, o.rodata⟩,
   ⟨".live", 8, ".code", 6, ((ks.zipIdx.map (fun q => (o.lives.filter (fun e => e.kern == q.2)).map (liveBytes q.2))).flatten).flatten⟩,
   ⟨".launch", 9, ".code", 8, (temps.map (fun q => templBytes q.1 (lv q.2))).flatten⟩,
   ⟨".task", 10, ".launch", 7, (temps.map (fun _ => taskBytes)).flatten⟩,
   ⟨".idem", 11, ".code", 3, (o.idems.map (fun e => idemBytes e.kern e)).flatten⟩].filter (fun x => !x.bytes.isEmpty || labelled x.name)

/-- The number of a kernel's template. -/
def templNum (ks : List KernSt) (i : Nat) : Nat := ((ks.take i).filter (fun k => !k.levels.isEmpty)).length

/-- Where a kernel's first live-mask entry stands among all. -/
def liveNum (o : AsmOut) (i : Nat) : Nat := (o.lives.filter (fun e => decide (e.kern < i))).length

/-- A relocation to be written: patched section, WHERE, INDEX, TYPE, FLAGS, ADDEND (R92). -/
structure OutRel where
  sect   : String
  wher   : Nat
  index  : Nat
  type   : Nat
  flags  : Nat
  addend : Int
  deriving DecidableEq, Repr

/-- The relocations of the templates (R94, R95). `at_` finds a section's index. -/
def templRels (o : AsmOut) (ks : List KernSt) (at_ : String → Nat) (val : AsmVal → Nat × Nat × Int) : List OutRel :=
  (ks.zipIdx.map (fun q =>
    if q.1.levels.isEmpty then []
    else
      let t := templNum ks q.2
      [⟨".launch", 256 * t + 8, q.2, 3, 0, 0⟩] ++
      (if o.lives.any (fun e => e.kern == q.2) then [⟨".launch", 256 * t + 0x20, at_ ".live", 1, 1, 48 * liveNum o q.2⟩] else []) ++
      q.1.levels.zipIdx.filterMap (fun l => l.1.2.map (fun v =>
        let (ix, fl, a) := val v
        ⟨".launch", 256 * t + 0x80 + 16 * l.2, ix, 10, fl, a⟩)))).flatten ++
  (ks.zipIdx.map (fun q =>
    if q.1.levels.isEmpty then [] else [⟨".task", 128 * templNum ks q.2 + 0x20, at_ ".launch", 1, 1, 256 * templNum ks q.2⟩])).flatten

/-- A relocation's 24 bytes. -/
def relBytes (r : OutRel) : List Byte :=
  leBytes 8 r.wher ++ leBytes 4 r.index ++ leBytes 2 r.type ++ leBytes 2 r.flags ++ leBytes 8 (BitVec.ofInt 64 r.addend).toNat

/-- The symbols of a file: its kernels, the names it exports, the extern names (R91). The manual gives an extern symbol no SKIND:
it carries 3 (log 27). -/
def outSyms (p : AsmPass) (o : AsmOut) (ks : List KernSt) (at_ : String → Nat) : Except AsmErr (List OutSym) :=
  let kerns := ks.zipIdx.map (fun q => (⟨q.1.name, at_ ".code", 1, 1, slotPlace q.1.first, slotPlace q.1.last - slotPlace q.1.first,
    if q.1.levels.isEmpty then 0xFFFFFFFF else templNum ks q.2⟩ : OutSym))
  let names := (p.globals.dedup).filter (fun n => !ks.any (fun k => k.name == n))
  let sizeOf := fun (sec : AsmSym) (off : Int) =>
    let all := (if sec = .data then o.data.length else o.rodata.length) ::
      p.labels.filterMap (fun l => if l.2.sym == some sec && decide (off < l.2.off) then some l.2.off.toNat else none)
    all.foldl min (all.headD 0) - off.toNat
  (names.mapM (fun n =>
    match o.env p n with
    | some ⟨some .code, v⟩ => Except.ok (⟨n, at_ ".code", 2, 1, v.toNat, 0, 0⟩ : OutSym)
    | some ⟨some (.ext _), _⟩ => .error AsmErr.name
    | some ⟨some s, v⟩ => .ok ⟨n, at_ (sectNameOf s), 3, 1, v.toNat, sizeOf s v, 0⟩
    | some ⟨none, v⟩ => .ok ⟨n, 0, 4, 1, (BitVec.ofInt 64 v).toNat, 0, 0⟩
    | none => .error .name)).map (fun gs => kerns ++ gs ++ (p.externs.dedup).map (fun n => (⟨n, 0xFFFF, 3, 2, 0, 0, 0⟩ : OutSym)))

/-- Lay contents out from an offset on, each at a multiple of 8: the bytes and the offset of each. -/
def layOut : Nat → List (List Byte) → List Byte × List Nat
  | _, [] => ([], [])
  | off, b :: r =>
    let pad := (8 - (off + b.length) % 8) % 8
    let (bs, os) := layOut (off + b.length + pad) r
    (b ++ List.replicate (if r.isEmpty then 0 else pad) 0 ++ bs, off :: os)

/-- A section-table entry (R89). -/
def sectEntry (idx : String → Nat) (t : List (Chars × Nat)) (x : OutSect) (off : Nat) : List Byte :=
  let (fl, es) := match kindRow x.kind with | some (fl, es, _, _) => (fl, es) | none => (0, 0)
  leBytes 4 (strOff t (chars x.name)) ++ leBytes 2 x.kind ++ leBytes 2 fl ++ leBytes 8 off ++ leBytes 8 x.bytes.length ++
  leBytes 1 x.align ++ leBytes 1 0 ++ leBytes 2 (if x.link == "" then 0 else idx x.link) ++ leBytes 4 es

/-- The object file of a finished assembly (R88 to R96), with the digest function given. The string section is 0 and the symbol
section 1; the contents stand in table order with these two last (log 21). -/
def objectFile (dig : List Byte → BitVec 256) (file : Chars) (p : AsmPass) (o : AsmOut) (ks : List KernSt) : Except AsmErr (List Byte) :=
  let body := bodySects p o ks
  let idx0 := fun (n : String) => 2 + (body.findIdx? (fun x => x.name == n)).getD 0
  (outSyms p o ks idx0).map (fun syms =>
    let symIdx := fun (n : Chars) => (syms.findIdx? (fun s => s.name == n)).getD 0
    let val := fun (v : AsmVal) => match v.sym with
      | some (.ext n) => (symIdx n, 0, v.off)
      | some s => (idx0 (sectNameOf s), 1, v.off)
      | none => (0, 1, v.off)
    let rels := templRels o ks idx0 val ++ o.rels.map (fun r => let (ix, fl, a) := val r.v
                                                                (⟨r.sect, r.wher, ix, r.type, fl, a⟩ : OutRel))
    let relSects := body.filterMap (fun x =>
      let l := rels.filter (fun r => r.sect == x.name)
      if l.isEmpty then none else some (⟨".rel" ++ x.name, 7, x.name, 3, (l.map relBytes).flatten⟩ : OutSect))
    let lines := o.slots.zipIdx.filter (fun q => !q.1.fill)
    let srcs := body ++ relSects
    let names := [[], chars ".str", chars ".sym"] ++ srcs.map (fun x => chars x.name) ++
      (if lines.isEmpty then [] else [chars ".lines"]) ++ syms.map (·.name) ++ (if lines.isEmpty then [] else [file])
    let (strs, t) := strings 0 names
    let lineBytes := (lines.map (fun q => leBytes 4 (q.2 / 5 * 64) ++ leBytes 1 (q.2 % 5) ++ leBytes 3 0 ++
      leBytes 4 (strOff t file) ++ leBytes 4 q.1.line)).flatten
    let symBytes := (syms.map (fun s => leBytes 4 (strOff t s.name) ++ leBytes 2 s.sect ++ leBytes 1 s.skind ++ leBytes 1 s.bind ++
      leBytes 8 s.value ++ leBytes 8 s.size ++ leBytes 4 s.aux ++ leBytes 4 0)).flatten
    let srcs := srcs ++ (if lines.isEmpty then [] else [(⟨".lines", 12, ".code", 3, lineBytes⟩ : OutSect)])
    let all : List OutSect := [⟨".str", 5, "", 0, strs⟩, ⟨".sym", 6, ".str", 3, symBytes⟩] ++ srcs
    let idx := fun (n : String) => (all.findIdx? (fun x => x.name == n)).getD 0
    let (bytes, offs) := layOut (64 + 32 * all.length) ((srcs.map (·.bytes)) ++ [strs, symBytes])
    let offs := offs.drop srcs.length ++ offs.take srcs.length
    let table := ((all.zip offs).map (fun q => sectEntry idx t q.1 q.2)).flatten
    let f := rhoMagic ++ leBytes 2 0x0100 ++ leBytes 2 0 ++ leBytes 8 64 ++ leBytes 2 all.length ++ leBytes 2 0 ++ leBytes 2 1 ++
      leBytes 2 0 ++ leBytes 8 (64 + table.length + bytes.length) ++ List.replicate 32 0 ++ table ++ bytes
    f.take 0x20 ++ leBytes 32 (dig f).toNat ++ f.drop 0x40)

/-- Assemble a source file: the object file, or the first error (R70). -/
def assembleWith (dig : List Byte → BitVec 256) (file src : Chars) : Except AsmErr (List Byte) :=
  (firstPass src).bind (fun p =>
    (p.items.reverse.foldlM (fun o it => AsmOut.item p o it) AsmOut.start).bind (fun o =>
      let ks := o.kerns.reverse.zipIdx.map (fun q => withDefaults q.1 (o.slots.filterMap (fun x => if x.kern == q.2 then x.out.i else none)))
      (outOk p o ks).bind (fun _ => objectFile dig file p o ks)))

/-- Assemble with SHAKE256 as the digest (R88). -/
def assemble (file src : Chars) : Except AsmErr (List Byte) := assembleWith shake256 file src

end Sys2Proof.Machine
end

