-- ==== Sys2Proof/Tests/Slice0.lean ====
section
/-! SUPPORT. Tests: words that the spec's encodings give, terms that the well-formedness checks refuse, small results worked from the
spec, and states that meet the hypotheses of the statements. -/

namespace Sys2Proof.Tests

set_option maxRecDepth 20000

open Machine

/-! ## Shorthands -/

/-- A header at LEV 0, guard p15. -/
def h0 : Hdr := ⟨0, 15, false⟩
/-- A header at LEV 1. -/
def h1 : Hdr := ⟨1, 15, false⟩
/-- A header at LEV 2. -/
def h2 : Hdr := ⟨2, 15, false⟩
/-- A vector source. -/
def v (r : BitVec 8) : Src := ⟨false, .vec r⟩
/-- A scalar source. -/
def sc (l : BitVec 3) (r : BitVec 5) : Src := ⟨false, .scal l r⟩
/-- An own scalar as a destination. -/
def ds (r : BitVec 5) : Opd := .scal 0 r
/-- A predicate source. -/
def pr (p : BitVec 4) : Src := ⟨false, .pred p⟩
/-- The immediate select. -/
def im : Src := ⟨false, .imm⟩
/-- The none operand. -/
def no : Src := ⟨false, .none⟩

/-! ## Words of the spec's encodings (R54 to R63 and the encoding tables of the chapters) -/

/-- A word decodes to an instruction and the instruction encodes to the word. -/
abbrev reads (w : Nat) (i : Instr) : Prop :=
  Decode.decode (BitVec.ofNat 96 w) = .ok i ∧ Decode.encode i = some (BitVec.ofNat 96 w)

theorem test_decode_control_1 :
    reads 0x000101C00000000000000000 (.nop ⟨2, 3, true⟩) ∧
    reads 0x010487800602000006000000 (.br h1 .z (pr 1) 3) ∧
    reads 0x020107800409FFFFFC000000 (.bra h2 .nz (sc 0 4) (-2)) ∧
    reads 0x030007800603FFFFE6000002 (.brl h0 .nz (pr 1) (-13) 1) ∧
    reads 0x040087800412000000000000 (.jmpi h1 (sc 0 9)) ∧
    reads 0x050087800000000004000000 (.call h1 2) ∧
    reads 0x0601078004CE000000000000 (.calli h2 (sc 3 7)) ∧
    reads 0x070087800000000000000000 (.ret h1) ∧
    reads 0x080087800400000008000000 (.loop h1 (sc 0 0) 4) ∧
    reads 0x090087800000000000000000 (.endl h1) ∧
    reads 0x0A048780080600000A000000 (.brk h1 .z ⟨true, .vec 3⟩ 5) ∧
    reads 0x0B0107800443FFFFF2000000 (.cont h2 .nz (sc 1 1) (-7)) := by decide

theorem test_decode_control_2 :
    reads 0x0C0007800000000000000000 (.rjoin h0) ∧
    reads 0x0D0087800000000000000000 (.exit h1) ∧
    reads 0x0E0107800000000000000000 (.yield h2) ∧
    reads 0x0F0087800190000000000000 (.unif h1 (v 200)) ∧
    reads 0x100187800000000000000000 (.levsync ⟨3, 15, false⟩) ∧
    reads 0x11000780000000000000004D (.safept h0 77) ∧
    reads 0x12040780000000000000FFFF (.idem h0 .band 65535) ∧
    reads 0x130007800000000000000009 (.idemx h0 9) ∧
    reads 0x1400078007FE000000000008 (.vgrow h0 im 8) ∧
    reads 0x150087800486000000000000 (.vgive h1 (sc 2 3) 0) := by decide

theorem test_decode_scalar_1 :
    reads 0x200087A02486000000000000 (.smov h1 ⟨ds 2, sc 2 3, 0⟩) ∧
    reads 0x210087A027FFFFFFFFFFFFFF (.sldi h1 (ds 2) (-1)) ∧
    reads 0x220107A057FE000012345678 (.sldih h2 (ds 5) 0x12345678) ∧
    reads 0x230507A02694000000000000 (.sid h2 .x (ds 2) 0xA) ∧
    reads 0x240087A01408FFC000000024 (.sadd h1 ⟨ds 1, sc 0 4, im, 36⟩) ∧
    reads 0x250087A0140AFFC000000025 (.ssub h1 ⟨ds 1, sc 0 5, im, 37⟩) ∧
    reads 0x260087A0140CFFC000000026 (.smul h1 ⟨ds 1, sc 0 6, im, 38⟩) ∧
    reads 0x2A0087A01414FFC00000002A (.sand h1 ⟨ds 1, sc 0 10, im, 42⟩) ∧
    reads 0x2B0087A01416FFC00000002B (.sor h1 ⟨ds 1, sc 0 11, im, 43⟩) ∧
    reads 0x2C0087A01418FFC00000002C (.sxor h1 ⟨ds 1, sc 0 12, im, 44⟩) ∧
    reads 0x2D0087A0141AFFC00000002D (.sshl h1 ⟨ds 1, sc 0 13, im, 45⟩) ∧
    reads 0x2E0087A0141CFFC00000002E (.sshr h1 ⟨ds 1, sc 0 14, im, 46⟩) := by decide

theorem test_decode_scalar_2 :
    reads 0x2F0087A0141EFFC00000002F (.ssra h1 ⟨ds 1, sc 0 15, im, 47⟩) ∧
    reads 0x27013FA1ECC8D18000000000 (.smulh h2 .s64 ⟨ds 30, ⟨true, .scal 3 4⟩, ⟨false, .spec 6⟩, 0⟩) ∧
    reads 0x28013FA1ECC8D18000000000 (.sdiv h2 .s64 ⟨ds 30, ⟨true, .scal 3 4⟩, ⟨false, .spec 6⟩, 0⟩) ∧
    reads 0x29013FA1ECC8D18000000000 (.srem h2 .s64 ⟨ds 30, ⟨true, .scal 3 4⟩, ⟨false, .spec 6⟩, 0⟩) ∧
    reads 0x39013FA1ECC8D18000000000 (.smin h2 .s64 ⟨ds 30, ⟨true, .scal 3 4⟩, ⟨false, .spec 6⟩, 0⟩) ∧
    reads 0x3A013FA1ECC8D18000000000 (.smax h2 .s64 ⟨ds 30, ⟨true, .scal 3 4⟩, ⟨false, .spec 6⟩, 0⟩) ∧
    reads 0x3714C7B0140E808000000000 (.scmp h1 .ge .u64 ⟨.pred 1, sc 0 7, sc 0 2, 0⟩) ∧
    reads 0x380087A0140480D848000000 (.ssel h1 ⟨ds 1, sc 0 2, sc 0 3, pr 9, 0⟩) ∧
    reads 0x3B0087A01404000000000000 (.sclz h1 ⟨ds 1, sc 0 2, 0⟩) := by decide

theorem test_decode_predicate :
    reads 0x300087B01604C38000000000 (.pand h1 1 2 14) ∧
    reads 0x310087B01604C38000000000 (.por h1 1 2 14) ∧
    reads 0x320087B01604C38000000000 (.pxor h1 1 2 14) ∧
    reads 0x330007B0761E000000000000 (.pnot h0 7 15) ∧
    reads 0x340007B0761E000000000000 (.pmov h0 7 15) ∧
    reads 0x350107B037FE000000000001 (.pset h2 3 true) ∧
    reads 0x360007B03608000000000040 (.vote h0 .quo (.pred 3) 4 0 true) ∧
    reads 0x361407803608000000000000 (.vote h0 .lead (.vec 3) 4 0 false) := by decide

theorem test_decode_vector_integer_1 :
    reads 0x400057802008000000000000 (.vmov h0 .f64 ⟨.vec 2, v 4, 0⟩) ∧
    reads 0x41002F8027FFFFFFFFFFFFFD (.vldi h0 .s32 (.vec 2) (-3)) ∧
    reads 0x42042F80A008904000000000 (.vadd h0 .s32 true ⟨.vec 10, v 4, sc 2 1, 0⟩) ∧
    reads 0x43004780A008018000000000 (.vsub h0 .u64 false ⟨.vec 10, v 4, v 6, 0⟩) ∧
    reads 0x440031D03888FFC000000044 (.vmul ⟨0, 3, true⟩ .u32 ⟨.near 3, ⟨true, .vec 68⟩, im, 68⟩) ∧
    reads 0x450031D0388AFFC000000045 (.vmulh ⟨0, 3, true⟩ .u32 ⟨.near 3, ⟨true, .vec 69⟩, im, 69⟩) ∧
    reads 0x480031D03890FFC000000048 (.vmin ⟨0, 3, true⟩ .u32 ⟨.near 3, ⟨true, .vec 72⟩, im, 72⟩) ∧
    reads 0x490031D03892FFC000000049 (.vmax ⟨0, 3, true⟩ .u32 ⟨.near 3, ⟨true, .vec 73⟩, im, 73⟩) ∧
    reads 0x500031D038A0FFC000000050 (.vand ⟨0, 3, true⟩ .u32 ⟨.near 3, ⟨true, .vec 80⟩, im, 80⟩) ∧
    reads 0x510031D038A2FFC000000051 (.vor ⟨0, 3, true⟩ .u32 ⟨.near 3, ⟨true, .vec 81⟩, im, 81⟩) ∧
    reads 0x520031D038A4FFC000000052 (.vxor ⟨0, 3, true⟩ .u32 ⟨.near 3, ⟨true, .vec 82⟩, im, 82⟩) ∧
    reads 0x540031D038A8FFC000000054 (.vshl ⟨0, 3, true⟩ .u32 ⟨.near 3, ⟨true, .vec 84⟩, im, 84⟩) := by decide

theorem test_decode_vector_integer_2 :
    reads 0x550031D038AAFFC000000055 (.vshr ⟨0, 3, true⟩ .u32 ⟨.near 3, ⟨true, .vec 85⟩, im, 85⟩) ∧
    reads 0x560031D038ACFFC000000056 (.vsra ⟨0, 3, true⟩ .u32 ⟨.near 3, ⟨true, .vec 86⟩, im, 86⟩) ∧
    reads 0x46043780100400C020000000 (.vmad h0 .u32 true ⟨.vec 1, v 2, v 3, v 4, 0⟩) ∧
    reads 0x47003F802008000000000000 (.vabs h0 .s64 false ⟨.vec 2, v 4, 0⟩) ∧
    reads 0x4A082FB01008FFC000000000 (.vcmp h0 .lt .s32 ⟨.pred 1, v 4, im, 0⟩) ∧
    reads 0x4B004F801008015830000000 (.vsel h0 .f32 ⟨.vec 1, v 4, v 5, pr 6, 0⟩) ∧
    reads 0x4C0837801008000000000000 (.vred h0 .max .u32 ⟨.vec 1, v 4, 0⟩) ∧
    reads 0x4D2437801008000000000000 (.vscan h0 .min true .u32 ⟨.vec 1, v 4, 0⟩) ∧
    reads 0x53002F8010A6000000000000 (.vnot h0 .s32 ⟨.vec 1, v 83, 0⟩) ∧
    reads 0x57002F8010AE000000000000 (.vclz h0 .s32 ⟨.vec 1, v 87, 0⟩) ∧
    reads 0x58002F8010B0000000000000 (.vpop h0 .s32 ⟨.vec 1, v 88, 0⟩) ∧
    reads 0x59002F8010B2000000000000 (.vbrev h0 .s32 ⟨.vec 1, v 89, 0⟩) := by decide

theorem test_decode_vector_integer_3 :
    reads 0x5A0037801004FFC00000001F (.vbcast h0 .u32 ⟨.vec 1, v 2, im, 31⟩) ∧
    reads 0x5B0437801004FFC005000007 (.vshfl h0 .rot .u32 ⟨.vec 1, v 2, im, 0x5000007⟩) := by decide

theorem test_decode_vector_float_1 :
    reads 0x600057802008180000000000 (.fadd h0 .f64 ⟨.vec 2, v 4, v 96, 0⟩) ∧
    reads 0x61004F802008184000000000 (.fsub h0 .f32 ⟨.vec 2, v 4, v 97, 0⟩) ∧
    reads 0x620057802008188000000000 (.fmul h0 .f64 ⟨.vec 2, v 4, v 98, 0⟩) ∧
    reads 0x640057802008190000000000 (.fmin h0 .f64 ⟨.vec 2, v 4, v 100, 0⟩) ∧
    reads 0x65004F802008194000000000 (.fmax h0 .f32 ⟨.vec 2, v 4, v 101, 0⟩) ∧
    reads 0x6A00578020081A8000000000 (.fdiv h0 .f64 ⟨.vec 2, v 4, v 106, 0⟩) ∧
    reads 0x63004F806002008018000000 (.ffma h0 .f32 ⟨.vec 6, v 1, v 2, v 3, 0⟩) ∧
    reads 0x66004F866008000000000000 (.fabs h0 .f32 ⟨.vec 102, v 4, 0⟩) ∧
    reads 0x67004F867008000000000000 (.fneg h0 .f32 ⟨.vec 103, v 4, 0⟩) ∧
    reads 0x6B004F86B008000000000000 (.fsqrt h0 .f32 ⟨.vec 107, v 4, 0⟩) ∧
    reads 0x6C004F86C008000000000000 (.frcp h0 .f32 ⟨.vec 108, v 4, 0⟩) ∧
    reads 0x6D004F86D008000000000000 (.frsq h0 .f32 ⟨.vec 109, v 4, 0⟩) := by decide

theorem test_decode_vector_float_2 :
    reads 0x6E004F86E008000000000000 (.fexp2 h0 .f32 ⟨.vec 110, v 4, 0⟩) ∧
    reads 0x6F004F86F008000000000000 (.flog2 h0 .f32 ⟨.vec 111, v 4, 0⟩) ∧
    reads 0x68184FB01008014000000000 (.fcmp h0 .un .f32 ⟨.pred 1, v 4, v 5, 0⟩) ∧
    reads 0x690057801008000000000000 (.fclass h0 .f64 ⟨.vec 1, v 4, 0⟩) ∧
    reads 0x73004F803004FFC00000BF40 (.fscl h0 .f32 ⟨.vec 3, v 2, im, 0xBF40⟩) := by decide

theorem test_decode_convert :
    reads 0x702467803004000000000000 (.fcvt h0 .f32 .t8 (.vec 3) (v 2)) ∧
    reads 0x71701F803004000000000000 (.icvt h0 .t8 true .s16 (.vec 3) (v 2)) ∧
    reads 0x72004F803004000000000000 (.frnd h0 .f32 (.vec 3) (v 2)) := by decide

theorem test_decode_memory_1 :
    reads 0x80142F804010FF8000000000 (.ld h0 ⟨.weak, 5, .s32, .vec 4, v 8, no, 0⟩) ∧
    reads 0x815437800460064000000000 (.st h0 ⟨.rel, 5, .u32, .none, sc 1 16, v 25, 0⟩) ∧
    reads 0x821407804010404007FFFFF0 (.ldk h0 ⟨.weak, 5, .none, .vec 4, v 8, ⟨false, .near 1⟩, (-16)⟩) ∧
    reads 0x83083780C00AFF8000000000 (.lds h0 ⟨.weak, 2, .u32, .vec 12, v 5, no, 0⟩) ∧
    reads 0x845C1780000A024000000003 (.sts h0 ⟨.rel, 7, .u8, .none, v 5, v 9, 3⟩) ∧
    reads 0x8534C7A03408FF8000000000 (.sld h1 ⟨.acq, 5, .u64, ds 3, sc 0 4, no, 0⟩) ∧
    reads 0x86191F800408994000000000 (.sst h2 ⟨.weak, 6, .s16, .none, sc 0 4, sc 3 5, 0⟩) ∧
    reads 0x870C07800008FF8000000040 (.pref h0 ⟨.weak, 3, .none, .none, v 4, no, 64⟩) ∧
    reads 0x907437806010009C00000000 (.atom h0 .cas ⟨.ar, 5, .u32, .vec 6, v 8, v 2, 0⟩) ∧
    reads 0x91084F80601000A800000000 (.atoms h0 .fadd ⟨.weak, 2, .f32, .vec 6, v 8, v 2, 0⟩) ∧
    reads 0x9234BFA06410808400000000 (.satom h1 .min ⟨.acq, 5, .s64, ds 6, sc 0 8, sc 0 2, 0⟩) ∧
    reads 0x934C37800010008000000010 (.red h0 .add ⟨.rel, 3, .u32, .none, v 8, v 2, 16⟩) := by decide

theorem test_decode_memory_2 :
    reads 0x947407800000000000000000 (.fence h0 .ar 5) := by decide

theorem test_decode_copy :
    reads 0xA00487800408FF8000000000 (.cpy h1 .s2g (sc 0 4) no 0) ∧
    reads 0xA10007800448FFC000000000 (.cpyp h0 (sc 1 4) im 0) ∧
    reads 0xA20407800448FF9148000000 (.cpym h0 .p (sc 1 4) no (sc 1 9) 0) ∧
    reads 0xA30007800448FFC000000020 (.cpys h0 (sc 1 4) im 32) ∧
    reads 0xA40807800448894000000000 (.cpyr h0 .max (sc 1 4) (sc 1 5) 0) ∧
    reads 0xA50007800000000000006009 (.arvi h0 3 9) ∧
    reads 0xA60007800006000000000000 (.arv h0 (v 3) 0) ∧
    reads 0xA70007B027FE068000000000 (.arwt h0 2 im (v 26) 0) ∧
    reads 0xA80407B027FE000000000010 (.artst h0 .pois 2 im no 16) := by decide

theorem test_decode_matrix :
    reads 0xB00067B106500000000001C5 (.omap h0 false false false .t8 0 0 5 7 0) ∧
    reads 0xB10407800626000000000100 (.plst h0 true 3 256) ∧
    reads 0xB20057B22628C54000000000 (.mma h0 ⟨.f64, 2, 4, 5, 0, 0, 0⟩) ∧
    reads 0xB30007B24620C44000070101 (.mmaloop h0 ⟨.none, 4, 0, 1, 7, 1, 1⟩) ∧
    reads 0xB40007800000000000000000 (.mfence h0) ∧
    reads 0xB50007800646000000000000 (.mwait h0 (some 3)) ∧
    reads 0xB60007B27000000000000000 (.aclr h0 7) ∧
    reads 0xB70007B206480500A8000000 (.ascl h0 .fp32 .none 0 4 (v 20) (v 21)) ∧
    reads 0xB80057804644FF800000003F (.amovv h0 .f64 (.vec 4) 2 no 63) ∧
    reads 0xB90007B21000000000000200 (.asts h0 .none 1 512) ∧
    reads 0xBA0057B26000000000000008 (.alds h0 .f64 6 8) ∧
    reads 0xBB340F800644000000000040 (.acvt h0 true .i32 true .s8 .none 2 no 0 64) := by decide

theorem test_decode_tasks :
    reads 0xC00087800000000000000007 (.bar h1 7) ∧
    reads 0xC10007809000000000000001 (.bara h0 (.vec 9) 1) ∧
    reads 0xC20087800412000000000002 (.barw h1 (sc 0 9) 2) ∧
    reads 0xC30107800412000000000000 (.tspawn h2 (sc 0 9)) ∧
    reads 0xC40107A09000000000000000 (.tself h2 (ds 9)) ∧
    reads 0xC50107800408808000000000 (.fwrite h2 (sc 0 4) (sc 0 2)) ∧
    reads 0xC60107A03404000000000000 (.fwait h2 (ds 3) (sc 0 2)) ∧
    reads 0xC70507B03404000000000000 (.ftest h2 .orph 3 (sc 0 2)) ∧
    reads 0xC80107800404000000000000 (.lock h2 (sc 0 2)) ∧
    reads 0xC90107B01404000000000000 (.trylock h2 1 (sc 0 2)) ∧
    reads 0xCA0107800404000000000000 (.unlock h2 (sc 0 2)) ∧
    reads 0xCB0087800400824000000000 (.cntwt h1 (sc 0 0) (sc 0 9)) := by decide

theorem test_decode_pins_and_rings :
    reads 0xD00087B3040C000000000000 (.pin h1 0 (sc 0 6)) ∧
    reads 0xD10087B30000000000000000 (.unpin h1 0) ∧
    reads 0xD20087B31410000000000000 (.pinx h1 1 (sc 0 8)) ∧
    reads 0xD30087B01404810000000000 (.reclaim h1 1 (sc 0 2) (sc 0 4)) ∧
    reads 0xD40087A07000000000000000 (.rcdrain h1 (ds 7)) ∧
    reads 0xD50107B01408814000000542 (.msend h2 1 (sc 0 4) (sc 0 5) 2 0x2A) ∧
    reads 0xD60107A06000000000000001 (.rwait h2 (ds 6) 1) ∧
    reads 0xD701078007FC000000000001 (.rack h2 no 1) ∧
    reads 0xD80107B0240E000000000001 (.rdesc h2 2 (sc 0 7) 1) := by decide

theorem test_decode_system :
    reads 0xE0000780000000000000002A (.trap h0 0x2A) ∧
    reads 0xE10007800000000000000000 (.rft h0) ∧
    reads 0xE20007814000000000000010 (.ctlrd h0 (.vec 20) 0x10) ∧
    reads 0xE30007800028000000000010 (.ctlwr h0 (v 20) 0x10) ∧
    reads 0xE40487A02000000000000000 (.cycle h1 .net (ds 2)) ∧
    reads 0xE500878007FE000000000064 (.sleepc h1 im 100) ∧
    reads 0xE60007802000000000000009 (.evrd h0 (.vec 2) 9) ∧
    reads 0xE700878000000000FFFFFFFF (.bkpt h1 0xFFFFFFFF) ∧
    reads 0xE80087800000000000000000 (.halt h1) ∧
    reads 0xE90087800406000000000000 (.tlbinv h1 .page (sc 0 3)) ∧
    reads 0xEA0807800000000000000000 (.clone h0 .strict) := by decide

/-! ## Ill-formed terms that the well-formedness checks refuse (R56 to R66) -/

theorem test_ill_formed_control_1 : ([
    .br h0 .nz (pr 1) 0,
    .br h1 .nz ⟨false, .near 1⟩ 0,
    .br h1 .nz ⟨true, .pred 1⟩ 0,
    .bra h0 .nz (pr 1) 0,
    .bra h1 .nz (v 1) 0,
    .brl h1 .nz (pr 1) 0 0,
    .brl h0 .nz (sc 1 1) 0 0,
    .jmpi h0 (sc 1 1),
    .jmpi h1 (v 1),
    .call h0 0,
    .calli h0 (sc 1 1),
    .calli h1 (pr 1),
    .ret h0,
    .loop h1 (sc 2 1) 0,
    .loop h0 (sc 1 1) 0,
    .endl h0] : List Instr).all (fun i => !i.wf) = true := by decide

theorem test_ill_formed_control_2 : ([
    .brk h0 .nz (pr 1) 0,
    .brk h1 .nz im 0,
    .cont h0 .z (pr 1) 0,
    .cont h1 .z no 0,
    .rjoin h1,
    .unif h0 (pr 1),
    .unif h1 im,
    .levsync h0,
    .safept h1 0,
    .idem h1 .grp 0,
    .idemx h1 0,
    .vgrow h0 (v 1) 0,
    .vgrow h1 (sc 0 1) 5,
    .vgive h0 no 0,
    .vgive h0 (sc 1 1) 5] : List Instr).all (fun i => !i.wf) = true := by decide

theorem test_ill_formed_scalar_1 : ([
    .smov h0 ⟨ds 1, sc 1 1, 0⟩,
    .smov h1 ⟨.scal 1 1, sc 0 1, 0⟩,
    .smov h1 ⟨ds 1, v 1, 0⟩,
    .smov h1 ⟨ds 1, sc 0 1, 5⟩,
    .sldi h0 (ds 1) 0,
    .sldih h1 (.vec 1) 0,
    .sldih h1 (ds 1) 0x1000000000000,
    .sid h0 .lin (ds 1) 0,
    .sid h1 .lin (ds 1) 0x22,
    .sid h1 .x (ds 1) 7,
    .sadd h0 ⟨ds 1, sc 1 1, sc 1 2, 0⟩,
    .sadd h2 ⟨ds 1, sc 1 1, sc 0 2, 0⟩,
    .ssub h0 ⟨ds 1, sc 1 1, sc 1 2, 0⟩,
    .ssub h2 ⟨ds 1, sc 1 1, sc 0 2, 0⟩,
    .smul h0 ⟨ds 1, sc 1 1, sc 1 2, 0⟩,
    .smul h2 ⟨ds 1, sc 1 1, sc 0 2, 0⟩] : List Instr).all (fun i => !i.wf) = true := by decide

theorem test_ill_formed_scalar_2 : ([
    .sand h0 ⟨ds 1, sc 1 1, sc 1 2, 0⟩,
    .sand h2 ⟨ds 1, sc 1 1, sc 0 2, 0⟩,
    .sor h0 ⟨ds 1, sc 1 1, sc 1 2, 0⟩,
    .sor h2 ⟨ds 1, sc 1 1, sc 0 2, 0⟩,
    .sxor h0 ⟨ds 1, sc 1 1, sc 1 2, 0⟩,
    .sxor h2 ⟨ds 1, sc 1 1, sc 0 2, 0⟩,
    .sshl h0 ⟨ds 1, sc 1 1, sc 1 2, 0⟩,
    .sshl h2 ⟨ds 1, sc 1 1, sc 0 2, 0⟩,
    .sshr h0 ⟨ds 1, sc 1 1, sc 1 2, 0⟩,
    .sshr h2 ⟨ds 1, sc 1 1, sc 0 2, 0⟩,
    .ssra h0 ⟨ds 1, sc 1 1, sc 1 2, 0⟩,
    .ssra h2 ⟨ds 1, sc 1 1, sc 0 2, 0⟩,
    .smulh h1 .s32 ⟨ds 1, sc 0 1, sc 0 2, 0⟩,
    .smulh h1 .s64 ⟨ds 1, sc 0 1, pr 2, 0⟩,
    .sdiv h1 .s32 ⟨ds 1, sc 0 1, sc 0 2, 0⟩,
    .sdiv h1 .s64 ⟨ds 1, sc 0 1, pr 2, 0⟩] : List Instr).all (fun i => !i.wf) = true := by decide

theorem test_ill_formed_scalar_3 : ([
    .srem h1 .s32 ⟨ds 1, sc 0 1, sc 0 2, 0⟩,
    .srem h1 .s64 ⟨ds 1, sc 0 1, pr 2, 0⟩,
    .smin h1 .s32 ⟨ds 1, sc 0 1, sc 0 2, 0⟩,
    .smin h1 .s64 ⟨ds 1, sc 0 1, pr 2, 0⟩,
    .smax h1 .s32 ⟨ds 1, sc 0 1, sc 0 2, 0⟩,
    .smax h1 .s64 ⟨ds 1, sc 0 1, pr 2, 0⟩,
    .scmp h1 .un .s64 ⟨.pred 1, sc 0 1, sc 0 2, 0⟩,
    .scmp h1 .eq .s32 ⟨.pred 1, sc 0 1, sc 0 2, 0⟩,
    .scmp h1 .eq .s64 ⟨ds 1, sc 0 1, sc 0 2, 0⟩,
    .ssel h1 ⟨ds 1, sc 0 1, sc 0 2, sc 0 3, 0⟩,
    .ssel h0 ⟨ds 1, sc 1 1, sc 1 2, pr 3, 0⟩,
    .sclz h1 ⟨.near 1, sc 0 1, 0⟩] : List Instr).all (fun i => !i.wf) = true := by decide

theorem test_ill_formed_vote : ([
    .vote h1 .quo (.pred 1) 2 0 false,
    .vote h0 .quo (.vec 1) 2 0 false,
    .vote h0 .quo (.pred 1) 2 33 false,
    .vote h0 .quo (.pred 1) 2 1 true,
    .vote h0 .same (.pred 1) 2 1 false,
    .vote h0 .cnt (.pred 1) 2 0 false,
    .vote h0 .map (.vec 1) 2 0 true] : List Instr).all (fun i => !i.wf) = true := by decide

theorem test_ill_formed_vector_integer_1 : ([
    .vmov h0 .s8 ⟨.vec 1, v 2, 0⟩,
    .vmov h0 .f64 ⟨.vec 1, v 2, 0⟩,
    .vmov h1 .s32 ⟨.vec 1, v 2, 0⟩,
    .vldi h0 .f32 (.vec 1) 0x1000000000000,
    .vldi h0 .t8 (.vec 1) 0,
    .vldi h0 .s32 (.pred 1) 0,
    .vmul h0 .f32 ⟨.vec 1, v 2, v 3, 0⟩,
    .vmul h0 .s64 ⟨.vec 2, v 4, v 3, 0⟩,
    .vmulh h0 .f32 ⟨.vec 1, v 2, v 3, 0⟩,
    .vmulh h0 .s64 ⟨.vec 2, v 4, v 3, 0⟩,
    .vmin h0 .f32 ⟨.vec 1, v 2, v 3, 0⟩,
    .vmin h0 .s64 ⟨.vec 2, v 4, v 3, 0⟩,
    .vmax h0 .f32 ⟨.vec 1, v 2, v 3, 0⟩,
    .vmax h0 .s64 ⟨.vec 2, v 4, v 3, 0⟩,
    .vand h0 .f32 ⟨.vec 1, v 2, v 3, 0⟩,
    .vand h0 .s64 ⟨.vec 2, v 4, v 3, 0⟩] : List Instr).all (fun i => !i.wf) = true := by decide

theorem test_ill_formed_vector_integer_2 : ([
    .vor h0 .f32 ⟨.vec 1, v 2, v 3, 0⟩,
    .vor h0 .s64 ⟨.vec 2, v 4, v 3, 0⟩,
    .vxor h0 .f32 ⟨.vec 1, v 2, v 3, 0⟩,
    .vxor h0 .s64 ⟨.vec 2, v 4, v 3, 0⟩,
    .vshl h0 .f32 ⟨.vec 1, v 2, v 3, 0⟩,
    .vshl h0 .s64 ⟨.vec 2, v 4, v 3, 0⟩,
    .vshr h0 .f32 ⟨.vec 1, v 2, v 3, 0⟩,
    .vshr h0 .s64 ⟨.vec 2, v 4, v 3, 0⟩,
    .vsra h0 .f32 ⟨.vec 1, v 2, v 3, 0⟩,
    .vsra h0 .s64 ⟨.vec 2, v 4, v 3, 0⟩,
    .vadd h0 .f32 false ⟨.vec 1, v 2, v 3, 0⟩,
    .vadd h0 .s32 false ⟨.vec 1, v 2, v 3, 1⟩,
    .vsub h0 .f32 false ⟨.vec 1, v 2, v 3, 0⟩,
    .vsub h0 .s32 false ⟨.vec 1, v 2, v 3, 1⟩,
    .vmad h0 .s64 false ⟨.vec 1, v 2, v 4, v 6, 0⟩,
    .vabs h0 .u32 false ⟨.vec 1, v 2, 0⟩] : List Instr).all (fun i => !i.wf) = true := by decide

theorem test_ill_formed_vector_integer_3 : ([
    .vcmp h0 .od .s32 ⟨.pred 1, v 2, v 3, 0⟩,
    .vcmp h0 .eq .s32 ⟨.vec 1, v 2, v 3, 0⟩,
    .vsel h0 .s32 ⟨.vec 1, v 2, v 3, v 4, 0⟩,
    .vred h0 .add .f32 ⟨.vec 1, v 2, 0⟩,
    .vscan h1 .add false .s32 ⟨.vec 1, v 2, 0⟩,
    .vnot h0 .f32 ⟨.vec 1, v 2, 0⟩,
    .vclz h0 .f32 ⟨.vec 1, v 2, 0⟩,
    .vpop h0 .f32 ⟨.vec 1, v 2, 0⟩,
    .vbrev h0 .f32 ⟨.vec 1, v 2, 0⟩,
    .vbcast h0 .u32 ⟨.vec 1, v 2, v 3, 0⟩,
    .vshfl h0 .pick .u32 ⟨.vec 1, v 2, v 3, 0x6000000⟩,
    .vshfl h0 .mirror .u32 ⟨.vec 1, v 2, v 3, 0x5000000⟩,
    .vshfl h0 .deal .u32 ⟨.vec 1, v 2, no, 0x5000001⟩,
    .vshfl h0 .rot .u32 ⟨.vec 1, im, v 3, 0⟩] : List Instr).all (fun i => !i.wf) = true := by decide

theorem test_ill_formed_vector_float_1 : ([
    .fadd h0 .s32 ⟨.vec 1, v 2, v 3, 0⟩,
    .fadd h0 .f32 ⟨.vec 1, v 2, ⟨false, .spec 0⟩, 0⟩,
    .fsub h0 .s32 ⟨.vec 1, v 2, v 3, 0⟩,
    .fsub h0 .f32 ⟨.vec 1, v 2, ⟨false, .spec 0⟩, 0⟩,
    .fmul h0 .s32 ⟨.vec 1, v 2, v 3, 0⟩,
    .fmul h0 .f32 ⟨.vec 1, v 2, ⟨false, .spec 0⟩, 0⟩,
    .fmin h0 .s32 ⟨.vec 1, v 2, v 3, 0⟩,
    .fmin h0 .f32 ⟨.vec 1, v 2, ⟨false, .spec 0⟩, 0⟩,
    .fmax h0 .s32 ⟨.vec 1, v 2, v 3, 0⟩,
    .fmax h0 .f32 ⟨.vec 1, v 2, ⟨false, .spec 0⟩, 0⟩,
    .fdiv h0 .s32 ⟨.vec 1, v 2, v 3, 0⟩,
    .fdiv h0 .f32 ⟨.vec 1, v 2, ⟨false, .spec 0⟩, 0⟩,
    .fabs h0 .f64 ⟨.vec 1, v 2, 0⟩,
    .fneg h0 .f64 ⟨.vec 1, v 2, 0⟩,
    .fsqrt h0 .f64 ⟨.vec 1, v 2, 0⟩,
    .frcp h0 .f64 ⟨.vec 1, v 2, 0⟩] : List Instr).all (fun i => !i.wf) = true := by decide

theorem test_ill_formed_vector_float_2 : ([
    .frsq h0 .f64 ⟨.vec 1, v 2, 0⟩,
    .fexp2 h0 .f64 ⟨.vec 1, v 2, 0⟩,
    .flog2 h0 .f64 ⟨.vec 1, v 2, 0⟩,
    .ffma h0 .f32 ⟨.vec 1, v 2, v 3, no, 0⟩,
    .fcmp h0 .eq .f32 ⟨.vec 1, v 2, v 3, 0⟩,
    .fclass h0 .f64 ⟨.pred 1, v 2, 0⟩,
    .fscl h0 .f32 ⟨.vec 3, v 2, im, 0x10000⟩,
    .fcvt h0 .f32 .f32 (.vec 1) (v 2),
    .fcvt h0 .none .f32 (.vec 1) (v 2),
    .fcvt h0 .f32 .s32 (.vec 1) (v 2),
    .icvt h0 .f32 false .f64 (.vec 2) (v 2),
    .icvt h0 .s32 false .s32 (.vec 2) (v 2),
    .frnd h0 .t8 (.vec 1) (v 2)] : List Instr).all (fun i => !i.wf) = true := by decide

theorem test_ill_formed_memory_1 : ([
    .ld h0 ⟨.rel, 5, .u32, .vec 1, v 2, no, 0⟩,
    .ld h0 ⟨.weak, 5, .u32, .near 1, v 2, no, 0⟩,
    .ld h0 ⟨.weak, 5, .u32, .vec 1, v 3, no, 0⟩,
    .ld h0 ⟨.weak, 5, .none, .vec 2, v 4, no, 0⟩,
    .st h0 ⟨.acq, 5, .u32, .none, v 2, v 3, 0⟩,
    .st h0 ⟨.weak, 5, .u32, .none, v 2, no, 0⟩,
    .ldk h0 ⟨.acq, 5, .u32, .vec 1, v 2, no, 0⟩,
    .ldk h0 ⟨.weak, 6, .u32, .vec 1, v 2, no, 0⟩,
    .lds h0 ⟨.weak, 5, .u32, .vec 1, v 2, no, 0⟩,
    .lds h0 ⟨.weak, 2, .u32, .vec 1, v 2, v 3, 0⟩,
    .sts h0 ⟨.weak, 3, .u32, .none, v 2, v 3, 0⟩,
    .sld h0 ⟨.weak, 5, .u32, ds 1, sc 1 2, no, 0⟩,
    .sld h1 ⟨.weak, 5, .none, ds 1, sc 0 2, no, 0⟩,
    .sst h1 ⟨.weak, 5, .u32, .none, sc 0 2, v 3, 0⟩,
    .pref h0 ⟨.acq, 5, .none, .none, v 2, no, 0⟩,
    .pref h1 ⟨.weak, 5, .none, .none, v 2, no, 0⟩] : List Instr).all (fun i => !i.wf) = true := by decide

theorem test_ill_formed_memory_2 : ([
    .atom h0 .add ⟨.weak, 5, .f32, .vec 1, v 2, v 4, 0⟩,
    .atom h0 .cas ⟨.weak, 5, .u64, .vec 2, v 2, v 2, 0⟩,
    .atom h0 .cas ⟨.weak, 5, .u32, .vec 2, v 2, v 255, 0⟩,
    .atoms h0 .add ⟨.weak, 4, .u32, .vec 1, v 2, v 4, 0⟩,
    .satom h1 .cas ⟨.weak, 5, .u64, ds 1, sc 0 2, sc 0 31, 0⟩,
    .satom h0 .add ⟨.weak, 5, .u64, ds 1, sc 1 2, sc 1 3, 0⟩,
    .red h0 .xchg ⟨.weak, 5, .u32, .none, v 2, v 4, 0⟩,
    .red h0 .add ⟨.ar, 5, .u32, .none, v 2, v 4, 0⟩,
    .fence h0 .weak 5] : List Instr).all (fun i => !i.wf) = true := by decide

theorem test_ill_formed_matrix_1 : ([
    .cpy h1 .g2s (sc 0 29) no 0,
    .cpyp h0 (v 1) no 0,
    .cpys h0 (sc 1 1) (v 1) 0,
    .cpyr h0 .add (sc 1 1) no 5,
    .cpym h0 .s (sc 1 1) no no 0,
    .arv h1 (v 1) 0,
    .arwt h0 1 im no 0,
    .artst h0 .pois 1 im (v 1) 0,
    .artst h0 .done 1 im no 0,
    .omap h0 false false true .t8 0 0 0 7 0,
    .omap h0 false false false .u32 0 0 0 7 0,
    .mma h0 ⟨.none, 0, 0, 0, 1, 0, 0⟩,
    .mma h0 ⟨.f32, 0, 0, 0, 0, 0, 0⟩,
    .mmaloop h0 ⟨.t8, 0, 0, 0, 1, 0, 0⟩,
    .ascl h0 .fp32 .f64 1 0 no no,
    .ascl h0 .fp64 .none 0 1 no no] : List Instr).all (fun i => !i.wf) = true := by decide

theorem test_ill_formed_matrix_2 : ([
    .ascl h1 .fp32 .none 0 1 (v 1) no,
    .amovv h1 .none (.vec 1) 0 no 0,
    .amovv h0 .f64 (.vec 2) 0 no 0,
    .asts h0 .s32 0 0,
    .alds h0 .f64 1 0,
    .acvt h0 false .fp32 true .f32 (.vec 1) 0 no 0 0,
    .acvt h0 true .fp64 false .f32 .none 1 no 0 0,
    .acvt h0 false .fp32 false .u64 (.vec 2) 0 no 0 0,
    .acvt h0 true .fp32 false .f32 .none 0 no 1 0,
    .acvt h0 false .fp32 false .none (.vec 1) 0 no 0 0] : List Instr).all (fun i => !i.wf) = true := by decide

theorem test_ill_formed_tasks_1 : ([
    .bara h0 (ds 1) 0,
    .bara h1 (.vec 1) 0,
    .barw h0 im 0,
    .barw h1 (v 1) 0,
    .tspawn h0 (sc 1 1),
    .tself h1 (.scal 1 1),
    .fwrite h1 (sc 0 1) (v 1),
    .fwait h0 (ds 1) (sc 1 1),
    .ftest h0 .full 1 (sc 1 1),
    .lock h0 (sc 1 1),
    .trylock h1 1 (v 1),
    .unlock h1 im,
    .cntwt h1 (sc 0 1) im,
    .pin h0 0 (v 1),
    .pinx h1 0 (v 2),
    .reclaim h0 1 (sc 1 1) no] : List Instr).all (fun i => !i.wf) = true := by decide

theorem test_ill_formed_tasks_2 : ([
    .reclaim h1 1 no no,
    .rcdrain h0 (.vec 1),
    .msend h0 1 (v 2) (v 4) 0 0,
    .msend h0 1 (v 2) no 1 0,
    .rwait h1 (.vec 1) 0,
    .rack h0 (v 1) 0,
    .rdesc h1 1 (v 2) 0] : List Instr).all (fun i => !i.wf) = true := by decide

theorem test_ill_formed_system : ([
    .rft h1,
    .ctlrd h0 (.vec 1) 0,
    .ctlwr h1 (v 2) 0,
    .cycle h1 .loc (.vec 2),
    .sleepc h1 (v 1) 0,
    .sleepc h1 (sc 0 1) 1,
    .evrd h0 (ds 1) 0,
    .tlbinv h0 .all no,
    .tlbinv h1 .all (sc 0 1),
    .tlbinv h1 .page no] : List Instr).all (fun i => !i.wf) = true := by decide

/-! ## Small states -/

/-- The group of the placed launch (log 5): 32 live lanes, 64 registers, one split at address 0. -/
def g0 : Machine.Group := { Group.fresh 0 0 0 0 32 64 0 0 with seg := some fetchSeg, segDone := false }
/-- A state whose group 0 has an instruction of LEV 0 in hand. -/
def laneS (f : Machine.Group → Machine.Group) : State :=
  ({ State.reset.withFetchWord 96 0 with cur := ⟨.grp 0, 0, 0, 0⟩ } : State).updGrp 0 f
/-- The key of the level-1 context of the placed launch. -/
def k1 : Nat := ctxKey 0 1 0
/-- A state whose level-1 context has an instruction in hand. -/
def ctxS (f : Ctx → Ctx) : State :=
  ({ State.reset.withFetchWord 96 (2 ^ 79) with cur := ⟨.ctx k1, 0, 0, 0⟩ } : State).updCtx k1 f
/-- The level-1 context of that state. -/
def c1 : Ctx := ((ctxS id).ctx? k1).getD (Ctx.fresh 0 1 0 1 0 0)
/-- All 32 lanes. -/
abbrev all : Lanes := 0xFFFFFFFF

theorem inLanes_laneS : InLanes (laneS id) h0 0 g0 all := ⟨rfl, by decide, by decide, by decide⟩
theorem atContext_ctxS : AtContext (ctxS id) h1 k1 c1 := ⟨by decide, by decide, by decide⟩

/-! ## States that meet the hypotheses: computations -/

theorem witness_integer_computations : 0 < 8 ∧ (0#8 = 0) ∧ 1#8 ≠ 0 ∧ minOf true 8 ≤ -128 ∧ (127 : Int) ≤ maxOf true 8 ∧
    (-129 : Int) < minOf true 8 ∧ maxOf true 8 < 128 := by decide

theorem witness_scalar_result : AtContext (ctxS id) h1 k1 c1 ∧ c1.logRoom = true ∧
    ScalReady (ctxS id) h1 [(1, sc 0 1), (2, sc 0 31)] [ds 0] ∧ ScalReady (ctxS id) h1 [(1, im)] [ds 31] ∧
    ScalReady (ctxS id) h1 [] [ds 3] ∧ ScalReady (ctxS id) h1 [(1, ⟨false, ds 3⟩)] [ds 3] :=
  ⟨atContext_ctxS, by decide, by unfold ScalReady; decide, by unfold ScalReady; decide, by unfold ScalReady; decide,
    by unfold ScalReady; decide⟩

theorem witness_false_guard :
    (∃ c, (ctxS id).ctx? (ownKey (ctxS id) (ctxS id).cur.u 1) = some c ∧ guardCtx c ⟨1, 0, false⟩ = false) ∧
    ∃ g, (laneS id).cur.u = .grp 0 ∧ (laneS id).grp? 0 = some g ∧ activeOf (laneS id) g ⟨0, 0, false⟩ = 0 :=
  ⟨⟨c1, by decide, by decide⟩, g0, by decide, by decide, by decide⟩

theorem witness_predicate_result : AtContext (ctxS id) h1 k1 c1 ∧ ScalReady (ctxS id) h1 [(1, sc 0 1), (2, im)] [] ∧
    InLanes (laneS id) h0 0 g0 all ∧ checkAll (laneS id) (laneS id).cur.u 0 all [] [⟨.vec 63, 1, all⟩] = none :=
  ⟨atContext_ctxS, by unfold ScalReady; decide, inLanes_laneS, by decide⟩

/-- A lane instruction whose sources are `us` and whose destination is `d` is ready on the state of all 32 lanes. -/
abbrev lanesReady (us : List Use) (d : Opd) (dn : Nat) (resid : Bool) : Prop :=
  ∃ u, LaneReady (laneS id) 0 g0 all us d dn resid u

theorem witness_vector_integer_result :
    lanesReady (usesOf all 1 [(1, v 1), (2, v 2)]) (.vec 3) 1 true ∧ lanesReady (usesOf all 1 [(1, v 1), (2, im)]) (.vec 3) 1 false ∧
    lanesReady (usesOf all 2 [(1, v 62)]) (.vec 62) 2 false ∧ lanesReady [] (.near 7) 1 false ∧
    lanesReady (usesOf all 1 [(1, v 1), (2, v 2), (3, pr 0)]) (.vec 3) 1 false ∧
    lanesReady (usesOf all 1 [(1, v 1), (2, v 2), (3, v 3)]) (.vec 3) 1 true ∧
    lanesReady (usesOf all 1 [(1, v 1), (2, v 2)]) (.pred 14) 1 false :=
  ⟨⟨_, by decide, rfl⟩, ⟨_, by decide, rfl⟩, ⟨_, by decide, rfl⟩, ⟨_, by decide, rfl⟩, ⟨_, by decide, rfl⟩, ⟨_, by decide, rfl⟩,
    ⟨_, by decide, rfl⟩⟩

theorem witness_reduction_result : InLanes (laneS id) h0 0 g0 all ∧
    lanesReady (usesOf all (tyRegs .s32) [(1, v 1)]) (.vec 3) (tyRegs .s32) false := ⟨inLanes_laneS, _, by decide, rfl⟩

theorem witness_float_results : InLanes (laneS id) h0 0 g0 all ∧
    lanesReady (usesOf all 2 [(1, v 2), (2, v 4)]) (.vec 6) 2 true ∧ lanesReady (usesOf all 2 [(1, v 2), (2, v 4), (3, v 6)]) (.vec 6) 2 true ∧
    lanesReady (usesOf all 1 [(1, v 2), (2, v 4)]) (.vec 6) 1 false ∧ lanesReady (usesOf all 2 [(1, v 2)]) (.vec 6) 2 false ∧
    lanesReady (usesOf all 2 [(1, v 2)] ++ usesOf all 1 [(2, v 4)]) (.vec 6) 2 true ∧
    lanesReady (usesOf all 1 [(1, v 2), (2, v 4)]) (.pred 0) 1 false ∧ lanesReady (usesOf all 2 [(1, v 2)]) (.vec 7) 1 false :=
  ⟨inLanes_laneS, ⟨_, by decide, rfl⟩, ⟨_, by decide, rfl⟩, ⟨_, by decide, rfl⟩, ⟨_, by decide, rfl⟩, ⟨_, by decide, rfl⟩,
    ⟨_, by decide, rfl⟩, ⟨_, by decide, rfl⟩⟩

/-- A lane operation from one source lane: B the immediate select, of which lane 31 is named, or a rotation by it. -/
theorem witness_shuffle_result :
    checkUses (laneS id) (.grp 0) 0 all [⟨2, im, 1, all, true⟩] [⟨.vec 3, 1, all⟩] = none ∧
    checkUses (laneS id) (.grp 0) 0 all [⟨1, v 1, 1, all ||| 0x80000000, true⟩] [⟨.vec 3, 1, all⟩] = none ∧
    poisonLanes (laneS id) (.grp 0) 0 [⟨2, im, 1, all, true⟩, ⟨1, v 1, 1, shflLanes (.vec 1) all 0x80000000, true⟩] = 0 ∧
    (∃ u, gate (laneS id) 0 g0 all false = .next u) ∧ (5 ≤ 5 ∧ 31 < 32) :=
  ⟨by decide, by decide, by decide, ⟨_, rfl⟩, by decide⟩

/-! ## States that meet the hypotheses: memory -/

/-- A page of 2 MiB at address 0 that may be read, written and fetched. -/
def page : TlbEnt := ⟨0, 0, 21, 0, true, true, false⟩
/-- A state with that page in the translation caches of core 0 and its cluster. -/
def mapped (s : State) : State := (s.updCore 0 (fun c => { c with tlb := [page] })).updCluster 0 (fun c => { c with tlb := [page] })
/-- One live lane. -/
def laneM : State := mapped (laneS (fun g => { g with live := 1 }))
/-- Its group. -/
def gm : Machine.Group := { g0 with live := 1 }
/-- A context with the page. -/
def ctxM : State := mapped (ctxS id)
/-- The operands of a memory instruction of type u32 at the address in v8 and v9. -/
def opm : OpM := ⟨.weak, 5, .u32, .vec 6, v 8, v 10, 64⟩
/-- Of a context: at the address in a scalar. -/
def opc : OpM := ⟨.weak, 5, .u64, ds 3, sc 0 1, im, 64⟩

theorem inLanes_laneM : InLanes laneM h0 0 gm 1 := ⟨by decide, by decide, by decide, by decide⟩
theorem atContext_ctxM : AtContext ctxM h1 k1 c1 := ⟨by decide, by decide, by decide⟩

/-- The accesses of a global memory instruction meet no fault, with the state that the look-ups leave. -/
abbrev globalOk (s : State) (lev al : Nat) (need : Need) (es : List (Nat × W64)) (uses : List Use) (ps : List (Nat × Nat)) : Prop :=
  ∃ t, GlobalOk s lev al need es uses t ps

theorem globalOk_of (s : State) (lev al : Nat) (need : Need) (es : List (Nat × W64)) (uses : List Use) (ps : List (Nat × Nat))
    (form : ∀ p ∈ es, vaOk p.2 = true) (aligned : ∀ p ∈ es, p.2.toNat % al = 0)
    (hit : (xlate s s.cur.u need (es.map (fun p => (p.1, p.2.toNat)))).1 = ps.map (fun p => (p.1, .ok p.2)))
    (clean : let t := (xlate s s.cur.u need (es.map (fun p => (p.1, p.2.toNat)))).2; checkPoison t t.cur.u lev uses = none) :
    globalOk s lev al need es uses ps := ⟨_, form, aligned, Prod.ext hit rfl, clean⟩

theorem witness_load_issues : InLanes laneM h0 0 gm 1 ∧ (c1.logRoom = true ∧ (c1.write 3 ⟨(c1.cell 3).v, false, false⟩).logRoom = true) ∧
    checkUses laneM laneM.cur.u 0 1 (addrUses opm 1 2 true) [⟨opm.d, 1, 1⟩] = none ∧
    globalOk laneM 0 4 .read ((lanesOf 1).map (fun i => (i, globalEa laneM 0 opm true i))) (addrUses opm 1 2 true) [(0, 64)] ∧
    ScrOk laneM 4 4 ((lanesOf 1).map (fun i => (i, scrEa laneM opm i))) (addrUses opm 1 1 false) ∧
    checkUses ctxM ctxM.cur.u 1 0 (addrUses opc 1 1 true) [⟨opc.d, 1, 0⟩] = none ∧
    globalOk ctxM 1 8 .read [(0, globalEa ctxM 1 opc true 0)] (addrUses opc 1 1 true) [(0, 64)] :=
  ⟨inLanes_laneM, by decide, by decide, globalOk_of _ _ _ _ _ _ _ (by decide) (by decide) (by decide) (by decide),
    ⟨by decide, by decide, by decide⟩, by decide, globalOk_of _ _ _ _ _ _ _ (by decide) (by decide) (by decide) (by decide)⟩

theorem witness_store_issues : InLanes laneM h0 0 gm 1 ∧ AtContext ctxM h1 k1 c1 ∧
    (let us := addrUses opm 1 2 false ++ dataUses 1 1 opm.b
     checkUses laneM laneM.cur.u 0 1 us [] = none ∧
     globalOk laneM 0 4 .write ((lanesOf 1).map (fun i => (i, globalEa laneM 0 opm false i))) us [(0, 64)]) ∧
    (let us := addrUses opm 1 1 false ++ dataUses 1 1 opm.b
     checkUses laneM laneM.cur.u 0 1 us [] = none ∧ ScrOk laneM 4 4 ((lanesOf 1).map (fun i => (i, scrEa laneM opm i))) us) ∧
    (let us := addrUses opc 1 1 false ++ dataUses 1 1 opc.b
     checkUses ctxM ctxM.cur.u 1 0 us [] = none ∧ globalOk ctxM 1 8 .write [(0, globalEa ctxM 1 opc false 0)] us [(0, 64)]) :=
  ⟨inLanes_laneM, atContext_ctxM, ⟨by decide, globalOk_of _ _ _ _ _ _ _ (by decide) (by decide) (by decide) (by decide)⟩,
    ⟨by decide, by decide, by decide, by decide⟩,
    ⟨by decide, globalOk_of _ _ _ _ _ _ _ (by decide) (by decide) (by decide) (by decide)⟩⟩

theorem witness_atomic_issues : InLanes laneM h0 0 gm 1 ∧ AtContext ctxM h1 k1 c1 ∧
    (let us := addrUses opm 1 2 false ++ atomUses 1 .cas .u32 opm.b
     globalOk laneM 0 4 .write ((lanesOf 1).map (fun i => (i, globalEa laneM 0 opm false i))) us [(0, 64)] ∧
     checkUses laneM laneM.cur.u 0 1 us [⟨opm.d, 1, 1⟩] = none ∧ hostRefuses laneM .cas false 64 = false ∧ hostRefuses laneM .add true 64 = false) ∧
    (let us := addrUses opm 1 1 false ++ atomUses 1 .add .u32 opm.b
     checkUses laneM laneM.cur.u 0 1 us [⟨opm.d, 1, 1⟩] = none ∧ ScrOk laneM 4 4 ((lanesOf 1).map (fun i => (i, scrEa laneM opm i))) us) ∧
    (let us := addrUses opc 1 1 false ++ atomUses 1 .add .u64 opc.b
     checkUses ctxM ctxM.cur.u 1 0 us [⟨opc.d, 1, 0⟩] = none ∧
     hostRefuses ctxM .add false 64 = false ∧ globalOk ctxM 1 8 .write [(0, globalEa ctxM 1 opc false 0)] us [(0, 64)]) :=
  ⟨inLanes_laneM, atContext_ctxM,
    ⟨globalOk_of _ _ _ _ _ _ _ (by decide) (by decide) (by decide) (by decide), by decide, by decide, by decide⟩,
    ⟨by decide, by decide, by decide, by decide⟩,
    ⟨by decide, by decide, globalOk_of _ _ _ _ _ _ _ (by decide) (by decide) (by decide) (by decide)⟩⟩

theorem witness_fence_and_prefetch : InLanes laneM h0 0 gm 1 ∧ (scopeOf laneM 0 0 false = 0 ∧ scopeOf laneM 0 5 false ≠ 0) ∧ AtContext ctxM h1 k1 c1 ∧
    ((addrUses opm 1 2 true).any (fun x => !x.o.feb && (useEmpty laneM laneM.cur.u 0 x != 0 || useStalls laneM laneM.cur.u 0 x))) = false ∧
    ((addrUses opc 1 2 true).any (fun x => !x.o.feb && (useEmpty ctxM ctxM.cur.u 1 x != 0 || useStalls ctxM ctxM.cur.u 1 x))) = false :=
  ⟨inLanes_laneM, by decide, atContext_ctxM, by decide, by decide⟩

/-- An arrival word before, at and after the end of its phase. -/
theorem witness_arrival_word_steps : (15 < 16 ∧ 2 ^ 24 - 1 < 2 ^ 24 ∧ 2 ^ 32 - 1 < 2 ^ 32) ∧
    (⟨15, true, 0, 0, 1⟩ : ArrWord).exp = 0 ∧ (⟨15, true, 0, 3, 1⟩ : ArrWord).parr = 0 ∧
    1 < (⟨15, true, 2, 3, 1⟩ : ArrWord).parr ∧ (⟨15, true, 1, 3, 1⟩ : ArrWord).psec ≠ 0 ∧ (⟨15, true, 1, 3, 0⟩ : ArrWord).psec = 0 := by decide

theorem actsOnce_laneM : ActsOnce laneM h0 1 := .inl ⟨rfl, 0, gm, inLanes_laneM⟩
theorem actsOnce_ctxM : ActsOnce ctxM h1 0 := .inr ⟨by decide, rfl, k1, c1, atContext_ctxM⟩
/-- A group that waits at an ARWT whose phase has ended. -/
def laneW (w : WaitSt) : State := mapped (laneS (fun g => { g with live := 1, splits := g.splits.map (fun x => x.map (fun y => { y with w := w })) }))
/-- A context that waits. -/
def ctxW (w : WaitSt) : State := mapped (ctxS (fun c => { c with w := w }))

theorem witness_arrival_instructions : OnceReady laneM h0 1 1 [(1, v 1), (2, im)] [] ∧ OnceReady laneM h0 1 1 [(1, v 1)] [] ∧
    ArrivalOk laneM (1024 * 512 - 16) ∧ ArrivalOk laneM (arrOff laneM h0 1 1 (.vec 1)) ∧ (arrGet laneM (bandHere laneM) 0).psec = 0 ∧
    onceDrained laneM h0 2 = true ∧ (∃ w, arrArrive (arrGet laneM (bandHere laneM) 0) = some w) ∧ waitOf laneM 0 = .none ∧
    (arrGet laneM (bandHere laneM) 0).phase ≠ 1 ∧ waitOf (laneW (.arwt 0 1 (some true))) 0 = .arwt 0 1 (some true) :=
  ⟨⟨actsOnce_laneM, by decide, by decide⟩, ⟨actsOnce_laneM, by decide, by decide⟩, by unfold ArrivalOk; decide,
    by unfold ArrivalOk; decide, by decide, by decide, ⟨_, rfl⟩, by decide, by decide, by decide⟩

/-- One live lane whose context holds a tile descriptor in s4 to s7: a tile of rows 8 bytes apart at address 0. -/
def laneC (shape : W64) : State := laneM.updCtx k1 (fun c => ((c.put 5 ⟨8, true, false⟩).put 6 ⟨shape, true, false⟩).put 8 ⟨1, true, false⟩)
/-- Its arrival word: offset 1024. -/
def arw : BitVec 27 := 1024

theorem copyOk_of (s : State) (h : Hdr) (m : Lanes) (k : CopyKind) (a b : Src) (msk : Option Src) (imm : BitVec 27) (ps : List (Nat × Nat))
    (acts : ActsOnce s h m)
    (checks : let c := copyOf s h m k a b msk imm
      checkUses s s.cur.u (Hdr.lv h) m (copyUses h m a b msk) [] = none ∧ copyBadVa c = false ∧
      (c.base.toNat % elSize c.ty = 0 ∧ c.stride % elSize c.ty = 0 ∧ ¬(c.ty = 0xF ∧ c.cols % 2 = 1)) ∧
      (∃ off, c.arr = some off ∧ off % 16 = 0 ∧ off + 16 ≤ scrSize s) ∧
      c.other % 2 ^ 32 + c.dense ≤ scrSize s ∧ (k = .s2s → ∀ i < c.rows, c.rowAt i + c.rowBytes ≤ scrSize s) ∧
      (copyMap s c).1 = ps.map (fun p => (p.1, .ok p.2)) ∧ isProducer s c = true ∧ (copyTo s h k msk).isSome = true)
    (later : let c := copyOf s h m k a b msk imm
      let t := (copyMap s c).2
      (∀ p ∈ ps, redDenies t k p.2 = false) ∧ descBad t k (copyWords s h a) c c.sectorList.length = false ∧
      checkPoison t t.cur.u (Hdr.lv h) (copyUses h m a b msk) = none ∧ droverRoom t c.bk = true) :
    ∃ c t, CopyOk s h m k a b msk imm c t ps := by
  obtain ⟨h1, h2, h3, ⟨off, h4, h5⟩, h6, h7, h8, h9, h10⟩ := checks
  obtain ⟨g1, g2, g3, g4⟩ := later
  refine ⟨_, _, ⟨acts, h1, rfl, h2, h3, ?_, .inr h6, h7, Prod.ext h8 rfl, g1, h9, h10, g2, g3, g4⟩⟩
  intro o ho
  rw [h4] at ho
  cases ho
  exact h5

/-- 8 rows of 8 bytes, and 8 rows of 2 words of U32. -/
def bytes8 : State := laneC 0x100080008
def words2 : State := laneC 0x600020008

theorem actsOnce_laneC (x : W64) : ActsOnce (laneC x) h0 1 := .inl ⟨rfl, 0, gm, ⟨rfl, rfl, rfl, by decide⟩⟩

theorem witness_copy_commands :
    (∃ c t, CopyOk bytes8 h0 1 .g2s (sc 1 4) im none arw c t [(0, 0), (1, 32)]) ∧
    (∃ c t, CopyOk bytes8 h0 1 .plane (sc 1 4) im none arw c t [(0, 0), (1, 32)]) ∧
    (∃ c t, CopyOk bytes8 h0 1 .mScr (sc 1 4) im (some (sc 1 8)) arw c t [(0, 0), (1, 32)]) ∧
    (∃ c t, CopyOk bytes8 h0 1 .s2s (sc 1 4) im none arw c t [(0, 0), (1, 32)]) ∧
    (∃ c t, CopyOk bytes8 h0 1 .mPlane (sc 1 4) im (some (sc 1 8)) arw c t [(0, 0), (1, 32)]) ∧
    (∃ c t, CopyOk words2 h0 1 (.red .add) (sc 1 4) im none arw c t [(0, 0), (1, 32)]) ∧
    (∃ c t, CopyOk bytes8 h0 1 .s2g (sc 1 4) im none arw c t [(0, 0), (1, 32)]) := by
  refine ⟨?_, ?_, ?_, ?_, ?_, ?_, ?_⟩ <;>
    exact copyOk_of _ _ _ _ _ _ _ _ _ (actsOnce_laneC _)
      ⟨by decide, by decide, by decide, ⟨1024, by decide⟩, by decide, by decide, by decide, by decide, by decide⟩
      ⟨by decide, by decide, by decide, by decide⟩

/-! ## States that meet the hypotheses: the matrix unit -/

/-- A map of 64 lines, eight blocks wide, of U8, in buffer 2, and one in buffer 5. -/
def mapA : W64 := omapWord false false .u8 2 0 7 0
def mapB : W64 := omapWord false false .u8 5 0 7 0
/-- One live lane whose band holds those maps. -/
def laneX : State := laneM.updBand 0 (fun b => { b with maps := [(0, mapA), (1, mapB)] })
/-- Its band. -/
def bx : Band := (laneX.band? 0).getD (Band.fresh 0 0)

theorem actsOnce_laneX : ActsOnce laneX h0 1 := .inl ⟨rfl, 0, gm, ⟨rfl, rfl, rfl, by decide⟩⟩

theorem witness_operand_map : ActsOnce laneX h0 1 ∧ mapOk true mapB = true ∧ laneX.band? (bandHere laneX) = some bx ∧
    (let x := bandMap bx 0
     mapV x = true ∧ 8 * mapW x * blkBytes (mapP x) ≤ 16384 ∧ 8 * 8 * blkBytes (mapP x) ≤ 16384 ∧ (520192 : BitVec 27).toNat % elSize (mapFmt x) = 0 ∧
     520192 + (plstShape false x).1 * elBytes (mapFmt x) (plstShape false x).2 ≤ scrSize laneX ∧
     scrFree laneX h0 (bandHere laneX) 520192 4096 false = true) ∧
    (∀ i < 2, ∀ x ∈ (laneX.core bx.core).old, x.key = mapKey 0 i → x.fence ≠ (laneX.core bx.core).fences) :=
  ⟨actsOnce_laneX, by decide, rfl, by decide, by decide⟩

theorem mapNow_laneX (m : BitVec 4) : mapNow laneX bx m = mapHalf (bandMap bx m) 1 ++ mapHalf (bandMap bx m) 0 := by
  have h : (laneX.core bx.core).old = [] := rfl
  simp [mapNow, mapWordNow, h, nth?, Nat.mod_one]

theorem witness_matrix_multiply : ActsOnce laneX h0 1 ∧ laneX.band? (bandHere laneX) = some bx ∧
    mmaOk .s32 7 (mapNow laneX bx 0) (mapNow laneX bx 1) 1 0 0 = true ∧ mmaOk .f64 6 (mapNow laneX bx 0) (mapNow laneX bx 1) 2 1 1 = true ∧
    ¬mmaOk .s32 7 (mapNow laneX bx 2) (mapNow laneX bx 1) 1 0 0 = true ∧
    mqRoom laneX bx.core = true ∧ AtContext ctxM h1 k1 c1 ∧
    (∀ p ∈ (bandsUnder ctxM c1.gc c1.lvl c1.g).filter (fun p => p.2.st == .resident && (ctxM.lrec c1.gc).mat), mqRoom ctxM p.2.core = true) :=
  ⟨actsOnce_laneX, rfl, by rw [mapNow_laneX, mapNow_laneX]; decide, by rw [mapNow_laneX, mapNow_laneX]; decide,
    by rw [mapNow_laneX, mapNow_laneX]; decide, by decide, atContext_ctxM, by decide⟩

theorem witness_matrix_queue : ActsOnce laneX h0 1 ∧
    (∀ o ∈ (laneX.core (coreAt laneX (bandHere laneX))).mq, o.bk = bandHere laneX → ∃ y, (none : Option (BitVec 3)) = some y ∧ o.wr.contains y.toNat = false) ∧
    (∀ p ∈ (laneX.core (coreAt laneX (bandHere laneX))).mfault, p.2.bk = bandHere laneX → ∃ y, (none : Option (BitVec 3)) = some y ∧
      p.2.accs.contains y.toNat = false) ∧
    mqRoom laneX (coreAt laneX (bandHere laneX)) = true ∧
    checkAll laneX laneX.cur.u 0 1 (usesOf (scaleLanes laneX) 1 [(2, v 1), (3, v 2)]) [] = none ∧
    checkAll laneX laneX.cur.u 0 1 (usesOf 1 1 [(2, sc 1 1)]) [⟨.vec 4, rowRegs .f64, 1⟩] = none ∧
    ((524288 - 4096 * 8) % 8 = 0 ∧ 524288 - 4096 * 8 + 4096 * 8 ≤ scrSize laneX) :=
  ⟨actsOnce_laneX, fun o ho => absurd ho (by rw [show (laneX.core (coreAt laneX (bandHere laneX))).mq = [] from rfl]; exact List.not_mem_nil),
    fun o ho => absurd ho (by rw [show (laneX.core (coreAt laneX (bandHere laneX))).mfault = [] from rfl]; exact List.not_mem_nil),
    by decide, by decide, by decide, by decide⟩

/-! ## States that meet the hypotheses: control -/

/-- The line at address 0 with a TGT bit at each of its slots, in the caches that group 0 and its contexts fetch from. -/
def marked (s : State) : State :=
  let f := fun (_ : List LineEnt) => [(⟨0, 0, (BitVec.allOnes 32 ++ (0 : BitVec 480) : BitVec 512)⟩ : LineEnt)]
  (s.updCore 0 (fun c => { c with lines := f c.lines })).updCluster 0 (fun c => { c with lines := f c.lines })

theorem ex_snd {α β : Type} {p : α × β} {a : α} (h : p.1 = a) : ∃ t, p = (a, t) := ⟨_, Prod.ext h rfl⟩

theorem transferOk_of (s : State) (lev : Nat) (ts : List W64) (h : (checkTgts s (placeOf s s.cur.u) (gcOf s s.cur.u) ts).1 = .ok)
    (hi : let t := (checkTgts s (placeOf s s.cur.u) (gcOf s s.cur.u) ts).2; ts.all (inBound t lev) = true) :
    ∃ t, TransferOk s lev ts t := ⟨_, Prod.ext h rfl, hi⟩

/-- A context with that line. -/
def ctxT (f : Ctx → Ctx) : State := marked (ctxS f)
/-- The context of such a state. -/
def ctT (f : Ctx → Ctx) : Ctx := ((ctxT f).ctx? k1).getD c1
/-- In a loop inside a called routine. -/
def inLoop (c : Ctx) : Ctx := { c with calls := [(0, ⟨1, 0⟩)], depth := 1, loops := [⟨2, 2⟩] }
/-- In the last round of that loop. -/
def lastLoop (c : Ctx) : Ctx := { c with loops := [⟨1, 2⟩] }

theorem witness_conditions_and_reports : isLower 1 (.scal 0 1) = false ∧ checkUses (ctxS id) (ctxS id).cur.u 1 0 [⟨1, sc 0 1, 1, 1, true⟩] [] = none ∧
    (∀ r ∈ [(⟨.empty, []⟩ : Report)], r.k = .empty) ∧
    (RepKind.value 7 ≠ .mixed ∧ RepKind.value 7 ≠ .empty ∧ ∀ r ∈ [(⟨.empty, []⟩ : Report), ⟨.value 7, [⟨.value 7, 1, 0, 0⟩]⟩], r.k = .empty ∨ r.k = .value 7) ∧
    (RepKind.allTrue ≠ .empty ∧ RepKind.allFalse ≠ .empty ∧ RepKind.allTrue ≠ .allFalse) := by decide

theorem witness_branch_and_call :
    (AtContext (ctxT id) h1 k1 (ctT id) ∧ resolve (ctxT id) 1 (sc 0 1) false false = .val (some 0) false ∧
      resolve (ctxT id) 1 (sc 0 1) false true = .val (some 0) false ∧ resolve (ctxT id) 1 (sc 0 1) true false = .val (some 0) false ∧
      (∃ t, TransferOk (ctxT id) 1 [tgtIa (ctxT id) 4] t) ∧ (∃ t, TransferOk (ctxT id) 1 [0, iaNext (ctxT id).cur.ia] t) ∧
      ((ctT id).depth < 80 ∧ callRoom (ctT id) = true ∧ (ctT id).depth - (ctT id).spilled < 16)) ∧
    (AtContext (ctxT inLoop) h1 k1 (ctT inLoop) ∧ tabGet ⟨0, 0⟩ (ctT inLoop).calls ((ctT inLoop).depth - 1) = ⟨1, 0⟩ ∧ 0 < (ctT inLoop).depth ∧
      (1, 0).2 ≤ (ctT inLoop).loops.length ∧ (∃ t, TransferOk (ctxT inLoop) 1 [1] t) ∧ ¬((ctT inLoop).depth - 1 = (ctT inLoop).spilled ∧ 0 < (ctT inLoop).spilled)) :=
  ⟨⟨⟨by decide, rfl, by decide⟩, rfl, rfl, rfl, transferOk_of _ _ _ (by decide) (by decide), transferOk_of _ _ _ (by decide) (by decide), by decide⟩,
    ⟨by decide, rfl, by decide⟩, by decide, by decide, by decide, transferOk_of _ _ _ (by decide) (by decide), by decide⟩

theorem witness_loop_and_level :
    (AtContext (ctxT id) h1 k1 (ctT id) ∧ resolve (ctxT id) 1 (sc 0 1) true true = .val (some 0) false ∧
      resolve (ctxT id) 1 im true true = .val (some 0) false ∧
      (∃ t, TransferOk (ctxT id) 1 [tgtIa (ctxT id) 4, iaNext (ctxT id).cur.ia] t) ∧ (ctT id).loops.length ≠ 8) ∧
    (AtContext (ctxT inLoop) h1 k1 (ctT inLoop) ∧ (ctT inLoop).loops = ⟨2, 2⟩ :: [] ∧ loopFloor (ctT inLoop) < (ctT inLoop).loops.length ∧
      (∃ t, TransferOk (ctxT inLoop) 1 [2] t) ∧ resolve (ctxT inLoop) 1 (sc 0 1) false false = .val (some 0) false) ∧
    (AtContext (ctxT lastLoop) h1 k1 (ctT lastLoop) ∧ (ctT lastLoop).loops = ⟨1, 2⟩ :: []) ∧
    (takes .nz (some 0) = false ∧ takes .z (some 0) = true) ∧ (∀ x ∈ (ctxT id).accs, ofSubtree (ctxT id) 0 1 0 x = true → performedAt x 2 = true ∨ x.kind = .fence) :=
  ⟨⟨⟨by decide, rfl, by decide⟩, rfl, rfl, transferOk_of _ _ _ (by decide) (by decide), by decide⟩,
    ⟨⟨by decide, rfl, by decide⟩, rfl, by decide, transferOk_of _ _ _ (by decide) (by decide), rfl⟩,
    ⟨⟨by decide, rfl, by decide⟩, rfl⟩, by decide, by decide⟩

/-- Two live lanes, of which p1 holds in lane 0, at the marked line. -/
def laneB : State := marked (laneS (fun g => { g with live := 3, pr := [(1, 1)] }))
/-- The group of that state. -/
def gb : Machine.Group := (laneB.grp? 0).getD g0

theorem witness_lane_control :
    (InLanes laneB h0 0 gb 3 ∧ (∃ x, curSplit laneB gb = some x ∧ x.mask &&& gb.live = 3 ∧
        (∃ g', diverge gb 0 x 1 (tgtIa laneB 3) (tgtIa laneB 4) 1 = some g')) ∧
      checkUses laneB (.grp 0) 0 3 (vecUses (pr 1) 3) [] = none ∧ (∃ t, TransferOk laneB 0 [tgtIa laneB 3, tgtIa laneB 4] t) ∧
      poisonLanes laneB (.grp 0) 0 (vecUses (pr 1) 3) = 0 ∧
      takenLanes .nz (condLanes gb (.pred 1) 3) 3 = 1 ∧ takenLanes .nz (condLanes gb (.pred 0) 3) 3 = 0 ∧
      takenLanes .nz (condLanes gb (.pred 15) 3) 3 = 3) ∧
    AtContext (ctxS id) h1 k1 c1 ∧ c1.dom ≤ domGroup ∧
    (∃ s c, AtContext s h2 (ctxKey 0 2 0) c ∧ domGroup < c.dom) :=
  ⟨⟨⟨rfl, rfl, by decide, by decide⟩, ⟨_, rfl, by decide, _, rfl⟩, by decide, transferOk_of _ _ _ (by decide) (by decide), by decide, by decide,
    by decide, by decide⟩, atContext_ctxS, by decide,
    { ctxS id with cur := ⟨.ctx (ctxKey 0 2 0), 0, 0, 0⟩ }, _, ⟨by decide, rfl, by decide⟩, by decide⟩

/-- A group whose band is asked to park. -/
def laneP : State := laneM.updBand 0 (fun b => { b with park := some ⟨1, 0⟩, cause := 1 })
/-- A group in region 5, that it entered at address 0. -/
def laneI : State := mapped (laneS (fun g => { g with region := ⟨true, .grp, 5, 0, all, 2⟩ }))

theorem witness_region_and_grant :
    (∃ b, laneP.band? 0 = some b ∧ b.park.isSome ∧ b.cause = 1) ∧ (∃ b, laneM.band? 0 = some b ∧ b.park = none) ∧
    gm.single = true ∧ gm.handler = none ∧ (∃ x, curSplit laneM gm = some x) ∧ InLanes laneM h0 0 gm 1 ∧
    (∃ g, laneI.grp? 0 = some g ∧ g.region.valid = true ∧ g.region.index = 5 ∧ g.region.entry = laneI.cur.ia) ∧ gm.region.valid = false ∧
    checkAll laneM laneM.cur.u 0 1 (ownUses im 1) [] = none ∧
    (gm.vcount + 192 ≤ (laneM.lrec gm.gc).vmax ∧ growFits laneM gm 192 = true) ∧
    (56 + 8 ≤ gm.vcount ∧ ∀ i < 8, ∀ l ∈ lanesOf (lowMask gm.nlive), gm.vempty (gm.vcount - 8 + i) l = false) ∧
    (let g := { gm with vwant := 8 }
     g.vwant ≠ 0 ∧ growFits (laneM.updGrp 0 (fun _ => g)) g 8 = true) :=
  ⟨⟨_, rfl, by decide, by decide⟩, ⟨_, rfl, rfl⟩, by decide, rfl, ⟨_, rfl⟩, inLanes_laneM, ⟨_, rfl, by decide, by decide, by decide⟩, by decide,
    by decide, by decide, ⟨by decide, by decide⟩, by decide, by decide⟩

/-- Lane 0 holds 1 in v1. -/
def laneV : State := laneM.updGrp 0 (fun g => { g with vr := [(vkey 1 0, 1)] })

theorem witness_barrier : ActsOnce laneM h0 1 ∧ waitOf laneM 0 = .none ∧ barBefore laneM h0 (barHere laneM h0) 7 1 = 0 ∧
    barPhase (barArrive laneM (barHere laneM h0) 7 (barFresh laneM h0 (barHere laneM h0) 7 1)) (barHere laneM h0) 7 ≠ barPhase laneM (barHere laneM h0) 7 ∧
    (waitOf (laneW (.bar k1 15 0)) 0 = .bar k1 15 0 ∧ barPhase (laneW (.bar k1 15 0)) (barHere laneM h0) 7 ≠ 15) ∧
    WordReady laneM h0 1 [] (onceDst h0 (.vec 3) 1 1) ∧ LogFits laneM h0 ∧
    OnceReady laneV h0 1 1 [(1, v 1)] [] ∧ barPhase laneV (barHere laneV h0) 7 ≠ (onceVal laneV h0 1 0 (.vec 1)).toNat % 16 ∧
    (∃ c, laneM.ctx? k1 = some c ∧ barMembers laneM c = [laneMember 0 0]) ∧ (laneM.bar k1 7).arrived.Nodup :=
  ⟨actsOnce_laneM, by decide, by decide, by decide, by decide, ⟨actsOnce_laneM, by decide⟩, fun e => absurd rfl e,
    ⟨.inl ⟨rfl, 0, _, ⟨rfl, rfl, rfl, by decide⟩⟩, by decide, by decide⟩, by decide, ⟨_, rfl, by decide⟩, by decide⟩

/-- Lower-level conditions at a context, and in the lanes of a group: one of two lanes, none, and all; and a group without live lanes. -/
theorem witness_resolved_conditions : (isLower 1 (.pred 1) = true ∧ (ctxS id).cur.u = .ctx k1 ∧ (ctxS id).ctx? k1 = some c1) ∧
    (laneB.cur.u = .grp 0 ∧ ∃ g, laneB.grp? 0 = some g ∧ bandAway laneB (bandKey g.gc g.b) = false ∧ condCheck laneB 0 g (pr 1) g.live = none ∧
      condCheck laneB 0 g (pr 2) g.live = none ∧ g.live ≠ 0 ∧ condLanes g (.pred 1) g.live ≠ 0 ∧ condLanes g (.pred 1) g.live ≠ g.live ∧
      condLanes g (.pred 2) g.live = 0 ∧ condLanes { g with live := 1 } (.pred 1) 1 = 1) ∧
    (∃ g, (laneB.updGrp 0 (fun g => { g with live := 0 })).grp? 0 = some g ∧ g.live = 0 ∧
      condCheck (laneB.updGrp 0 (fun g => { g with live := 0 })) 0 g (pr 1) g.live = none) :=
  ⟨⟨by decide, by decide, by decide⟩, ⟨rfl, _, rfl, by decide, by decide, by decide, by decide, by decide, by decide, by decide, by decide⟩, _, rfl, rfl, by decide⟩

/-! ## States that meet the hypotheses: synchronisation -/

theorem wordOk_of (s : State) (h : Hdr) (width : Nat) (wr : Bool) (uses : List Use) (va : W64) (pa : Nat)
    (form : vaOk va = true) (aligned : va.toNat % width = 0) (home : isMem s.floor pa = true)
    (hit : (xlate s s.cur.u (if wr then .write else .read) [(0, va.toNat)]).1 = [(0, .ok pa)])
    (clean : let t := (xlate s s.cur.u (if wr then .write else .read) [(0, va.toNat)]).2
      checkPoison t t.cur.u (Hdr.lv h) uses = none ∧ badRange t pa width = false) : ∃ t, WordOk s h width wr uses va t pa :=
  ⟨_, ⟨fun p hp => by cases List.mem_singleton.1 hp; exact form, fun p hp => by cases List.mem_singleton.1 hp; exact aligned,
    Prod.ext hit rfl, clean.1⟩, home, clean.2⟩

/-- A context whose s2 and s4 hold the addresses 128 and 256; memory as given. -/
def ctxF (m : List Host.Cell) (w : WaitSt) : State :=
  { mapped (ctxS (fun c => { (c.put 2 ⟨128, true, false⟩).put 4 ⟨256, true, false⟩ with w := w })) with mem := m }

theorem logFits_ctxF : LogFits (ctxF [] .none) h1 := fun _ c h => by
  obtain rfl := Option.some.inj (h.symm.trans (rfl : (ctxF [] .none).ctx? (ownKey (ctxF [] .none) (ctxF [] .none).cur.u (Hdr.lv h1)) = some _))
  rfl
theorem actsOnce_ctxF (m : List Host.Cell) (w : WaitSt) : ActsOnce (ctxF m w) h1 0 := .inr ⟨by decide, rfl, k1, _, ⟨rfl, rfl, rfl⟩⟩

theorem witness_synchronisation_words : (2 ^ 30 - 1 < 2 ^ 30 ∧ 65535 < 65536) ∧ (128 % 8 = 0 ∧ 256 % 8 = 0 ∧ 128 ≠ 256) ∧
    badRange (ctxF [] .none) 256 8 = false ∧ badRange { ctxF [] .none with pois := [(8, true)] } 256 8 = true := by decide

/-- A future at 128 that is empty, or full (FULL is bit 96), and the same of a lock (HELD is bit 30). -/
theorem witness_task_and_future :
    (WordReady (ctxF [] .none) h1 0 [(1, sc 0 2)] [] ∧ vaOk (scalHere (ctxF [] .none) h1 (sc 0 2)) = true ∧
      (scalHere (ctxF [] .none) h1 (sc 0 2)).toNat % 128 = 0 ∧ checkPoison (ctxF [] .none) (ctxF [] .none).cur.u 1 (scalUses h1 [(1, sc 0 2)]) = none ∧
      onceDrained (ctxF [] .none) h1 5 = true ∧ ∃ b, (ctxF [] .none).band? (bandHere (ctxF [] .none)) = some b ∧ b.pend.length < 4) ∧
    (WordReady (ctxF [] .none) h1 0 [] [⟨ds 3, 1, 1⟩] ∧ LogFits (ctxF [] .none) h1) ∧
    (WordReady (ctxF [] .none) h1 0 [(1, sc 0 2), (2, sc 0 3)] [] ∧ (∃ t, WordOk (ctxF [] .none) h1 16 true [] (scalHere (ctxF [] .none) h1 (sc 0 2)) t 128) ∧
      (futGet (ctxF [] .none) 128).full = false) ∧
    (WordReady (ctxF [(140, 1)] .none) h1 0 [(1, sc 0 2)] [⟨ds 3, 1, 1⟩] ∧ waitOf (ctxF [(140, 1)] .none) 1 = .none ∧
      (∃ t, WordOk (ctxF [(140, 1)] .none) h1 16 false (scalUses h1 [(1, sc 0 2)]) (scalHere (ctxF [(140, 1)] .none) h1 (sc 0 2)) t 128) ∧
      (c1.logRoom = true ∧ (c1.write 3 ⟨(c1.cell 3).v, false, false⟩).logRoom = true) ∧ (futGet (ctxF [(140, 1)] .none) 128).full = true) ∧
    (waitOf (ctxF [(140, 1)] (.fwait 128 3 0 true)) 1 = .fwait 128 3 0 true ∧ asleep (ctxF [(140, 1)] (.fwait 128 3 0 true)) k1 128 0x3FFFFFFF = false ∧
      badRange (ctxF [(140, 1)] (.fwait 128 3 0 true)) 128 16 = false) ∧
    (WordReady (ctxF [] .none) h1 0 [(1, sc 0 2), (2, sc 0 3)] [] ∧
      (∃ t, WordOk (ctxF [] .none) h1 8 false (scalUses h1 [(1, sc 0 2), (2, sc 0 3)]) (scalHere (ctxF [] .none) h1 (sc 0 2)) t 128) ∧
      (scalHere (ctxF [] .none) h1 (sc 0 3)).toNat ≤ homeGet (ctxF [] .none) 128 8) :=
  ⟨⟨⟨actsOnce_ctxF _ _, by decide⟩, by decide, by decide, by decide, by decide, _, rfl, by decide⟩, ⟨⟨actsOnce_ctxF _ _, by decide⟩, logFits_ctxF⟩,
    ⟨⟨actsOnce_ctxF _ _, by decide⟩, wordOk_of _ _ _ _ _ _ _ (by decide) (by decide) (by decide) (by decide) (by decide), by decide⟩,
    ⟨⟨actsOnce_ctxF _ _, by decide⟩, by decide, wordOk_of _ _ _ _ _ _ _ (by decide) (by decide) (by decide) (by decide) (by decide), by decide, by decide⟩,
    by decide, ⟨actsOnce_ctxF _ _, by decide⟩, wordOk_of _ _ _ _ _ _ _ (by decide) (by decide) (by decide) (by decide) (by decide), by decide⟩

/-- A lock at 128 that is held by the issuing task, of id 0, with two slots in the wake-up table, the first full already. -/
def heldLock : State := { ctxF [(131, 64), (132, 1)] .none with wakes := [⟨128, 5, true, true, 9, false⟩, ⟨128, 6, true, false, 9, false⟩] }

theorem witness_lock : (∃ t, WordOk (ctxF [] .none) h1 8 true (scalUses h1 [(1, sc 0 2)]) (scalHere (ctxF [] .none) h1 (sc 0 2)) t 128) ∧
    WordReady (ctxF [] .none) h1 0 [(1, sc 0 2)] [] ∧ waitOf (ctxF [] .none) 1 = .none ∧ (∃ u, lockTry (ctxF [] .none) 128 0 = some u) ∧
    slotFull (ctxF [] .none) 128 0 = false ∧ slotFull heldLock 128 5 = true ∧
    (∃ t, WordOk heldLock h1 8 true (scalUses h1 [(1, sc 0 2)]) (scalHere heldLock h1 (sc 0 2)) t 128) ∧ (lockTry heldLock 128 0).isNone = true ∧
    (let v := homeGet heldLock 128 8
     onceDrained heldLock h1 5 = true ∧ lockHeld v = true ∧ lockHolder v = taskHere heldLock ∧ lockWait v = 1) ∧
    heldLock.wakes = [⟨128, 5, true, true, 9, false⟩] ++ ⟨128, 6, true, false, 9, false⟩ :: [] ∧ lockHeld (homeGet (ctxF [] .none) 128 8) = false :=
  ⟨wordOk_of _ _ _ _ _ _ _ (by decide) (by decide) (by decide) (by decide) (by decide), ⟨actsOnce_ctxF _ _, by decide⟩, by decide, ⟨_, rfl⟩,
    by decide, by decide, wordOk_of _ _ _ _ _ _ _ (by decide) (by decide) (by decide) (by decide) (by decide), by decide, by decide, rfl, by decide⟩

/-- A group with a pin of value 64, or with a shadow, or at a search; its launch has an entry of the deferred list. -/
def laneQ (p : PinReg) (w : WaitSt) : State := (laneM.updGrp 0 (fun g => { g with pins := [p, ⟨0, 0⟩, ⟨0, 0⟩, ⟨0, 0⟩], w := w })).updLaunch 0
  (fun l => { l with dseq := 5, defer := [⟨5, 64, none, true, 5⟩] })

theorem witness_pin : (∃ g, pinGrp (laneQ ⟨64, 0⟩ .none) = some (0, g) ∧ (g.pin 0).v ≠ 0 ∧ (g.pin 0).shadow = 0 ∧ (g.pin 3).v = 0) ∧
    OnceReady (laneQ ⟨64, 0⟩ .none) h0 1 2 [(1, v 2)] [] ∧
    (∃ g b, (laneQ ⟨0, 64⟩ .none).grp? 0 = some g ∧ (laneQ ⟨0, 64⟩ .none).band? (bandKey g.gc g.b) = some b ∧ b.st ≠ .ended ∧ (g.pin 0).shadow ≠ 0 ∧
      pinWaits (laneQ ⟨0, 64⟩ .none) 0 0 = false) ∧
    (∃ g, (laneQ ⟨0, 64⟩ .none).grp? 0 = some g ∧ groupOver (laneQ ⟨0, 64⟩ .none) g = false) ∧
    (let s := (laneQ ⟨0, 64⟩ .none).updCtx k1 (fun c => { c with ended := true })
     ∃ g, s.grp? 0 = some g ∧ groupOver s g = true ∧ (g.pin 0).shadow ≠ 0 ∧ pinWaits s 0 0 = false ∧
      ∀ a ∈ s.accs, a.by_ = .unit (.grp 0) → a.kind ≠ .fence → performedAt a 5 = true) ∧
    (∃ g, (laneQ ⟨0, 0⟩ (.search 64 none none)).grp? 0 = some g ∧ g.w = .search 64 none none) ∧
    (∃ g d, (laneQ ⟨0, 0⟩ (.drain 5 [] 5 none none)).grp? 0 = some g ∧ g.w = .drain 5 [] 5 none none ∧
      ((laneQ ⟨0, 0⟩ (.drain 5 [] 5 none none)).launch? g.gc).bind (fun x => x.defer.find? (fun e => e.id = 5)) = some d) ∧
    (∃ k, (ctxF [] (.search 64 none none)).ctx? k1 = some k ∧ k.w = .search 64 none none) ∧
    ((64 : W64) ≠ 0 ∧ ∃ y ∈ ({ laneM with pins := [⟨64, 0, 0, none⟩] } : State).pins, y.name = 64) ∧
    (∃ r ∈ (laneQ ⟨64, 0⟩ .none).groups, pinsHere (laneQ ⟨64, 0⟩ .none) r.2 = true ∧ ∃ y ∈ r.2.pins, y.v = 64 ∨ y.shadow = 64) ∧
    searchPins (laneQ ⟨0, 64⟩ .none) 64 = true :=
  ⟨⟨_, rfl, by decide, by decide, by decide⟩, ⟨.inl ⟨rfl, 0, _, ⟨rfl, rfl, rfl, by decide⟩⟩, by decide, by decide⟩,
    ⟨_, _, rfl, rfl, by decide, by decide, by decide⟩, ⟨_, rfl, by decide⟩, ⟨_, rfl, by decide, by decide, by decide, by decide⟩, ⟨_, rfl, rfl⟩,
    ⟨_, _, rfl, rfl, rfl⟩, ⟨_, rfl, rfl⟩, by decide, by decide, by decide⟩

theorem witness_reclaim :
    (let s := ctxF [] .none
     no.o = .none ∧ waitOf s 1 = .none ∧ WordReady s h1 0 [(1, sc 0 2)] [] ∧ deferFull s (launchHere s) = false ∧ onceDrained s h1 5 = true ∧
     checkPoison s s.cur.u 1 (scalUses h1 [(1, sc 0 2)]) = none) ∧
    (let s := ctxF [] (.search 128 (some true) none)
     ActsOnce s h1 0 ∧ waitOf s 1 = .search 128 (some true) none ∧ deferFull s (launchHere s) = false) ∧
    (∀ p : Option (Nat × Bool), p = none ∨ p = some (0, false) ∨ p = some (0, true) ∨ p = some (1, true) →
      let s := ctxF [] (.search 128 (some false) p)
      waitOf s 1 = .search 128 (some false) p) ∧
    (let s := ctxF [] (.search 128 (some false) none)
     (sc 0 4).o ≠ .none ∧ globalOk s 1 8 .write [(0, scalHere s h1 (sc 0 2)), (1, scalHere s h1 (sc 0 4))] [] [(0, 128), (1, 256)] ∧
     isMem s.floor 128 = true ∧ isMem s.floor 256 = true ∧
     (let t := (xlate s s.cur.u .write [(0, 128), (1, 256)]).2
      badRange t 256 8 = false ∧ homeGet t 256 8 = 0 ∧ homeGet t 256 8 ≠ 1)) ∧
    (let s := ctxF [] .none
     waitOf s 1 = .none ∧ WordReady s h1 0 [] [⟨ds 3, 1, 1⟩] ∧ onceDrained s h1 5 = true ∧ LogFits s h1 ∧
     ∃ l, s.launch? (launchHere s) = some l ∧ ∀ e ∈ l.defer, e.taken = true) ∧
    (let s := (ctxF [] .none).updLaunch 0 (fun l => { l with dseq := 5, defer := [⟨5, 64, none, false, 0⟩] })
     waitOf s 1 = .none ∧ WordReady s h1 0 [] [⟨ds 3, 1, 1⟩] ∧ onceDrained s h1 5 = true ∧
     ∃ l e, s.launch? (launchHere s) = some l ∧ l.defer.filter (fun e => !e.taken) = e :: [] ∧ e.tk ≤ l.dseq) :=
  ⟨⟨rfl, by decide, ⟨actsOnce_ctxF _ _, by decide⟩, by decide, by decide, by decide⟩, ⟨actsOnce_ctxF _ _, by decide, by decide⟩,
    by rintro p (rfl | rfl | rfl | rfl) <;> decide,
    ⟨by decide, globalOk_of _ _ _ _ _ _ _ (by decide) (by decide) (by decide) (by decide), by decide, by decide, by decide⟩,
    ⟨by decide, ⟨actsOnce_ctxF _ _, by decide⟩, by decide, logFits_ctxF, _, rfl, by decide⟩,
    by decide, ⟨.inr ⟨by decide, rfl, k1, _, ⟨rfl, rfl, rfl⟩⟩, by decide⟩, by decide, _, _, rfl, rfl, by decide⟩

/-- A group whose band has a ring of 1024 bytes, with `t` bytes appended and none consumed; v2 and v3 hold a descriptor of it. -/
def laneRg (t : W32) : State :=
  ((laneM.updBand 0 (fun b => { b with rings := [(0, ⟨0x100000000, 0, t, 0⟩)] })).updGrp 0 (fun g => { g with vr := [(vkey 3 0, 1)] })).updCluster 0
    (fun c => { c with homes := [0] })

theorem actsOnce_laneRg (t : W32) : ActsOnce (laneRg t) h0 1 := .inl ⟨rfl, 0, _, ⟨rfl, rfl, rfl, by decide⟩⟩

theorem witness_ring : (ActsOnce (laneW (.msend 4 (some true))) h0 1 ∧ waitOf (laneW (.msend 4 (some true))) 0 = .msend 4 (some true)) ∧
    WordReady (laneRg 16) h0 1 [] (onceDst h0 (.vec 5) 1 1) ∧
    (∃ x, ringOf (laneRg 16) (bandHere (laneRg 16)) 0 = some x ∧ x.used ≠ 0 ∧ 8 * bitsOf (leNat (payload (laneRg 16) 0 (ringAt x.desc x.h.toNat) 8)) 5 0 ≤ x.used ∧
      (onceVal (laneRg 16) h0 1 0 (.vec 6)).toNat % 8 = 0 ∧ (onceVal (laneRg 16) h0 1 0 (.vec 6)).toNat ≤ x.used) ∧
    LogFits (laneRg 16) h0 ∧ onceDrained (laneRg 16) h0 2 = true ∧
    OnceReady (laneRg 16) h0 1 2 [(1, v 2)] [] ∧ OnceReady (laneRg 16) h0 1 2 [] [] ∧
    ringEn (onceVal (laneRg 16) h0 1 0 (.vec 2)) = true ∧ (ringConfigure (laneRg 16) 0 0 0x100000000).isNone = true ∧
    (∃ c, (laneRg 0).band? 0 = some c ∧ ringOk 0x100000000 (1024 * ((laneRg 0).lrec c.gc).scrg) = true ∧ usedRings (laneRg 0) c.core < 4 ∧
      homeCount (laneRg 0) (clusOfCore (laneRg 0).floor c.core) < 64) ∧ ringEn (onceVal (laneRg 16) h0 1 0 (.vec 6)) = false ∧
    (∃ x, ringOf (laneRg 0) 0 0 = some x ∧ x.used = 0) :=
  ⟨⟨.inl ⟨rfl, 0, _, ⟨rfl, rfl, rfl, by decide⟩⟩, by decide⟩, ⟨actsOnce_laneRg _, by decide⟩, ⟨_, rfl, by decide, by decide, by decide, by decide⟩, fun e => absurd rfl e,
    by decide, ⟨actsOnce_laneRg _, by decide, by decide⟩, ⟨actsOnce_laneRg _, by decide, by decide⟩, by decide, by decide,
    ⟨_, rfl, by decide, by decide, by decide⟩, by decide, ⟨_, rfl, by decide⟩⟩

/-- A message of one payload word for ring 0 of band 0. -/
def msg : Msg := ⟨7, .grp 0, 0, 0, 0, 0x2A, List.replicate 8 1, [false, false], [], 0, 0⟩

theorem witness_ring_append : (let s := { laneRg 1008 with msgs := [msg] }
    s.msgs.find? (fun y => y.id = msg.id) = some msg ∧
    ∃ x b, ringOf s (handleBand msg.hdl) 0 = some x ∧ s.band? (handleBand msg.hdl) = some b ∧ x.used + 16 ≤ ringSize x.desc ∧ ringAv x.desc = false ∧
      homeRefuses s msg.hdl = false ∧ forwardMsg s ((homeOfBand s 0).getD 0) b msg = some s ∧ b.st = .resident) ∧
    homeRefuses { laneM with msgs := [msg] } msg.hdl = true ∧
    (let s := { laneRg 1016 with msgs := [msg] }
     ∃ x, ringOf s 0 0 = some x ∧ ringSize x.desc < x.used + 16) ∧
    ringOf laneM 0 0 = none :=
  ⟨⟨rfl, _, _, rfl, rfl, by decide, by decide, by decide, rfl, rfl⟩, by decide, ⟨_, rfl, by decide⟩, rfl⟩

/-! ## States that meet the hypotheses: exceptions and system -/

/-- Page tables at 4096, 8192 and 12288 that map the first GiB on itself (R234): V, and in the leaf L, W and X. -/
def tables : List Host.Cell := [(4096, 1), (4097, 0x20), (8192, 1), (8193, 0x30), (12288, 0x0F)]
/-- The placed launch with those tables, its save area at 1 MiB and its handler at slot 3 of the marked line. -/
def withTables (s : State) : State :=
  { s with mem := tables }.updLaunch 0 (fun l => { l with t := { l.t with top := 4096 }, r := { l.r with handler := 3, bsave := 0x100000, usave := 0x200000 } })
/-- A handler of group 0: the split table of the lanes given is put aside. -/
def hdl (m : Lanes) : Handler := ⟨0x10, 0, .grp 0, 2, List.replicate 128 5, 2, 0, [some ⟨2, m, none, 0, none, false, false, .none⟩, none, none, none], [],
  ⟨false, .grp, 0, 0, 0, 0⟩, 0, [], false⟩
/-- Lane 0 in a handler. -/
def laneH : State := withTables (marked (laneS (fun g => { g with live := 1, handler := some (hdl 1) })))
/-- Lane 0 outside one, in the launch with tables. -/
def laneN : State := withTables (marked laneM)
/-- Their groups. -/
def gh : Machine.Group := { gm with handler := some (hdl 1) }

theorem actsOnce_laneH : ActsOnce laneH h0 1 := .inl ⟨rfl, 0, gh, ⟨rfl, rfl, rfl, by decide⟩⟩
theorem actsOnce_laneN : ActsOnce laneN h0 1 := .inl ⟨rfl, 0, gm, ⟨rfl, rfl, rfl, by decide⟩⟩

theorem witness_trap_instructions : ActsOnce laneN h0 1 ∧ (laneN.lrec (gcOf laneN laneN.cur.u)).debug = false ∧
    (let s := laneN.updLaunch 0 (fun l => { l with r := { l.r with debug := true } })
     ActsOnce s h0 1 ∧ (s.lrec (gcOf s s.cur.u)).debug = true) ∧
    (ActsOnce laneH h0 1 ∧ laneH.cur.u = .grp 0 ∧ laneH.grp? 0 = some gh ∧ gh.handler = some (hdl 1) ∧ gh.single = true ∧ grpBusy laneH 0 = false ∧
      resumeOk laneH (hdl 1) = true) :=
  ⟨actsOnce_laneN, by decide, ⟨.inl ⟨rfl, 0, gm, ⟨rfl, rfl, rfl, by decide⟩⟩, by decide⟩, actsOnce_laneH, rfl, rfl, rfl, by decide, by decide, by decide⟩

theorem entry_of (s : State) (gk e gc : Nat) (f : FaultReq) (ia : W64) (insn : Insn) (g : Machine.Group) (core : State → Nat)
    (h : let v := countFault s gc
      let w := writeFault v.2 (.grp gk) (recordBytes v.2 (.grp gk) f ia insn v.1 0)
      w.isSome = true ∧ let u := w.getD s
        (checkTgt (enterHandler u (.grp gk) gk g e f ia insn v.1 false) (.core (core u)) gc (s.lrec gc).handler).1 = .ok) :
    let v := countFault s gc
    ∃ u t, writeFault v.2 (.grp gk) (recordBytes v.2 (.grp gk) f ia insn v.1 0) = some u ∧
      checkTgt (enterHandler u (.grp gk) gk g e f ia insn v.1 false) (.core (core u)) gc (s.lrec gc).handler = (.ok, t) := by
  obtain ⟨h1, h2⟩ := h
  obtain ⟨u, hu⟩ := Option.isSome_iff_exists.1 h1
  rw [hu] at h2
  exact ⟨u, _, hu, Prod.ext h2 rfl⟩

theorem witness_exception_entry : laneN.grp? 0 = some gm ∧ gm.gc = 0 % 64 ∧ (∃ b, laneN.band? (bandKey gm.gc gm.b) = some b ∧ b.park = none ∧ b.st = .resident) ∧
    dispOf 0x11 = .h ∧ inHandler laneN (.grp 0) = false ∧ (laneN.lrec gm.gc).handler ≠ 0 ∧
    (let v := countFault (dropHeld laneN (.grp 0)) gm.gc
     ∃ u t, writeFault v.2 (.grp 0) (recordBytes v.2 (.grp 0) (FaultReq.mk0 0x11 0) 0 0 v.1 0) = some u ∧
      checkTgt (enterHandler u (.grp 0) 0 gm 0 (FaultReq.mk0 0x11 0) 0 0 v.1 false) (.core (coreOfGrp u gm)) gm.gc (laneN.lrec gm.gc).handler = (.ok, t)) :=
  ⟨rfl, rfl, ⟨_, rfl, rfl, rfl⟩, by decide, by decide, by decide, entry_of _ _ _ _ _ _ _ _ (fun u => coreOfGrp u gm) (by decide)⟩

theorem witness_exception_return : laneH.grp? 0 = some gh ∧ gh.handler = some (hdl 1) ∧ (hdl 1).unit = .grp 0 ∧ (hdl 1).rep412 = false ∧
    (∃ x0, nth? (hdl 1).splits (hdl 1).entry = some (some x0) ∧ x0.mask &&& gh.live ≠ 0) ∧
    (∃ x, nth? (clearLanes (hdl 1).splits (hdl 1).recs (~~~gh.live)).1 (hdl 1).entry = some (some x)) ∧ inHandler laneH (.grp 0) = true :=
  ⟨rfl, rfl, rfl, rfl, ⟨_, rfl, by decide⟩, ⟨_, rfl⟩, by decide⟩

theorem witness_control_and_time :
    (OnceReady laneN h0 1 2 [] (onceDst h0 (.vec 62) 2 1) ∧ LogFits laneN h0) ∧
    OnceReady laneN h0 1 2 [(1, v 2)] [] ∧ crDenied laneN 0x100 (onceVal laneN h0 1 0 (.vec 2)) = false ∧
    ((cycSeen laneN h0).1 < 2 ^ 64 ∧ clockHere laneN h0 < 2 ^ 64 ∧ (cycSeen laneN h0).2 < 2 ^ 64 ∧ laneN.nc + 4 < 2 ^ 64) ∧
    (OnceReady laneN h0 1 1 [(1, im)] [] ∧ waitOf laneN 0 = .none ∧
      min (onceVal laneN h0 1 ((0 : BitVec 27).setWidth 64) .imm).toNat (2 ^ 24 - 1) = 0 ∧
      min (onceVal laneN h0 1 ((5 : BitVec 27).setWidth 64) .imm).toNat (2 ^ 24 - 1) ≠ 0) ∧
    waitOf (laneW (.sleep 0)) 0 = .sleep 0 ∧ (waitOf (laneW (.inval 0)) 0 = .inval 0 ∧ usedDone (laneW (.inval 0)) 0 = true) ∧
    (OnceReady laneN h0 1 1 [(1, v 2)] [] ∧ vaOk (onceVal laneN h0 1 0 (.vec 2)) = true ∧ onceDrained laneN h0 5 = true) ∧
    OnceReady laneN h0 1 1 [] [] ∧ laneN.cur.u = .grp 0 :=
  ⟨⟨⟨actsOnce_laneN, by decide, by decide⟩, fun e => absurd rfl e⟩, ⟨actsOnce_laneN, by decide, by decide⟩, by decide,
    ⟨by decide, by decide, by decide, by decide⟩, ⟨⟨actsOnce_laneN, by decide, by decide⟩, by decide⟩,
    by decide, by decide, ⟨⟨actsOnce_laneN, by decide, by decide⟩, by decide⟩, ⟨actsOnce_laneN, by decide, by decide⟩, rfl⟩

theorem witness_control_register_values : handlerHere laneH = some (hdl 1) ∧ handlerHere laneN = none ∧ laneN.cur.u = .grp 0 ∧ laneN.grp? 0 = some gm ∧
    crDenied laneN 0x100 0x4B0 = false ∧ crDenied laneN 0x100 0x4B1 = true :=
  ⟨by decide, by decide, rfl, rfl, by decide, by decide⟩

/-- Each unit has a bank selected: a group at LEV 0 and a context; the status latched is that of the bank, or another. -/
theorem witness_bank_latch : (∃ g, laneN.grp? 0 = some g ∧ (laneN.bankRead g.mcsel).status ≠ (nth? [(1 : W64)] 0).getD 0 ∧
      (laneN.bankRead g.mcsel).status = (nth? [(0 : W64)] 0).getD 0) ∧
    (ownKey (ctxS id) (ctxS id).cur.u 1 = k1 ∧ (ctxS id).ctx? k1 = some c1) ∧ (Hdr.lv h1 = 1) := ⟨⟨_, rfl, by decide, by decide⟩, by decide, rfl⟩

/-! ## States that meet the hypotheses: steps of the units -/

/-- The key of the level-2 context of the placed launch, of its band. -/
def k2 : Nat := ctxKey 0 2 0
/-- The placed launch with an instruction of LEV 2 at slot 0 and its level-2 context as given. -/
def bandS (f : Ctx → Ctx) : State := (State.reset.withFetchWord 96 (2 ^ 80)).updCtx k2 f
/-- A producer that has its value. -/
def pro : Producer := ⟨0, .vec 0 0 3 .u32, [1, 2, 3, 4], false⟩

/-- The context has walked past the end of its segment over a slot of LEV 0; the group has walked past the end of its own; the group has
finished the segment that asks for a report of p1. -/
theorem witness_segments :
    (∃ t d, prep (bandS (fun c => { c with lower := true, ia := 64 })) (.ctx k2) 0 = .moved t ∧ t.ctx? k2 = some d ∧ d.next ≠ 0) ∧
    (∃ c, (bandS id).ctx? k2 = some c ∧ c.next = 0 ∧ emitStalls (bandS id) k2 c = false) ∧
    (let s := laneS (fun g => { g with splits := g.splits.map (fun x => x.map (fun y => { y with pc := 64 })) })
     unitRuns s (.grp 0) = true ∧ mayFinish s (.grp 0) = true) ∧
    (let q : ReportReq := ⟨pr 1, false, 0, 0⟩
     let s := (laneS (fun g => { g with seg := some { fetchSeg with rep := some q }, segDone := true })).updCtx k2 (fun c => { c with asked := true })
     ∃ c x r, s.ctx? k2 = some c ∧ parentOf s (.grp 0) = some (k2, 0) ∧ curSeg s (.grp 0) = some x ∧ x.rep = some q ∧ unitRuns s (.grp 0) = true ∧
       noHandlerIn s (.grp 0) = true ∧ segIdle s (.grp 0) = true ∧ c.asked = true ∧ x.id + 1 = c.next ∧ tabGet? c.reports 0 = none ∧ evalRep s q 8 (.grp 0) = .rep r) ∧
    (let q : ReportReq := ⟨v 1, false, 0, 0⟩
     let s := (laneS (fun g => { g with seg := some { fetchSeg with rep := some q }, segDone := true, vp := [(vkey 1 0, true)] })).updCtx k2 (fun c => { c with asked := true })
     ∃ x v f, curSeg s (.grp 0) = some x ∧ x.rep = some q ∧ segIdle s (.grp 0) = true ∧ evalRep s q 8 (.grp 0) = .fault v f) :=
  ⟨⟨_, _, rfl, rfl, by decide⟩, ⟨_, rfl, rfl, by decide⟩, ⟨by decide, by decide⟩,
    ⟨_, _, _, rfl, by decide, rfl, rfl, by decide, by decide, by decide, rfl, by decide, rfl, rfl⟩,
    ⟨_, _, _, rfl, rfl, by decide, rfl⟩⟩

theorem witness_held_fault_and_producer :
    (∃ c, (bandS (fun c => { c with held := some (FaultReq.mk0 0x11 2, 0, 0) })).ctx? k2 = some c ∧ c.held = some (FaultReq.mk0 0x11 2, 0, 0) ∧
      c.trail = [] ∧ ctxIssues (bandS (fun c => { c with held := some (FaultReq.mk0 0x11 2, 0, 0) })) { c with held := none } = true) ∧
    ({ laneM with prods := [pro] }.prods.find? (fun p => p.n = 0) = some pro) ∧
    (∃ c, (bandS (fun c => { c with w := .sleep 0 })).ctx? k2 = some c ∧ c.w = .sleep 0 ∧ 0 ≤ clockOf (bandS (fun c => { c with w := .sleep 0 })) (.ctx k2)) :=
  ⟨⟨_, rfl, rfl, rfl, by decide⟩, rfl, ⟨_, rfl, rfl, Nat.zero_le _⟩⟩

theorem witness_handler_time_limit : let s := { laneH with nc := 2 ^ 24 }
    s.grp? 0 = some gh ∧ (∃ b, s.band? (bandKey gh.gc gh.b) = some b ∧ b.dbg = none ∧ b.dying = none) ∧
    (hdl 1).start + 65536 < clockAt s (.core (coreOfGrp s gh)) ∧ (∃ e x r, entries gh.splits = (e, x) :: r) :=
  ⟨rfl, ⟨_, rfl, rfl, rfl⟩, by decide, _, _, _, rfl⟩

/-- The launch with tables and a line of NOPs at 128: its line word has LVM bit 10 and the parity bit LPAR (R46). -/
def laneL : State := { laneN with mem := [(188, 1), (189, 4)] ++ tables }

theorem witness_line_fill_and_page_walk :
    laneL.launch? (gcOf laneL (.grp 0)) = laneL.launch? 0 ∧
    (∃ t, fillLine laneL (placeOf laneL (.grp 0)) (gcOf laneL (.grp 0)) (128 / 64 * 64) = (.ok ((0x401 : BitVec 32) ++ (0 : BitVec 480)), t)) ∧
    0 < laneL.floor.allCores.length ∧ (∃ t, walk laneL (laneL.task 0).space (laneL.task 0).top 64 = (.leaf ⟨0, 0, 30, 0, true, true, false⟩, t)) ∧
    leafAllows laneL ⟨0, 0, 30, 0, true, true, false⟩ 64 .read true = true :=
  ⟨rfl, ex_snd (by decide), by decide, ex_snd (by decide), by decide⟩

/-! ## States that meet the hypotheses: ordering, drover and matrix unit -/

/-- A state whose only pending access is the one given; core 0 holds the byte at 64 in its view. -/
def accS (a : Access) : State := { laneM with accs := [a], cores := (laneM.updCore 0 (fun c => { c with view := [(64, 7)] })).cores }
/-- A one-byte access of group 0. -/
def acc (loc : Loc) (k : AccKind) : Access := mkAcc laneM (.grp 0) 1 1 loc 1 k .weak 0 [9] false .none
/-- One of the host. -/
def accH (k : AccKind) : Access := { acc (.mem 64) k with by_ := .host, core := none, inj := true }

theorem witness_read_and_write_steps :
    (let a := acc (.scr 0 5) .read
     a.taken = none ∧ ordersAllow (accS a) a = true ∧ readInOrder (accS a) a = true ∧ ∃ b, (scrStruck (accS a) (0, 0) 0 5 1).band? 0 = some b) ∧
    (let a := accH .read
     accOf (accS a) a.id = some a ∧ a.taken = none ∧ a.core = none ∧ a.inj = true ∧ ordersAllow (accS a) a = true ∧ readInOrder (accS a) a = true) ∧
    (let a := acc (.mem 64) .read
     accOf (accS a) a.id = some a ∧ a.core = some 0 ∧ readsView a = true ∧ ordersAllow (accS a) a = true ∧ readInOrder (accS a) a = true ∧
     l1Struck (accS a) a 0 64 = none ∧ someUnheld (accS a) 0 64 1 = false) ∧
    (∀ k ∈ [AccKind.read, .pref], let a := { acc (.mem 65) k with inj := true }
     accOf (accS a) a.id = some a ∧ a.core = some 0 ∧ readsView a = true ∧ ordersAllow (accS a) a = true ∧ readInOrder (accS a) a = true ∧
     l1Struck (accS a) a 0 65 = none ∧ someUnheld (accS a) 0 65 1 = true ∧ mayFill (accS a) a 0 65 = true) ∧
    (let a := acc (.mem 64) .pref
     accOf (accS a) a.id = some a ∧ ordersAllow (accS a) a = true ∧ someUnheld (accS a) 0 64 1 = false) ∧
    (let a := acc (.mem 64) .write
     accOf (accS a) a.id = some a ∧ a.atView = false ∧ a.atHome = false ∧ ordersAllow (accS a) a = true ∧ releaseAllows (accS a) a = true ∧
     applyInOrder (accS a) a = true ∧ a.core = some 0) ∧
    (let a := accH .write
     accOf (accS a) a.id = some a ∧ ordersAllow (accS a) a = true ∧ releaseAllows (accS a) a = true ∧ applyInOrder (accS a) a = true ∧
     lineInOrder (accS a) a = true) ∧
    (let a := acc (.scr 0 5) .write
     accOf (accS a) a.id = some a ∧ ordersAllow (accS a) a = true ∧ releaseAllows (accS a) a = true ∧ applyInOrder (accS a) a = true) :=
  ⟨⟨by decide, by decide, by decide, _, rfl⟩, by decide, by decide, by decide, by decide, by decide, by decide, by decide⟩

theorem witness_delivery :
    (let a := { acc (.mem 64) .write with atView := true, inj := true }
     accOf (accS a) a.id = some a ∧ homeInOrder (accS a) a = true ∧ lineInOrder (accS a) a = true) ∧
    ((tabGet? ((accS (acc (.mem 64) .read)).core 0).view 64).isSome = true ∧ inTransit (accS (acc (.mem 64) .read)) 0 64 1 = false) := by decide

theorem witness_completion :
    (let a := { acc (.mem 64) .read with taken := some [9] }
     a.kind ≠ .fence ∧ accDone a = true ∧ acked (accS a) a = true) ∧ fenceDone (accS (acc .nowhere .fence)) (acc .nowhere .fence) = true := by decide

/-- A write that stands in its core's view, and the state with it in which the table of its router is loaded. -/
def accW : Access := { acc (.mem 64) .write with atView := true }
def routed : State := { accS accW with routes := [(0, routeTable 0)] }

theorem witness_injection : accOf routed accW.id = some accW ∧ wantsInject routed accW = true ∧
    (∀ b ∈ routed.accs, queuedBefore b accW = true → wantsInject routed b = false) ∧ sameLoc routed accW = [] ∧
    windowRoom routed (pairOf routed accW) = true ∧ bucketTake routed (endpointOf routed accW) accW.cls (flitsOf accW) = some routed ∧
    (inject routed (endpointOf routed accW) (targetOf routed accW) accW.id).isSome = true :=
  ⟨rfl, by decide, by decide, by decide, by decide, rfl, rfl⟩

theorem witness_routes : joined 0 1 = true ∧ joined 0 2 = false ∧ ∃ n, (List.range 50).find? (fun n => joined 0 n && joined n 2) = some n := by
  refine ⟨by decide, by decide, _, rfl⟩

theorem witness_buckets :
    (let s := { laneM with host := { laneM.host with buckets := [(4, 2 ^ 24 - 1)], levels := [(4, 64)] } }
     bucketRate (bucketReg s 0 0) = 0 ∧ bucketRate (bucketReg s 1 0) ≠ 0 ∧ tabGet (0 : Int) s.host.levels (1 * 4 + 0) < 64 * 2 ∧
     64 * 1 ≤ tabGet (0 : Int) s.host.levels (1 * 4 + 0)) := by decide

/-- An element of a sector at its start: not read, and read. -/
def el (got : Option (List (BitVec 8) × Bool)) : Piece := ⟨0, 0, 0, 1, got⟩
/-- A copy of the drover of core 0, one sector of which is left, with those elements to move. -/
def cp (k : CopyKind) (started : Bool) (todo : Option (List Piece)) : Copy :=
  { copyOf bytes8 h0 1 k (sc 1 4) im none arw with sectors := [⟨0, 0, 0, todo, false⟩], started := started }
/-- The state with a copy, and with a matrix operation. -/
def unitS (c : Copy) (o : MatOp) : State := laneM.updCore 0 (fun x => { x with drover := [c], mq := [o] })
/-- An ACLR, an MMA, and an ASTS with its elements to move. -/
def opClr (run taint : Bool) : MatOp := ⟨0, 0, .aclr 1, [], [1], run, taint, none, 0, 0, 0, 0, none⟩
def opMma : MatOp := ⟨0, 0, .mma .s32 7 0 1 mapA mapB 1 0 0, [7], [7], true, false, none, 0, 0, 0, 0, none⟩
def opArea (todo : Option (List Nat)) : MatOp := ⟨0, 0, .asts .s32 1 0, [1], [], true, false, none, 0, 0, 0, 0, todo⟩

theorem unlimited : bucketRate (bucketReg laneM 0 0) = 0 := by decide
theorem isMem_0 : isMem laneM.floor 0 = true := by decide

theorem witness_drover_steps :
    (let s := unitS (cp .g2s false none) (opClr false false)
     (s.core 0).drover.find? (fun d => !d.started) = some (cp .g2s false none) ∧ copyMayRead s (cp .g2s false none) = true) ∧
    (∀ todo : Option (List Piece),
      let c := cp .g2s true todo
      let s := unitS c (opClr true false)
      (s.core 0).drover.find? (fun d => d.id = 0 && d.started) = some c ∧ nth? c.sectors 0 = some ⟨0, 0, 0, todo, false⟩ ∧
      c.sectors.eraseIdx 0 = [] ∧
      isMem s.floor 0 = true ∧ coreClear s 0 c.acc 0 1 = true ∧ copyMayWrite s c = true) ∧
    (let c := cp .g2s true (some [el none])
     (movePiece (unitS c (opClr true false)).tick1 0 c 0 ⟨0, 0, 0, some [el none], false⟩ [el none] 0 (el none)).isSome = true ∧
     (readPiece (unitS c (opClr true false)) 0 c ⟨0, 0, 0, some [el none], false⟩ (el none)).isSome = true ∧
     (writePiece (unitS c (opClr true false)) 0 c ⟨0, 0, 0, some [el none], false⟩ (el none) [9] false).isSome = true) ∧
    ([⟨0, 0, 0, none, false⟩, ⟨32, 32, 0, none, false⟩] : List Sector).eraseIdx 0 ≠ [] :=
  ⟨⟨rfl, by decide⟩, fun _ => ⟨rfl, rfl, rfl, (by exact isMem_0), rfl, rfl⟩, ⟨by decide, by decide, by decide⟩, by decide⟩

theorem witness_matrix_steps :
    (let s := unitS (cp .g2s true none) (opClr false false)
     (s.core 0).mq.find? (fun o => !o.run) = some (opClr false false) ∧ mayStart (s.core 0).mq (opClr false false) = true) ∧
    (∀ o, o = opClr true false ∨ o = opClr true true ∨ o = opMma ∨ (∃ l, o = opArea l) →
      let s := unitS (cp .g2s true none) o
      (s.core 0).mq.find? (fun o => o.id = 0 && o.run) = some o ∧ mayComplete s (s.core 0).mq o = true) ∧
    (opClr true false).moves = false ∧ opMma.moves = false ∧ (∀ l, (opArea l).moves = true) :=
  ⟨⟨rfl, by decide⟩, fun o h => by rcases h with rfl | rfl | rfl | ⟨l, rfl⟩ <;> exact ⟨rfl, rfl⟩, rfl, rfl, fun _ => rfl⟩

/-- An atomic of scope CLU at a home slice, one of band scope on a view whose byte is held, is to be filled, or lies in a bad sector, and one
in a scratchpad whose word is sound or marked. -/
theorem witness_atomic_steps :
    (let a := { acc (.mem 64) (.atomic .add .u32 1 0 true) with sc := 3, inj := true }
     accOf (accS a) a.id = some a ∧ a.atView = false ∧ a.atHome = false ∧ ordersAllow (accS a) a = true ∧ releaseAllows (accS a) a = true ∧
     applyInOrder (accS a) a = true ∧ homeAtomic a = true ∧ lineInOrder (accS a) a = true) ∧
    (let a := acc (.mem 64) (.atomic .add .u32 1 0 true)
     ordersAllow (accS a) a = true ∧ releaseAllows (accS a) a = true ∧ applyInOrder (accS a) a = true ∧ homeAtomic a = false ∧ a.core = some 0 ∧
     copyAhead (accS a) a = false ∧ l1Struck (accS a) a 0 64 = none ∧ someUnheld (accS a) 0 64 a.width = false) ∧
    (let a := { acc (.mem 65) (.atomic .add .u32 1 0 true) with inj := true }
     applyInOrder (accS a) a = true ∧ l1Struck (accS a) a 0 65 = none ∧ someUnheld (accS a) 0 65 a.width = true ∧ mayFill (accS a) a 0 65 = true ∧
     (let s := { accS a with pois := [(2, true)] }
      mayFill s a 0 65 = true ∧ someUnheld (fillView s 0 65) 0 65 a.width = true)) ∧
    (let a := acc (.scr 0 5) (.atomic .add .u32 1 0 true)
     ordersAllow (accS a) a = true ∧ releaseAllows (accS a) a = true ∧ applyInOrder (accS a) a = true ∧
     ∃ x, (scrStruck (accS a) (accWho (accS a) a) 0 5 a.width).band? 0 = some x ∧ scrBad x 5 a.width = false ∧
       scrBad { x with scrP := [(1, true)] } 5 a.width = true) :=
  ⟨by decide, by decide, by decide, by decide, by decide, by decide, _, rfl, by decide, by decide⟩

/-- A read of scope CLU by a core, and reads of the constant path whose line is held and is not. -/
theorem witness_home_reads :
    (let a := { acc (.mem 64) .read with sc := 3, inj := true }
     accOf (accS a) a.id = some a ∧ a.core = some 0 ∧ a.konst = false ∧ 3 ≤ a.sc ∧ ordersAllow (accS a) a = true ∧ readInOrder (accS a) a = true ∧
     copyAhead (accS a) a = false) ∧
    (let a := { acc (.mem 64) .read with konst := true, inj := true }
     accOf (accS a) a.id = some a ∧ ordersAllow (accS a) a = true ∧ readInOrder (accS a) a = true ∧ 64 % 128 + a.width ≤ 128 ∧
     ((accS a).core 0).kv.find? (fun p => p.1 == 0) = none ∧
     (((accS a).updCore 0 (fun c => { c with kv := [(0, [9])] })).core 0).kv.find? (fun p => p.1 == 0) = some (0, [9])) := by decide

/-- The request of a sector: of a copy within the scratchpad, of one to memory, of one from memory with the router's table loaded, and one
behind an earlier access of its class. -/
theorem witness_sector_request :
    (let c := cp .s2s true none
     (sectorPacket (unitS c (opClr true false)) 0 c ⟨0, 0, 0, none, false⟩).isSome = true) ∧
    (let c := cp .s2g true none
     toGlobal c.k = true ∧ (sectorPacket (unitS c (opClr true false)) 0 c ⟨0, 0, 0, none, false⟩).isSome = true) ∧
    (let c := cp .g2s true none
     toGlobal c.k = false ∧ (sectorPacket { unitS c (opClr true false) with routes := [(0, routeTable 0)] } 0 c ⟨0, 0, 0, none, false⟩).isSome = true) ∧
    (let c := { cp .g2s true none with acc := 1 }
     let a := { acc (.mem 64) .write with atView := true }
     let s := { unitS c (opClr true false) with accs := [a] }
     s.accs.any (fun b => decide (b.id < c.acc) && endpointOf s b == physCore s.floor 0 / 16 && b.cls == (s.task (c.bk % 64)).prio && wantsInject s b) = true) := by
  decide +kernel

/-! ## States that meet the hypotheses: parking and containment -/

/-- One cluster with one core. -/
def oneCore : Floor := { Floor.full with clus := 1, cores := 1 :: List.replicate 49 0 }
/-- Levels of a launch whose unit above the band is the device. -/
def levels3 : List Level := [fetchLevel 0 32, fetchLevel 1 1, fetchLevel 2 1, fetchLevel 5 1]
/-- The placed launch without groups or contexts of band 0, without scratchpad, matrix state and
levels between the band and the device; its band is asked to park. -/
def bandP (f : Band → Band) : State :=
  ({ withTables (laneP.updBand 0 f) with groups := [(grpKey 1 0 0, { gm with b := 1 })], ctxs := [] }).updLaunch 0
    (fun l => { l with r := { l.r with scrg := 0, mat := false, levels := levels3 } })

theorem parkRoom_full (s : State) (sl : Nat) (p : ParkedPin) (hs : sl ∈ s.floor.allSlices) (hp : nameSlice s.floor p.name = sl) (hd : p.dead = none) :
    parkRoom { s with pins := List.replicate 8193 p } [] [] = false := by
  have hl : ((List.replicate 8193 p).filter (fun q => q.dead.isNone && nameSlice s.floor q.name == sl)).length = 8193 := by
    rw [List.filter_replicate, if_pos (by rw [hp, hd]; exact beq_self_eq_true sl), List.length_replicate]
  refine List.all_eq_false.2 ⟨sl, hs, ?_⟩
  show ¬((decide (((List.replicate 8193 p).filter (fun q => q.dead.isNone && nameSlice s.floor q.name == sl)).length + _ ≤ 8192) && _) = true)
  rw [hl, decide_eq_false (by omega), Bool.false_and]
  exact Bool.false_ne_true

theorem witness_preemption :
    (∃ x, laneM.band? 0 = some x ∧ x.st = .resident ∧ x.again ≤ clockAt laneM (.core x.core) ∧ x.park = none ∧ x.dbg = none) ∧
    (∃ x p, (laneP.updBand 0 (fun x => { x with cause := 2 })).band? 0 = some x ∧ x.st = .resident ∧ x.park = some p ∧ x.cause ≠ 1) ∧
    (let s := { laneP with nc := 2 ^ 24 }
     ∃ x p, s.band? 0 = some x ∧ s.grp? 0 = some gm ∧ bandKey gm.gc gm.b = bandKey 0 0 ∧ x.park = some p ∧ x.cause = 1 ∧ handling s 0 0 = false ∧ gm.stop = .run ∧
       p.start + 2 ^ 20 ≤ clockAt s (.core x.core)) ∧
    ((∃ x p, laneP.band? 0 = some x ∧ x.st = .resident ∧ x.again ≤ clockAt laneP (.core x.core) ∧ x.park = some p ∧ x.cause = 1) ∧
      (∃ q ∈ grpsOf laneP 0 0, grpQuiet laneP q 1 = false) ∧
      ∀ q ∈ grpsOf (laneP.updGrp 0 (fun g => { g with stop := .halted })) 0 0, grpQuiet (laneP.updGrp 0 (fun g => { g with stop := .halted })) q 1 = true) :=
  ⟨⟨_, rfl, rfl, by decide, rfl, rfl⟩, ⟨_, _, rfl, rfl, rfl, by decide⟩, ⟨_, _, rfl, rfl, by decide, rfl, rfl, by decide, rfl, by decide⟩,
    ⟨_, _, rfl, rfl, by decide, rfl, rfl⟩, by decide, by decide⟩

theorem witness_park : parkReady (bandP id) 0 0 = true ∧
    (let s := bandP id
     let bs := parkBands s 0 0
     let gks := (parkGrps s 0 bs).map (·.1)
     let cks := (parkCtxs s 0 bs).map (·.1)
     let names := pinNames (parkGrps s 0 bs)
     let bars := barNames s (parkCtxs s 0 bs)
     let out := fun (s : State) => moveOut (withdraw (keepMasks (sendOwed s 0 bs) gks) 0 gks cks) 0 names bars gks
     parkRoom s (allNames (parkGrps s 0 bs)) bars = true ∧ (writeImages (out s) 0 1 bs).isSome = true ∧
       parkReady { s with mem := [] } 0 0 = true ∧ (writeImages (out { s with mem := [] }) 0 1 bs).isNone = true) := by decide +kernel

theorem witness_no_room : parkRoom { bandP id with pins := List.replicate 8193 ⟨64, 0, 0, none⟩ } [] [] = false :=
  parkRoom_full _ (nameSlice Floor.full 64) _ (by decide) rfl rfl

theorem witness_resume : (∃ x, (bandP (fun x => { x with st := .resuming })).band? 0 = some x ∧ x.st = .resuming) ∧
    (∀ y ∈ bandsWith (bandP (fun x => { x with st := .resuming })) 0 0, ∀ z ∈ (bandP (fun x => { x with st := .resuming })).band? (bandKey 0 y), z.st ≠ .parked) ∧
    resumeReadable (bandP (fun x => { x with st := .resuming })) 0 (resumeBands (bandP (fun x => { x with st := .resuming })) 0 0) = true ∧
    resumeReadable { bandP (fun x => { x with st := .resuming }) with mem := [] } 0 (resumeBands (bandP (fun x => { x with st := .resuming })) 0 0) = false :=
  ⟨⟨_, rfl, rfl⟩, by decide⟩

/-- A replay entry with one lane. -/
def rpl : Replay := ⟨0, 0, 0, 1, [], []⟩
/-- A kill that is agreed. -/
def kil : Kill := ⟨.grp 0, FaultReq.mk0 0x31 0, 0, 0, 1⟩

theorem witness_containment :
    (let s := laneM.updCore 0 (fun c => { c with replay := [[rpl], [], [], []] })
     (nth? (s.core 0).replay 0).getD [] = rpl :: [] ∧ s.grp? 0 = some gm ∧ gm.clonePend = none ∧ (2 : Lanes) &&& rpl.lanes = 0 ∧ (3 : Lanes) &&& rpl.lanes ≠ 0) ∧
    (let s := laneM.updGrp 0 (fun g => { g with stop := .restart, region := ⟨true, .grp, 5, 0, all, 2⟩ })
     ∃ g, s.grp? 0 = some g ∧ g.stop = .restart ∧ grpBusy s 0 = false ∧ g.region.kind = .grp ∧ g.region.mask &&& g.live ≠ 0) ∧
    (let s := laneM.updBand 0 (fun x => { x with dying := some kil })
     (∃ x, s.band? 0 = some x ∧ x.dying = some kil) ∧ ∀ y ∈ unitBands s 0 0, bandBusy s 0 y = false ∧ copying s (bandKey 0 y) = false) ∧
    (laneM.updGrp 0 (fun g => { g with clonePend := some (1, 0, 0) })).groups.any (fun p => p.2.clonePend == some (1, 0, 0)) = true ∧ laneM.host.halted = false :=
  ⟨⟨rfl, rfl, rfl, by decide, by decide⟩, ⟨_, rfl, rfl, by decide, rfl, by decide⟩, ⟨⟨_, rfl, rfl⟩, by decide⟩, by decide, rfl⟩

/-- The module with one cluster, the boot stage given. -/
def walkS (st stage : Nat) (walk : Bool) : State :=
  { State.reset with boot := ⟨st, 0, stage, 0, []⟩, nc := 2 ^ 30, floor := oneCore }.updCluster 0 (fun c => { c with walk := walk })

/-- An idle cluster, at its interval and at the tests of the start; one under test; and one under test that a parked band could use. -/
theorem witness_walkround :
    ((walkS 1 0 false).host.walkInt ≠ 0 ∧
      ((walkS 1 0 false).cluster 0).walkAt + (walkS 1 0 false).host.walkInt.toNat * 2 ^ 20 ≤ ((walkS 1 0 false).cluster 0).now (2 ^ 30)) ∧
    (∀ st ∈ [0, 1], let s := walkS st 4 false
      0 < s.floor.allClus.length ∧ (s.cluster 0).walk = false ∧ clusterFree s 0 = true ∧ (s.cluster 0).isl = 0 ∧ s.host.halted = false ∧
      startTests s = (st == 0) ∧ s.boot.tested = []) ∧
    (∀ st ∈ [0, 1], ((walkS st 4 true).cluster 0).walk = true ∧ startTests (walkS st 4 true) = (st == 0) ∧
      coresOfClus (walkS st 4 true) 0 = [] ++ 0 :: []) ∧
    (let s := ({ bandP (fun x => { x with st := .parked, park := none }) with floor := oneCore, ready := [⟨.unit 0 0, 0, 0, 0, false⟩] }).updCluster 0
       (fun c => { c with walk := true })
     (s.cluster 0).walk = true ∧ ∃ e ∈ s.ready, (tryItem s e.what 0).isNone = true ∧
       (tryItem (s.updCluster 0 (fun x => { x with walk := false })) e.what 0).isSome = true) := by decide +kernel

/-! ## States that meet the hypotheses: tasks, queues, the host and peers -/

/-- A ready entry that stands for the parked band. -/
def ent : ReadyEnt := ⟨.unit 0 0, 0, 0, 0, false⟩
/-- A module that has started, with the one core, whose band is parked and ready. -/
def readyS : State :=
  { bandP (fun x => { x with st := .parked, park := none }) with floor := oneCore, ready := [ent], boot := ⟨1, 0, 0, 0, []⟩ }
/-- The same core taken by a band of matrix state idle in a wait, and the parked band of a second launch that wants that state. -/
def idleS : State :=
  let s := { laneM with floor := oneCore, ready := [⟨.unit 1 0, 0, 0, 0, false⟩], boot := ⟨1, 0, 0, 0, []⟩ }
  let s := (s.updGrp 0 (fun g => { g with live := 0 })).updCtx k2 (fun c => { c with w := .fwait 128 3 0 true })
  let r := { fetchRec with levels := levels3, scrg := 0 }
  { s with
    launches := s.launches ++ [(1, Launch.fresh ⟨0, 1, 0, 0, 0, 0, 0⟩ r)],
    bands := s.bands ++ [(bandKey 1 0, { Band.fresh 1 0 with st := .parked })] }

theorem witness_spawn_step : (let s := laneM.updBand 0 (fun x => { x with pend := [(256, true), (128, false)] })
    (∃ x, s.band? 0 = some x ∧ x.pend = [(256, true)] ++ (128, false) :: []) ∧
    ∃ u, spawn (s.updBand 0 (fun x => { x with pend := setNth x.pend 1 (128, true) })) 128 (s.task 0).space (s.task 0).top (s.task 0).tdir
      (s.task 0).tdlim (s.lrec 0).priv (some 0) = .done 0x11 u) := ⟨⟨_, rfl, rfl⟩, _, rfl⟩

theorem witness_dispatch : takesWork readyS = true ∧
    ((readyOrder (dueScan (wakeScan (sweepTakes readyS)))).findSome? (fun p => (tryItem (dueScan (wakeScan (sweepTakes readyS))) p.2.what 0).map (fun t => (p.1, p.2, t)))).isSome = true ∧
    takesWork idleS = true ∧
    (let v := dueScan (wakeScan (sweepTakes idleS))
     (∀ p ∈ readyOrder v, (tryItem v p.2.what 0).isNone = true) ∧
     (match v.bands with | (_, x) :: _ => bandIdle v x && (idleWant v x).isSome | [] => false) = true) := by decide +kernel

/-- A finished launch whose retirement has come to a stage. -/
def retS (stage : Nat) (ids : List Nat) : State := laneN.updLaunch 0 (fun l => { l with done := true, retire := ⟨stage, ids, none⟩ })

theorem witness_retirement : ((∀ stage ∈ [0, 1, 2, 3, 4, 5], ∀ ids ∈ [[], [7]], ∃ l ∈ (retS stage ids).launch? 0, l.done = true ∧ l.retire.stage = stage ∧ l.retire.ids = ids)) ∧
    (∃ l ∈ (retS 2 []).launch? 0, mayRetire (retS 2 []) 0 l = true ∧ (retRec (sweepTakes (retS 2 [])) l.t).isSome = true) ∧
    (∃ l ∈ (retS 4 []).launch? 0, ∃ p ∈ retRec (retS 4 []) l.t, (succIds (retS 4 []) l.t p.2).2 = true ∧
      (succIds (retS 4 []) l.t (putBytes p.2 0x10 [0, 0, 0, 0, 0, 0, 0, 1])).2 = false) ∧
    (∃ l ∈ (retS 5 [7]).launch? 0, ∃ pa ∈ taskPa (retS 5 [7]) l.t, readyFits (retS 5 [7]) (retSucc (retS 5 [7]) l.t pa 7) = true) := by decide +kernel

theorem witness_ageing : 2 < (⟨.unit 0 0, 0, 3, 62, false⟩ : ReadyEnt).eff ∧ (62 + 1 < 64 ∧ 64 ≤ 63 + 1) := by decide

/-- A started module whose queue 63 is as given; the packet at 1 MiB has the given bytes. -/
def queueS (m : List Host.Cell) (q : QDesc) : State := { State.reset with boot := ⟨1, 0, 0, 0, []⟩, mem := tables ++ m, host := { HostRegs.reset with qs := [(63, q)] } }
/-- A queue of 4 packets at 1 MiB, enabled, with tables at 4096, where `wr` packets have been written. -/
def queue (wr : W64) (fence : Bool) : QDesc := ⟨0x100000, 0x202, 0, wr, 0, 4096, 0, 0, fence⟩

theorem witness_queue_steps :
    (let s := queueS [] (queue 4 false)
     (s.queue 63).on = true ∧ (s.queue 63).waiting ≤ (s.queue 63).count ∧ parses s 63 = true ∧ (s.queue 63).fence = false ∧
     packetBad (packetBytes s 63 (s.queue 63)) = false ∧ bitsOf (bfld (packetBytes s 63 (s.queue 63)) 0 8) 7 0 = 0) ∧
    (let s := queueS [] (queue 5 false)
     (s.queue 63).on = true ∧ (s.queue 63).count < (s.queue 63).waiting) ∧ (queueS [] { queue 4 false with cfg := 2 }).queue 63 = { queue 4 false with cfg := 2 } ∧
    (let s := queueS [(0x100000, 4)] (queue 1 false)
     packetBad (packetBytes s 63 (s.queue 63)) = true) ∧
    (let s := queueS [(0x100000, 1), (0x100012, 64)] (queue 1 false)
     packetBad (packetBytes s 63 (s.queue 63)) = false ∧ bitsOf (bfld (packetBytes s 63 (s.queue 63)) 0 8) 7 0 = 1) ∧
    (let s := queueS [(0x100000, 2), (0x100010, 1), (0x100020, 64)] (queue 1 false)
     let bs := packetBytes s 63 (s.queue 63)
     packetBad bs = false ∧ bitsOf (bfld bs 0 8) 7 0 = 2 ∧ ∀ p ∈ fenceCounters bs, (packetWord s (s.queue 63) p.1 .read).isSome = true) ∧
    (let s := queueS [(0x100000, 3), (0x100010, 64)] (queue 1 false)
     let bs := packetBytes s 63 (s.queue 63)
     packetBad bs = false ∧ bitsOf (bfld bs 0 8) 7 0 = 3 ∧ packetWord s (s.queue 63) (bfld bs 0x10 8) .write = some 64 ∧ isMem s.floor 64 = true) := by
  decide +kernel

theorem witness_launch_and_fence_packets :
    (let s := queueS [(0x100000, 1), (0x100017, 1)] (queue 1 false)
     let d := s.queue 63
     ∃ t, spawn s (bfld (packetBytes s 63 d) 0x10 8) d.space.toNat d.toptab.toNat d.tdir d.tdlim.toNat (d.cfg.getLsbD 8) none = .done 0x11 t) ∧
    (let s := queueS [(0x100000, 2), (0x100010, 1), (0x100020, 64)] (queue 1 true)
     (s.queue 63).fence = true ∧ ∀ p ∈ fenceCounters (packetBytes s 63 (s.queue 63)),
       packetWord s (s.queue 63) p.1 .read = some 64 ∧ isMem s.floor 64 = true ∧ p.2 ≤ homeGet s 64 8) ∧
    (let s := queueS [(0x100000, 2), (0x100010, 1), (0x100027, 1)] (queue 1 true)
     ∃ p ∈ fenceCounters (packetBytes s 63 (s.queue 63)), packetWord s (s.queue 63) p.1 .read = none) := ⟨⟨_, rfl⟩, by decide +kernel, by decide +kernel⟩

theorem witness_host_commands :
    (let s := { laneM with host := { laneM.host with fbWait := [([1], .park 0 0), ([2], .dead)], fbCfg := 0x104, fbTail := 15 } }
     s.host.fbWait = [([1], .park 0 0)] ++ ([2], .dead) :: [] ∧ (∀ p ∈ [(([1] : List (BitVec 8)), FbKind.park 0 0)], fbMay s p.2 = false) ∧ fbMay s .dead = true ∧
     s.host.fbCfg.getLsbD 8 = true ∧ (s.host.fbTail - s.host.fbHead).toNat < fbCount s) ∧
    (4 ≤ bitsOf (0x10C : W64).toNat 3 0 ∧ bitsOf (0x10C : W64).toNat 3 0 ≤ 12 ∧ bitsOf (0x103 : W64).toNat 3 0 < 4 ∧ 12 < bitsOf (0x10D : W64).toNat 3 0) ∧
    (let s := ({ laneM with host := { laneM.host with fbMeta := [(0, (.park 0 0, [1])), (1, (.grid k2, [2]))] } }).updBand 0 (fun x => { x with st := .parked, unres := 1 })
     tabGet? s.host.fbMeta 0 = some (.park 0 0, [1]) ∧ tabGet? s.host.fbMeta 1 = some (.grid k2, [2]) ∧
     ∃ x l, s.band? 0 = some x ∧ x.unres ≠ 0 ∧ s.launch? 0 = some l ∧ l.done = false ∧ x.st ≠ .ended) ∧
    (laneM.host.tlbCmd.getLsbD 2 = false ∧ usedDone laneM 0 = true) ∧
    (let s := laneM.updBand 0 (fun x => { x with dbg := some 0, dbgUnit := some (.grp 0, 0) })
     ∃ x l, s.band? (bandKey 0 0) = some x ∧ x.dbg = some 0 ∧ x.dbgUnit = some (.grp 0, 0) ∧ s.launch? 0 = some l ∧ l.done = false ∧ 0 < l.r.bands ∧
       s.host.halted = false ∧ x.st ≠ .ended) ∧
    (let s := laneM.updBand 0 (fun x => { x with dbg := some 0 })
     ∃ x, s.band? (bandKey 0 0) = some x ∧ x.dbg = some 0 ∧ x.dbgUnit = none) :=
  ⟨by decide, by decide, ⟨rfl, rfl, _, _, rfl, by decide, rfl, rfl, by decide⟩, by decide, ⟨_, _, rfl, rfl, rfl, rfl, rfl, by decide, rfl, by decide⟩,
    _, rfl, rfl, rfl⟩

theorem witness_control_space : (300 ≤ (300 : W64).toNat ∧ (1600 : W64).toNat ≤ 1600 ∧ (299 : W64).toNat < 300 ∧ 1600 < (1601 : W64).toNat) ∧
    (251 < 252 ∧ bitsOf (0x0AFFFFFF : W64).toNat 27 24 < 11 ∧ 11 ≤ bitsOf (0x0B000000 : W64).toNat 27 24) ∧
    (0x3018 ∉ [0x100, 0x200, 0x3000, 0x3010, 0x3100, 0x3108, 0x3300] ∧ ¬(0x10000 ≤ 0x3018 ∧ 0x3018 < 0x10000 + 8 * 252 ∧ 0x3018 % 8 = 0) ∧
      ¬(0x31000 ≤ 0x3018 ∧ 0x3018 + 8 ≤ 0x32000)) ∧
    (0x4B0 < 0x4B1) ∧ (71 < 72 ∧ (40 : BitVec 8).toNat ≤ 40 ∧ 40 < (41 : BitVec 8).toNat) ∧ gatable State.reset 49 = true ∧ gatable State.reset 50 = false ∧
    (let s := ({ State.reset with floor := oneCore }).updCluster 0 (fun c => { c with ctl := 2 })
     clusNo s.floor 0 = some 0 ∧ bitsOf (s.cluster 0).ctl.toNat 1 0 = 2 ∧ (s.cluster 0).isl ≠ 2 ∧ (s.cluster 0).walk = false ∧ clusterFree s 0 = true ∧
     residentOn s 0 = false ∧ ∀ k ∈ (s.cluster 0).homes, bandLives s k = false) ∧
    State.reset.nc / 2 ^ 21 ≤ State.reset.host.window ∧ State.reset.host.window < (2 ^ 21) / 2 ^ 21 := by decide +kernel

/-- A started module whose link 0 is up after `crc` failures. -/
def peerS (crc : Nat) (accs : List Access) : State := { State.reset with boot := ⟨1, 0, 0, 0, []⟩, peers := [(0, ⟨true, crc, 0⟩)], accs := accs }

theorem witness_peer_and_host : peerUp (peerS 0 []) 0 = true ∧
    peerReqOk (peerHeard (peerS 0 []) 0) 64 64 = true ∧ peerReqOk (peerHeard (peerS 0 []) 0) 64 65 = false ∧
    (aopTy .add .u64 = true ∧ 64 % tyBytes .u64 = 0 ∧ peerReqOk (peerHeard (peerS 0 []) 0) 64 (tyBytes .u64) = true) ∧
    (∀ a ∈ (peerS 0 []).accs, a.by_ = .peer 0 → performedAt a 6 = true) ∧
    (let a := { acc (.peerWin 0 64) .write with atHome := true, core := none }
     accOf (peerS 0 [a]) a.id = some a ∧ a.loc = .peerWin 0 64 ∧ a.kind = .write) ∧
    (let a := { acc (.peerWin 0 64) .read with inj := true, core := none }
     accOf (peerS 0 [a]) a.id = some a ∧ a.taken = none ∧ ordersAllow (peerHeard (peerS 0 [a]) 0) a = true ∧ readInOrder (peerHeard (peerS 0 [a]) 0) a = true) ∧
    (let a := { acc (.hostWin 64) .read with inj := true, core := none }
     accOf (peerS 0 [a]) a.id = some a ∧ ordersAllow (peerS 0 [a]) a = true ∧ readInOrder (peerS 0 [a]) a = true ∧ ([9] : List Byte).length = a.width) ∧
    ((((peerS 15 []).peer 0).crc + 1 ≤ 16) ∧ 16 < ((peerS 16 []).peer 0).crc + 1) ∧
    (let a := { acc (.peerWin 0 64) (.copy 0 0 true) with owes := [(33, 1)] }
     accOf (peerS 0 [a]) a.id = some a ∧ tabGet 0 a.owes (33 + 0) ≠ 0) ∧
    (takesWork (peerS 0 []) = true ∧ isMem (peerS 0 []).floor (aperPa (peerS 0 []) 64) = true ∧ aperPa (peerS 0 []) 64 % 128 + 64 ≤ 128 ∧
      (hostAtom .cas (List.replicate 16 1)).isSome = true ∧ (hostAtom .fetchAdd [1, 0, 0, 0]).isSome = true) ∧
    ((peerS 0 []).floor.peers.getLsbD 11 = true ∧ tabGet? (peerS 0 []).peers 11 = none ∧ (peerS 0 []).boot.st = 1 ∧ (peerS 0 []).host.halted = false) := by decide

theorem witness_startup : State.reset.boot.st = 0 ∧
    (∀ n ∈ [3, 4, 6], stageCode { State.reset with boot := ⟨0, 0, n, 0, []⟩ } n = none) ∧
    (let s := { State.reset with boot := ⟨0, 0, 6, 0, []⟩, flash := { State.reset.flash with fails := 2 }, nc := 2 ^ 32 }
     (stageCodes 6).contains 0x50 = true ∧ 2 ≤ s.flash.fails ∧ stageLimit 6 < s.nc - s.boot.since) ∧
    (∀ ok ∈ [true, false], let s := { State.reset with floor := oneCore, boot := ⟨0, 0, 4, 0, [(0, ok)]⟩ }
     (∀ c < s.floor.allClus.length, ∃ p ∈ s.boot.tested, p.1 = c) ∧ ((∃ p ∈ s.boot.tested, p.2 = true) ∨ ok = false) ∧
     ((∀ p ∈ s.boot.tested, p.2 = false) ∨ ok = true)) ∧
    (∀ n ∈ [3, 4, 6], State.reset.nc - State.reset.boot.since ≤ stageLimit n) ∧
    ¬(∀ c < (State.reset.floor).allClus.length, ∃ p ∈ State.reset.boot.tested, p.1 = c) := by decide

theorem witness_bad_floor_map : ∃ c, stageCode { State.reset with flash := { State.reset.flash with map := [] } } 2 = some c := by
  show ∃ c, (if !mapSigned [] then some (0x11 : BitVec 8) else if !floorOk [] then some 0x12 else none) = some c
  split
  · exact ⟨_, rfl⟩
  · exact ⟨0x12, by decide⟩

theorem witness_messages : (0x4B0 < 0x4B1 ∧ 0x4B1 ≤ 0x4B1) ∧ State.reset.flash.active = false ∧ State.reset.host.attest = none ∧ (List.replicate 32 (0 : Byte)).length = 32 ∧
    (List.replicate 31 (0 : Byte)).length ≠ 32 ∧ ({ State.reset.host with attest := some (true, []) }).attest = some (true, []) ∧
    [(1 : Byte)].length ≤ 4088 ∧ bfld [(1 : Byte)] 0 1 = 0x01 := by decide

/-! ## States that meet the hypotheses: checks and the step -/

theorem witness_registers_read_back : (1 = 1 ∧ 31 < 32) ∧ c1.trail = [] ∧ (∃ g, (laneM.grp? 0) = some g) ∧ ownKey (ctxS id) (ctxS id).cur.u 1 = k1 ∧
    (ctxS id).ctx? k1 = some c1 := ⟨by decide, by decide, ⟨_, rfl⟩, by decide, by decide⟩

/-- Registers past the count; a source empty in lane 0 with FEB = 1 and with FEB = 0; one with a poison mark. -/
theorem witness_operand_checks : gm.overOp (.vec 64) 1 = true ∧ gm.overOp (.vec 63) 1 = false ∧
    (let s := laneM.updGrp 0 (fun g => { g with ve := [(vkey 4 0, true)], vp := [(vkey 5 0, true)] })
     useEmpty s (.grp 0) 0 ⟨1, ⟨true, .vec 4⟩, 1, 1, true⟩ ≠ 0 ∧ useEmpty s (.grp 0) 0 ⟨1, v 4, 1, 1, true⟩ ≠ 0 ∧
     checkUses s (.grp 0) 0 1 [⟨1, v 5, 1, 1, true⟩] [⟨.vec 6, 1, 1⟩] = none ∧ poisonLanes s (.grp 0) 0 [⟨1, v 5, 1, 1, true⟩] ≠ 0 ∧
     checkAll s (.grp 0) 0 1 [⟨1, v 6, 1, 1, true⟩] [⟨.vec 6, 1, 1⟩] = none) := by decide

theorem witness_completion_frame : (ctxS id).cur.u = .ctx k1 ∧ (ctxS id).ctx? k1 = some c1 ∧ laneM.cur.u = .grp 0 ∧ laneM.grp? 0 = some gm ∧
    (∀ p ∈ entries gm.splits, p.2.rj = false) := by decide

theorem witness_round_trip : (Instr.trap h0 0x2A).wf = true ∧ Decode.encode (.trap h0 0x2A) = some 0xE0000780000000000000002A#96 := by decide

/-- The state in which a placed word runs, once the step has begun. -/
def begun (w : Nat) : State := begin1 (State.reset.withFetchWord 96 w)
/-- Its group. -/
def gw (w : Nat) : Machine.Group := ((begun w).grp? 0).getD g0

theorem groupIssues_of (w : Nat) (h : (begun w).grp? 0 = some (gw w)) (hr : (gw w).stop = .run ∧ (gw w).clonePend = none ∧ (gw w).pendH = none ∧
    (begun w).host.halted = false ∧ grpEnded (begun w) (gw w) = false ∧ bandIssues (begun w) (gw w).gc (gw w).b true (gw w).last = true ∧
    handledAbove (begun w) (gw w).gc (some (grpKey (gw w).gc (gw w).b (gw w).r)) (grpAnc (begun w) (gw w)) = false ∧
    segIdle (begun w) (.grp 0) = false ∧ pastStop (begun w) (.grp 0) = false)
    (hp : ∃ x, nth? (gw w).splits 0 = some (some x) ∧ turnOf (begun w) (gw w) = some 0 ∧ x.pc = 0 ∧ x.mask &&& (gw w).live = all) : GroupIssues (begun w) 0 0 (gw w) 0 all := by
  obtain ⟨h1, h2, h3, h4, h5, h6, ha, h7, h8⟩ := hr
  obtain ⟨x, p1, p2, p3, p4⟩ := hp
  exact ⟨h, ⟨h1, h2, h3, h4, h5⟩, h6, ha, fun _ => ⟨.inr h7, h8⟩, .inl ⟨x, p1, p2, p3.symm, p4.symm⟩⟩

/-- FFMA at LEV 0 and SADD at LEV 1, of DecodingIsRight. -/
abbrev wFfma : Nat := 0x63004F806002008018000000
abbrev wSadd : Nat := 0x240087A01402FFC000000007
abbrev wFwait : Nat := 0xC60107A03404000000000000

theorem witness_group_steps :
    (pickTurn (State.reset.withFetchWord 96 wFfma) = .issue (.grp 0) 0 ∧ GroupIssues (begun wFfma) 0 0 (gw wFfma) 0 all ∧
      (let s := begun wFfma
       ∃ t i, fetchLine s (placeOf s (.grp 0)) 0 0 = (.ok (BitVec.ofNat 512 wFfma), t) ∧ slotOf (BitVec.ofNat 512 wFfma) 0 = BitVec.ofNat 96 wFfma ∧
        levOf (BitVec.ofNat 96 wFfma) = 0 ∧ decodeFor (s.lrec 0) (BitVec.ofNat 96 wFfma) = .ok i ∧ strikes t (.grp 0) i all = none ∧
        (awaitsReplay (gw wFfma).chk (BitVec.ofNat 96 wFfma) && hasReplay t 0) = false)) ∧
    (pickTurn (State.reset.withFetchWord 96 wSadd) = .issue (.grp 0) 0 ∧ GroupIssues (begun wSadd) 0 0 (gw wSadd) 0 all ∧
      (let s := begun wSadd
       ∃ t i, fetchLine s (placeOf s (.grp 0)) 0 0 = (.ok (BitVec.ofNat 512 wSadd), t) ∧ levOf (BitVec.ofNat 96 wSadd) = 1 ∧
        (s.lrec 0).grpLev = some 1 ∧ 1 ≤ (s.lrec 0).top ∧ (gw wSadd).single = true ∧ decodeFor (s.lrec 0) (BitVec.ofNat 96 wSadd) = .ok i ∧
        strikes t (.ctx (grpAnc t (gw wSadd) 1)) i all = none)) ∧
    (decodeFor ((begun 0xFF).lrec 0) (BitVec.ofNat 96 (0xFF * 2 ^ 88))).toOption = none :=
  ⟨⟨rfl, groupIssues_of _ (by decide) (by decide) ⟨_, rfl, by decide, rfl, by decide⟩,
      ⟨_, _, rfl, by decide, by decide, rfl, by decide, by decide⟩⟩,
    ⟨rfl, groupIssues_of _ (by decide) (by decide) ⟨_, rfl, by decide, rfl, by decide⟩,
      ⟨_, _, rfl, by decide, by decide, by decide, by decide, rfl, by decide⟩⟩, by decide⟩

theorem witness_context_step : (let s := begun wFwait
    pickTurn (State.reset.withFetchWord 96 wFwait) = .issue (.ctx k2) 0 ∧
    ∃ c t i, ContextIssues s k2 c ∧ fetchLine s (placeOf s (.ctx k2)) c.gc c.ia = (.ok (BitVec.ofNat 512 wFwait), t) ∧
      levOf (BitVec.ofNat 96 wFwait) = c.lvl ∧ decodeFor (t.lrec c.gc) (BitVec.ofNat 96 wFwait) = .ok i ∧ strikes t (.ctx k2) i 0 = none ∧
      (endsSegment i && c.lower) = false ∧ c.trail = [] ∧ repOf i c.lvl c.ia (BitVec.ofNat 96 wFwait) = none) :=
  ⟨rfl, _, _, _, ⟨rfl, by decide, by decide, .inr ⟨by decide, by decide⟩⟩, rfl, by decide, rfl, by decide, by decide, rfl, rfl⟩

theorem witness_memory_stays_canonical : Memory.wf (State.reset.withFetchWord 96 wFfma).mem = true ∧
    ∃ t, step (State.reset.withFetchWord 96 wFfma) = .next t := ⟨by decide, _, rfl⟩

/-! ## Results worked by hand -/

/-- R142: a shift by the full width, and an arithmetic one of a negative value. -/
theorem test_shift_full_width : shl (1 : W64) 64 = 0 ∧ shr (1 : W64) 64 = 0 ∧ sra (BitVec.intMin 64) 64 = BitVec.allOnes 64 := by decide
theorem test_sra_rounds_down : sra (-3 : W32) 1 = -2 := by decide
/-- R144: a zero divisor, and the one quotient that does not fit. -/
theorem test_division_corners : sdivV true (7 : W64) 0 = -1 ∧ sremV true (7 : W64) 0 = 7 ∧ sdivV true (BitVec.intMin 64) (-1) = BitVec.intMin 64 := by decide
theorem test_remainder_sign : sdivV true (-7 : W64) 2 = -3 ∧ sremV true (-7 : W64) 2 = -1 := by decide
/-- R149: the high half of a signed and of an unsigned product; saturation. -/
theorem test_high_product : mulh true (-1 : W32) (-1) = 0 ∧ mulh false (-1 : W32) (-1) = 0xFFFFFFFE := by decide
theorem test_saturation : narrow true true 32 (2 ^ 31) = 0x7FFFFFFF ∧ narrow false true 32 (2 ^ 31) = 0x80000000 := by decide
theorem test_leading_zeros : clz (0 : W32) = 32 ∧ clz (1 : W32) = 31 ∧ popCount (0xF0 : W32) = 4 ∧ brev (1 : W32) = 0x80000000 := by decide
/-- R152: a rotation and a deal in segments of 4 lanes. -/
theorem test_shuffle : shflSel .rot 2 7 1 = 4 ∧ shflSel .mirror 2 4 0 = 7 ∧ (List.range 4).map (fun i => shflSel .deal 2 i 0) = [0, 2, 1, 3] := by decide
/-- R278, R279: 0x30 and 0x21 of T6, and 0xA5 of T8, which is −3.375. -/
theorem test_tapered_decode : encTy .f32 (decTy .t6 0x30) = 0xBF800000 ∧ encTy .f32 (decTy .t8 0xA5) = 0xC0580000 ∧
    encTy .f32 (decTy .t6 0x21) = 0xC3800000 := by decide +kernel
/-- R284: F32 130.5 to S8 clamped and wrapped, −0.75 to SC16 and 1.5 to T8. -/
theorem test_conversions : encInt .s8 false (decTy .f32 0x43028000) = 127 ∧ (regOf .s8 (encInt .s8 true (decTy .f32 0x43028000)).toNat).setWidth 32 = (0xFFFFFF82 : W32) ∧
    encTy .sc16 (decTy .f32 0xBF400000) = 0xBF40 ∧ encTy .t8 (decTy .f32 0x3FC00000) = 0x48 := by decide +kernel
/-- R318: FRND of 2.5 and of −0.5. -/
theorem test_round_to_integer : (ieeeOf .f32).round (decTy .f32 0x40200000).toInteger = 0x40000000 ∧
    (ieeeOf .f32).round (decTy .f32 0xBF000000).toInteger = 0x80000000 := by decide +kernel
/-- R288: 2^24 and one product of 1 in one K-step keep 2^24, a tie to the even significand; 2^24 and 2 do not. -/
theorem test_one_rounding : (ieeeOf .f32).round (FV.add (fdec .f32 0x4B800000) (.fin false 1 0)) = 0x4B800000 ∧
    (ieeeOf .f32).round (FV.add (fdec .f32 0x4B800000) (.fin false 1 1)) = 0x4B800001 := by decide +kernel
/-- R231: the home slice of 0x1_2345_6780, with all slices and without slice 4. -/
theorem test_home_slice : homeOf Floor.full 0x123456780 = 9 ∧ homeOf { Floor.full with slices := BitVec.allOnes 32 ^^^ 16 } 0x123456780 = 17 := by decide
/-- What a state holds after an instruction that goes on. -/
def after {α : Type} (i : Instr) (s : State) (f : State → α) : Option α := match exec i s with | .next t => some (f t) | _ => none

/-- R144: a scalar takes the sum; its old value is logged when a segment is live (R27). -/
theorem test_sadd : after (.sadd h1 ⟨ds 3, sc 0 2, im, -7⟩) (ctxF [] .none) (fun t => (t.ctx? k1).map (fun c => (c.cell 3, c.ia))) = some (some (⟨121, true, false⟩, 1)) := by decide
theorem test_sadd_logged : after (.sadd h2 ⟨ds 3, sc 0 2, im, 5⟩) (bandS (fun c => { c with trail := [⟨fetchSeg, 1, 0, 0, [], 0, 1, []⟩] }))
    (fun t => (t.ctx? k2).map (fun c => (c.cell 3).v)) = some (some 5) := by decide
/-- R149: only active lanes are written: lane 0 of two lanes has p1. -/
theorem test_vadd_guarded : after (.vadd ⟨0, 1, false⟩ .u32 false ⟨.vec 3, im, im, 7⟩) laneB (fun t => (t.grp? 0).map (fun g => (g.vword 3 0, g.vword 3 1))) =
    some (some (14, 0)) := by decide
/-- R146: a write of p15 is ignored. -/
theorem test_p15 : after (.pset h1 15 false) (ctxS id) (fun t => (t.ctx? k1).map (fun c => c.pred 15)) = some (some true) := by decide
/-- R121: a taken branch goes to its target, an untaken one to the next slot. -/
theorem test_bra : after (.bra h1 .z (sc 0 1) 4) (ctxT id) (fun t => (t.ctx? k1).map (fun c => c.ia)) = some (some 4) ∧
    after (.bra h1 .nz (sc 0 1) 4) (ctxT id) (fun t => (t.ctx? k1).map (fun c => c.ia)) = some (some 1) := by decide
/-- R127: ENDL of the last round leaves the loop. -/
theorem test_endl : after (.endl h1) (ctxT lastLoop) (fun t => (t.ctx? k1).map (fun c => (c.ia, c.loops.length))) = some (some (1, 0)) := by decide
/-- R122: BRL on a lane condition splits the lanes. -/
theorem test_brl : after (.brl h0 .nz (pr 1) 3 4) laneB (fun t => (t.grp? 0).map (fun g => (entries g.splits).map (fun p => (p.2.pc, p.2.mask &&& 3)))) =
    some (some [(1, 2), (3, 1)]) := by decide
/-- R265: a store changes no memory when it issues; its write is pending. -/
theorem test_store_is_pending : after (.st h0 opm) laneM (fun t => (t.mem, t.accs.map (fun a => (a.loc, a.width)))) = some ([], [(.mem 64, 4)]) := by decide
/-- R357: FWRITE fills the future at its home. -/
theorem test_fwrite : after (.fwrite h1 (sc 0 2) (sc 0 4)) (ctxF [] .none) (fun t => ((futGet t 128).full, (futGet t 128).value)) = some (true, 256) := by decide
/-- R213, R170: TRAP enters the launch's handler with code 0x18, at its own address. -/
theorem test_trap : after (.trap h0 0x2A) laneN (fun t => (t.grp? 0).map (fun g => (g.handler.map (fun x => (x.code, x.resume)), (entries g.splits).map (fun p => p.2.pc)))) =
    some (some (some (0x18, 0), [3])) := by decide +kernel
/-- R176: RFT resumes at RESUMEIA. -/
theorem test_rft : after (.rft h0) laneH (fun t => (t.grp? 0).map (fun g => (g.handler.isNone, (entries g.splits).map (fun p => p.2.pc)))) = some (some (true, [2])) := by
  decide +kernel
/-- R323: an ARV at a word that expects none has no effect. -/
theorem test_arv : after (.arv h0 im 0) laneM (fun t => arrGet t 0 0) = some (arrGet laneM 0 0) := by decide
/-- R226: an address whose upper bits are not copies of bit 56. -/
theorem test_address_form : vaOk 0x0100000000000000 = false ∧ vaOk 0xFF00000000000000 = true := by decide
/-- R402: a module whose HBM fails training three times in a row comes up in floor mode. -/
theorem test_bootstat : after (.startupStageComplete false 0x20) { State.reset with boot := ⟨0, 0, 3, 0, []⟩, flash := { State.reset.flash with fails := 2 } } bootStat =
    some 0x00032002 := by decide +kernel
/-- A placed word runs in the next step: SADD at LEV 1 (R144). -/
theorem test_placed_word : (match step (State.reset.withFetchWord 96 wSadd) with | .next t => (t.ctx? k1).map (fun c => (c.cell 1).v) | _ => none) = some 7 := by
  decide +kernel

/-! ## The assembler and the loader (R70 to R98): the words and the file that the manual writes out -/

/-- The word that one line of assembly gives, no name being defined. -/
def asmWord (head args : String) : Option Insn :=
  match asmInsn (fun _ => none) 0 none (chars head) (chars args) with
  | .ok x => some x.word
  | .error _ => none

/-- R118, R145, R208. -/
theorem test_asm_scalar :
    asmWord "LOOP.L1" "s0, +4" = some 0x0800_8780_0400_0000_0800_0000 ∧
    asmWord "ENDL.L1" "" = some 0x0900_8780_0000_0000_0000_0000 ∧
    asmWord "SADD.L1" "s1, s1, 7" = some 0x2400_87A0_1402_FFC0_0000_0007 ∧
    asmWord "CTLRD" "v20, RESUMEIA" = some 0xE200_0781_4000_0000_0000_0010 ∧
    asmWord "CTLWR" "RESUMEIA, v20" = some 0xE300_0780_0028_0000_0000_0010 := by decide +kernel

/-- R109, R160, R258, R349, R371. -/
theorem test_asm_words :
    asmWord "SID.X.L2" "s2, %id2" = some 0x2305_07A0_2694_0000_0000_0000 ∧
    asmWord "FFMA.F32" "v6, v1, v2, v3" = some 0x6300_4F80_6002_0080_1800_0000 ∧
    asmWord "ATOM.AR.DEV.U32.CAS" "v6, [v8+0], v2" = some 0x9074_3780_6010_009C_0000_0000 ∧
    asmWord "RED.REL.CLU.U32.ADD" "[v8+16], v2" = some 0x934C_3780_0010_0080_0000_0010 ∧
    asmWord "FWAIT.L2" "s3, s2" = some 0xC601_07A0_3404_0000_0000_0000 ∧
    asmWord "RECLAIM.L1" "p1, s2, s4" = some 0xD300_87B0_1404_8100_0000_0000 := by decide +kernel

/-- R75: an immediate is never rounded, and R74: a pair begins at an even register. -/
theorem test_asm_refuses :
    asmWord "VADD.F32" "v1, v2, 0.1" = none ∧ (asmWord "VLDI.F32" "v1, 1.5").isSome = true ∧
    (asmWord "VLDI.F32" "v1, 3").map Decode.wImm49 = some 0x4040_0000 ∧
    asmWord "ST.WEAK.DEV.U32" "[v5+0], v3" = none ∧ asmWord "VADD" "v1, v2, v3" = none := by decide +kernel

/-- R85: the patterns that data directives store. -/
theorem test_asm_reals :
    (roundReal .t6 (false, some ⟨10, -1⟩), roundReal .t8 (false, some ⟨15, -1⟩), roundReal .t8 (true, some ⟨10, -1⟩)) = (0x10, 0x48, 0xC0) ∧
    (roundReal .t8 (false, some ⟨100000, -1⟩), roundReal .t8 (false, some ⟨1, -9⟩), roundReal .t8 (false, none)) = (0x7F, 0x01, 0x80) ∧
    (roundReal .t16 (false, some ⟨10, -1⟩), roundReal .sc16 (true, some ⟨75, -2⟩)) = (0x4000, 0xBF40) := by decide +kernel

/-- The source of the kernel `stamp` (file 04). -/
def stampSrc : Chars :=
  chars ".mac" ++ chars "ro addr64 lo, hi, base     ; lo:hi = base + 4 * lane index, lane index in v0\n" ++
  chars "        VMUL.U32  \\lo, v0, 4             ; byte offset\n" ++
  chars "        VADD.U32  \\lo, \\lo, \\base        ; low half of address\n" ++
  chars "        VLDI.U32  \\hi, 0                 ; high half\n.endm\n.kernel stamp\n" ++
  chars ".level 0, lane, LANE, 8                  ; 8 live lanes\n" ++
  chars ".level 1, band, BAND, 1                  ; one band; L1 is the grid\n" ++
  chars "        VMOV.U32  v0, %lane              ; lane index\n        addr64    v4, v5, 0x10_0200\n" ++
  chars "        VMUL.U32  v3, v0, 3\n        ST.WEAK.DEV.U32 [v4+0], v3\n" ++
  chars "        EXIT                             ; lane ends\n        EXIT.L1\n.endk\n"

/-- The file for `stamp`, its digest taken as 0. -/
def stampFile : List Byte := (assembleWith (fun _ => 0) (chars "stamp.s") stampSrc).toOption.getD []

/-- The file for `stamp` (file 05): its size, its section table, its symbol, its relocations. -/
theorem test_stamp_file :
    (stampFile.length, (rhoHead stampFile).sectab, (rhoHead stampFile).nsect, (rhoHead stampFile).strsec, (rhoHead stampFile).symsec) =
      (0x460, 0x40, 8, 0, 1) ∧
    (rhoSects stampFile).map (fun x => (x.kind, x.name, x.flags, x.offset, x.size, x.align, x.link)) =
      [(5, 1, 0, 0x3F0, 0x4A, 0, 0), (6, 6, 0, 0x440, 0x20, 3, 0), (1, 11, 0b101, 0x140, 0x80, 6, 0),
       (9, 17, 0b001, 0x1C0, 0x100, 8, 2), (10, 25, 0b001, 0x2C0, 0x80, 7, 3), (7, 31, 0, 0x340, 0x18, 3, 3),
       (7, 43, 0, 0x358, 0x18, 3, 4), (12, 53, 0, 0x370, 0x80, 3, 2)] ∧
    rhoSyms stampFile = [⟨60, 2, 1, 1, 0, 0x80, 0, 0⟩] ∧
    rhoRels stampFile = [⟨3, 0x08, 0, 3, 0, 0⟩, ⟨4, 0x20, 3, 1, 1, 0⟩] := by decide +kernel

/-- Its templates and its line table (file 05), and the line words of file 04. -/
theorem test_stamp_tables :
    (bfld stampFile 0x240 8, bfld stampFile 0x248 8, bfld stampFile 0x250 8, bfld stampFile 0x258 8) =
      (0x0001_0008_0000_0000, 1, 0x0001_0001_0000_0022, 1) ∧
    (kindEntries stampFile (rhoSects stampFile) 12).map (fun e => (bfld e.2.2 0 4, bfld e.2.2 4 1, bfld e.2.2 12 4)) =
      [(0, 0, 9), (0, 1, 10), (0, 2, 10), (0, 3, 10), (0, 4, 11), (0x40, 0, 12), (0x40, 1, 13), (0x40, 2, 14)] ∧
    (linesOf (sectAt stampFile (rhoSects stampFile) 2)).map (fun l => bitsOf (lineWord l).toNat 26 10) = [0b00001_00000001, 0b00000_00000011] := by
  decide +kernel

/-- What a load answers: the code, or what is placed; nothing where the places do not fit. -/
def loads (f : List Byte) : Option (Except Nat (List Placed × Loaded)) :=
  loadWith (fun _ => 0) [] [0, 0, 0x4000_0000, 0x4001_0000, 0x4002_0000, 0, 0, 0] f

/-- Loading it as file 05 does, and its three faulty versions, the digest function being constant. -/
theorem test_stamp_load :
    (match loads stampFile with
     | some (.ok r) => (r.1.map (fun p => (p.va, p.write, p.bytes.length)), bfld (r.1.map (·.bytes)).flatten 0x88 8, bfld (r.1.map (·.bytes)).flatten 0x1A0 8)
     | _ => ([], 0, 0)) =
      ([(0x4000_0000, false, 0x80), (0x4001_0000, false, 0x100), (0x4002_0000, false, 0x80)], 0x4000_0000, 0x4001_0000) ∧
    fileCode (fun f => if bfld f 0x250 1 = 0x22 then 0 else 1) [] (setNth stampFile 0x250 0x21) = some 0x02 ∧
    (match loads (setNth stampFile 0x250 0x21) with | some (.ok _) => 0 | some (.error c) => c | none => 1) = 0 ∧
    (match loads (setNth stampFile 0x250 0x12) with | some (.error c) => c | _ => 0) = 0x0A := by decide +kernel

/-- The digest of no bytes (FIPS 202, R88). -/
theorem test_shake256 : shake256 [] = 0x2F76D56E64270CB5821BB862EA52CD3F24EB3E74EB3F3B23138DA80B2BDDB946#256 := by decide +kernel

end Sys2Proof.Tests
end

section
/-! SUPPORT. What a register reads after a write: the words of a lane's vector or near register, predicates, a context's scalars
and what its children read through the write log; and the statement that the registers read back what was written. -/

namespace Sys2Proof.Machine

/- Proofs that are elaborated beside the tests' long kernel checks would wait for those on a thread, and a stack, each. -/
set_option Elab.async false

/-! ## The words that a destination of one or two registers takes (R63) -/

section Words

variable {α : Type} [DecidableEq α] {n lane i : Nat}

/-- The words of one lane of a table after a write to register r and, where the destination has two registers, to the next. -/
def putWords (d : α) (t : Tab α) (r n lane : Nat) (lo hi : α) : Tab α :=
  let t := tabPut d t (vkey r lane) lo
  if n = 2 then tabPut d t (vkey (r + 1) lane) hi else t

/-- Words of lanes below 32 never share a key. -/
theorem tabGet_putWord (d : α) (t : Tab α) (r k : Nat) (v : α) (hl : lane < 32) (hi : i < 32) :
    tabGet d (tabPut d t (vkey r lane) v) (vkey k i) = if k = r ∧ i = lane then v else tabGet d t (vkey k i) := by
  have key : vkey k i = vkey r lane ↔ k = r ∧ i = lane := by unfold vkey; omega
  simp only [tabGet_put, key]

theorem tabGet_putWords (d : α) (t : Tab α) (r k : Nat) (x y : α) (hn : n = 1 ∨ n = 2) (hl : lane < 32) (hi : i < 32) :
    tabGet d (putWords d t r n lane x y) (vkey k i) =
      if i = lane ∧ r ≤ k ∧ k < r + n then (if k = r then x else y) else tabGet d t (vkey k i) := by
  obtain rfl | rfl := hn
  · have one : (i = lane ∧ r ≤ k ∧ k < r + 1) ↔ k = r ∧ i = lane := by omega
    simp only [putWords, OfNat.one_ne_ofNat, ↓reduceIte, tabGet_putWord d _ _ _ _ hl hi, one]
    grind
  · have two : (i = lane ∧ r ≤ k ∧ k < r + 2) ↔ (k = r + 1 ∧ i = lane) ∨ (k = r ∧ i = lane) := by omega
    simp only [putWords, ↓reduceIte, tabGet_putWord d _ _ _ _ hl hi, two]
    grind

/-- A word of another lane or of no register of the destination is as before. -/
theorem tabGet_putWords_out (d : α) (t : Tab α) (r k : Nat) (x y : α) (hn : n = 1 ∨ n = 2) (hl : lane < 32) (hi : i < 32)
    (out : i ≠ lane ∨ k < r ∨ r + n ≤ k) : tabGet d (putWords d t r n lane x y) (vkey k i) = tabGet d t (vkey k i) := by
  rw [tabGet_putWords d t r k x y hn hl hi, if_neg (by omega)]

/-- A flag written alike for every register of the destination is what some of them has. -/
theorem any_putWords (t : Tab Bool) (r : Nat) (b : Bool) (hn : n = 1 ∨ n = 2) (hl : lane < 32) :
    (List.range n).any (fun k => tabGet false (putWords false t r n lane b b) (vkey (r + k) lane)) = b := by
  have word : ∀ k < n, tabGet false (putWords false t r n lane b b) (vkey (r + k) lane) = b := fun k hk => by
    rw [tabGet_putWords false t r (r + k) b b hn hl hl, if_pos (by omega), ite_self]
  obtain rfl | rfl := hn
  · simpa using word 0 Nat.zero_lt_one
  · have first := word 0 Nat.zero_lt_two
    rw [Nat.add_zero] at first
    simp [List.range_succ, first, word 1 Nat.one_lt_two]

end Words

/-! ## Vector and near registers -/

section Lanes

variable {n lane : Nat}

theorem getLsbD_mk64 (lo hi : W32) (i : Nat) :
    (mk64 lo hi).getLsbD i = if i < 32 then lo.getLsbD i else hi.getLsbD (i - 32) :=
  BitVec.getLsbD_append

theorem mk64_halves (v : W64) : mk64 (lo32 v) (hi32 v) = v := by
  refine BitVec.eq_of_getLsbD_eq fun i hi => ?_
  rw [getLsbD_mk64]
  by_cases low : i < 32
  · simp [lo32, low]
  · simp [hi32, low, show i - 32 < 32 by omega, show 32 + (i - 32) = i by omega]

theorem mk64_zero (x : W32) : mk64 x 0 = x.setWidth 64 := by
  refine BitVec.eq_of_getLsbD_eq fun i hi => ?_
  rw [getLsbD_mk64]
  by_cases low : i < 32
  · simp [low, hi]
  · simp [low, BitVec.getLsbD_of_ge x i (by omega)]

/-- A value of one word reads widened with zeros, one of two words whole. -/
theorem mk64_putWords (t : Tab W32) (r : Nat) (v : W64) (hn : n = 1 ∨ n = 2) (hl : lane < 32) :
    let t' := putWords 0 t r n lane (lo32 v) (hi32 v)
    mk64 (tabGet 0 t' (vkey r lane)) (if n = 2 then tabGet 0 t' (vkey (r + 1) lane) else 0) =
      if n = 2 then v else (v.setWidth 32).setWidth 64 := by
  simp only [tabGet_putWords 0 t r _ _ _ hn hl hl]
  obtain rfl | rfl := hn
  · simp only [OfNat.one_ne_ofNat, ↓reduceIte, mk64_zero, lo32]
    simp
  · simp [mk64_halves]

/-- A vector destination takes its words full and with the mark given (R111, R195). -/
theorem setDst_vec (g : Group) (r : BitVec 8) (n lane : Nat) (v : W64) (poi : Bool) :
    g.setDst (.vec r) n lane v poi =
      { g with vr := putWords 0 g.vr r.toNat n lane (lo32 v) (hi32 v), ve := putWords false g.ve r.toNat n lane false false,
               vp := putWords false g.vp r.toNat n lane poi poi } := by
  by_cases h : n = 2 <;> simp [Group.setDst, Group.setV, putWords, h]

/-- A near destination takes its words with the mark given (R195). -/
theorem setDst_near (g : Group) (r : BitVec 3) (n lane : Nat) (v : W64) (poi : Bool) :
    g.setDst (.near r) n lane v poi =
      { g with nr := putWords 0 g.nr r.toNat n lane (lo32 v) (hi32 v), np := putWords false g.np r.toNat n lane poi poi } := by
  by_cases h : n = 2 <;> simp [Group.setDst, Group.setN, putWords, h]

theorem setDst_vec_reads (g : Group) (r : BitVec 8) (v : W64) (poi : Bool) (hn : n = 1 ∨ n = 2) (hl : lane < 32) :
    let t := g.setDst (.vec r) n lane v poi
    t.getVN (.vec r) n lane = (if n = 2 then v else (v.setWidth 32).setWidth 64) ∧ t.emptyOp (.vec r) n lane = false ∧
      t.poiOp (.vec r) n lane = poi := by
  simp only [setDst_vec, Group.getVN, Group.emptyOp, Group.poiOp, Group.vword, Group.vempty]
  exact ⟨mk64_putWords g.vr r.toNat v hn hl, any_putWords g.ve r.toNat false hn hl, any_putWords g.vp r.toNat poi hn hl⟩

theorem setDst_vec_out (g : Group) (r : BitVec 8) (v : W64) (poi : Bool) (hn : n = 1 ∨ n = 2) (hl : lane < 32) {k i : Nat}
    (hi : i < 32) (out : i ≠ lane ∨ k < r.toNat ∨ r.toNat + n ≤ k) :
    (g.setDst (.vec r) n lane v poi).vword k i = g.vword k i ∧ (g.setDst (.vec r) n lane v poi).vempty k i = g.vempty k i := by
  simp only [setDst_vec, Group.vword, Group.vempty]
  exact ⟨tabGet_putWords_out 0 g.vr r.toNat k _ _ hn hl hi out, tabGet_putWords_out false g.ve r.toNat k _ _ hn hl hi out⟩

theorem setDst_near_reads (g : Group) (r : BitVec 3) (v : W64) (poi : Bool) (hn : n = 1 ∨ n = 2) (hl : lane < 32) :
    let t := g.setDst (.near r) n lane v poi
    t.getVN (.near r) n lane = (if n = 2 then v else (v.setWidth 32).setWidth 64) ∧ t.poiOp (.near r) n lane = poi := by
  simp only [setDst_near, Group.getVN, Group.poiOp, Group.nword]
  exact ⟨mk64_putWords g.nr r.toNat v hn hl, any_putWords g.np r.toNat poi hn hl⟩

theorem setDst_near_out (g : Group) (r : BitVec 3) (v : W64) (poi : Bool) (hn : n = 1 ∨ n = 2) (hl : lane < 32) {k i : Nat}
    (hi : i < 32) (out : i ≠ lane ∨ k < r.toNat ∨ r.toNat + n ≤ k) :
    (g.setDst (.near r) n lane v poi).nword k i = g.nword k i := by
  simp only [setDst_near, Group.nword]
  exact tabGet_putWords_out 0 g.nr r.toNat k _ _ hn hl hi out

end Lanes

/-! ## Predicates (R103) -/

/-- p15 reads 1 in every lane. -/
theorem Group.pred_15 (g : Group) (i : Nat) : g.pred 15 i = true := rfl

/-- A write to p15 is ignored. -/
theorem Group.setPred_15 (g : Group) (m v : Lanes) : g.setPred 15 m v = g := rfl

/-- Another predicate is the bit that its register holds. -/
theorem Group.pred_of_ne {q : BitVec 4} (hq : q ≠ 15) (g : Group) (i : Nat) :
    g.pred q i = (tabGet (0 : Lanes) g.pr q.toNat).getLsbD i := by
  simp only [Group.pred, beq_false_of_ne hq, Bool.false_or]

/-- A write takes the bits of the mask's lanes and no others. -/
theorem Group.setPred_of_ne {p : BitVec 4} (hp : p ≠ 15) (g : Group) (m v : Lanes) :
    g.setPred p m v =
      { g with pr := tabPut 0 g.pr p.toNat ((tabGet (0 : Lanes) g.pr p.toNat &&& ~~~m) ||| (v &&& m)) } := by
  simp only [Group.setPred, beq_false_of_ne hp, Bool.false_eq_true, ↓reduceIte]

theorem Group.setPred_pred (g : Group) (p q : BitVec 4) (m v : Lanes) (i : Nat) (hi : i < 32) :
    (g.setPred p m v).pred q i = if q = 15 then true else if q = p ∧ m.getLsbD i then v.getLsbD i else g.pred q i := by
  by_cases hq : q = 15
  · rw [hq, if_pos rfl, Group.pred_15]
  rw [if_neg hq]
  by_cases hp : p = 15
  · rw [hp, Group.setPred_15, if_neg (fun w => hq w.1)]
  rw [Group.setPred_of_ne hp, Group.pred_of_ne hq, Group.pred_of_ne hq]
  simp only [tabGet_put, BitVec.toNat_inj]
  by_cases hqp : q = p
  · subst hqp
    cases hm : m.getLsbD i <;> simp [-BitVec.getLsbD_eq_getElem, hi, hm]
  · rw [if_neg hqp, if_neg (fun w => hqp w.1)]

/-- p15 reads 1 in every context. -/
theorem Ctx.pred_15 (c : Ctx) : c.pred 15 = true := rfl

/-- A write to p15 is ignored. -/
theorem Ctx.setPred_15 (c : Ctx) (v : Bool) : c.setPred 15 v = c := rfl

/-- Another predicate is the bit that the context holds. -/
theorem Ctx.pred_of_ne {q : BitVec 4} (hq : q ≠ 15) (c : Ctx) : c.pred q = c.preds.getLsbD q.toNat := by
  simp only [Ctx.pred, beq_false_of_ne hq, Bool.false_or]

/-- A write sets or clears one bit. -/
theorem Ctx.setPred_of_ne {p : BitVec 4} (hp : p ≠ 15) (c : Ctx) (v : Bool) :
    (c.setPred p v).preds = if v then c.preds ||| BitVec.twoPow 16 p.toNat else c.preds &&& ~~~(BitVec.twoPow 16 p.toNat) := by
  simp only [Ctx.setPred, beq_false_of_ne hp, Bool.false_eq_true, ↓reduceIte]

theorem Ctx.setPred_pred (c : Ctx) (p q : BitVec 4) (v : Bool) :
    (c.setPred p v).pred q = if q = 15 then true else if q = p then v else c.pred q := by
  by_cases hq : q = 15
  · rw [hq, if_pos rfl, Ctx.pred_15]
  rw [if_neg hq]
  by_cases hp : p = 15
  · rw [hp, Ctx.setPred_15, if_neg hq]
  have low : q.toNat < 16 := q.isLt
  have bit : (BitVec.twoPow 16 p.toNat).getLsbD q.toNat = decide (q = p) := by
    simp only [BitVec.getLsbD_twoPow, p.isLt, decide_true, Bool.true_and, BitVec.toNat_inj, eq_comm]
  rw [Ctx.pred_of_ne hq, Ctx.pred_of_ne hq, Ctx.setPred_of_ne hp]
  cases v
  · simp only [Bool.false_eq_true, ↓reduceIte, BitVec.getLsbD_and, BitVec.getLsbD_not, low, bit]
    by_cases hqp : q = p <;> simp [hqp]
  · simp only [↓reduceIte, BitVec.getLsbD_or, bit]
    by_cases hqp : q = p <;> simp [hqp]

/-- At LEV 0 a group's predicate operand is the lane's bit. -/
theorem opdVal_pred_lane {s : State} {gk : Nat} {g : Group} (hg : s.grp? gk = some g) (n lane : Nat) (imm : W64) (p : BitVec 4) :
    opdVal s (.grp gk) 0 n lane imm (.pred p) = if g.pred p lane then 1 else 0 := by
  simp [opdVal, hg]

/-- Above LEV 0 a predicate operand is the bit of the context that executes. -/
theorem opdVal_pred_ctx {s : State} {u : UnitRef} {lev : Nat} {c : Ctx} (hc : s.ctx? (ownKey s u lev) = some c) (hlev : lev ≠ 0)
    (n lane : Nat) (imm : W64) (p : BitVec 4) : opdVal s u lev n lane imm (.pred p) = if c.pred p then 1 else 0 := by
  cases u with
  | grp gk => simp [opdVal, hlev, hc]
  | ctx ck => simp only [ownKey] at hc; simp [opdVal, hc]

/-! ## Scalars and the write log (R25, R27) -/

@[simp] theorem Ctx.put_cell (c : Ctx) (r q : BitVec 5) (x : Cell) : (c.put r x).cell q = if q = r then x else c.cell q := by
  have key : q.toNat = r.toNat ↔ q = r := BitVec.toNat_inj
  by_cases h : q = r <;> simp [Ctx.put, Ctx.cell, key, h]

@[simp] theorem Ctx.put_trail (c : Ctx) (r : BitVec 5) (x : Cell) : (c.put r x).trail = c.trail := rfl

/-- The record of a scalar as it stands. -/
def Ctx.recOf (c : Ctx) (r : BitVec 5) : LogRec := ⟨r, (c.cell r).v, (c.cell r).full, (c.cell r).poi⟩

/-- While no segment is unretired nothing is logged. -/
theorem Ctx.log_nil {c : Ctx} (h : c.trail = []) (r : BitVec 5) : c.log r = c := by
  simp [Ctx.log, h]

/-- The newest entry takes the record. -/
theorem Ctx.log_concat {c : Ctx} {es : List TrailEnt} {e : TrailEnt} (h : c.trail = es ++ [e]) (r : BitVec 5) :
    c.log r = { c with trail := es ++ [{ e with log := c.recOf r :: e.log }] } := by
  simp [Ctx.log, Ctx.recOf, h]

@[simp] theorem Ctx.log_cell (c : Ctx) (r q : BitVec 5) : (c.log r).cell q = c.cell q := by
  obtain h | ⟨es, e, h⟩ := c.trail.eq_nil_or_concat'
  · rw [Ctx.log_nil h]
  · rw [Ctx.log_concat h]; rfl

theorem Ctx.write_cell (c : Ctx) (r q : BitVec 5) (x : Cell) : (c.write r x).cell q = if q = r then x else c.cell q := by
  simp [Ctx.write]

theorem Ctx.write_trail_nil {c : Ctx} (h : c.trail = []) (r : BitVec 5) (x : Cell) : (c.write r x).trail = [] := by
  simp [Ctx.write, Ctx.log_nil h, h]

theorem Ctx.write_trail_concat {c : Ctx} {es : List TrailEnt} {e : TrailEnt} (h : c.trail = es ++ [e]) (r : BitVec 5) (x : Cell) :
    (c.write r x).trail = es ++ [{ e with log := c.recOf r :: e.log }] := by
  simp [Ctx.write, Ctx.log_concat h]

/-- Two contexts whose scalars read alike. -/
def SameCells (c d : Ctx) : Prop := ∀ q, c.cell q = d.cell q

theorem SameCells.undoRec {c d : Ctx} (h : SameCells c d) (l : LogRec) : SameCells (c.undoRec l) (d.undoRec l) := fun q => by
  simp [Ctx.undoRec, h q]

theorem SameCells.undoLog {c d : Ctx} (h : SameCells c d) (ls : List LogRec) :
    SameCells (ls.foldl Ctx.undoRec c) (ls.foldl Ctx.undoRec d) := by
  induction ls generalizing c d with
  | nil => exact h
  | cons l ls ih => exact ih (h.undoRec l)

/-- The logs of these trail entries undone, the newest entry first. -/
def Ctx.undoEnts (c : Ctx) (es : List TrailEnt) : Ctx := es.foldl (fun c e => e.log.foldl Ctx.undoRec c) c

theorem SameCells.undoEnts {c d : Ctx} (h : SameCells c d) (es : List TrailEnt) : SameCells (c.undoEnts es) (d.undoEnts es) := by
  induction es generalizing c d with
  | nil => exact h
  | cons e es ih => exact ih (h.undoLog e.log)

/-- Undoing the record that a write made gives back the scalars as they stood before it. -/
theorem Ctx.undo_write (c : Ctx) (r : BitVec 5) (x : Cell) : SameCells ((c.write r x).undoRec (c.recOf r)) c := fun q => by
  by_cases h : q = r <;> simp [Ctx.undoRec, Ctx.recOf, Ctx.write_cell, h]

/-- The newest entry is among those that a look-up undoes, whichever live entry it goes back to. -/
theorem dropWhile_concat {α : Type} {p : α → Bool} {es : List α} {e : α} (h : ∃ a ∈ es ++ [e], p a = false) :
    (es ++ [e]).dropWhile p = es.dropWhile p ++ [e] := by
  rw [List.dropWhile_append]
  split
  next none_left =>
    have all : ∀ a ∈ es, p a = true := by simpa using none_left
    obtain ⟨a, ha, hp⟩ := h
    obtain ha | rfl : a ∈ es ∨ a = e := by simpa using ha
    · simp [all a ha] at hp
    · simp [List.dropWhile_eq_nil_iff.2 all, hp]
  next => rfl

/-- What a child reads, where the trail has a newest entry: that entry's log is undone first. -/
theorem Ctx.cellAt_concat {c : Ctx} {es : List TrailEnt} {e : TrailEnt} (h : c.trail = es ++ [e]) (id : BitVec 16) (q : BitVec 5) :
    c.cellAt id q = if (es.any (fun e => e.seg.id == id) || e.seg.id == id) = true then
      some ((c.undoEnts (e :: (es.dropWhile (fun e => e.seg.id != id)).reverse)).cell q) else none := by
  simp only [Ctx.cellAt, h, List.any_append, List.any_cons, List.any_nil, Bool.or_false]
  split
  next live =>
    have : ∃ a ∈ es ++ [e], (a.seg.id != id) = false := by simpa [or_and_right, exists_or] using live
    simp [Ctx.undoEnts, dropWhile_concat this]
  next => rfl

/-- A write of a scalar hides nothing from a child: it still reads what stood when its segment was emitted (R25). -/
theorem Ctx.write_cellAt (c : Ctx) (r q : BitVec 5) (x : Cell) (id : BitVec 16) : (c.write r x).cellAt id q = c.cellAt id q := by
  obtain h | ⟨es, e, h⟩ := c.trail.eq_nil_or_concat'
  · simp [Ctx.cellAt, Ctx.write_trail_nil h, h]
  · rw [Ctx.cellAt_concat h, Ctx.cellAt_concat (Ctx.write_trail_concat h r x)]
    have undone := (c.undo_write r x).undoEnts (e :: (es.dropWhile (fun e => e.seg.id != id)).reverse) q
    simp only [Ctx.undoEnts, List.foldl_cons] at undone ⊢
    rw [undone]

/-! ## The statement -/

/-- Settles O51: what each kind of register reads after a write, and what a child reads by undoing the write's record. -/
theorem registersReadBack : Obligations.RegistersReadBack := by
  unfold Obligations.RegistersReadBack
  refine ⟨fun g r n lane v poi hn hl => ?_, fun g r n lane v poi hn hl => ?_, Group.setPred_pred, Ctx.setPred_pred,
    fun c r q x => ⟨c.write_cell r q x, fun id => c.write_cellAt r q x id, fun h => Ctx.write_trail_nil h r x,
      fun es e h => Ctx.write_trail_concat h r x⟩, fun s lev n lane imm p => ⟨?_, ?_⟩⟩
  · obtain ⟨value, full, mark⟩ := setDst_vec_reads g r v poi hn hl
    exact ⟨value, full, mark, by rw [setDst_vec], by rw [setDst_vec], fun k i hi out => setDst_vec_out g r v poi hn hl hi out⟩
  · obtain ⟨value, mark⟩ := setDst_near_reads g r v poi hn hl
    exact ⟨value, mark, by rw [setDst_near], by rw [setDst_near], by rw [setDst_near],
      fun k i hi out => setDst_near_out g r v poi hn hl hi out⟩
  · rintro gk g hg rfl
    exact opdVal_pred_lane hg n lane imm p
  · rintro u ck c rfl hc hlev
    exact opdVal_pred_ctx hc hlev n lane imm p

end Sys2Proof.Machine
end

section
/-! SUPPORT. NOP (R132): a state in which the move to the next slot makes a group hold a ninth reconvergence record, so that one is
spilled to memory; it refutes the statement that a NOP keeps memory where the group has at most eight records, all resident. -/

namespace Sys2Proof.Machine

/- Proofs that are elaborated beside the tests' long kernel checks would wait for those on a thread, and a stack, each. -/
set_option Elab.async false

/-! ## A stack of eight records that two entries share -/

/-- A reconvergence stack of eight resident records: the newest is a deferred record of lane 2, the others are pushed tokens. -/
def eightRecs : Tab Rec :=
  [(0, ⟨.deferred 2 4, some 1, 8, true⟩), (1, ⟨.token (some 67), some 2, 7, true⟩), (2, ⟨.token (some 68), some 3, 6, true⟩),
   (3, ⟨.token (some 128), some 4, 5, true⟩), (4, ⟨.token (some 129), some 5, 4, true⟩), (5, ⟨.token (some 130), some 6, 3, true⟩),
   (6, ⟨.token (some 131), some 7, 2, true⟩), (7, ⟨.token none, none, 1, true⟩)]

/-- An entry on that stack with the lanes `m` at `pc`; its token is slot 1 of the line at address 0. -/
def onEightRecs (pc : W64) (m : Lanes) : Split := ⟨pc, m, some 1, 7, some 0, false, false, .none⟩

/-- A group of three lanes whose entries 0 and 1 have one stack: a BRL to the token that a split already has copies the stack as it
is (R12), a deferred record on top included. Entry 0 stands one slot before the token. -/
def nopGroup : Group :=
  { Group.fresh 0 0 0 0 3 64 0 0 with
    splits := [some (onEightRecs 0 1), some (onEightRecs 3 2), none, none], recs := eightRecs, seg := some fetchSeg, segDone := false }

/-! ## The state -/

/-- Page tables at address 0: the table of levels 1 to 3 names itself in its entry 0, and its entry 1 is a leaf that maps the
virtual addresses from 2^30 on to the physical ones from 0 on and may be written (R233 to R235). -/
def pageTables : List Host.Cell := [(0, 1), (8, 7)]

/-- Entry 0 of that group has an instruction in hand, and the save areas of its launch begin at 2^30. -/
def nopState : State :=
  { ((State.reset.withFetchWord 96 0).updGrp 0 (fun _ => nopGroup)).updLaunch 0
      (fun l => { l with r := { l.r with bsave := 0x40000000 } }) with
    cur := ⟨.grp 0, 0, 0, 0⟩, mem := pageTables }

/-- A header of level 0 whose guard is p15. -/
def nopHdr : Hdr := ⟨0, 15, false⟩

/-- What the NOP does there: entry 0 arrives at its token and turns the deferred record into a held one, while entry 1 keeps the
deferred one (R36); record 7, the oldest of the nine, is spilled (R37). Byte 13 of its place says that none lies below it. -/
theorem nop_spills_oldest_record : memByte (passed nopState nopHdr nopState).mem (0x2100 + 16 * 7 + 13) = 0xFF := by
  decide +kernel

/-- Every hypothesis of the group's clause on memory is met: the NOP is of that group, no entry waits at an RJOIN, and
there are eight records, all resident. -/
theorem nopState_meets_hypotheses :
    nopState.cur.u = .grp 0 ∧ nopState.grp? 0 = some nopGroup ∧ (∀ p ∈ entries nopGroup.splits, p.2.rj = false) ∧
      (∀ p ∈ nopGroup.recs, p.2.res = true) ∧ nopGroup.recs.length ≤ 8 :=
  ⟨rfl, by decide +kernel, by decide, by decide, by decide⟩

/-! ## The statement -/

/-- Refutes O56: its clause that a group's NOP keeps memory. Eight resident records at issue are no bound on those that the move
makes: an entry that arrives at its token turns a deferred record that another entry shares into a held one of its own, the
ninth, and the oldest is written to the save area. -/
theorem not_nopHasNoEffect : ¬ Obligations.NopHasNoEffect := by
  unfold Obligations.NopHasNoEffect
  intro h
  obtain ⟨_, _, _, onGroup⟩ := h nopState nopHdr
  obtain ⟨inHand, group, noRjoin, resident, eight⟩ := nopState_meets_hypotheses
  obtain ⟨memory_kept, _⟩ := onGroup 0 nopGroup inHand group noRjoin
  have spilled := nop_spills_oldest_record
  rw [memory_kept resident eight] at spilled
  exact absurd spilled (by decide)

end Sys2Proof.Machine
end

section
/-! SUPPORT. The integer computations on words of any width: a word as an integer of either signedness, leading zeros, reversed
bits and the identities; and the statement about them. -/

namespace Sys2Proof.Machine

/- Proofs that are elaborated beside the tests' long kernel checks would wait for those on a thread, and a stack, each. -/
set_option Elab.async false

/-! ## A word as an integer (R144, R149) -/

section Words

variable {w : Nat} {a b : BitVec w} {sgn : Bool}

theorem ofInt_intOf (sgn : Bool) (a : BitVec w) : BitVec.ofInt w (intOf sgn a) = a := by
  cases sgn
  · simp [intOf]
  · simp [intOf, BitVec.ofInt_toInt]

theorem intOf_inj : intOf sgn a = intOf sgn b ↔ a = b :=
  ⟨fun h => by rw [← ofInt_intOf sgn a, h, ofInt_intOf], fun h => by rw [h]⟩

theorem minOf_le_intOf (sgn : Bool) (a : BitVec w) : minOf sgn w ≤ intOf sgn a := by
  cases sgn
  · simp [minOf, intOf]
  · simpa [minOf, intOf] using a.le_toInt

theorem intOf_le_maxOf (sgn : Bool) (a : BitVec w) : intOf sgn a ≤ maxOf sgn w := by
  cases sgn
  · simp only [maxOf, intOf, Bool.false_eq_true, ↓reduceIte]
    exact Int.le_sub_one_of_lt (mod_cast a.isLt)
  · simpa [maxOf, intOf] using a.toInt_le

/-- An integer in the type's range is what its word reads. -/
theorem intOf_ofInt (hw : 0 < w) {v : Int} (lo : minOf sgn w ≤ v) (hi : v ≤ maxOf sgn w) : intOf sgn (BitVec.ofInt w v) = v := by
  cases sgn
  · simp only [minOf, maxOf, Bool.false_eq_true, ↓reduceIte] at lo hi
    simp only [intOf, Bool.false_eq_true, ↓reduceIte, BitVec.toNat_ofInt]
    push_cast
    rw [Int.emod_eq_of_lt lo (by omega)]
    omega
  · exact BitVec.toInt_ofInt_eq_self hw lo (Int.lt_of_le_sub_one hi)

theorem minOf_le_maxOf (sgn : Bool) (w : Nat) : minOf sgn w ≤ maxOf sgn w :=
  (minOf_le_intOf sgn (0 : BitVec w)).trans (intOf_le_maxOf sgn 0)

/-- The clamped form reads the integer clamped into the type's range. -/
theorem intOf_narrow_sat (hw : 0 < w) (sgn : Bool) (v : Int) :
    intOf sgn (narrow true sgn w v) = max (minOf sgn w) (min (maxOf sgn w) v) :=
  intOf_ofInt hw (le_max_left _ _) (max_le (minOf_le_maxOf sgn w) (min_le_left _ _))

/-- The wrapping form keeps the integer modulo 2^w. -/
theorem toNat_narrow_wrap (sgn : Bool) (w : Nat) (v : Int) : ((narrow false sgn w v).toNat : Int) = v % 2 ^ w := by
  have nonneg : 0 ≤ v % 2 ^ w := Int.emod_nonneg _ (by positivity)
  simp [narrow, BitVec.toNat_ofInt, nonneg]

/-! ## Shifts, products and quotients (R142, R144) -/

theorem shl_eq (a b : BitVec w) : shl a b = if b.toNat < w then BitVec.ofNat w (a.toNat * 2 ^ b.toNat) else 0 := by
  have shifted : a <<< b.toNat = BitVec.ofNat w (a.toNat * 2 ^ b.toNat) :=
    BitVec.eq_of_toNat_eq (by simp [Nat.shiftLeft_eq])
  rw [shl, shifted]

theorem shr_eq (a b : BitVec w) : shr a b = if b.toNat < w then BitVec.ofNat w (a.toNat / 2 ^ b.toNat) else 0 := by
  have small : a.toNat / 2 ^ b.toNat < 2 ^ w := (Nat.div_le_self _ _).trans_lt a.isLt
  have shifted : a >>> b.toNat = BitVec.ofNat w (a.toNat / 2 ^ b.toNat) :=
    BitVec.eq_of_toNat_eq (by simp [Nat.shiftRight_eq_div_pow, Nat.mod_eq_of_lt small])
  rw [shr, shifted]

/-- The arithmetic shift rounds toward −∞, as the division of integers by a positive one does. -/
theorem sra_eq (a b : BitVec w) :
    sra a b = if b.toNat < w then BitVec.ofInt w (a.toInt / 2 ^ b.toNat) else if a.msb then BitVec.allOnes w else 0 := by
  rw [sra, BitVec.sshiftRight_eq, Int.shiftRight_eq_div_pow, Nat.cast_pow, Nat.cast_ofNat]

theorem mulh_eq (sgn : Bool) (a b : BitVec w) : mulh sgn a b = BitVec.ofInt w (intOf sgn a * intOf sgn b / 2 ^ w) := by
  rw [mulh, Int.fdiv_eq_ediv_of_nonneg _ (by positivity)]

theorem sdivV_zero (sgn : Bool) (a : BitVec w) : sdivV sgn a 0 = BitVec.allOnes w := if_pos rfl

theorem sremV_zero (sgn : Bool) (a : BitVec w) : sremV sgn a 0 = a := if_pos rfl

theorem sdivV_of_ne (hb : b ≠ 0) (sgn : Bool) (a : BitVec w) :
    sdivV sgn a b = BitVec.ofInt w ((intOf sgn a).tdiv (intOf sgn b)) := if_neg hb

/-- The remainder is what the wrapped quotient leaves: a = b · q + r holds of the integers, and so modulo 2^w. -/
theorem sremV_of_ne (hb : b ≠ 0) (sgn : Bool) (a : BitVec w) : sremV sgn a b = a - b * sdivV sgn a b := by
  have division : a = b * BitVec.ofInt w ((intOf sgn a).tdiv (intOf sgn b)) + BitVec.ofInt w ((intOf sgn a).tmod (intOf sgn b)) := by
    calc a = BitVec.ofInt w (intOf sgn a) := (ofInt_intOf sgn a).symm
      _ = BitVec.ofInt w (intOf sgn b * (intOf sgn a).tdiv (intOf sgn b) + (intOf sgn a).tmod (intOf sgn b)) := by
        rw [Int.mul_tdiv_add_tmod]
      _ = _ := by rw [BitVec.ofInt_add, BitVec.ofInt_mul, ofInt_intOf]
  rw [sdivV_of_ne hb, sremV, if_neg hb]
  exact eq_sub_of_add_eq' division.symm

/-! ## Comparisons and identities (R150, R153) -/

theorem minV_of_le (h : intOf sgn a ≤ intOf sgn b) : minV sgn a b = a := if_pos h

theorem minV_of_ge (h : intOf sgn b ≤ intOf sgn a) : minV sgn a b = b := by
  unfold minV
  split
  next le => exact intOf_inj.1 (le_antisymm le h)
  next => rfl

theorem maxV_of_ge (h : intOf sgn b ≤ intOf sgn a) : maxV sgn a b = a := if_pos h

theorem maxV_of_le (h : intOf sgn a ≤ intOf sgn b) : maxV sgn a b = b := by
  unfold maxV
  split
  next le => exact intOf_inj.1 (le_antisymm h le)
  next => rfl

/-- Of equal values either may be kept: they are one word. -/
theorem minV_eq_ite_lt (sgn : Bool) (a b : BitVec w) : minV sgn a b = if intOf sgn a < intOf sgn b then a else b := by
  split
  next lt => exact minV_of_le lt.le
  next ge => exact minV_of_ge (not_lt.1 ge)

theorem maxV_eq_ite_lt (sgn : Bool) (a b : BitVec w) : maxV sgn a b = if intOf sgn b < intOf sgn a then a else b := by
  split
  next lt => exact maxV_of_ge lt.le
  next ge => exact maxV_of_le (not_lt.1 ge)

theorem intOf_identity_min (hw : 0 < w) (sgn : Bool) : intOf sgn (identity .min sgn w) = maxOf sgn w :=
  intOf_ofInt hw (minOf_le_maxOf sgn w) le_rfl

theorem intOf_identity_max (hw : 0 < w) (sgn : Bool) : intOf sgn (identity .max sgn w) = minOf sgn w :=
  intOf_ofInt hw le_rfl (minOf_le_maxOf sgn w)

/-- An identity changes no value on either side: that of MIN is the type's greatest value, that of MAX its least. -/
theorem combine_identity (hw : 0 < w) (op : RedOp) (sgn : Bool) (a : BitVec w) :
    combine op sgn (identity op sgn w) a = a ∧ combine op sgn a (identity op sgn w) = a := by
  cases op
  case min =>
    have greatest : intOf sgn a ≤ intOf sgn (identity .min sgn w) := intOf_identity_min hw sgn ▸ intOf_le_maxOf sgn a
    exact ⟨minV_of_ge greatest, minV_of_le greatest⟩
  case max =>
    have least : intOf sgn (identity .max sgn w) ≤ intOf sgn a := intOf_identity_max hw sgn ▸ minOf_le_intOf sgn a
    exact ⟨maxV_of_le least, maxV_of_ge least⟩
  all_goals simp [combine, identity]

theorem cmpV_eq_iff : cmpV .eq sgn a b = true ↔ a = b := by
  simp [cmpV, intOf_inj]

theorem cmpV_ne_iff : cmpV .ne sgn a b = true ↔ a ≠ b := by
  simp [cmpV, intOf_inj]

theorem cmpV_lt_iff : cmpV .lt sgn a b = true ↔ if sgn then a.toInt < b.toInt else a.toNat < b.toNat := by
  cases sgn <;> simp [cmpV, intOf]

theorem cmpV_le_iff : cmpV .le sgn a b = true ↔ if sgn then a.toInt ≤ b.toInt else a.toNat ≤ b.toNat := by
  cases sgn <;> simp [cmpV, intOf]

/-! ## Leading zeros and reversed bits (R144, R149) -/

theorem clz_zero (w : Nat) : clz (0 : BitVec w) = w := by
  have none_set : (List.range w).find? (fun i => (0 : BitVec w).getLsbD (w - 1 - i)) = none :=
    List.find?_eq_none.2 (by simp)
  simp only [clz, none_set]

/-- The first set bit from the top is the one at the logarithm. -/
theorem clz_of_ne (ha : a ≠ 0) : clz a = w - 1 - a.toNat.log2 := by
  have nonzero : a.toNat ≠ 0 := fun h => ha (BitVec.eq_of_toNat_eq h)
  have low : a.toNat.log2 < w := (Nat.log2_lt nonzero).2 a.isLt
  have found : (List.range w).find? (fun i => a.getLsbD (w - 1 - i)) = some (w - 1 - a.toNat.log2) := by
    refine List.find?_range_eq_some.2 ⟨?_, List.mem_range.2 (by omega), fun j hj => ?_⟩
    · rw [show w - 1 - (w - 1 - a.toNat.log2) = a.toNat.log2 by omega, ← BitVec.testBit_toNat]
      exact Nat.testBit_log2 nonzero
    · have above : a.toNat < 2 ^ (w - 1 - j) := (Nat.log2_lt nonzero).1 (by omega)
      rw [← BitVec.testBit_toNat, Nat.testBit_lt_two_pow above, Bool.not_false]
  simp only [clz, found]

/-- The bits of a reversal that has come to the bits `l`: those there were, and the mirror places of the set bits of `l`. -/
theorem getLsbD_foldl_mirror (a : BitVec w) (l : List Nat) (r : BitVec w) (k : Nat) :
    (l.foldl (fun r i => if a.getLsbD i then r ||| BitVec.twoPow w (w - 1 - i) else r) r).getLsbD k =
      (r.getLsbD k || l.any (fun i => a.getLsbD i && (BitVec.twoPow w (w - 1 - i)).getLsbD k)) := by
  induction l generalizing r with
  | nil => simp
  | cons i l ih =>
    rw [List.foldl_cons, ih, List.any_cons]
    cases a.getLsbD i <;> simp [Bool.or_assoc]

theorem getLsbD_brev (a : BitVec w) {j : Nat} (hj : j < w) : (brev a).getLsbD (w - 1 - j) = a.getLsbD j := by
  have zero : (0 : BitVec w).getLsbD (w - 1 - j) = false := BitVec.getLsbD_zero
  rw [brev, getLsbD_foldl_mirror, zero, Bool.false_or, Bool.eq_iff_iff]
  simp only [List.any_eq_true, List.mem_range, Bool.and_eq_true, BitVec.getLsbD_twoPow, decide_eq_true_eq]
  constructor
  · rintro ⟨i, hi, set, -, mirror⟩
    rwa [show j = i by omega]
  · exact fun set => ⟨j, hj, set, by omega, rfl⟩

end Words

/-! ## The statement -/

/-- Settles O1: each computation by its law above. -/
theorem integerComputations : Obligations.IntegerComputations := by
  unfold Obligations.IntegerComputations
  intro w a b sgn v hw
  refine ⟨shl_eq a b, shr_eq a b, sra_eq a b, mulh_eq sgn a b,
    ?_, fun hb => ⟨sdivV_of_ne hb sgn a, sremV_of_ne hb sgn a⟩, minV_eq_ite_lt sgn a b, maxV_eq_ite_lt sgn a b,
    ?_, ?_, ?_, toNat_narrow_wrap sgn w v, ?_, fun j hj => getLsbD_brev a hj, cmpV_eq_iff, cmpV_ne_iff, cmpV_lt_iff, cmpV_le_iff,
    rfl, rfl, fun op => combine_identity hw op sgn a⟩
  · rintro rfl
    exact ⟨sdivV_zero sgn a, sremV_zero sgn a⟩
  · intro lo hi
    rw [intOf_narrow_sat hw, min_eq_right hi, max_eq_right lo]
  · intro below
    have := minOf_le_maxOf sgn w
    rw [intOf_narrow_sat hw]
    omega
  · intro above
    have := minOf_le_maxOf sgn w
    rw [intOf_narrow_sat hw]
    omega
  · split
    next zero => rw [zero, clz_zero]
    next nonzero => exact clz_of_ne nonzero

end Sys2Proof.Machine
end

section
/-! SUPPORT. What FCMP, FCLASS and the conversions come to in the lanes of a group, and the class of a float read off the fields of
its pattern; and the statement about them. -/

namespace Sys2Proof.Machine

/- Proofs that are elaborated beside the tests' long kernel checks would wait for those on a thread, and a stack, each. -/
set_option Elab.async false

/-! ## In the lanes -/

section Lanes

variable {s u : State} {h : Hdr} {gk : Nat} {g : Group} {m : Lanes} {d : Opd} {a b : Src} {imm : BitVec 27}

/-- FCMP writes each active lane's bit of its predicate (R158). -/
theorem exec_fcmp_of {t : Ty} {p : BitVec 4} (w : InLanes s h gk g m)
    (r : LaneReady s gk g m (usesOf m (tyRegs t) [(1, a), (2, b)]) (.pred p) 1 false u) (cc : Cmp) :
    exec (.fcmp h cc t ⟨.pred p, a, b, imm⟩) s = .next (done s h (logged s gk g m (u.updGrp gk (fun g => g.setPred p m (maskOf
      (fun i => fcmpV cc (fdec t (laneVal u (tyRegs t) i (immVal t imm) a)) (fdec t (laneVal u (tyRegs t) i (immVal t imm) b)))))))) :=
  congrArg (fin s h true) (lanePred_of (srcs := [a, b]) w r (immVal t imm) (fun l => fcmpV cc (fdec t (v0 l)) (fdec t (v1 l))))

/-- FCLASS writes one register with the bit of the class (R159). -/
theorem exec_fclass_of {t : Ty} (w : InLanes s h gk g m) (r : LaneReady s gk g m (usesOf m (tyRegs t) [(1, a)]) d 1 false u) :
    exec (.fclass h t ⟨d, a, imm⟩) s = .next (done s h (logged s gk g m (writeLanes u gk d 1 m
      (fun i => BitVec.ofNat 64 (2 ^ fclassV t (laneVal u (tyRegs t) i (immVal t imm) a)))))) :=
  congrArg (fin s h true) (laneRun_of (srcs := [a]) w r (immVal t imm) (fun l => fbits (2 ^ fclassV t (v0 l))))

/-- A conversion writes what `f` gives for the value of the source's element (R318). -/
theorem convAct_of {src t : Ty} (w : InLanes s h gk g m)
    (r : LaneReady s gk g m (usesOf m (tyRegs src) [(1, a)]) d (tyRegs t) false u) (f : FV → W64) :
    convAct s h src t d a f = .next (done s h (logged s gk g m (writeLanes u gk d (tyRegs t) m
      (fun i => f (decTy src (laneVal u (tyRegs src) i 0 a)))))) :=
  congrArg (fin s h true) (laneRun_of (srcs := [a]) w r 0 (fun l => f (decTy src (v0 l))))

/-- FCVT writes the value encoded in the target type. -/
theorem exec_fcvt_of {src t : Ty} (w : InLanes s h gk g m)
    (r : LaneReady s gk g m (usesOf m (tyRegs src) [(1, a)]) d (tyRegs t) false u) :
    exec (.fcvt h src t d a) s = .next (done s h (logged s gk g m (writeLanes u gk d (tyRegs t) m
      (fun i => regOf t (encTy t (decTy src (laneVal u (tyRegs src) i 0 a))))))) :=
  convAct_of w r (fun v => regOf t (encTy t v))

/-- ICVT writes the value rounded into an integer type, clamped or wrapped. -/
theorem exec_icvt_of {src t : Ty} (w : InLanes s h gk g m)
    (r : LaneReady s gk g m (usesOf m (tyRegs src) [(1, a)]) d (tyRegs t) false u) (wrap : Bool) :
    exec (.icvt h src wrap t d a) s = .next (done s h (logged s gk g m (writeLanes u gk d (tyRegs t) m
      (fun i => regOf t (encInt t wrap (decTy src (laneVal u (tyRegs src) i 0 a))).toNat)))) :=
  convAct_of w r (fun v => regOf t (encInt t wrap v).toNat)

/-- FRND writes the value rounded to an integer in its own type. -/
theorem exec_frnd_of {t : Ty} (w : InLanes s h gk g m)
    (r : LaneReady s gk g m (usesOf m (tyRegs t) [(1, a)]) d (tyRegs t) false u) :
    exec (.frnd h t d a) s = .next (done s h (logged s gk g m (writeLanes u gk d (tyRegs t) m
      (fun i => BitVec.ofNat 64 ((ieeeOf t).round (decTy t (laneVal u (tyRegs t) i 0 a)).toInteger))))) :=
  convAct_of w r (fun v => fbits ((ieeeOf t).round v.toInteger))

end Lanes

/-! ## The fields of a pattern (R276) -/

theorem bitOf_eq_testBit (x n : Nat) : bitOf x n = x.testBit n :=
  Nat.testBit_eq_decide_div_mod_eq.symm

section Fields

variable {p ew n : Nat}

/-- The sign bit, the exponent and the fraction of the low n bits are the same as those of the whole pattern. -/
theorem fields_of_low (hn : p + ew < n) (v : W64) :
    bitOf (v.toNat % 2 ^ n) (p + ew) = v.getLsbD (p + ew) ∧
      v.toNat % 2 ^ n / 2 ^ p % 2 ^ ew = v.toNat / 2 ^ p % 2 ^ ew ∧ v.toNat % 2 ^ n % 2 ^ p = v.toNat % 2 ^ p := by
  refine ⟨?_, ?_, Nat.mod_mod_of_dvd _ (Nat.pow_dvd_pow 2 (by omega))⟩
  · rw [bitOf_eq_testBit, Nat.testBit_mod_two_pow, decide_eq_true hn, Bool.true_and, BitVec.testBit_toNat]
  · have split : n = p + (n - p) := by omega
    rw [split, Nat.pow_add, Nat.mod_mul_right_div_self]
    exact Nat.mod_mod_of_dvd _ (Nat.pow_dvd_pow 2 (by omega))

/-- A pattern of a format with p fraction bits is decoded from its fields, whatever stands above the format. -/
theorem dec_of_fields (hp : 0 < p) (hn : p + ew < n) (v : W64) :
    (Ieee.mk (p + 1) ew).dec (v.toNat % 2 ^ n) =
      let neg := v.getLsbD (p + ew)
      let e := v.toNat / 2 ^ p % 2 ^ ew
      let q := v.toNat % 2 ^ p
      if e = 2 ^ ew - 1 then (if q = 0 then .inf neg else .nan)
      else if e = 0 then .fin neg q (Ieee.mk (p + 1) ew).qmin
      else .fin neg (q + 2 ^ p) ((Ieee.mk (p + 1) ew).qmin + e - 1) := by
  obtain ⟨sign, expo, frac⟩ := fields_of_low hn v
  have width : p + 1 - 2 + ew + 1 - p = ew := by omega
  simp only [Ieee.dec, Ieee.top, bitsOf, Nat.add_sub_cancel, width, sign, expo, frac]

/-- The class of a pattern by its fields: an all-ones exponent is an infinity or, by the top fraction bit, one of the NaNs; a zero
exponent is a zero or a subnormal (R159). -/
theorem fclassV_of_fields {t : Ty} (ht : ieeeOf t = ⟨p + 1, ew⟩) (hp : 0 < p) (hn : p + ew < tyW t) (v : W64) :
    fclassV t v =
      let neg := v.getLsbD (p + ew)
      let e := v.toNat / 2 ^ p % 2 ^ ew
      let q := v.toNat % 2 ^ p
      if e = 2 ^ ew - 1 then (if q = 0 then (if neg then 0 else 7) else if v.getLsbD (p - 1) then 9 else 8)
      else if e = 0 then (if q = 0 then (if neg then 3 else 4) else if neg then 2 else 5) else if neg then 1 else 6 := by
  have subnormal : v.toNat % 2 ^ p < 2 ^ p := Nat.mod_lt _ (Nat.two_pow_pos p)
  have normal : v.toNat % 2 ^ p + 2 ^ p ≠ 0 := by have := Nat.two_pow_pos p; omega
  have large : ¬v.toNat % 2 ^ p + 2 ^ p < 2 ^ p := by omega
  simp only [fclassV, fdec, ht, dec_of_fields hp hn]
  by_cases top : v.toNat / 2 ^ p % 2 ^ ew = 2 ^ ew - 1
  · by_cases zero : v.toNat % 2 ^ p = 0
    · simp only [if_pos top, if_pos zero]
    · simp only [if_pos top, if_neg zero, Nat.reduceSubDiff, bitOf_eq_testBit, BitVec.testBit_toNat]
  by_cases low : v.toNat / 2 ^ p % 2 ^ ew = 0
  · simp only [if_neg top, if_pos low, Nat.add_sub_cancel, if_pos subnormal]
  · simp only [if_neg top, if_neg low, Nat.add_sub_cancel, if_neg normal, if_neg large]

end Fields

/-! ## The hypotheses -/

/-- A group with one active lane meets every hypothesis: the operands of a comparison into a predicate and those of a
one-source instruction into a vector register are ready, and no check refuses the commit. -/
theorem nopState_lanes_ready :
    InLanes nopState nopHdr 0 nopGroup 1 ∧
      LaneReady nopState 0 nopGroup 1 (usesOf 1 (tyRegs .f32) [(1, ⟨false, .vec 0⟩), (2, ⟨false, .vec 1⟩)]) (.pred 1) 1 false nopState ∧
      LaneReady nopState 0 nopGroup 1 (usesOf 1 (tyRegs .f32) [(1, ⟨false, .vec 0⟩)]) (.vec 2) 1 false nopState :=
  ⟨⟨rfl, by decide +kernel, by decide +kernel, by decide⟩, ⟨by decide +kernel, rfl⟩, ⟨by decide +kernel, rfl⟩⟩

/-! ## The statement -/

/-- Settles O9: the shared runners give each instruction's effect, and the class follows the fields of the pattern. -/
theorem floatCompareAndConvertResult : Obligations.FloatCompareAndConvertResult := by
  unfold Obligations.FloatCompareAndConvertResult
  intro s h gk g m t d a b imm u w
  refine ⟨fun cc p r => ⟨_, exec_fcmp_of w r cc, fun i => ?_⟩, exec_fclass_of w, fun v p ew format => ?_,
    fun src r => ⟨exec_fcvt_of w r, exec_icvt_of w r⟩, exec_frnd_of w⟩
  · cases cc <;> rfl
  · obtain ⟨rfl, rfl, rfl⟩ | ⟨rfl, rfl, rfl⟩ := format
    · exact fclassV_of_fields rfl (by decide) (by decide) v
    · exact fclassV_of_fields rfl (by decide) (by decide) v

end Sys2Proof.Machine
end

section
/-! SUPPORT. Memory keeps its canonical form: every meaning does (`Laws/WfExec.lean`), so the dispatch does, and so does a turn. -/

namespace Sys2Proof.Machine

/- Proofs that are elaborated beside the tests' long kernel checks would wait for those on a thread, and a stack, each. -/
set_option Elab.async false

open Sys2Proof

/-- Every instruction keeps the canonical form of memory, for its meaning does. -/
theorem wf_exec (i : Instr) (s : State) (hs : Memory.wf s.mem = true) : OutWf (exec i s) := by
  cases i with
  | nop h => exact wf_execNop h s hs
  | br h cc a tgt => exact wf_execBr h cc a tgt s hs
  | bra h cc a tgt => exact wf_execBra h cc a tgt s hs
  | brl h cc a tgt rcv => exact wf_execBrl h cc a tgt rcv s hs
  | jmpi h a => exact wf_execJmpi h a s hs
  | call h tgt => exact wf_execCall h tgt s hs
  | calli h a => exact wf_execCalli h a s hs
  | ret h => exact wf_execRet h s hs
  | loop h a exit => exact wf_execLoop h a exit s hs
  | endl h => exact wf_execEndl h s hs
  | brk h cc a exit => exact wf_execBrk h cc a exit s hs
  | cont h cc a cont => exact wf_execCont h cc a cont s hs
  | rjoin h => exact wf_execRjoin h s hs
  | exit h => exact wf_execExit h s hs
  | yield h => exact wf_execYield h s hs
  | unif h a => exact wf_execUnif h a s hs
  | levsync h => exact wf_execLevsync h s hs
  | safept h entry => exact wf_execSafept h entry s hs
  | idem h kind index => exact wf_execIdem h kind index s hs
  | idemx h index => exact wf_execIdemx h index s hs
  | vgrow h a imm => exact wf_execVgrow h a imm s hs
  | vgrowGrant gk => exact wf_execVgrowGrant gk s hs
  | vgive h a imm => exact wf_execVgive h a imm s hs
  | smov h o => exact wf_execSmov h o s hs
  | sldi h d imm => exact wf_execSldi h d imm s hs
  | sldih h d imm => exact wf_execSldih h d imm s hs
  | sid h dim d x => exact wf_execSid h dim d x s hs
  | sadd h o => exact wf_execSadd h o s hs
  | ssub h o => exact wf_execSsub h o s hs
  | smul h o => exact wf_execSmul h o s hs
  | smulh h t o => exact wf_execSmulh h t o s hs
  | sdiv h t o => exact wf_execSdiv h t o s hs
  | srem h t o => exact wf_execSrem h t o s hs
  | sand h o => exact wf_execSand h o s hs
  | sor h o => exact wf_execSor h o s hs
  | sxor h o => exact wf_execSxor h o s hs
  | sshl h o => exact wf_execSshl h o s hs
  | sshr h o => exact wf_execSshr h o s hs
  | ssra h o => exact wf_execSsra h o s hs
  | scmp h cc t o => exact wf_execScmp h cc t o s hs
  | ssel h o => exact wf_execSsel h o s hs
  | smin h t o => exact wf_execSmin h t o s hs
  | smax h t o => exact wf_execSmax h t o s hs
  | sclz h o => exact wf_execSclz h o s hs
  | pand h d a b => exact wf_execPand h d a b s hs
  | por h d a b => exact wf_execPor h d a b s hs
  | pxor h d a b => exact wf_execPxor h d a b s hs
  | pnot h d a => exact wf_execPnot h d a s hs
  | pmov h d a => exact wf_execPmov h d a s hs
  | pset h d v => exact wf_execPset h d v s hs
  | vote h m d a t all => exact wf_execVote h m d a t all s hs
  | vmov h t o => exact wf_execVmov h t o s hs
  | vldi h t d imm => exact wf_execVldi h t d imm s hs
  | vadd h t sat o => exact wf_execVadd h t sat o s hs
  | vsub h t sat o => exact wf_execVsub h t sat o s hs
  | vmul h t o => exact wf_execVmul h t o s hs
  | vmulh h t o => exact wf_execVmulh h t o s hs
  | vmad h t sat o => exact wf_execVmad h t sat o s hs
  | vabs h t sat o => exact wf_execVabs h t sat o s hs
  | vmin h t o => exact wf_execVmin h t o s hs
  | vmax h t o => exact wf_execVmax h t o s hs
  | vcmp h cc t o => exact wf_execVcmp h cc t o s hs
  | vsel h t o => exact wf_execVsel h t o s hs
  | vred h op t o => exact wf_execVred h op t o s hs
  | vscan h op excl t o => exact wf_execVscan h op excl t o s hs
  | vand h t o => exact wf_execVand h t o s hs
  | vor h t o => exact wf_execVor h t o s hs
  | vxor h t o => exact wf_execVxor h t o s hs
  | vnot h t o => exact wf_execVnot h t o s hs
  | vshl h t o => exact wf_execVshl h t o s hs
  | vshr h t o => exact wf_execVshr h t o s hs
  | vsra h t o => exact wf_execVsra h t o s hs
  | vclz h t o => exact wf_execVclz h t o s hs
  | vpop h t o => exact wf_execVpop h t o s hs
  | vbrev h t o => exact wf_execVbrev h t o s hs
  | vbcast h t o => exact wf_execVbcast h t o s hs
  | vshfl h m t o => exact wf_execVshfl h m t o s hs
  | fadd h t o => exact wf_execFadd h t o s hs
  | fsub h t o => exact wf_execFsub h t o s hs
  | fmul h t o => exact wf_execFmul h t o s hs
  | ffma h t o => exact wf_execFfma h t o s hs
  | fmin h t o => exact wf_execFmin h t o s hs
  | fmax h t o => exact wf_execFmax h t o s hs
  | fabs h t o => exact wf_execFabs h t o s hs
  | fneg h t o => exact wf_execFneg h t o s hs
  | fcmp h cc t o => exact wf_execFcmp h cc t o s hs
  | fclass h t o => exact wf_execFclass h t o s hs
  | fdiv h t o => exact wf_execFdiv h t o s hs
  | fsqrt h t o => exact wf_execFsqrt h t o s hs
  | frcp h t o => exact wf_execFrcp h t o s hs
  | frsq h t o => exact wf_execFrsq h t o s hs
  | fexp2 h t o => exact wf_execFexp2 h t o s hs
  | flog2 h t o => exact wf_execFlog2 h t o s hs
  | fcvt h src t d a => exact wf_execFcvt h src t d a s hs
  | icvt h src wrap t d a => exact wf_execIcvt h src wrap t d a s hs
  | frnd h t d a => exact wf_execFrnd h t d a s hs
  | fscl h t o => exact wf_execFscl h t o s hs
  | ld h m => exact wf_execLd h m s hs
  | st h m => exact wf_execSt h m s hs
  | ldk h m => exact wf_execLdk h m s hs
  | lds h m => exact wf_execLds h m s hs
  | sts h m => exact wf_execSts h m s hs
  | sld h m => exact wf_execSld h m s hs
  | sst h m => exact wf_execSst h m s hs
  | pref h m => exact wf_execPref h m s hs
  | atom h op m => exact wf_execAtom h op m s hs
  | atoms h op m => exact wf_execAtoms h op m s hs
  | satom h op m => exact wf_execSatom h op m s hs
  | red h op m => exact wf_execRed h op m s hs
  | fence h ord sc => exact wf_execFence h ord sc s hs
  | cpy h dir a b imm => exact wf_execCpy h dir a b imm s hs
  | cpyp h a b imm => exact wf_execCpyp h a b imm s hs
  | cpym h tgt a b c imm => exact wf_execCpym h tgt a b c imm s hs
  | cpys h a b imm => exact wf_execCpys h a b imm s hs
  | cpyr h op a b imm => exact wf_execCpyr h op a b imm s hs
  | arvi h off16 n => exact wf_execArvi h off16 n s hs
  | arv h a imm => exact wf_execArv h a imm s hs
  | arwt h d a b imm => exact wf_execArwt h d a b imm s hs
  | artst h c d a b imm => exact wf_execArtst h c d a b imm s hs
  | omap h role lines i4 t d buf p w kb => exact wf_execOmap h role lines i4 t d buf p w kb s hs
  | plst h role m off => exact wf_execPlst h role m off s hs
  | mma h o => exact wf_execMma h o s hs
  | mmaloop h o => exact wf_execMmaloop h o s hs
  | mfence h => exact wf_execMfence h s hs
  | mwait h a => exact wf_execMwait h a s hs
  | aclr h d => exact wf_execAclr h d s hs
  | ascl h f t d a b c => exact wf_execAscl h f t d a b c s hs
  | amovv h t d a b row => exact wf_execAmovv h t d a b row s hs
  | asts h t d off => exact wf_execAsts h t d off s hs
  | alds h t d off => exact wf_execAlds h t d off s hs
  | acvt h sform f wrap t d a b row off => exact wf_execAcvt h sform f wrap t d a b row off s hs
  | bar h j => exact wf_execBar h j s hs
  | bara h d j => exact wf_execBara h d j s hs
  | barw h a j => exact wf_execBarw h a j s hs
  | tspawn h a => exact wf_execTspawn h a s hs
  | tself h d => exact wf_execTself h d s hs
  | fwrite h a b => exact wf_execFwrite h a b s hs
  | fwait h d a => exact wf_execFwait h d a s hs
  | ftest h c d a => exact wf_execFtest h c d a s hs
  | lock h a => exact wf_execLock h a s hs
  | trylock h d a => exact wf_execTrylock h d a s hs
  | unlock h a => exact wf_execUnlock h a s hs
  | cntwt h a b => exact wf_execCntwt h a b s hs
  | pin h q a => exact wf_execPin h q a s hs
  | unpin h q => exact wf_execUnpin h q s hs
  | pinx h q a => exact wf_execPinx h q a s hs
  | reclaim h d a b => exact wf_execReclaim h d a b s hs
  | rcdrain h d => exact wf_execRcdrain h d s hs
  | msend h d a b n8 tag => exact wf_execMsend h d a b n8 tag s hs
  | rwait h d r => exact wf_execRwait h d r s hs
  | rack h a r => exact wf_execRack h a r s hs
  | rdesc h d a r => exact wf_execRdesc h d a r s hs
  | trap h imm => exact wf_execTrap h imm s hs
  | rft h => exact wf_execRft h s hs
  | ctlrd h d cr => exact wf_execCtlrd h d cr s hs
  | ctlwr h a cr => exact wf_execCtlwr h a cr s hs
  | cycle h src d => exact wf_execCycle h src d s hs
  | sleepc h a imm => exact wf_execSleepc h a imm s hs
  | evrd h d ev => exact wf_execEvrd h d ev s hs
  | bkpt h imm => exact wf_execBkpt h imm s hs
  | halt h => exact wf_execHalt h s hs
  | tlbinv h k a => exact wf_execTlbinv h k a s hs
  | clone h m => exact wf_execClone h m s hs
  | segmentEmit ck => exact wf_execSegmentEmit ck s hs
  | segmentFinish u => exact wf_execSegmentFinish u s hs
  | conditionReport u => exact wf_execConditionReport u s hs
  | lineFill u va => exact wf_execLineFill u va s hs
  | producerCompletion n => exact wf_execProducerCompletion n s hs
  | faultDelivery u => exact wf_execFaultDelivery u s hs
  | handlerTimeLimit gk => exact wf_execHandlerTimeLimit gk s hs
  | preemptionRequest gc b => exact wf_execPreemptionRequest gc b s hs
  | preemptionTimeout gk => exact wf_execPreemptionTimeout gk s hs
  | park gc b => exact wf_execPark gc b s hs
  | unitResume gc b => exact wf_execUnitResume gc b s hs
  | replayCompare core q diff => exact wf_execReplayCompare core q diff s hs
  | replayMismatch gk => exact wf_execReplayMismatch gk s hs
  | regionRestart gk => exact wf_execRegionRestart gk s hs
  | bandKill gc b => exact wf_execBandKill gc b s hs
  | fatalError => exact wf_execFatalError s hs
  | walkroundStart clu => exact wf_execWalkroundStart clu s hs
  | walkroundAbandon clu => exact wf_execWalkroundAbandon clu s hs
  | walkroundComplete clu failed => exact wf_execWalkroundComplete clu failed s hs
  | writeApply id => exact wf_execWriteApply id s hs
  | writeDeliver id => exact wf_execWriteDeliver id s hs
  | readPerform id => exact wf_execReadPerform id s hs
  | viewRefresh core pa => exact wf_execViewRefresh core pa s hs
  | viewEvict core pa => exact wf_execViewEvict core pa s hs
  | accessComplete id => exact wf_execAccessComplete id s hs
  | cellarEvict pa => exact wf_execCellarEvict pa s hs
  | pageWalk core gc va => exact wf_execPageWalk core gc va s hs
  | tlbDrop core n idx => exact wf_execTlbDrop core n idx s hs
  | droverStart core => exact wf_execDroverStart core s hs
  | sectorComplete core copy sector => exact wf_execSectorComplete core copy sector s hs
  | matrixOpStart core => exact wf_execMatrixOpStart core s hs
  | matrixOpComplete core op mismatch => exact wf_execMatrixOpComplete core op mismatch s hs
  | spawnStep gc b => exact wf_execSpawnStep gc b s hs
  | dispatch pick => exact wf_execDispatch pick s hs
  | taskRetire gc => exact wf_execTaskRetire gc s hs
  | pinSearch u e => exact wf_execPinSearch u e s hs
  | shadowWithdraw gk q => exact wf_execShadowWithdraw gk q s hs
  | sleepExpire u e => exact wf_execSleepExpire u e s hs
  | packetInject id => exact wf_execPacketInject id s hs
  | bucketRefill ep cls => exact wf_execBucketRefill ep cls s hs
  | ringAppend n => exact wf_execRingAppend n s hs
  | wayfareRead w cls addr len tag => exact wf_execWayfareRead w cls addr len tag s hs
  | wayfareWrite w cls addr data => exact wf_execWayfareWrite w cls addr data s hs
  | wayfareAtomic w cls addr op t b c tag => exact wf_execWayfareAtomic w cls addr op t b c tag s hs
  | wayfareFenceMarker w seq => exact wf_execWayfareFenceMarker w seq s hs
  | wayfareAck w id => exact wf_execWayfareAck w id s hs
  | wayfareReadReply w id data => exact wf_execWayfareReadReply w id data s hs
  | wayfareRefusal w id => exact wf_execWayfareRefusal w id s hs
  | flitCrcFailure w => exact wf_execFlitCrcFailure w s hs
  | hostAccess op off data => exact wf_execHostAccess op off data s hs
  | launchPacket q => exact wf_execLaunchPacket q s hs
  | fencePacket q => exact wf_execFencePacket q s hs
  | fencePacketPass q => exact wf_execFencePacketPass q s hs
  | signalPacket q => exact wf_execSignalPacket q s hs
  | nopPacket q => exact wf_execNopPacket q s hs
  | doorbell q v => exact wf_execDoorbell q v s hs
  | qdescWrite q off v => exact wf_execQdescWrite q off v s hs
  | faultBufferWrite => exact wf_execFaultBufferWrite s hs
  | fbcfgWrite v => exact wf_execFbcfgWrite v s hs
  | fbresolveResume idx => exact wf_execFbresolveResume idx s hs
  | fbresolveAbort idx => exact wf_execFbresolveAbort idx s hs
  | tlbcmdPage space rest => exact wf_execTlbcmdPage space rest s hs
  | tlbcmdSpace space => exact wf_execTlbcmdSpace space s hs
  | tlbcmdAll => exact wf_execTlbcmdAll s hs
  | dbgcmdResumeStopIa gc b => exact wf_execDbgcmdResumeStopIa gc b s hs
  | dbgcmdResumeNext gc b => exact wf_execDbgcmdResumeNext gc b s hs
  | dbgcmdKill gc b => exact wf_execDbgcmdKill gc b s hs
  | bootcmdReset => exact wf_execBootcmdReset s hs
  | bootcmdFullStart => exact wf_execBootcmdFullStart s hs
  | mcbankClear b => exact wf_execMcbankClear b s hs
  | islctlAutomatic idx fmax => exact wf_execIslctlAutomatic idx fmax s hs
  | islctlHoldOn idx fmax => exact wf_execIslctlHoldOn idx fmax s hs
  | islctlGate idx fmax => exact wf_execIslctlGate idx fmax s hs
  | islandGated idx => exact wf_execIslandGated idx s hs
  | controlSpaceWrite off v => exact wf_execControlSpaceWrite off v s hs
  | powerWindow => exact wf_execPowerWindow s hs
  | moduleReset => exact wf_execModuleReset s hs
  | startupStageComplete ok code => exact wf_execStartupStageComplete ok code s hs
  | startupStageTimeout => exact wf_execStartupStageTimeout s hs
  | peerLinkTrain w ok => exact wf_execPeerLinkTrain w ok s hs
  | mailboxRequest req => exact wf_execMailboxRequest req s hs
  | worrenStatus => exact wf_execWorrenStatus s hs
  | worrenBankRead b => exact wf_execWorrenBankRead b s hs
  | worrenBankClear b => exact wf_execWorrenBankClear b s hs
  | worrenPowerCap v => exact wf_execWorrenPowerCap v s hs
  | worrenFirmwareChunk off data => exact wf_execWorrenFirmwareChunk off data s hs
  | worrenActivate => exact wf_execWorrenActivate s hs
  | worrenFloorMap data => exact wf_execWorrenFloorMap data s hs
  | worrenExtend k data => exact wf_execWorrenExtend k data s hs
  | worrenAttest nonce => exact wf_execWorrenAttest nonce s hs
  | worrenStartReset => exact wf_execWorrenStartReset s hs
  | worrenFullStart => exact wf_execWorrenFullStart s hs
  | hostCompletion id data => exact wf_execHostCompletion id data s hs

/-- A turn keeps the canonical form: what a unit's issue prepares does, and what it then runs does. -/
theorem wf_runTurn (t : Turn) (s : State) (hs : Memory.wf s.mem = true) : OutWf (runTurn t s) := by
  cases t with
  | issue u e =>
    have prepared := wf_prep s u e hs
    simp only [runTurn]
    split
    · exact out_next hs
    next moved => exact out_next (prep_get prepared moved)
    next runs => exact wf_thenPair _ _ (prep_get_run prepared runs) (wf_exec _ _ (prep_get_run prepared runs))
  | event i =>
    simp only [runTurn]
    split
    · exact wf_exec i s hs
    · exact out_next hs

/-! ## The statement -/

/-- Settles O59: the state in which a turn is taken has the memory of the state before, and a turn keeps the canonical form. -/
theorem memoryStaysCanonical : Obligations.MemoryStaysCanonical :=
  fun s _ hs hstep => out_get (wf_runTurn (pickTurn s) (begin1 s) (wf_begin1 s hs)) hstep

end Sys2Proof.Machine
end

section
/-! SUPPORT. Every step answers a next state: no meaning of an instruction faults or refuses. -/

namespace Sys2Proof.Machine

/- Proofs that are elaborated beside the tests' long kernel checks would wait for those on a thread, and a stack, each. -/
set_option Elab.async false

open Sys2Proof Host

/-- The outcome is a next state. -/
def Goes (o : Outcome State Fault Refusal) : Prop := ∃ t, o = .next t

theorem goes_next (s : State) : Goes (.next s) := ⟨s, rfl⟩

/-- An instruction that ends in an act answers a next state, whatever the act: a fault is taken, a wait is tried again. -/
theorem goes_fin (s : State) (h : Hdr) (ends : Bool) (a : Act) : Goes (fin s h ends a) := by
  cases a <;> exact goes_next _

theorem goes_ite {p : Prop} [Decidable p] {a b : Outcome State Fault Refusal} (ha : Goes a) (hb : Goes b) : Goes (if p then a else b) := by
  split
  · exact ha
  · exact hb

theorem goes_thenPair (s : State) {o : Outcome State Fault Refusal} (ho : Goes o) : Goes (thenPair s o) := by
  obtain ⟨t, rfl⟩ := ho
  unfold thenPair
  split
  · exact goes_next _
  · exact goes_next _

/-- Every instruction answers a next state: its meaning ends in an act, or changes the state outright. -/
theorem goes_exec (i : Instr) (s : State) : Goes (exec i s) := by
  cases i with
  | br | bra | brl | jmpi | call | calli | ret | loop | endl | brk | cont | rjoin | unif | levsync | safept | idem | idemx |
    vgrow | vgive | smov | sldi | sldih | sid | sadd | ssub | smul | smulh | sdiv | srem | sand | sor | sxor | sshl | sshr |
    ssra | scmp | ssel | smin | smax | sclz | vote | vmov | vldi | vadd | vsub | vmul | vmulh | vmad | vabs | vmin | vmax |
    vcmp | vsel | vred | vscan | vand | vor | vxor | vnot | vshl | vshr | vsra | vclz | vpop | vbrev | vbcast | vshfl | fadd |
    fsub | fmul | ffma | fmin | fmax | fabs | fneg | fcmp | fclass | fdiv | fsqrt | frcp | frsq | fexp2 | flog2 | fcvt | icvt
    | frnd | fscl | ld | st | ldk | lds | sts | sld | sst | atom | atoms | satom | red | cpy | cpyp | cpym | cpys | cpyr |
    arvi | arv | arwt | artst | omap | plst | mma | mmaloop | mfence | mwait | aclr | ascl | amovv | asts | alds | bar | bara
    | barw | tspawn | tself | fwrite | fwait | ftest | lock | trylock | unlock | cntwt | pin | unpin | pinx | reclaim |
    rcdrain | msend | rwait | rack | rdesc | trap | rft | ctlrd | ctlwr | cycle | sleepc | evrd | bkpt | halt | tlbinv | clone =>
    exact goes_fin _ _ _ _
  | exit | yield | pref | fence | acvt | pand | por | pxor | pnot | pmov | pset =>
    exact goes_ite (goes_fin _ _ _ _) (goes_fin _ _ _ _)
  | nop | segmentEmit | segmentFinish | conditionReport | lineFill | producerCompletion | faultDelivery | handlerTimeLimit |
    preemptionRequest | preemptionTimeout | park | unitResume | replayCompare | replayMismatch | regionRestart | bandKill |
    fatalError | walkroundStart | walkroundAbandon | walkroundComplete | writeApply | writeDeliver | readPerform | viewRefresh
    | viewEvict | accessComplete | cellarEvict | pageWalk | tlbDrop | droverStart | sectorComplete | matrixOpStart |
    matrixOpComplete | spawnStep | dispatch | taskRetire | pinSearch | shadowWithdraw | sleepExpire | packetInject |
    bucketRefill | ringAppend | wayfareRead | wayfareWrite | wayfareAtomic | wayfareFenceMarker | wayfareAck |
    wayfareReadReply | wayfareRefusal | flitCrcFailure | hostAccess | launchPacket | fencePacket | fencePacketPass |
    signalPacket | nopPacket | doorbell | qdescWrite | faultBufferWrite | fbcfgWrite | fbresolveResume | fbresolveAbort |
    tlbcmdPage | tlbcmdSpace | tlbcmdAll | dbgcmdResumeStopIa | dbgcmdResumeNext | dbgcmdKill | bootcmdReset |
    bootcmdFullStart | mcbankClear | islctlAutomatic | islctlHoldOn | islctlGate | islandGated | controlSpaceWrite |
    powerWindow | moduleReset | startupStageComplete | startupStageTimeout | peerLinkTrain | mailboxRequest | worrenStatus |
    worrenBankRead | worrenBankClear | worrenPowerCap | worrenFirmwareChunk | worrenActivate | worrenFloorMap | worrenExtend |
    worrenAttest | worrenStartReset | worrenFullStart | hostCompletion =>
    exact goes_next _
  | vgrowGrant gk =>
    show Goes (execVgrowGrant gk s)
    unfold execVgrowGrant
    cases s.grp? gk with
    | none => exact goes_next _
    | some g => exact goes_ite (goes_next _) (goes_ite (goes_next _) (goes_next _))

/-- A turn answers a next state. -/
theorem goes_runTurn (t : Turn) (s : State) : Goes (runTurn t s) := by
  cases t with
  | issue u e =>
    simp only [runTurn]
    split
    · exact goes_next _
    · exact goes_next _
    · exact goes_thenPair _ (goes_exec _ _)
  | event i => exact goes_ite (goes_exec _ _) (goes_next _)

/-! ## The statement -/

/-- Settles O58: by induction on the number of steps, each of which answers a next state. -/
theorem everyRunGoesOn : Obligations.EveryRunGoesOn := by
  intro k
  induction k with
  | zero => exact fun s => ⟨s, rfl⟩
  | succ k ih =>
    intro s
    obtain ⟨t, next⟩ : Goes (step s) := goes_runTurn _ _
    obtain ⟨u, run⟩ := ih t
    have first : core.step s = .next t := next
    exact ⟨u, by simp only [Core.run, first, run]⟩

end Sys2Proof.Machine
end

section
/-! SUPPORT. An encoded instruction decodes to itself: the two digits of its opcode select its row, whose arm reads its fields back. -/

namespace Sys2Proof.Laws.Encode
open Sys2Proof Sys2Proof.Decode

/- Proofs that are elaborated beside the tests' long kernel checks would wait for those on a thread, and a stack, each. -/
set_option Elab.async false

/-! ## The digits of the opcode (R67) -/

theorem high_digit {op : Nat} {w : Insn} (h : wOp w = BitVec.ofNat 8 op) : (w.extractLsb' 92 4).toNat = op / 16 % 16 := by
  rw [wOp_hi, field_toNat, h, BitVec.toNat_ofNat]
  omega

theorem low_digit {op : Nat} {w : Insn} (h : wOp w = BitVec.ofNat 8 op) : (w.extractLsb' 88 4).toNat = op % 16 := by
  rw [wOp_lo, field_toNat, h, BitVec.toNat_ofNat]
  omega

theorem digits_fR (op : Nat) (sub : BitVec 6) (h : Hdr) (t : Ty) (d : BitVec 10) (a b c : BitVec 11) (imm : BitVec 27) :
    ((fR op sub h t d a b c imm).extractLsb' 92 4).toNat = op / 16 % 16 ∧
      ((fR op sub h t d a b c imm).extractLsb' 88 4).toNat = op % 16 :=
  have code := (fR_fields op sub h t d a b c imm).1
  ⟨high_digit code, low_digit code⟩

theorem digits_fI (op : Nat) (sub : BitVec 6) (h : Hdr) (t : Ty) (d : BitVec 10) (a : BitVec 11) (imm : BitVec 49) :
    ((fI op sub h t d a imm).extractLsb' 92 4).toNat = op / 16 % 16 ∧ ((fI op sub h t d a imm).extractLsb' 88 4).toNat = op % 16 :=
  have code := (fI_fields op sub h t d a imm).1
  ⟨high_digit code, low_digit code⟩

theorem digits_fB (op : Nat) (sub : BitVec 6) (h : Hdr) (a : BitVec 11) (tgt rcv : BitVec 24) :
    ((fB op sub h a tgt rcv).extractLsb' 92 4).toNat = op / 16 % 16 ∧ ((fB op sub h a tgt rcv).extractLsb' 88 4).toNat = op % 16 :=
  have code := (fB_fields op sub h a tgt rcv).1
  ⟨high_digit code, low_digit code⟩

theorem digits_fM (op : Nat) (h : Hdr) (m : OpM) (d : BitVec 10) (a b : BitVec 11) (aop : BitVec 4) :
    ((fM op h m d a b aop).extractLsb' 92 4).toNat = op / 16 % 16 ∧ ((fM op h m d a b aop).extractLsb' 88 4).toNat = op % 16 :=
  have code := (fM_fields op h m d a b aop).1
  ⟨high_digit code, low_digit code⟩

theorem digits_fX (op : Nat) (sub : BitVec 6) (h : Hdr) (t : Ty) (d : BitVec 10) (a b c ks : BitVec 11) (ai bi : BitVec 8) :
    ((fX op sub h t d a b c ks ai bi).extractLsb' 92 4).toNat = op / 16 % 16 ∧
      ((fX op sub h t d a b c ks ai bi).extractLsb' 88 4).toNat = op % 16 :=
  have code := (fX_fields op sub h t d a b c ks ai bi).1
  ⟨high_digit code, low_digit code⟩

/-! ## Parts of a field -/

/-- A field within the last of the fields side by side. -/
theorem field_low {n w : Nat} (x : BitVec n) (y : BitVec w) {lo len : Nat} (h : lo + len ≤ w) :
    (x ++ y).extractLsb' lo len = y.extractLsb' lo len := BitVec.extractLsb'_append_eq_of_add_le h

/-- The last of the fields side by side. -/
theorem field_last {n w : Nat} (x : BitVec n) (y : BitVec w) : (x ++ y).extractLsb' 0 w = y := by
  rw [BitVec.extractLsb'_append_eq_of_add_le (by omega), BitVec.extractLsb'_eq_self]

/-- The last but one of the fields side by side. -/
theorem field_before {n v w : Nat} (x : BitVec n) (y : BitVec v) (z : BitVec w) : (x ++ y ++ z).extractLsb' w v = y := by
  rw [BitVec.extractLsb'_append_eq_of_le (le_refl w), Nat.sub_self, field_last]

@[simp] theorem getElem_bit (b : Bool) : (bit b)[0] = b := by cases b <;> rfl

@[simp] theorem extractLsb'_bit (b : Bool) : (bit b).extractLsb' 0 1 = bit b := BitVec.extractLsb'_eq_self

/-- A field that was widened is read back by its own width. -/
@[simp] theorem extractLsb'_setWidth {n m : Nat} (x : BitVec n) (h : n ≤ m) : (x.setWidth m).extractLsb' 0 n = x := by
  rw [BitVec.extractLsb'_setWidth_of_le (by omega), BitVec.extractLsb'_eq_self]

/-- A low bit of a register word is that bit of its immediate. -/
@[simp] theorem getElem_fR (op : Nat) (sub : BitVec 6) (h : Hdr) (t : Ty) (d : BitVec 10) (a b c : BitVec 11) (imm : BitVec 27)
    {k : Nat} (low : k < 27) : (fR op sub h t d a b c imm)[k] = imm[k] := by
  have part := fR_low op sub h t d a b c imm k 1 low
  rw [← BitVec.getLsbD_eq_getElem, ← BitVec.getLsbD_eq_getElem, getLsbD_field, part, ← getLsbD_field]

/-- ORD and SCOPE are the halves of SUB (R60). -/
theorem ord_of_sub (w : Insn) : w.extractLsb' 85 3 = (wSub w).extractLsb' 3 3 := by
  apply BitVec.eq_of_toNat_eq
  simp only [wSub, field_toNat]
  omega

theorem scope_of_sub (w : Insn) : w.extractLsb' 82 3 = (wSub w).extractLsb' 0 3 := by
  apply BitVec.eq_of_toNat_eq
  simp only [wSub, field_toNat]
  omega

/-- The index of a special register is the low part of its source field (R63). -/
theorem spec_of_a (w : Insn) : w.extractLsb' 49 6 = (wA w).extractLsb' 0 6 := by
  apply BitVec.eq_of_toNat_eq
  simp only [wA, field_toNat]
  omega

@[simp] theorem extractLsb'_srcCode_spec (f : Bool) (x : BitVec 6) : (srcCode ⟨f, .spec x⟩).extractLsb' 0 6 = x := by
  rw [srcCode, field_low _ _ (by omega)]
  exact field_last (0b11#2 ++ 0b01#2) x

/-- A flag is the bit of the word that holds it. -/
theorem getElem_of_field {n k : Nat} {x : BitVec n} (hk : k < n) {b : Bool} (f : x.extractLsb' k 1 = bit b) : x[k] = b := by
  rw [← BitVec.getLsbD_eq_getElem, getLsbD_field, f, bit_eq]

/-! ### Immediates and SUBs of several parts -/

@[simp] theorem vote_imm (l : Bool) (t : BitVec 6) : BitVec.extractLsb' (n := 27) 0 6 (0#20 ++ bit l ++ t) = t ∧
    (0#20 ++ bit l ++ t : BitVec 27)[6] = l :=
  ⟨field_last _ t, getElem_of_field (by omega) (field_before 0#20 (bit l) t)⟩

@[simp] theorem vscan_sub (x : Bool) (r : BitVec 3) : BitVec.extractLsb' (n := 6) 0 3 (0#2 ++ bit x ++ r) = r ∧
    (0#2 ++ bit x ++ r : BitVec 6)[3] = x :=
  ⟨field_last _ r, getElem_of_field (by omega) (field_before 0#2 (bit x) r)⟩

@[simp] theorem redOf_low (c : RedOp) : redOf ((redCode c).toNat % 8) = some c := by cases c <;> rfl

@[simp] theorem icvt_sub (x : Bool) (c : BitVec 4) : BitVec.extractLsb' (n := 6) 0 4 (0#1 ++ bit x ++ c) = c ∧
    (0#1 ++ bit x ++ c : BitVec 6)[4] = x :=
  ⟨field_last _ c, getElem_of_field (by omega) (field_before 0#1 (bit x) c)⟩

@[simp] theorem order_sub (o s : BitVec 3) : BitVec.extractLsb' (n := 6) 3 3 (o ++ s) = o ∧
    BitVec.extractLsb' (n := 6) 0 3 (o ++ s) = s :=
  ⟨by rw [BitVec.extractLsb'_append_eq_of_le (le_refl 3)]; exact BitVec.extractLsb'_eq_self, field_last o s⟩

@[simp] theorem arvi_imm (o : BitVec 14) (n : BitVec 13) : BitVec.extractLsb' (n := 27) 13 14 (o ++ n) = o ∧
    BitVec.extractLsb' (n := 27) 0 13 (o ++ n) = n :=
  ⟨by rw [BitVec.extractLsb'_append_eq_of_le (le_refl 13)]; exact BitVec.extractLsb'_eq_self, field_last o n⟩

@[simp] theorem msend_imm (t : BitVec 12) (n : BitVec 5) : BitVec.extractLsb' (n := 27) 0 5 (0#10 ++ t ++ n) = n ∧
    BitVec.extractLsb' (n := 27) 5 12 (0#10 ++ t ++ n) = t :=
  ⟨field_last _ n, field_before 0#10 t n⟩

@[simp] theorem omap_sub (x l r : Bool) : (0#3 ++ bit x ++ bit l ++ bit r : BitVec 6)[0] = r ∧
    (0#3 ++ bit x ++ bit l ++ bit r : BitVec 6)[1] = l ∧ (0#3 ++ bit x ++ bit l ++ bit r : BitVec 6)[2] = x := by
  cases x <;> cases l <;> cases r <;> decide

@[simp] theorem omap_imm (k : BitVec 5) (v : BitVec 3) (p : BitVec 6) :
    BitVec.extractLsb' (n := 27) 0 6 (0#13 ++ k ++ v ++ p) = p ∧ BitVec.extractLsb' (n := 27) 6 3 (0#13 ++ k ++ v ++ p) = v ∧
      BitVec.extractLsb' (n := 27) 9 5 (0#13 ++ k ++ v ++ p) = k :=
  ⟨field_last _ p, field_before _ v p, by
    rw [BitVec.extractLsb'_append_eq_of_le (by omega)]
    exact field_before 0#13 k v⟩

@[simp] theorem acvt_sub (x s : Bool) (f : BitVec 2) : (0#2 ++ bit x ++ f ++ bit s : BitVec 6)[0] = s ∧
    BitVec.extractLsb' (n := 6) 1 2 (0#2 ++ bit x ++ f ++ bit s) = f ∧ (0#2 ++ bit x ++ f ++ bit s : BitVec 6)[3] = x := by
  refine ⟨getElem_of_field (by omega) (field_last _ _), field_before _ f (bit s), getElem_of_field (by omega) ?_⟩
  rw [BitVec.extractLsb'_append_eq_of_le (by omega)]
  exact field_before 0#2 (bit x) f

theorem eq_none_of_isNone {o : Opd} (h : Machine.isNone o = true) : o = .none := by
  cases o <;> simp_all [Machine.isNone]

/-- A source that must be absent is the empty field. -/
theorem eq_noSrc_of_srcOk {a : Src} (h : Machine.srcOk Machine.isNone a = true) : a = noSrc := by
  obtain ⟨f, o⟩ := a
  cases o <;> simp_all [Machine.srcOk, Machine.isNone, noSrc]

theorem left_of_and {a b : Bool} (h : (a && b) = true) : a = true := (Bool.and_eq_true_iff.mp h).1

theorem right_of_and {a b : Bool} (h : (a && b) = true) : b = true := (Bool.and_eq_true_iff.mp h).2

/-- Stores, prefetches and reductions name no destination. -/
theorem noDst_of_wf {i : Instr} {m : OpM} (wf : i.wf = true) (h : Hdr)
    (store : i = .st h m ∨ i = .sts h m ∨ i = .sst h m ∨ i = .pref h m ∨ ∃ op, i = .red h op m) : m.d = .none := by
  apply eq_none_of_isNone
  rcases store with rfl | rfl | rfl | rfl | ⟨op, rfl⟩
  · exact right_of_and (left_of_and (left_of_and wf))
  · exact right_of_and (left_of_and (left_of_and wf))
  · exact right_of_and (left_of_and (left_of_and wf))
  · exact right_of_and (left_of_and wf)
  · exact right_of_and (left_of_and (left_of_and wf))

section Acvt

variable {h : Hdr} {f : AccFmt} {wrap : Bool} {t : Ty} {d : Opd} {a : BitVec 3} {b : Src} {row : BitVec 6} {off : BitVec 27}

/-- ACVT to the scratchpad names no register, no row source and no row. -/
theorem acvt_scratchpad (wf : (Instr.acvt h true f wrap t d a b row off).wf = true) : d = .none ∧ b = noSrc ∧ row = 0 := by
  have form := right_of_and wf
  have ⟨noDst, noB⟩ := Bool.and_eq_true_iff.mp (left_of_and form)
  exact ⟨eq_none_of_isNone noDst, eq_noSrc_of_srcOk noB, eq_of_beq (right_of_and form)⟩

/-- ACVT to registers names no offset. -/
theorem acvt_registers (wf : (Instr.acvt h false f wrap t d a b row off).wf = true) : off = 0 :=
  eq_of_beq (right_of_and (right_of_and wf))

end Acvt

/-! ## The arm of an instruction -/

/-- The word of a well-formed instruction is built into that instruction. -/
theorem build_encode (i : Instr) (w : Insn) (wf : i.wf = true) (e : encode i = some w) : build w = some i := by
  cases i with
  | nop | br | bra | brl | jmpi | call | calli | ret | loop | endl | brk | cont | rjoin | exit | yield | unif =>
    cases e
    simp only [eB, build, digits_fB, digits_fR, build0]
    simp
  | levsync | safept | idem | idemx | vgrow | vgive =>
    cases e
    simp only [build, digits_fI, digits_fR, build1]
    simp [fI_low]
  | smov | sldi | sldih | sid | sadd | ssub | smul | smulh | sdiv | srem | sand | sor | sxor | sshl | sshr | ssra =>
    cases e
    simp only [eR1, eR2, build, digits_fI, digits_fR, build2]
    simp [rd1, rd2, wTy, spec_of_a]
  | scmp | ssel | smin | smax | sclz | pand | por | pxor | pnot | pmov | pset | vote =>
    cases e
    simp only [eP2, eP3, eR1, eR2, eR3, build, digits_fR, build3]
    simp [rd1, rd2, rd3, wTy, fR_low]
  | vmov | vldi | vadd | vsub | vmul | vmulh | vmad | vabs | vmin | vmax | vcmp | vsel | vred | vscan =>
    cases e
    simp only [eR1, eR2, eR3, build, digits_fI, digits_fR, build4]
    simp [rd1, rd2, rd3, wTy]
  | vand | vor | vxor | vnot | vshl | vshr | vsra | vclz | vpop | vbrev | vbcast | vshfl =>
    cases e
    simp only [eR1, eR2, build, digits_fR, build5]
    simp [rd1, rd2, wTy]
  | fadd | fsub | fmul | ffma | fmin | fmax | fabs | fneg | fcmp | fclass | fdiv | fsqrt | frcp | frsq | fexp2 | flog2 =>
    cases e
    simp only [eR1, eR2, eR3, build, digits_fR, build6]
    simp [rd1, rd2, rd3, wTy]
  | fcvt | icvt | frnd | fscl =>
    cases e
    simp only [eR2, build, digits_fR, build7]
    simp [rd2, wTy]
  | ld | ldk | lds | sld =>
    cases e
    simp only [eM, build, digits_fM, build8]
    simp [rdM, wTy]
  | atom | atoms | satom | fence =>
    cases e
    simp only [eM, build, digits_fM, digits_fR, build9]
    simp [rdM, wTy, ord_of_sub, scope_of_sub]
  | cpyp | cpys | cpyr | arvi | arv | arwt =>
    cases e
    simp only [build, digits_fR, buildA]
    simp [fR_low]
  | omap | plst | mma | mmaloop | mfence | aclr | ascl | amovv | asts | alds =>
    cases e
    simp only [eMma, fXo_eq, build, digits_fR, digits_fX, buildB]
    simp [rdMma, wTy, fR_low]
  | bar | bara | barw | tspawn | tself | fwrite | fwait | lock | trylock | unlock | cntwt =>
    cases e
    simp only [build, digits_fR, buildC]
    simp [fR_low]
  | pin | unpin | pinx | reclaim | rcdrain | msend | rwait | rack | rdesc =>
    cases e
    simp only [build, digits_fR, buildD]
    simp [fR_low]
  | trap | rft | ctlrd | ctlwr | cycle | sleepc | evrd | bkpt | halt | clone =>
    cases e
    simp only [build, digits_fI, digits_fR, buildE]
    simp [fR_low, fI_low]
  | st h m | sts h m | sst h m | pref h m =>
    have noDst : m.d = .none := noDst_of_wf wf h (by simp)
    cases e
    simp only [eM, build, digits_fM, build8]
    simp [rdM, wTy]
    rw [← noDst]
  | red h op m =>
    have noDst : m.d = .none := noDst_of_wf wf h (by simp)
    cases e
    simp only [eM, build, digits_fM, build9]
    simp [rdM, wTy]
    rw [← noDst]
  | cpy h dir =>
    cases e
    simp only [build, digits_fR, buildA]
    cases dir <;> simp
  | cpym h tgt =>
    cases e
    simp only [build, digits_fR, buildA]
    cases tgt <;> simp
  | artst h c d a b imm =>
    cases e
    simp only [build, digits_fR, buildA]
    cases c with
    | done => simp
    | pois =>
      have noB : b = noSrc := eq_noSrc_of_srcOk (left_of_and (right_of_and wf))
      simp [noB]
  | mwait h a =>
    cases e
    simp only [build, digits_fR, buildB]
    cases a with
    | none => simp; rfl
    | some a => simp
  | acvt h sform f wrap t d a b row off =>
    cases e
    simp only [fXo_eq, build, digits_fR, buildB]
    cases sform with
    | false =>
      have noOff := acvt_registers wf
      simp [wTy, fR_low, noOff]
    | true =>
      obtain ⟨noDst, noB, noRow⟩ := acvt_scratchpad wf
      simp [wTy, noRow, noDst, noB]
  | ftest h c =>
    cases e
    simp only [build, digits_fR, buildC]
    cases c <;> simp
  | tlbinv h k a =>
    cases e
    simp only [build, digits_fR, buildE]
    cases k with
    | page => simp [tlbCode]
    | space | all =>
      have noA : a = noSrc := eq_noSrc_of_srcOk (right_of_and wf)
      simp [tlbCode, noA]
  | vgrowGrant | segmentEmit | segmentFinish | conditionReport | lineFill | producerCompletion | faultDelivery |
    handlerTimeLimit | preemptionRequest | preemptionTimeout | park | unitResume | replayCompare | replayMismatch |
    regionRestart | bandKill | fatalError | walkroundStart | walkroundAbandon | walkroundComplete | writeApply | writeDeliver
    | readPerform | viewRefresh | viewEvict | accessComplete | cellarEvict | pageWalk | tlbDrop | droverStart | sectorComplete
    | matrixOpStart | matrixOpComplete | spawnStep | dispatch | taskRetire | pinSearch | shadowWithdraw | sleepExpire |
    packetInject | bucketRefill | ringAppend | wayfareRead | wayfareWrite | wayfareAtomic | wayfareFenceMarker | wayfareAck |
    wayfareReadReply | wayfareRefusal | flitCrcFailure | hostAccess | launchPacket | fencePacket | fencePacketPass |
    signalPacket | nopPacket | doorbell | qdescWrite | faultBufferWrite | fbcfgWrite | fbresolveResume | fbresolveAbort |
    tlbcmdPage | tlbcmdSpace | tlbcmdAll | dbgcmdResumeStopIa | dbgcmdResumeNext | dbgcmdKill | bootcmdReset |
    bootcmdFullStart | mcbankClear | islctlAutomatic | islctlHoldOn | islctlGate | islandGated | controlSpaceWrite |
    powerWindow | moduleReset | startupStageComplete | startupStageTimeout | peerLinkTrain | mailboxRequest | worrenStatus |
    worrenBankRead | worrenBankClear | worrenPowerCap | worrenFirmwareChunk | worrenActivate | worrenFloorMap | worrenExtend |
    worrenAttest | worrenStartReset | worrenFullStart | hostCompletion =>
    cases e

/-- R67 assigns the opcode of every instruction that has a word. -/
theorem assigned_encode (i : Instr) (w : Insn) (e : encode i = some w) : assigned (wOp w) = true := by
  cases i with
  | nop | levsync | vgrow | vgive | smov | sid | sadd | ssub | smul | smulh | sdiv | srem | sand | sor | sxor | sshl | sshr |
    ssra | scmp | ssel | smin | smax | sclz | pand | por | pxor | pnot | pmov | pset | vote | vmov | vadd | vsub | vmul |
    vmulh | vmad | vabs | vmin | vmax | vcmp | vsel | vred | vscan | vand | vor | vxor | vnot | vshl | vshr | vsra | vclz |
    vpop | vbrev | vbcast | vshfl | fadd | fsub | fmul | ffma | fmin | fmax | fabs | fneg | fcmp | fclass | fdiv | fsqrt |
    frcp | frsq | fexp2 | flog2 | fcvt | icvt | frnd | fscl | fence | cpy | cpyp | cpym | cpys | cpyr | arvi | arv | arwt |
    artst | omap | plst | mfence | mwait | aclr | ascl | amovv | asts | alds | acvt | bar | bara | barw | tspawn | tself |
    fwrite | fwait | ftest | lock | trylock | unlock | cntwt | pin | unpin | pinx | reclaim | rcdrain | msend | rwait | rack |
    rdesc | rft | ctlrd | ctlwr | cycle | sleepc | evrd | halt | tlbinv | clone =>
    cases e
    exact congrArg assigned (fR_fields ..).1
  | safept | idem | idemx | sldi | sldih | vldi | trap | bkpt =>
    cases e
    exact congrArg assigned (fI_fields ..).1
  | br | bra | brl | jmpi | call | calli | ret | loop | endl | brk | cont | rjoin | exit | yield | unif =>
    cases e
    exact congrArg assigned (fB_fields ..).1
  | ld | st | ldk | lds | sts | sld | sst | pref | atom | atoms | satom | red =>
    cases e
    exact congrArg assigned (fM_fields ..).1
  | mma | mmaloop =>
    cases e
    exact congrArg assigned (fX_fields ..).1
  | vgrowGrant | segmentEmit | segmentFinish | conditionReport | lineFill | producerCompletion | faultDelivery |
    handlerTimeLimit | preemptionRequest | preemptionTimeout | park | unitResume | replayCompare | replayMismatch |
    regionRestart | bandKill | fatalError | walkroundStart | walkroundAbandon | walkroundComplete | writeApply | writeDeliver
    | readPerform | viewRefresh | viewEvict | accessComplete | cellarEvict | pageWalk | tlbDrop | droverStart | sectorComplete
    | matrixOpStart | matrixOpComplete | spawnStep | dispatch | taskRetire | pinSearch | shadowWithdraw | sleepExpire |
    packetInject | bucketRefill | ringAppend | wayfareRead | wayfareWrite | wayfareAtomic | wayfareFenceMarker | wayfareAck |
    wayfareReadReply | wayfareRefusal | flitCrcFailure | hostAccess | launchPacket | fencePacket | fencePacketPass |
    signalPacket | nopPacket | doorbell | qdescWrite | faultBufferWrite | fbcfgWrite | fbresolveResume | fbresolveAbort |
    tlbcmdPage | tlbcmdSpace | tlbcmdAll | dbgcmdResumeStopIa | dbgcmdResumeNext | dbgcmdKill | bootcmdReset |
    bootcmdFullStart | mcbankClear | islctlAutomatic | islctlHoldOn | islctlGate | islandGated | controlSpaceWrite |
    powerWindow | moduleReset | startupStageComplete | startupStageTimeout | peerLinkTrain | mailboxRequest | worrenStatus |
    worrenBankRead | worrenBankClear | worrenPowerCap | worrenFirmwareChunk | worrenActivate | worrenFloorMap | worrenExtend |
    worrenAttest | worrenStartReset | worrenFullStart | hostCompletion =>
    cases e

/-! ## The statement -/

/-- Settles O54: the word of a well-formed instruction has an assigned opcode, is built into that instruction, and is its word. -/
theorem encodeDecodeRoundTrip : Obligations.EncodeDecodeRoundTrip := by
  intro i w wf e
  have built := build_encode i w wf e
  simp only [decode, assigned_encode i w e, built, wf, e, ↓reduceIte, beq_self_eq_true]

end Sys2Proof.Laws.Encode
end

section
/-! SUPPORT. What the scalar instructions come to at a context: one lemma for each number of sources; and the statement about them. -/

namespace Sys2Proof.Machine

/- Proofs that are elaborated beside the tests' long kernel checks would wait for those on a thread, and a stack, each. -/
set_option Elab.async false

section Scalar

variable {s : State} {h : Hdr} {ck : Nat} {c : Ctx} {l : BitVec 3} {r : BitVec 5} {a b : Src} {imm : BitVec 27}

/-- The own scalar is written full with a value that no source gives. -/
theorem scal0_of (w : AtContext s h ck c) (ready : ScalReady s h [] [.scal l r]) (room : c.logRoom = true) (v : W64) :
    fin s h true (scalRun s h [] (.scal l r) 0 (fun _ => v)) = .next (done s h (withScal s ck r v)) :=
  congrArg (fin s h true) (scalRun_of (srcs := []) w ready room 0 (fun _ => v))

/-- A one-source scalar instruction writes what `f` gives for its source. -/
theorem scal1Act_of (w : AtContext s h ck c) (ready : ScalReady s h [(1, a)] [.scal l r]) (room : c.logRoom = true)
    (f : W64 → W64) : scal1Act s h ⟨.scal l r, a, imm⟩ f = .next (done s h (withScal s ck r (f (ctxVal s h (imm.signExtend 64) a)))) :=
  congrArg (fin s h true) (scalRun_of (srcs := [a]) w ready room (imm.signExtend 64) (fun l => f (v0 l)))

/-- A two-source scalar instruction writes what `f` gives for its sources. -/
theorem scal2Act_of (w : AtContext s h ck c) (ready : ScalReady s h [(1, a), (2, b)] [.scal l r]) (room : c.logRoom = true)
    (f : W64 → W64 → W64) : scal2Act s h ⟨.scal l r, a, b, imm⟩ f =
      .next (done s h (withScal s ck r (f (ctxVal s h (imm.signExtend 64) a) (ctxVal s h (imm.signExtend 64) b)))) :=
  congrArg (fin s h true) (scalRun_of (srcs := [a, b]) w ready room (imm.signExtend 64) (fun l => f (v0 l) (v1 l)))

/-- SLDIH writes the immediate's low word above the low word that the destination holds. -/
theorem exec_sldih_of (w : AtContext s h ck c) (ready : ScalReady s h [(1, ⟨false, .scal l r⟩)] [.scal l r]) (room : c.logRoom = true)
    (imm : BitVec 49) : exec (.sldih h (.scal l r) imm) s =
      .next (done s h (withScal s ck r ((imm.setWidth 32 : BitVec 32) ++ (ctxVal s h 0 ⟨false, .scal l r⟩).setWidth 32))) :=
  congrArg (fin s h true)
    (scalRun_of (srcs := [⟨false, .scal l r⟩]) w ready room 0 (fun l => mk64 (lo32 (v0 l)) (imm.setWidth 32)))

/-- SSEL writes its first source where the predicate is 1 and its second where it is 0. -/
theorem exec_ssel_of (w : AtContext s h ck c) (ready : ScalReady s h [(1, a), (2, b)] [.scal l r]) (room : c.logRoom = true)
    (p : BitVec 4) : exec (.ssel h ⟨.scal l r, a, b, ⟨false, .pred p⟩, imm⟩) s =
      .next (done s h (withScal s ck r (if opdVal s s.cur.u (Hdr.lv h) 1 0 0 (.pred p) = 1 then ctxVal s h (imm.signExtend 64) a
        else ctxVal s h (imm.signExtend 64) b))) :=
  congrArg (fin s h true) (scalRun_of (srcs := [a, b]) w ready room (imm.signExtend 64)
    (fun l => if opdVal s s.cur.u (Hdr.lv h) 1 0 0 (.pred p) = 1 then v0 l else v1 l))

end Scalar

/-! ## The statement -/

/-- Settles O2: each instruction by the runner for its number of sources. -/
theorem scalarResult : Obligations.ScalarResult := by
  unfold Obligations.ScalarResult
  refine ⟨?_, ?_⟩
  · rintro s h ck c ⟨d, a, b, imm⟩ l r w rfl ready room
    exact ⟨scal2Act_of w ready room _, scal2Act_of w ready room _, scal2Act_of w ready room _, scal2Act_of w ready room _,
      scal2Act_of w ready room _, scal2Act_of w ready room _, scal2Act_of w ready room _, scal2Act_of w ready room _,
      scal2Act_of w ready room _, fun t => ⟨scal2Act_of w ready room _, scal2Act_of w ready room _, scal2Act_of w ready room _,
        scal2Act_of w ready room _, scal2Act_of w ready room _⟩⟩
  · intro s h ck c l r w room
    exact ⟨fun a imm ready => ⟨scal1Act_of w ready room id, scal1Act_of w ready room (fun v => BitVec.ofNat 64 (clz v))⟩,
      fun imm ready => scal0_of w ready room _, fun imm ready => exec_sldih_of w ready room imm,
      fun dim x ready => scal0_of w ready room _, fun a b p imm ready => exec_ssel_of w ready room p⟩

end Sys2Proof.Machine
end

section
/-! SUPPORT. What SCMP, the predicate instructions and VOTE come to at a context and in the lanes of a group; and the statement about
them. -/

namespace Sys2Proof.Machine

/- Proofs that are elaborated beside the tests' long kernel checks would wait for those on a thread, and a stack, each. -/
set_option Elab.async false

section Predicates

variable {s : State} {h : Hdr} {ck gk : Nat} {c : Ctx} {g : Group} {m : Lanes} {d : Opd} {a b : Src}

/-- SCMP writes the comparison of its sources into the context's predicate (R150). -/
theorem exec_scmp_of (w : AtContext s h ck c) (ready : ScalReady s h [(1, a), (2, b)] []) (cc : Cmp) (t : Ty) (p : BitVec 4)
    (imm : BitVec 27) : exec (.scmp h cc t ⟨.pred p, a, b, imm⟩) s = .next (done s h (s.updCtx ck (fun x => x.setPred p
      (cmpV cc (tySigned t) (ctxVal s h (imm.signExtend 64) a) (ctxVal s h (imm.signExtend 64) b))))) :=
  congrArg (fin s h true) (ctxReady_of (d := none) w ready _)

/-- A predicate instruction above L0 writes what `f` gives for the context's bits. -/
theorem predAct_ctx (w : AtContext s h ck c) (above : h.lev ≠ 0) (d : BitVec 4) (f : (BitVec 4 → Bool) → Bool) :
    predAct s h d f = .next (done s h (s.updCtx ck (fun x => x.setPred d (f c.pred)))) := by
  rw [predAct, if_neg above, atCtx_of w, fin_next]

/-- A predicate instruction of LEV 0 writes what `f` gives for each active lane's bits. -/
theorem predAct_lanes (w : InLanes s h gk g m) (lev0 : h.lev = 0) (d : BitVec 4) (f : (BitVec 4 → Bool) → Bool) :
    predAct s h d f = .next (done s h (s.updGrp gk (fun x => x.setPred d m (maskOf (fun i => f (fun p => g.pred p i)))))) := by
  rw [predAct, if_pos lev0, atLanes_of w, fin_next]

/-- A predicate destination waits for nothing (R113). -/
theorem checkAll_pred (s : State) (u : UnitRef) (m : Lanes) (q : BitVec 4) : checkAll s u 0 m [] [⟨.pred q, 1, m⟩] = none := by
  have clean : checkPoison s u 0 [] = none := rfl
  have ready : checkUses s u 0 m [] [⟨.pred q, 1, m⟩] = none := by
    cases u with
    | ctx ck => rfl
    | grp gk => cases k : s.grp? gk <;> simp [checkUses, dstEmpty, Group.overOp, k]
  rw [checkAll, ready, Option.orElse_none, clean]

/-- VOTE into a predicate writes whether its value in the lane is other than 0. -/
theorem exec_vote_pred (w : InLanes s h gk g m) (v : VoteMode) (q a : BitVec 4) (t : BitVec 6) (all : Bool) :
    exec (.vote h v (.pred q) a t all) s = .next (done s h (s.updGrp gk (fun x => x.setPred q m
      (maskOf (fun i => voteVal v t all m (maskOf (fun i => m.getLsbD i && g.pred a i)) i != 0))))) := by
  show execVote h v (.pred q) a t all s = _
  simp only [execVote, atLanes_of w, checkAll_pred, fin_next]

/-- VOTE into registers writes its value in each active lane. -/
theorem exec_vote_reg (w : InLanes s h gk g m) (ready : checkAll s s.cur.u 0 m [] [⟨d, 1, m⟩] = none) (reg : ∀ q, d ≠ .pred q)
    (v : VoteMode) (a : BitVec 4) (t : BitVec 6) (all : Bool) : exec (.vote h v d a t all) s =
      .next (done s h (writeLanes s gk d 1 m
        (fun i => BitVec.ofNat 64 (voteVal v t all m (maskOf (fun i => m.getLsbD i && g.pred a i)) i)))) := by
  show execVote h v d a t all s = _
  cases d with
  | pred q => exact absurd rfl (reg q)
  | vec | near | scal | map | acc | buf | pin | spec | none | imm =>
    simp only [execVote, atLanes_of w, ready, fin_next]

theorem b2n_ne_zero (x : Bool) : (b2n x != 0) = x := by cases x <;> rfl

/-- A mask without a lane is 0. -/
theorem laneCount_eq_zero {p : Lanes} : laneCount p = 0 ↔ p = 0 := by
  rw [laneCount, List.length_eq_zero_iff, lanesOf, List.filter_eq_nil_iff]
  constructor
  · intro none_set
    exact BitVec.eq_of_getLsbD_eq fun i hi => by simpa using none_set i (List.mem_range.2 hi)
  · rintro rfl i _
    simp

end Predicates

/-! ## The statement -/

/-- Settles O4: the predicate instructions by what they come to at a context and in the lanes, VOTE by the value of its mode. -/
theorem predicateResult : Obligations.PredicateResult := by
  unfold Obligations.PredicateResult
  refine ⟨?_, ?_⟩
  · intro s h ck c w
    refine ⟨fun cc t d a b imm ready => exec_scmp_of w ready cc t d imm, fun above d a b => ?_⟩
    exact ⟨predAct_ctx w above d (fun p => p a && p b), predAct_ctx w above d (fun p => p a || p b),
      predAct_ctx w above d (fun p => p a != p b), predAct_ctx w above d (fun p => !p a), predAct_ctx w above d (fun p => p a),
      fun v => predAct_ctx w above d (fun _ => v)⟩
  · intro s h gk g m w lev0
    refine ⟨fun d a b => ?_, fun a => ?_⟩
    · exact ⟨predAct_lanes w lev0 d (fun p => p a && p b), predAct_lanes w lev0 d (fun p => p a || p b),
        predAct_lanes w lev0 d (fun p => p a != p b), predAct_lanes w lev0 d (fun p => !p a), predAct_lanes w lev0 d (fun p => p a),
        fun v => predAct_lanes w lev0 d (fun _ => v)⟩
    · refine ⟨fun d t => ?_, fun d => ?_, fun d => ?_, fun d ready reg => ?_⟩
      · rw [exec_vote_pred w]; simp only [voteVal, b2n_ne_zero, Bool.false_eq_true, ↓reduceIte]
      · rw [exec_vote_pred w]; simp only [voteVal, b2n_ne_zero, ↓reduceIte]
      · rw [exec_vote_pred w]; simp only [voteVal, b2n_ne_zero]
      · refine ⟨exec_vote_reg w ready reg .cnt a 0 false, exec_vote_reg w ready reg .rank a 0 false,
          exec_vote_reg w ready reg .map a 0 false, ?_⟩
        rw [exec_vote_reg w ready reg]
        simp only [voteVal, laneCount_eq_zero]

end Sys2Proof.Machine
end

section
/-! SUPPORT. An instruction whose guard is false, or that finds no active lane, has no effect; and the statement about it. -/

namespace Sys2Proof.Machine

/- Proofs that are elaborated beside the tests' long kernel checks would wait for those on a thread, and a stack, each. -/
set_option Elab.async false

/-! ## At a context whose guard is false (R55) -/

section AtContext

variable {s : State} {h : Hdr} {c : Ctx} (here : s.ctx? (ownKey s s.cur.u (Hdr.lv h)) = some c) (off : guardCtx c h = false)
include here off

theorem ctxReady_off (srcs : List (Nat × Src)) (d : Option Opd) (k : Nat → Ctx → Act) : ctxReady s h srcs d k = .next s :=
  atCtx_off here off _

theorem scalRun_off (srcs : List Src) (d : Opd) (imm : W64) (f : List W64 → W64) : scalRun s h srcs d imm f = .next s :=
  ctxReady_off here off _ _ _

theorem scal1Act_off (o : Op1) (f : W64 → W64) : scal1Act s h o f = .next (done s h s) :=
  congrArg (fin s h true) (scalRun_off here off _ _ _ _)

theorem scal2Act_off (o : Op2) (f : W64 → W64 → W64) : scal2Act s h o f = .next (done s h s) :=
  congrArg (fin s h true) (scalRun_off here off _ _ _ _)

theorem predAct_off (above : h.lev ≠ 0) (d : BitVec 4) (f : (BitVec 4 → Bool) → Bool) : predAct s h d f = .next (done s h s) := by
  rw [predAct, if_neg above, atCtx_off here off, fin_next]

end AtContext

/-! ## In a group without an active lane (R141) -/

section InGroup

variable {s : State} {h : Hdr} {gk : Nat} {g : Group} (unit : s.cur.u = .grp gk) (grp : s.grp? gk = some g)
  (idle : activeOf s g h = 0)
include unit grp idle

theorem laneReady_off (uses : Lanes → List Use) (d : Opd) (dn : Nat) (resid : Bool) (k : State → Nat → Group → Lanes → State) :
    laneReady s h uses d dn resid k = .next s :=
  atLanes_off unit grp idle _

theorem laneRun_off (n dn : Nat) (srcs : List Src) (d : Opd) (imm : W64) (resid : Bool) (f : List W64 → W64) :
    laneRun s h n dn srcs d imm resid f = .next s :=
  laneReady_off unit grp idle _ _ _ _ _

theorem lanePred_off (n : Nat) (srcs : List Src) (d : Opd) (imm : W64) (f : List W64 → Bool) :
    lanePred s h n srcs d imm f = .next s := by
  unfold lanePred
  exact laneReady_off unit grp idle _ _ _ _ _

theorem predAct_idle (lev0 : h.lev = 0) (d : BitVec 4) (f : (BitVec 4 → Bool) → Bool) : predAct s h d f = .next (done s h s) := by
  rw [predAct, if_pos lev0, atLanes_off unit grp idle, fin_next]

theorem lane1Act_off (t : Ty) (o : Op1) (f : (w : Nat) → BitVec w → BitVec w) : lane1Act s h t o f = .next (done s h s) :=
  congrArg (fin s h true) (laneRun_off unit grp idle _ _ _ _ _ _ _)

theorem lane2Act_off (t : Ty) (o : Op2) (resid : Bool) (f : (w : Nat) → BitVec w → BitVec w → BitVec w) :
    lane2Act s h t o resid f = .next (done s h s) :=
  congrArg (fin s h true) (laneRun_off unit grp idle _ _ _ _ _ _ _)

theorem float1Act_off (t : Ty) (o : Op1) (f : Ieee → FV → Nat) : float1Act s h t o f = .next (done s h s) :=
  congrArg (fin s h true) (laneRun_off unit grp idle _ _ _ _ _ _ _)

theorem float2Act_off (t : Ty) (o : Op2) (resid : Bool) (f : Ieee → FV → FV → Nat) :
    float2Act s h t o resid f = .next (done s h s) :=
  congrArg (fin s h true) (laneRun_off unit grp idle _ _ _ _ _ _ _)

theorem fSelAct_off (t : Ty) (o : Op2) (f : W64 → W64 → W64) : fSelAct s h t o f = .next (done s h s) :=
  congrArg (fin s h true) (laneRun_off unit grp idle _ _ _ _ _ _ _)

theorem convAct_off (src dst : Ty) (d : Opd) (a : Src) (f : FV → W64) : convAct s h src dst d a f = .next (done s h s) :=
  congrArg (fin s h true) (laneRun_off unit grp idle _ _ _ _ _ _ _)

end InGroup

/-! ## The statement -/

/-- Settles O3: each meaning is one act at its context or in the lanes, and neither act does anything here. -/
theorem falseGuardHasNoEffect : Obligations.FalseGuardHasNoEffect := by
  unfold Obligations.FalseGuardHasNoEffect
  intro s h
  refine ⟨fun c here guard above => ?_, fun gk g unit grp idle lev0 => ?_⟩
  · have act := atCtx_off here guard
    have run : ∀ f, fin s h true (atCtx s h f) = .next (done s h s) := fun f => congrArg (fin s h true) (act f)
    have scal := scalRun_off here guard
    have pred := predAct_off here guard above
    exact ⟨fun o => ⟨scal2Act_off here guard o _, scal2Act_off here guard o _, scal2Act_off here guard o _,
        scal2Act_off here guard o _, scal2Act_off here guard o _, scal2Act_off here guard o _, scal2Act_off here guard o _,
        scal2Act_off here guard o _, scal2Act_off here guard o _, fun t => ⟨scal2Act_off here guard o _,
          scal2Act_off here guard o _, scal2Act_off here guard o _, scal2Act_off here guard o _, scal2Act_off here guard o _,
          fun cc => congrArg (fin s h true) (ctxReady_off here guard _ _ _)⟩⟩,
      fun o => ⟨scal1Act_off here guard o id, scal1Act_off here guard o (fun v => BitVec.ofNat 64 (clz v))⟩,
      fun d imm => ⟨congrArg (fin s h true) (scal _ _ _ _), congrArg (fin s h true) (scal _ _ _ _)⟩,
      fun dim d x => congrArg (fin s h true) (scal _ _ _ _), fun o => congrArg (fin s h true) (scal _ _ _ _),
      fun d a b => ⟨pred d (fun p => p a && p b), pred d (fun p => p a || p b), pred d (fun p => p a != p b), pred d (fun p => !p a),
        pred d (fun p => p a)⟩, fun d v => pred d (fun _ => v),
      fun cc a t => ⟨run _, run _, run _, run _⟩,
      fun a t => ⟨run _, run _, run _, run _, run _, run _, run _, run _⟩,
      fun m => ⟨run _, run _, fun op => run _⟩⟩
  · have act := atLanes_off unit grp idle
    have run : ∀ f, fin s h true (atLanes s h f) = .next (done s h s) := fun f => congrArg (fin s h true) (act f)
    have ready : ∀ us d n r k, fin s h true (laneReady s h us d n r k) = .next (done s h s) := fun us d n r k => run _
    have pred := predAct_idle unit grp idle lev0
    have one := lane1Act_off unit grp idle
    have two := lane2Act_off unit grp idle
    have float1 := float1Act_off unit grp idle
    have float2 := float2Act_off unit grp idle
    have pick := fSelAct_off unit grp idle
    have conv := convAct_off unit grp idle
    have lanes : ∀ n k srcs d imm r f, fin s h true (laneRun s h n k srcs d imm r f) = .next (done s h s) :=
      fun n k srcs d imm r f => congrArg (fin s h true) (laneRun_off unit grp idle n k srcs d imm r f)
    have bits : ∀ n srcs d imm f, fin s h true (lanePred s h n srcs d imm f) = .next (done s h s) :=
      fun n srcs d imm f => congrArg (fin s h true) (lanePred_off unit grp idle n srcs d imm f)
    exact ⟨fun d a b => ⟨pred d (fun p => p a && p b), pred d (fun p => p a || p b), pred d (fun p => p a != p b), pred d (fun p => !p a),
        pred d (fun p => p a)⟩, fun d v => pred d (fun _ => v), fun m d a t all => run _,
      fun t o => ⟨two t o true (fun _ a b => a * b), two t o true (fun _ a b => mulh (tySigned t) a b),
        two t o false (fun _ a b => minV (tySigned t) a b), two t o false (fun _ a b => maxV (tySigned t) a b),
        two t o false (fun _ a b => a &&& b), two t o false (fun _ a b => a ||| b), two t o false (fun _ a b => a ^^^ b),
        two t o false (fun _ a b => shl a b), two t o false (fun _ a b => shr a b), two t o false (fun _ a b => sra a b),
        run _, fun m => run _,
        fun cc => ⟨bits _ _ _ _ _, bits _ _ _ _ _⟩,
        fun sat => ⟨two t o true (fun w a b => narrow sat (tySigned t) w (intOf (tySigned t) a + intOf (tySigned t) b)),
          two t o true (fun w a b => narrow sat (tySigned t) w (intOf (tySigned t) a - intOf (tySigned t) b))⟩,
        float2 t o true (fun f a b => f.round (FV.add a b)), float2 t o true (fun f a b => f.round (FV.add a (FV.neg b))),
        float2 t o true (fun f a b => f.round (FV.mul a b)), pick t o (fun a b => fPick t (!fBelow t b a) a b),
        pick t o (fun a b => fPick t (!fBelow t a b) a b), float2 t o false divF, ready _ _ _ _ _⟩,
      fun t o => ⟨one t o (fun _ a => a), one t o (fun _ a => ~~~a), one t o (fun w a => BitVec.ofNat w (clz a)),
        one t o (fun w a => BitVec.ofNat w (popCount a)), one t o (fun _ a => brev a),
        fun sat => one t o (fun w a => narrow sat true w (Int.natAbs a.toInt)),
        fun op => ⟨ready _ _ _ _ _, fun x => ready _ _ _ _ _⟩, lanes _ _ _ _ _ _ _,
        lanes _ _ _ _ _ _ _, lanes _ _ _ _ _ _ _, float1 t o sqrtF, float1 t o (fun f a => divF f (.fin false 1 0) a),
        float1 t o rsqF, float1 t o exp2F, float1 t o log2F⟩,
      fun t d imm => lanes _ _ _ _ _ _ _, fun t o => ⟨lanes _ _ _ _ _ _ _, lanes _ _ _ _ _ _ _, fun sat => lanes _ _ _ _ _ _ _⟩,
      fun t u d a => ⟨conv t u d a (fun v => regOf u (encTy u v)), conv t t d a (fun v => fbits ((ieeeOf t).round v.toInteger)),
        fun w => conv t u d a (fun v => regOf u (encInt u w v).toNat)⟩,
      fun m => ⟨run _, run _, run _, run _, run _, fun op => ⟨run _, run _, run _⟩⟩⟩

end Sys2Proof.Machine
end

section
/-! SUPPORT. What the lane-wise integer instructions come to in the lanes of a group: one lemma for each shape; and the statement
about them. -/

namespace Sys2Proof.Machine

/- Proofs that are elaborated beside the tests' long kernel checks would wait for those on a thread, and a stack, each. -/
set_option Elab.async false

section VectorInteger

variable {s u : State} {h : Hdr} {gk : Nat} {g : Group} {m : Lanes} {t : Ty} {d : Opd} {a b c : Src} {imm : BitVec 27}
  {resid : Bool}

/-- A one-source integer instruction writes what `f` gives for the source, at the width of its type. -/
theorem lane1Act_of (w : InLanes s h gk g m) (r : LaneReady s gk g m (usesOf m (tyRegs t) [(1, a)]) d (tyRegs t) false u)
    (f : (w : Nat) → BitVec w → BitVec w) : lane1Act s h t ⟨d, a, imm⟩ f =
      .next (done s h (logged s gk g m (writeLanes u gk d (tyRegs t) m
        (fun i => (f (tyW t) ((laneVal u (tyRegs t) i (immVal t imm) a).setWidth (tyW t))).setWidth 64)))) :=
  congrArg (fin s h true) (laneRun_of (srcs := [a]) w r (immVal t imm) (fun l => un t f (v0 l)))

/-- A two-source integer instruction writes what `f` gives for the sources, at the width of its type. -/
theorem lane2Act_of (w : InLanes s h gk g m)
    (r : LaneReady s gk g m (usesOf m (tyRegs t) [(1, a), (2, b)]) d (tyRegs t) resid u)
    (f : (w : Nat) → BitVec w → BitVec w → BitVec w) : lane2Act s h t ⟨d, a, b, imm⟩ resid f =
      .next (done s h (logged s gk g m (writeLanes u gk d (tyRegs t) m
        (fun i => (f (tyW t) ((laneVal u (tyRegs t) i (immVal t imm) a).setWidth (tyW t))
          ((laneVal u (tyRegs t) i (immVal t imm) b).setWidth (tyW t))).setWidth 64)))) :=
  congrArg (fin s h true) (laneRun_of (srcs := [a, b]) w r (immVal t imm) (fun l => bin t f (v0 l) (v1 l)))

/-- VLDI writes its immediate. -/
theorem exec_vldi_of (w : InLanes s h gk g m) (r : LaneReady s gk g m [] d (tyRegs t) false u) (imm : BitVec 49) :
    exec (.vldi h t d imm) s =
      .next (done s h (logged s gk g m (writeLanes u gk d (tyRegs t) m (fun _ => immVal49 t imm)))) :=
  congrArg (fin s h true) (laneRun_of (srcs := []) w r 0 (fun _ => immVal49 t imm))

/-- VSEL writes its first source where the third is 1 and the second elsewhere. -/
theorem exec_vsel_of (w : InLanes s h gk g m)
    (r : LaneReady s gk g m (usesOf m (tyRegs t) [(1, a), (2, b), (3, c)]) d (tyRegs t) false u) :
    exec (.vsel h t ⟨d, a, b, c, imm⟩) s = .next (done s h (logged s gk g m (writeLanes u gk d (tyRegs t) m
      (fun i => if laneVal u (tyRegs t) i (immVal t imm) c = 1 then laneVal u (tyRegs t) i (immVal t imm) a
        else laneVal u (tyRegs t) i (immVal t imm) b)))) :=
  congrArg (fin s h true) (laneRun_of (srcs := [a, b, c]) w r (immVal t imm) (fun l => if v2 l = 1 then v0 l else v1 l))

/-- VMAD forms its product and sum exactly and narrows once. -/
theorem exec_vmad_of (w : InLanes s h gk g m)
    (r : LaneReady s gk g m (usesOf m (tyRegs t) [(1, a), (2, b), (3, c)]) d (tyRegs t) true u) (sat : Bool) :
    exec (.vmad h t sat ⟨d, a, b, c, imm⟩) s = .next (done s h (logged s gk g m (writeLanes u gk d (tyRegs t) m
      (fun i => (narrow sat (tySigned t) (tyW t)
        (intOf (tySigned t) ((laneVal u (tyRegs t) i (immVal t imm) a).setWidth (tyW t)) *
          intOf (tySigned t) ((laneVal u (tyRegs t) i (immVal t imm) b).setWidth (tyW t)) +
          intOf (tySigned t) ((laneVal u (tyRegs t) i (immVal t imm) c).setWidth (tyW t)))).setWidth 64)))) :=
  congrArg (fin s h true) (laneRun_of (srcs := [a, b, c]) w r (immVal t imm) (fun l =>
    (narrow sat (tySigned t) (tyW t) (intOf (tySigned t) ((v0 l).setWidth (tyW t)) * intOf (tySigned t) ((v1 l).setWidth (tyW t)) +
      intOf (tySigned t) ((v2 l).setWidth (tyW t)))).setWidth 64))

/-- VCMP writes the comparison of its sources, at the width of its type. -/
theorem exec_vcmp_of {p : BitVec 4} (w : InLanes s h gk g m)
    (r : LaneReady s gk g m (usesOf m (tyRegs t) [(1, a), (2, b)]) (.pred p) 1 false u) (cc : Cmp) :
    exec (.vcmp h cc t ⟨.pred p, a, b, imm⟩) s = .next (done s h (logged s gk g m (u.updGrp gk (fun g => g.setPred p m
      (maskOf (fun i => cmpV cc (tySigned t) ((laneVal u (tyRegs t) i (immVal t imm) a).setWidth (tyW t))
        ((laneVal u (tyRegs t) i (immVal t imm) b).setWidth (tyW t)))))))) :=
  congrArg (fin s h true) (lanePred_of (srcs := [a, b]) w r (immVal t imm)
    (fun l => cmpV cc (tySigned t) ((v0 l).setWidth (tyW t)) ((v1 l).setWidth (tyW t))))

end VectorInteger

/-! ## The statement -/

/-- Settles O5: each instruction by the runner of its shape. -/
theorem vectorIntegerResult : Obligations.VectorIntegerResult := by
  unfold Obligations.VectorIntegerResult
  intro s h gk g m t d a b imm u w
  refine ⟨fun r => ⟨fun sat => ⟨lane2Act_of w r _, lane2Act_of w r _⟩, lane2Act_of w r (fun _ x y => x * y),
      lane2Act_of w r (fun _ x y => mulh (tySigned t) x y)⟩,
    fun r => ⟨lane2Act_of w r (fun _ x y => minV (tySigned t) x y), lane2Act_of w r (fun _ x y => maxV (tySigned t) x y),
      lane2Act_of w r (fun _ x y => x &&& y), lane2Act_of w r (fun _ x y => x ||| y), lane2Act_of w r (fun _ x y => x ^^^ y),
      lane2Act_of w r (fun _ x y => shl x y), lane2Act_of w r (fun _ x y => shr x y), lane2Act_of w r (fun _ x y => sra x y)⟩,
    fun r => ⟨lane1Act_of w r (fun _ x => x), lane1Act_of w r (fun _ x => ~~~x), lane1Act_of w r (fun w x => BitVec.ofNat w (clz x)),
      lane1Act_of w r (fun w x => BitVec.ofNat w (popCount x)), lane1Act_of w r (fun _ x => brev x), fun sat => ?_⟩,
    fun r imm49 => exec_vldi_of w r imm49, fun p r => exec_vsel_of w r, fun c sat r => exec_vmad_of w r sat,
    fun cc p r => exec_vcmp_of w r cc⟩
  simp only [← Int.natCast_natAbs]
  exact lane1Act_of w r (fun w x => narrow sat true w (Int.natAbs x.toInt))

end Sys2Proof.Machine
end

section
/-! SUPPORT. What a scan over the active lanes gives each lane: the combination of the lanes before it, without and with its own;
and the statement about VRED and VSCAN. -/

namespace Sys2Proof.Machine

/- Proofs that are elaborated beside the tests' long kernel checks would wait for those on a thread, and a stack, each. -/
set_option Elab.async false

section Scan

variable {w : Nat} (op : RedOp) (sgn : Bool) (a : Nat → BitVec w)

/-- The running combination of the values of the lanes in a list. -/
def combineAll (acc : BitVec w) (l : List Nat) : BitVec w := l.foldl (fun x i => combine op sgn x (a i)) acc

/-- A scan's entry for a lane of a rising list: the combination of the lanes below it, and that with its own value. -/
theorem scanL_find {l : List Nat} (rising : l.Pairwise (· < ·)) {i : Nat} (mem : i ∈ l) (acc : BitVec w) :
    (scanL op sgn a acc l).find? (fun p => p.1 == i) = some (i, combineAll op sgn a acc (l.filter (fun j => decide (j < i))),
      combineAll op sgn a acc (l.filter (fun j => decide (j ≤ i)))) := by
  induction l generalizing acc with
  | nil => simp at mem
  | cons k l ih =>
    obtain ⟨above, rising⟩ := List.pairwise_cons.mp rising
    by_cases here : k = i
    · subst here
      have lt : l.filter (fun j => decide (j < k)) = [] := by
        simp only [List.filter_eq_nil_iff, decide_eq_true_eq]; intro j hj; have := above j hj; omega
      have le : l.filter (fun j => decide (j ≤ k)) = [] := by
        simp only [List.filter_eq_nil_iff, decide_eq_true_eq]; intro j hj; have := above j hj; omega
      simp [scanL, lt, le, combineAll]
    · have later : i ∈ l := (List.mem_cons.mp mem).resolve_left (Ne.symm here)
      have lower : k < i := above i later
      simp [scanL, here, ih rising later, lower, lower.le, combineAll]

/-- The last entry of a scan holds the combination of all its lanes. -/
theorem scanL_last {l : List Nat} (some_ : l ≠ []) (acc : BitVec w) :
    ∃ i x, (scanL op sgn a acc l).getLast? = some (i, x, combineAll op sgn a acc l) := by
  induction l generalizing acc with
  | nil => exact absurd rfl some_
  | cons k l ih =>
    cases l with
    | nil => exact ⟨_, _, rfl⟩
    | cons k' l =>
      obtain ⟨i, x, last⟩ := ih (by simp) (combine op sgn acc (a k))
      exact ⟨i, x, by rw [scanL, scanL, List.getLast?_cons_cons, ← scanL, last]; rfl⟩

end Scan

/-- The lanes of a mask are listed in rising order. -/
theorem lanesOf_rising (m : Lanes) : (lanesOf m).Pairwise (· < ·) := List.pairwise_lt_range.filter _

/-! ## The statement -/

/-- Settles O6: the entry of each active lane in the scan over all of them. -/
theorem reductionResult : Obligations.ReductionResult := by
  unfold Obligations.ReductionResult
  intro s h gk g m t d a imm u op w r
  have run : ∀ red excl, scanAct s h op t ⟨d, a, imm⟩ red excl = .next (done s h (logged s gk g m (writeLanes u gk d (tyRegs t) m
      (scanVal op t red excl m (fun j => laneVal u (tyRegs t) j (immVal t imm) a))))) := fun red excl =>
    congrArg (fin s h true) (laneReady_of w r _)
  refine ⟨⟨_, run true false, fun i lane => ?_⟩, ⟨_, run false false, fun i lane => ?_⟩, ⟨_, run false true, fun i lane => ?_⟩⟩
  · obtain ⟨k, x, last⟩ := scanL_last op (tySigned t) (fun j => (laneVal u (tyRegs t) j (immVal t imm) a).setWidth (tyW t))
      (List.ne_nil_of_mem lane) (identity op (tySigned t) (tyW t))
    simp [scanVal, last, combineAll]
  · simp [scanVal, scanL_find op (tySigned t) _ (lanesOf_rising m) lane, combineAll]
  · simp [scanVal, scanL_find op (tySigned t) _ (lanesOf_rising m) lane, combineAll]

end Sys2Proof.Machine
end

section
/-! SUPPORT. The operand checks of R112, R113, R137 and R195 in their order; and the statement about them. -/

namespace Sys2Proof.Machine

/- Proofs that are elaborated beside the tests' long kernel checks would wait for those on a thread, and a stack, each. -/
set_option Elab.async false

/-- Whether an operand names a register at or above the group's count (R137). -/
def overRange (s : State) (u : UnitRef) (uses : List Use) (dst : List DUse) : Bool :=
  match u with
  | .grp gk => match s.grp? gk with
    | some g => uses.any (fun x => g.overOp x.o.o x.n) || dst.any (fun d => g.overOp d.o d.n)
    | none => false
  | .ctx _ => false

theorem overRange_grp {s : State} {gk : Nat} {g : Group} (grp : s.grp? gk = some g) (uses : List Use) (dst : List DUse) :
    overRange s (.grp gk) uses dst = (uses.any (fun x => g.overOp x.o.o x.n) || dst.any (fun d => g.overOp d.o d.n)) := by
  simp only [overRange, grp]

theorem overRange_append {s : State} {u : UnitRef} {l l' : List Use} {dst : List DUse} (left : overRange s u l dst = false)
    (right : overRange s u l' dst = false) : overRange s u (l ++ l') dst = false := by
  cases u with
  | ctx ck => rfl
  | grp gk =>
    cases k : s.grp? gk with
    | none => simp only [overRange, k]
    | some g =>
      rw [overRange_grp k, Bool.or_eq_false_iff] at *
      exact ⟨by rw [List.any_append, left.1, right.1]; rfl, left.2⟩

/-- The checks of R112, R113 and R137 in their order. -/
theorem checkUses_eq (s : State) (u : UnitRef) (lev : Nat) (act : Lanes) (uses : List Use) (dst : List DUse) :
    checkUses s u lev act uses dst =
      if overRange s u uses dst then some (.fault s { FaultReq.mk0 0x0F lev with lanes := if lev = 0 then act else 0 })
      else match uses.find? (fun x => x.o.feb && useEmpty s u lev x != 0) with
        | some x => some (.fault s { FaultReq.mk0 0x10 lev with
            lanes := (match x.o.o with | .scal _ _ => 0 | _ => if lev = 0 then useEmpty s u lev x else 0), opf := x.fld })
        | none => if uses.any (fun x => useEmpty s u lev x != 0 || useStalls s u lev x) || dst.any (dstEmpty s u lev) then
            some .wait else none := by
  cases u <;> rfl

/-- They pass exactly where no register is out of range, no source is empty or awaited and no destination is empty. -/
theorem checkUses_eq_none {s : State} {u : UnitRef} {lev : Nat} {act : Lanes} {uses : List Use} {dst : List DUse} :
    checkUses s u lev act uses dst = none ↔ overRange s u uses dst = false ∧
      (∀ x ∈ uses, useEmpty s u lev x = 0 ∧ useStalls s u lev x = false) ∧ ∀ d ∈ dst, dstEmpty s u lev d = false := by
  rw [checkUses_eq]
  cases overRange s u uses dst with
  | true => simp
  | false =>
    cases k : uses.find? (fun x => x.o.feb && useEmpty s u lev x != 0) with
    | some x =>
      have found := List.find?_some k
      simp only [Bool.and_eq_true, bne_iff_ne] at found
      simp only [Bool.false_eq_true, ↓reduceIte, reduceCtorEq, true_and, false_iff, not_and]
      exact fun full => absurd (full x (List.mem_of_find?_eq_some k)).1 found.2
    | none => simp

/-- Uses that pass the checks each on its own pass them together. -/
theorem checkUses_append {s : State} {u : UnitRef} {lev : Nat} {act : Lanes} {l l' : List Use} {dst : List DUse}
    (left : checkUses s u lev act l dst = none) (right : checkUses s u lev act l' dst = none) :
    checkUses s u lev act (l ++ l') dst = none := by
  rw [checkUses_eq_none] at *
  obtain ⟨range, full, ready⟩ := left
  obtain ⟨range', full', -⟩ := right
  exact ⟨overRange_append range range', fun x mem => (List.mem_append.mp mem).elim (full x) (full' x), ready⟩

/-- All checks pass exactly where the operand checks pass and no poison is met. -/
theorem checkAll_eq_none {s : State} {u : UnitRef} {lev : Nat} {act : Lanes} {uses : List Use} {dst : List DUse} :
    checkAll s u lev act uses dst = none ↔ checkUses s u lev act uses dst = none ∧ poisonLanes s u lev uses = 0 := by
  rw [checkAll, checkPoison]
  cases checkUses s u lev act uses dst <;> simp

/-- What the operand checks raise, all checks raise. -/
theorem checkAll_of_checkUses {s : State} {u : UnitRef} {lev : Nat} {act : Lanes} {uses : List Use} {dst : List DUse} {a : Act}
    (raised : checkUses s u lev act uses dst = some a) : checkAll s u lev act uses dst = some a := by
  rw [checkAll, raised]; rfl

/-- Lanes gathered by a fold are none only where each use gives none. -/
theorem foldl_or_eq_zero {α : Type} {f : α → Lanes} {l : List α} {acc : Lanes} :
    l.foldl (fun m x => m ||| f x) acc = 0 ↔ acc = 0 ∧ ∀ x ∈ l, f x = 0 := by
  induction l generalizing acc with
  | nil => simp
  | cons x l ih =>
    rw [List.foldl_cons, ih, List.forall_mem_cons, ← and_assoc]
    exact and_congr_left' BitVec.or_eq_zero_iff

theorem poisonLanes_eq_zero {s : State} {u : UnitRef} {lev : Nat} {uses : List Use} :
    poisonLanes s u lev uses = 0 ↔ ∀ x ∈ uses, x.poi = true → usePoison s u lev x = 0 := by
  rw [poisonLanes, foldl_or_eq_zero]
  simp only [true_and, List.mem_filter, and_imp]

/-! ## The statement -/

/-- Settles O52: each clause is one branch of the checks. -/
theorem operandChecks : Obligations.OperandChecks := by
  unfold Obligations.OperandChecks
  intro s gk g lev m uses dst grp u outside traps
  have range : overRange s u uses dst = true ↔ outside := by
    simp only [u, outside, overRange_grp grp, Bool.or_eq_true, List.any_eq_true]
  have passes : ∀ l : List Use, (∀ y ∈ l, y.o.feb = false ∨ useEmpty s u lev y = 0) →
      l.find? (fun x => x.o.feb && useEmpty s u lev x != 0) = none := fun l clean => List.find?_eq_none.mpr fun y mem raised => by
    rw [Bool.and_eq_true, bne_iff_ne] at raised
    exact (clean y mem).elim (fun feb => by rw [feb] at raised; exact absurd raised.1 Bool.false_ne_true) (raised.2 ·)
  have inRange : ¬outside → overRange s u uses dst = false := fun k => by simpa using mt range.mp k
  refine ⟨fun k => ?_, fun k pre x post list clean feb empty => ?_, fun k clean waits => ?_, fun pass poi => ?_, fun pass => ?_⟩
  · exact checkAll_of_checkUses (by rw [checkUses_eq, if_pos (range.mpr k)])
  · have first : uses.find? (fun x => x.o.feb && useEmpty s u lev x != 0) = some x := by
      rw [list, List.find?_append, passes pre clean, Option.none_or, List.find?_cons_of_pos (by rw [feb, bne_iff_ne.mpr empty]; rfl)]
    have raised := checkUses_eq s u lev m uses dst
    rw [inRange k, first] at raised
    refine ⟨fun r vec lev0 => ?_, fun l r scal => ?_⟩
    · exact checkAll_of_checkUses (by rw [raised]; simp [vec, lev0])
    · exact checkAll_of_checkUses (by rw [raised]; simp [scal])
  · refine checkAll_of_checkUses ?_
    have ends : (uses.any (fun x => useEmpty s u lev x != 0 || useStalls s u lev x) || dst.any (dstEmpty s u lev)) = true := by
      simpa only [Bool.or_eq_true, List.any_eq_true, bne_iff_ne] using waits
    rw [checkUses_eq, inRange k, passes uses clean, ends]
    rfl
  · simp only [traps, checkAll, pass, Option.orElse_none, checkPoison, if_neg poi]
  · obtain ⟨ready, clean⟩ := checkAll_eq_none.mp pass
    obtain ⟨ok, full, dsts⟩ := checkUses_eq_none.mp ready
    exact ⟨fun k => by simp [range.mpr k] at ok,
      fun x mem => ⟨(full x mem).1, (full x mem).2, poisonLanes_eq_zero.mp clean x mem⟩, dsts⟩

end Sys2Proof.Machine
end

section
/-! SUPPORT. What VBCAST and VSHFL come to; the source lanes of VSHFL; and the statement about them. -/

namespace Sys2Proof.Machine

/- Proofs that are elaborated beside the tests' long kernel checks would wait for those on a thread, and a stack, each. -/
set_option Elab.async false

/-! ## Reading other lanes -/

/-- The order of the uses does not matter to the poison check. -/
theorem poisonLanes_swap (s : State) (u : UnitRef) (lev : Nat) (x y : Use) :
    poisonLanes s u lev [x, y] = poisonLanes s u lev [y, x] := by
  cases kx : x.poi <;> cases ky : y.poi <;> simp [poisonLanes, kx, ky, BitVec.or_comm]

/-- A shuffle gives each active lane A of its source lane (R151), where the sources of the active lanes and of the lanes they read are
full and without poison. -/
theorem shuffle_of {s u : State} {h : Hdr} {gk : Nat} {g : Group} {m : Lanes} (w : InLanes s h gk g m) (t : Ty) (d : Opd) (a b : Src)
    (immA immB : W64) (bn : Nat) (sel : Nat → W64 → Nat) {src : Nat → Nat} {read : Lanes}
    (source : src = fun i => srcLane g i (sel i (opdVal s (.grp gk) 0 bn i immB b.o)))
    (reads : read = maskOf (fun i => (lanesOf m).any (fun j => src j == i)))
    (readyB : checkUses s (.grp gk) 0 m [⟨2, b, spanOf bn b.o, m, true⟩] [⟨d, tyRegs t, m⟩] = none)
    (readyA : checkUses s (.grp gk) 0 m [⟨1, a, spanOf (tyRegs t) a.o, shflLanes a.o m read, true⟩] [⟨d, tyRegs t, m⟩] = none)
    (clean : poisonLanes s (.grp gk) 0 [⟨2, b, spanOf bn b.o, m, true⟩,
      ⟨1, a, spanOf (tyRegs t) a.o, shflLanes a.o m read, true⟩] = 0)
    (commit : gate s gk g m false = .next u) :
    shuffle s h t d a b immA immB bn sel = .next (done s h (logged s gk g m
      (writeLanes u gk d (tyRegs t) m (fun i => opdVal u (.grp gk) 0 (tyRegs t) (src i) immA a.o)))) := by
  have full := (checkUses_eq_none.mp readyB).2.1 _ (List.mem_singleton_self _)
  have known : (useEmpty s (.grp gk) 0 ⟨2, b, spanOf bn b.o, m, true⟩ == 0 &&
      !useStalls s (.grp gk) 0 ⟨2, b, spanOf bn b.o, m, true⟩) = true := by simp [full]
  have ready := checkUses_append readyA readyB
  subst source reads
  simp only [shuffle, atLanes_of w, w.unit, known, ↓reduceIte, checkAll]
  rw [List.singleton_append] at ready
  rw [ready, checkPoison, poisonLanes_swap, clean]
  simp only [Option.orElse_none, ↓reduceIte]
  rw [checked_of commit, fin_next]

/-! ## The source lanes of VSHFL (R152) -/

theorem shflSel_segment {z i b : Nat} (hz : z ≤ 5) (md : ShflMode) : shflSel md z i b / 2 ^ z = i / 2 ^ z := by
  interval_cases z <;> cases md <;> simp [shflSel] <;> omega

theorem shflSel_pick (z i b : Nat) : shflSel .pick z i b = i / 2 ^ z * 2 ^ z + b % 2 ^ z := by
  have := Nat.div_add_mod' i (2 ^ z)
  simp only [shflSel]; omega

theorem shflSel_rot (z i b : Nat) : shflSel .rot z i b = i / 2 ^ z * 2 ^ z + (i - i / 2 ^ z * 2 ^ z + b) % 2 ^ z := by
  have := Nat.div_add_mod' i (2 ^ z)
  have base : i - i % 2 ^ z = i / 2 ^ z * 2 ^ z := by omega
  have rest : i - i / 2 ^ z * 2 ^ z = i % 2 ^ z := by omega
  simp only [shflSel, base, rest]

theorem shflSel_mirror (z i b : Nat) :
    shflSel .mirror z i b = i / 2 ^ z * 2 ^ z + (2 ^ z - 1 - (i - i / 2 ^ z * 2 ^ z)) := by
  have := Nat.div_add_mod' i (2 ^ z)
  have base : i - i % 2 ^ z = i / 2 ^ z * 2 ^ z := by omega
  have rest : i - i / 2 ^ z * 2 ^ z = i % 2 ^ z := by omega
  simp only [shflSel, base, rest]

/-- DEAL and UNDEAL undo each other: they do not read B, so the lanes of a group are all there is to look at. -/
theorem shflSel_deal_undeal : ∀ z ≤ 5, ∀ i < 32, shflSel .deal z (shflSel .undeal z i 0) 0 = i ∧
    shflSel .undeal z (shflSel .deal z i 0) 0 = i := by decide

/-! ## The statement -/

/-- Settles O7: the runs by `shuffle_of`, the source lanes by the equations above. -/
theorem shuffleResult : Obligations.ShuffleResult := by
  unfold Obligations.ShuffleResult
  refine ⟨fun s h gk g m t d a b imm u w => ⟨?_, fun md => ?_⟩, fun z i b hz hi => ?_⟩
  · rintro _ ⟨readyB, readyA, clean, commit⟩
    exact shuffle_of w t d a b (immVal t imm) (imm.signExtend 64) 1 (fun _ k => k.toNat % 32) rfl rfl readyB readyA clean commit
  · rintro _ _ _ ⟨readyB, readyA, clean, commit⟩
    exact shuffle_of w t d a b 0 ((imm.extractLsb' 0 24 : BitVec 24).signExtend 64) (tyRegs t)
      (fun i k => shflSel md (imm.extractLsb' 24 3).toNat i (k.toNat % 2 ^ tyW t)) rfl rfl readyB readyA clean commit
  · refine ⟨shflSel_segment hz, shflSel_pick z i b, shflSel_rot z i b, shflSel_mirror z i b, ?_,
      shflSel_deal_undeal z hz i hi⟩
    rintro rfl
    exact ⟨rfl, rfl⟩

end Sys2Proof.Machine
end

section
/-! SUPPORT. What the float instructions come to in the lanes of a group: one lemma for each shape; and the statement about them. -/

namespace Sys2Proof.Machine

/- Proofs that are elaborated beside the tests' long kernel checks would wait for those on a thread, and a stack, each. -/
set_option Elab.async false

section VectorFloat

variable {s u : State} {h : Hdr} {gk : Nat} {g : Group} {m : Lanes} {t : Ty} {d : Opd} {a b c : Src} {imm : BitVec 27}
  {resid : Bool}

/-- A one-source float instruction writes the pattern that `f` gives for its source. -/
theorem float1Act_of (w : InLanes s h gk g m) (r : LaneReady s gk g m (usesOf m (tyRegs t) [(1, a)]) d (tyRegs t) false u)
    (f : Ieee → FV → Nat) : float1Act s h t ⟨d, a, imm⟩ f =
      .next (done s h (logged s gk g m (writeLanes u gk d (tyRegs t) m
        (fun i => BitVec.ofNat 64 (f (ieeeOf t) (fdec t (laneVal u (tyRegs t) i (immVal t imm) a))))))) :=
  congrArg (fin s h true) (laneRun_of (srcs := [a]) w r (immVal t imm) (fun l => fbits (f (ieeeOf t) (fdec t (v0 l)))))

/-- A two-source float instruction writes the pattern that `f` gives for its sources. -/
theorem float2Act_of (w : InLanes s h gk g m)
    (r : LaneReady s gk g m (usesOf m (tyRegs t) [(1, a), (2, b)]) d (tyRegs t) resid u) (f : Ieee → FV → FV → Nat) :
    float2Act s h t ⟨d, a, b, imm⟩ resid f =
      .next (done s h (logged s gk g m (writeLanes u gk d (tyRegs t) m
        (fun i => BitVec.ofNat 64 (f (ieeeOf t) (fdec t (laneVal u (tyRegs t) i (immVal t imm) a))
          (fdec t (laneVal u (tyRegs t) i (immVal t imm) b))))))) :=
  congrArg (fin s h true) (laneRun_of (srcs := [a, b]) w r (immVal t imm)
    (fun l => fbits (f (ieeeOf t) (fdec t (v0 l)) (fdec t (v1 l)))))

/-- FFMA rounds its product and sum once. -/
theorem exec_ffma_of (w : InLanes s h gk g m)
    (r : LaneReady s gk g m (usesOf m (tyRegs t) [(1, a), (2, b), (3, c)]) d (tyRegs t) true u) :
    exec (.ffma h t ⟨d, a, b, c, imm⟩) s = .next (done s h (logged s gk g m (writeLanes u gk d (tyRegs t) m
      (fun i => BitVec.ofNat 64 ((ieeeOf t).round (FV.add (FV.mul (fdec t (laneVal u (tyRegs t) i (immVal t imm) a))
        (fdec t (laneVal u (tyRegs t) i (immVal t imm) b))) (fdec t (laneVal u (tyRegs t) i (immVal t imm) c)))))))) :=
  congrArg (fin s h true) (laneRun_of (srcs := [a, b, c]) w r (immVal t imm)
    (fun l => fbits ((ieeeOf t).round (FV.add (FV.mul (fdec t (v0 l)) (fdec t (v1 l))) (fdec t (v2 l))))))

/-- FSCL multiplies by a scale and rounds once. -/
theorem exec_fscl_of (w : InLanes s h gk g m)
    (r : LaneReady s gk g m (usesOf m (tyRegs t) [(1, a)] ++ usesOf m 1 [(2, b)]) d (tyRegs t) true u) :
    exec (.fscl h t ⟨d, a, b, imm⟩) s = .next (done s h (logged s gk g m (writeLanes u gk d (tyRegs t) m
      (fun i => BitVec.ofNat 64 ((ieeeOf t).round (FV.mul (fdec t (laneVal u (tyRegs t) i 0 a))
        (scDec ((laneVal u 1 i (imm.setWidth 64) b).toNat % 2 ^ 16)))))))) :=
  congrArg (fin s h true) (laneReady_of (uses := fun m => usesOf m (tyRegs t) [(1, a)] ++ usesOf m 1 [(2, b)]) w r
    (fun s gk _ m => writeLanes s gk d (tyRegs t) m (fun i => fbits ((ieeeOf t).round
      (FV.mul (fdec t (laneVal s (tyRegs t) i 0 a)) (scDec ((laneVal s 1 i (imm.setWidth 64) b).toNat % 2 ^ 16)))))))

/-- A selection writes the pattern that `f` chooses. -/
theorem fSelAct_of (w : InLanes s h gk g m)
    (r : LaneReady s gk g m (usesOf m (tyRegs t) [(1, a), (2, b)]) d (tyRegs t) false u) (f : W64 → W64 → W64) :
    fSelAct s h t ⟨d, a, b, imm⟩ f = .next (done s h (logged s gk g m (writeLanes u gk d (tyRegs t) m
      (fun i => f (laneVal u (tyRegs t) i (immVal t imm) a) (laneVal u (tyRegs t) i (immVal t imm) b))))) :=
  congrArg (fin s h true) (laneRun_of (srcs := [a, b]) w r (immVal t imm) (fun l => f (v0 l) (v1 l)))

/-- FABS and FNEG write what `f` gives for the pattern at the width of its type. -/
theorem signAct_of (w : InLanes s h gk g m) (r : LaneReady s gk g m (usesOf m (tyRegs t) [(1, a)]) d (tyRegs t) false u)
    (f : (w : Nat) → BitVec w → BitVec w) :
    fin s h true (laneRun s h (tyRegs t) (tyRegs t) [a] d (immVal t imm) false (fun l => un t f (v0 l))) =
      .next (done s h (logged s gk g m (writeLanes u gk d (tyRegs t) m
        (fun i => (f (tyW t) ((laneVal u (tyRegs t) i (immVal t imm) a).setWidth (tyW t))).setWidth 64)))) :=
  congrArg (fin s h true) (laneRun_of (srcs := [a]) w r (immVal t imm) (fun l => un t f (v0 l)))

end VectorFloat

/-- The choice of FMIN and FMAX (R157), with `swap` where the second operand wins. -/
theorem fPick_eq (t : Ty) (swap : Bool) (a b : W64) : fPick t (!swap) a b =
    if (fdec t a).isNan && (fdec t b).isNan then BitVec.ofNat 64 (ieeeOf t).nanBits else if (fdec t a).isNan then b
      else if (fdec t b).isNan then a else if swap then b else a := by
  unfold fPick
  cases (fdec t a).isNan <;> cases (fdec t b).isNan <;> cases swap <;> rfl

/-- Two zeros are equal, whatever their signs. -/
theorem lt_zero_zero (s t : Bool) (e f : Int) : FV.lt (.fin s 0 e) (.fin t 0 f) = false := by
  cases s <;> cases t <;> simp [FV.lt, digitsAt]

/-- One pattern is below another where its value is, or where it is −0 and the other +0 (R157). -/
theorem fBelow_iff (t : Ty) (v w : W64) : fBelow t v w = true ↔ FV.lt (fdec t v) (fdec t w) = true ∨
    ∃ q q', fdec t v = .fin true 0 q ∧ fdec t w = .fin false 0 q' := by
  unfold fBelow
  split
  next s q s' q' kv kw =>
    rw [kv, kw, lt_zero_zero]
    simp
  next other =>
    refine ⟨Or.inl, fun k => k.elim id ?_⟩
    rintro ⟨q, q', kv, kw⟩
    exact absurd kw (other _ _ _ _ kv)

/-! ## The statement -/

/-- Settles O8: each instruction by the runner of its shape. -/
theorem floatArithmeticResult : Obligations.FloatArithmeticResult := by
  unfold Obligations.FloatArithmeticResult
  intro s h gk g m t d a b imm u w
  refine ⟨fun r => ⟨float2Act_of w r (fun f x y => f.round (FV.add x y)), float2Act_of w r (fun f x y => f.round (FV.add x (FV.neg y))),
      float2Act_of w r (fun f x y => f.round (FV.mul x y))⟩, fun c r => exec_ffma_of w r,
    fun r => ⟨float2Act_of w r divF, ?_, ?_⟩,
    fun r => ⟨float1Act_of w r sqrtF, float1Act_of w r (fun f x => divF f (.fin false 1 0) x), float1Act_of w r rsqF,
      float1Act_of w r exp2F, float1Act_of w r log2F, signAct_of w r (fun w a => a &&& ~~~(BitVec.twoPow w (w - 1))),
      signAct_of w r (fun w a => a ^^^ BitVec.twoPow w (w - 1))⟩,
    fun r => exec_fscl_of w r, fBelow_iff t⟩
  · simp only [← fPick_eq]
    exact fSelAct_of w r (fun x y => fPick t (!fBelow t y x) x y)
  · simp only [← fPick_eq]
    exact fSelAct_of w r (fun x y => fPick t (!fBelow t x y) x y)

end Sys2Proof.Machine
end

section
/-! SUPPORT. What loads, stores and atomics come to once no check of their operands and addresses fails; and the statements about them. -/

namespace Sys2Proof.Machine

/- Proofs that are elaborated beside the tests' long kernel checks would wait for those on a thread, and a stack, each. -/
set_option Elab.async false

section MemoryInstructions

variable {s t : State} {h : Hdr} {gk ck : Nat} {g : Group} {c : Ctx} {act : Lanes} {m : OpM} {ps : List (Nat × Nat)}

/-! ## Loads (R262, R263) -/

/-- A load enters a read for each active lane: LDK through the constant path, and at a window at scope SYS. -/
theorem loadAct_of (w : InLanes s h gk g act)
    (ready : checkUses s s.cur.u 0 act (addrUses m act 2 true) [⟨m.d, tyRegs m.t, act⟩] = none)
    (ok : GlobalOk s 0 (tyBytes m.t) .read ((lanesOf act).map (fun i => (i, globalEa s 0 m true i))) (addrUses m act 2 true) t ps)
    (konst : Bool) : loadAct s h m konst = .next (issueAccs (emptyDest t gk m.d m.t act) (ps.map (fun p =>
      let u := emptyDest t gk m.d m.t act
      { mkAcc u u.cur.u (BitVec.twoPow 32 p.1) (splitMask u g) (locOf u.floor p.2) (tyBytes m.t) .read m.ord
          (if konst && !isMem u.floor p.2 then 6 else scopeOf s 0 m.sc false) [] false (laneDest gk p.1 m.d m.t) with
        konst := konst && !!isMem u.floor p.2 }))) := by
  simp only [loadAct, atLanes_of w, ready]
  rw [globalGo_of ok _ _ (fun _ _ => rfl)]
  rfl

/-- LDS enters a read of the scratchpad for each active lane. -/
theorem exec_lds_of (w : InLanes s h gk g act)
    (ready : checkUses s s.cur.u 0 act (addrUses m act 1 false) [⟨m.d, tyRegs m.t, act⟩] = none)
    (ok : ScrOk s (tyBytes m.t) (tyBytes m.t) ((lanesOf act).map (fun i => (i, scrEa s m i))) (addrUses m act 1 false))
    {u : State} (counted : u = countPasses (emptyDest s gk m.d m.t act) g (tyBytes m.t)
      ((lanesOf act).map (fun i => (i, (scrEa s m i).toNat))) false) :
    execLds h m s = .next (done s h (issueAccs u (((lanesOf act).map (fun i => (i, (scrEa s m i).toNat))).map (fun p =>
      mkAcc u u.cur.u (BitVec.twoPow 32 p.1) (splitMask u g) (.scr (bandKey g.gc g.b) p.2) (tyBytes m.t) .read m.ord
        (scopeOf s 0 m.sc true) [] false (laneDest gk p.1 m.d m.t))))) := by
  subst counted
  simp only [execLds, atLanes_of w, ready]
  rw [scrGo_of (d := ⟨tyBytes m.t, scopeOf s 0 m.sc true, false, false⟩) ok, List.map_map (g := fun p : Nat × Int => (p.1, p.2.toNat))]
  rfl

/-- A context's scalar goes empty where the log has room for the mark and the write that will follow. -/
theorem emptyScal_of {l : BitVec 3} {r : BitVec 5} (room : c.logRoom = true)
    (room' : (c.write r ⟨(c.cell r).v, false, false⟩).logRoom = true) (t : State) (k : State → BitVec 5 → Act) :
    emptyScal t ck c (.scal l r) k =
      k (t.updCtx ck (fun x => (x.write r ⟨(c.cell r).v, false, false⟩).write r ⟨(c.cell r).v, false, false⟩)) r := by
  simp only [emptyScal, room, room', and_self, ↓reduceIte]

/-- SLD enters its read once its scalar is empty. -/
theorem exec_sld_of {l : BitVec 3} {r : BitVec 5} {pa : Nat} (w : AtContext s h ck c) (dst : m.d = .scal l r) (room : c.logRoom = true)
    (room' : (c.write r ⟨(c.cell r).v, false, false⟩).logRoom = true)
    (ready : checkUses s s.cur.u (Hdr.lv h) 0 (addrUses m 1 1 true) [⟨m.d, 1, 0⟩] = none)
    (ok : GlobalOk s (Hdr.lv h) (tyBytes m.t) .read [(0, globalEa s (Hdr.lv h) m true 0)] (addrUses m 1 1 true) t [(0, pa)])
    {u : State} (marked : u = t.updCtx ck (fun x => (x.write r ⟨(c.cell r).v, false, false⟩).write r ⟨(c.cell r).v, false, false⟩)) :
    execSld h m s = .next (done s h (issueAccs u [mkAcc u u.cur.u 0 0 (locOf u.floor pa) (tyBytes m.t) .read m.ord
      (scopeOf s (Hdr.lv h) m.sc false) [] false (.scal ck r m.t)])) := by
  subst marked
  simp only [execSld, atCtx_of w, ready]
  rw [globalGo_of ok _ _ (fun _ _ => rfl), dst, emptyScal_of room room']
  rfl

/-! ## Stores (R265) -/

/-- ST enters a write for each place that active lanes write. -/
theorem exec_st_of (w : InLanes s h gk g act)
    (ready : checkUses s s.cur.u 0 act (addrUses m act 2 false ++ dataUses act (tyRegs m.t) m.b) [] = none)
    (ok : GlobalOk s 0 (tyBytes m.t) .write ((lanesOf act).map (fun i => (i, globalEa s 0 m false i)))
      (addrUses m act 2 false ++ dataUses act (tyRegs m.t) m.b) t ps) :
    execSt h m s = .next (done s h (issueAccs t ((mergeStores ps).map (fun p =>
      mkAcc t t.cur.u p.2.2 (splitMask t g) (locOf t.floor p.2.1) (tyBytes m.t) .write m.ord (scopeOf s 0 m.sc false)
        (dataBytes t 0 p.1 m.t m.b.o) (dataPoi t 0 p.1 (tyRegs m.t) m.b) .none)))) := by
  simp only [execSt, atLanes_of w, ready]
  rw [globalGo_of ok _ _ (fun _ _ => rfl)]
  rfl

/-- STS enters a write of the scratchpad for each place that active lanes write. -/
theorem exec_sts_of (w : InLanes s h gk g act)
    (ready : checkUses s s.cur.u 0 act (addrUses m act 1 false ++ dataUses act (tyRegs m.t) m.b) [] = none)
    (ok : ScrOk s (tyBytes m.t) (tyBytes m.t) ((lanesOf act).map (fun i => (i, scrEa s m i)))
      (addrUses m act 1 false ++ dataUses act (tyRegs m.t) m.b))
    (counted : t = countPasses s g (tyBytes m.t) ((lanesOf act).map (fun i => (i, (scrEa s m i).toNat))) false) :
    execSts h m s = .next (done s h (issueAccs t ((mergeStores ((lanesOf act).map (fun i => (i, (scrEa s m i).toNat)))).map (fun p =>
      mkAcc t t.cur.u p.2.2 (splitMask t g) (.scr (bandKey g.gc g.b) p.2.1) (tyBytes m.t) .write m.ord (scopeOf s 0 m.sc true)
        (dataBytes t 0 p.1 m.t m.b.o) (dataPoi t 0 p.1 (tyRegs m.t) m.b) .none)))) := by
  subst counted
  simp only [execSts, atLanes_of w, ready]
  rw [scrGo_of (d := ⟨tyBytes m.t, scopeOf s 0 m.sc true, true, false⟩) ok, List.map_map (g := fun p : Nat × Int => (p.1, p.2.toNat))]
  rfl

/-- SST enters its write. -/
theorem exec_sst_of {pa : Nat} (w : AtContext s h ck c)
    (ready : checkUses s s.cur.u (Hdr.lv h) 0 (addrUses m 1 1 false ++ dataUses 1 1 m.b) [] = none)
    (ok : GlobalOk s (Hdr.lv h) (tyBytes m.t) .write [(0, globalEa s (Hdr.lv h) m false 0)]
      (addrUses m 1 1 false ++ dataUses 1 1 m.b) t [(0, pa)]) :
    execSst h m s = .next (done s h (issueAccs t [mkAcc t t.cur.u 0 0 (locOf t.floor pa) (tyBytes m.t) .write m.ord
      (scopeOf s (Hdr.lv h) m.sc false) (dataBytes t (Hdr.lv h) 0 m.t m.b.o) (dataPoi t (Hdr.lv h) 0 1 m.b) .none])) := by
  simp only [execSst, atCtx_of w, ready]
  rw [globalGo_of ok _ _ (fun _ _ => rfl)]
  rfl

/-! ## Atomics (R266 to R269) -/

/-- ATOM and RED enter an atomic for each active lane. -/
theorem atomAct_of {op : Aop} (w : InLanes s h gk g act) (ret : Bool)
    (ready : checkUses s s.cur.u 0 act (addrUses m act 2 false ++ atomUses act op m.t m.b)
      (if ret then [⟨m.d, tyRegs m.t, act⟩] else []) = none)
    (ok : GlobalOk s 0 (tyBytes m.t) .write ((lanesOf act).map (fun i => (i, globalEa s 0 m false i)))
      (addrUses m act 2 false ++ atomUses act op m.t m.b) t ps) (allowed : ∀ p ∈ ps, hostRefuses s op (!ret) p.2 = false) :
    atomAct s h op m ret = .next (issueAccs (if ret then emptyDest t gk m.d m.t act else t) (ps.map (fun p =>
      mkAcc t t.cur.u (BitVec.twoPow 32 p.1) (splitMask t g) (locOf t.floor p.2) (tyBytes m.t)
        (.atomic op m.t (atomData t 0 p.1 op m.t m.b.o).1 (atomData t 0 p.1 op m.t m.b.o).2 ret) m.ord (scopeOf s 0 m.sc false)
        [] false (if ret then laneDest gk p.1 m.d m.t else .none)))) := by
  simp only [atomAct, atLanes_of w, ready]
  rw [globalGo_of ok _ _ allowed]
  rfl

/-- ATOMS enters an atomic on the scratchpad for each active lane. -/
theorem exec_atoms_of {op : Aop} (w : InLanes s h gk g act)
    (ready : checkUses s s.cur.u 0 act (addrUses m act 1 false ++ atomUses act op m.t m.b) [⟨m.d, tyRegs m.t, act⟩] = none)
    (ok : ScrOk s (tyBytes m.t) (tyBytes m.t) ((lanesOf act).map (fun i => (i, scrEa s m i)))
      (addrUses m act 1 false ++ atomUses act op m.t m.b)) (ps : List (Nat × Nat))
    (places : ps = (lanesOf act).map (fun i => (i, (scrEa s m i).toNat))) :
    execAtoms h op m s = .next (done s h (issueAccs (countPasses (emptyDest s gk m.d m.t act) g (tyBytes m.t) ps true)
      (ps.map (fun p => mkAcc s s.cur.u (BitVec.twoPow 32 p.1) (splitMask s g) (.scr (bandKey g.gc g.b) p.2) (tyBytes m.t)
        (.atomic op m.t (atomData s 0 p.1 op m.t m.b.o).1 (atomData s 0 p.1 op m.t m.b.o).2 true) m.ord (scopeOf s 0 m.sc true)
        [] false (laneDest gk p.1 m.d m.t))))) := by
  subst places
  simp only [execAtoms, atLanes_of w, ready]
  rw [scrGo_of (d := ⟨tyBytes m.t, scopeOf s 0 m.sc true, true, true⟩) ok, List.map_map (g := fun p : Nat × Int => (p.1, p.2.toNat))]
  rfl

/-- SATOM enters its atomic once its scalar is empty. -/
theorem exec_satom_of {op : Aop} {l : BitVec 3} {r : BitVec 5} {pa : Nat} (w : AtContext s h ck c) (dst : m.d = .scal l r)
    (room : c.logRoom = true) (room' : (c.write r ⟨(c.cell r).v, false, false⟩).logRoom = true)
    (ready : checkUses s s.cur.u (Hdr.lv h) 0 (addrUses m 1 1 false ++ atomUses 1 op m.t m.b) [⟨m.d, 1, 0⟩] = none)
    (allowed : hostRefuses s op false pa = false)
    (ok : GlobalOk s (Hdr.lv h) (tyBytes m.t) .write [(0, globalEa s (Hdr.lv h) m false 0)]
      (addrUses m 1 1 false ++ atomUses 1 op m.t m.b) t [(0, pa)])
    {u : State} (marked : u = t.updCtx ck (fun x => (x.write r ⟨(c.cell r).v, false, false⟩).write r ⟨(c.cell r).v, false, false⟩)) :
    execSatom h op m s = .next (done s h (issueAccs u [mkAcc u u.cur.u 0 0 (locOf u.floor pa) (tyBytes m.t)
      (.atomic op m.t (atomData t (Hdr.lv h) 0 op m.t m.b.o).1 (atomData t (Hdr.lv h) 0 op m.t m.b.o).2 true) m.ord
      (scopeOf s (Hdr.lv h) m.sc false) [] false (.scal ck r m.t)])) := by
  subst marked
  simp only [execSatom, atCtx_of w, ready]
  rw [globalGo_of ok _ _ (by simpa using allowed)]
  simp only [dst]
  rw [emptyScal_of room room']
  rfl

end MemoryInstructions

/-! ## The statements -/

/-- Settles O10: each load enters the reads that it names. -/
theorem loadIssues : Obligations.LoadIssues := by
  unfold Obligations.LoadIssues
  refine fun s h m => ⟨fun gk g act t ps w ready ok => ⟨?_, ?_⟩, fun gk g act w ready ok => exec_lds_of w ready ok rfl,
    fun ck c l r t pa w dst room room' ready ok => exec_sld_of w dst room room' ready ok rfl⟩
  · exact congrArg (fin s h true) (loadAct_of w ready ok false)
  · have path := congrArg (fin s h true) (loadAct_of w ready ok true)
    refine path.trans (congrArg (fun l => Host.Outcome.next (done s h (issueAccs (emptyDest t gk m.d m.t act) l))) ?_)
    refine List.map_congr_left fun p _ => ?_
    cases k : isMem (emptyDest t gk m.d m.t act).floor p.2
    · simp [k]
      rfl
    · simp [k]

/-- Settles O11: each store enters the writes that it names. -/
theorem storeIssues : Obligations.StoreIssues := by
  unfold Obligations.StoreIssues
  exact fun s h m => ⟨fun gk g act t ps w ready ok => exec_st_of w ready ok,
    fun gk g act w ready ok => exec_sts_of w ready ok rfl, fun ck c t pa w ready ok => exec_sst_of w ready ok⟩

/-- Settles O12: each atomic instruction enters the operations that it names. -/
theorem atomicIssues : Obligations.AtomicIssues := by
  unfold Obligations.AtomicIssues
  exact fun s h op m => ⟨fun gk g act t ps w ok =>
      ⟨fun ready allowed => congrArg (fin s h true) (atomAct_of w true ready ok allowed),
        fun ready allowed => congrArg (fin s h true) (atomAct_of w false ready ok allowed)⟩,
    fun gk g act w ready ok => exec_atoms_of w ready ok _ rfl,
    fun ck c l r t pa w dst room room' ready allowed ok => exec_satom_of w dst room room' ready allowed ok rfl⟩

end Sys2Proof.Machine
end

section
/-! SUPPORT. What issuing accesses leaves, and what FENCE and PREF come to; and the statements about them. -/

namespace Sys2Proof.Machine

/- Proofs that are elaborated beside the tests' long kernel checks would wait for those on a thread, and a stack, each. -/
set_option Elab.async false

/-! ## Issuing (R243, R245, R248) -/

/-- Whether a home atomic of a list makes a byte of a core's view unheld (R248). -/
def unheldBy (l : List Access) (n pa : Nat) : Bool :=
  l.any (fun a => homeAtomic a && a.core == some n &&
    (match a.loc with | .mem p => decide (p ≤ pa) && decide (pa < p + a.width) | _ => false))

/-- What one access unholds. -/
def unholdOne (s : State) (a : Access) : State :=
  match a.loc, a.core with
  | .mem pa, some c => if homeAtomic a then unhold s c pa a.width else s
  | _, _ => s

theorem unholdOne_of_not {a : Access} (k : homeAtomic a = false) (s : State) : unholdOne s a = s := by
  unfold unholdOne
  split
  · rw [k]; rfl
  · rfl

theorem unholdOne_cores (s : State) (a : Access) : ∃ cores, unholdOne s a = { s with cores := cores } := by
  unfold unholdOne
  split
  · split
    · exact ⟨_, rfl⟩
    · exact ⟨_, rfl⟩
  · exact ⟨_, rfl⟩

theorem unholdOne_core (s : State) (a : Access) (n : Nat) :
    (unholdOne s a).core n = { s.core n with view := (s.core n).view.filter (fun p => !unheldBy [a] n p.1) } := by
  unfold unholdOne
  split
  next pa c loc core =>
    cases k : homeAtomic a
    · simp [unheldBy, k]
    · by_cases here : c = n
      · subst here; simp [unhold, unheldBy, k, core, loc]
      · have other : (some c == some n) = false := by simpa using here
        simp [unhold, unheldBy, k, core, other, Ne.symm here]
  next other =>
    have never : ∀ pa, unheldBy [a] n pa = false := by
      intro pa
      cases loc : a.loc <;> cases core : a.core <;> simp_all [unheldBy]
    simp [never]

theorem unholdAtomics_cons (s : State) (a : Access) (l : List Access) :
    unholdAtomics s (a :: l) = unholdAtomics (unholdOne s a) l := rfl

theorem unholdAtomics_cores (l : List Access) (s : State) : ∃ cores, unholdAtomics s l = { s with cores := cores } := by
  induction l generalizing s with
  | nil => exact ⟨_, rfl⟩
  | cons a l ih =>
    obtain ⟨cores, one⟩ := unholdOne_cores s a
    obtain ⟨cores', rest⟩ := ih { s with cores := cores }
    exact ⟨cores', by rw [unholdAtomics_cons, one, rest]⟩

theorem unholdAtomics_core (l : List Access) (s : State) (n : Nat) : (unholdAtomics s l).core n =
    { s.core n with view := (s.core n).view.filter (fun p => !unheldBy l n p.1) } := by
  induction l generalizing s with
  | nil => simp [unholdAtomics, unheldBy]
  | cons a l ih =>
    have both : ∀ pa, unheldBy (a :: l) n pa = (unheldBy [a] n pa || unheldBy l n pa) := by simp [unheldBy]
    rw [unholdAtomics_cons, ih, unholdOne_core]
    simp [both, Bool.and_comm]

theorem unholdAtomics_of_not {l : List Access} (k : ∀ a ∈ l, homeAtomic a = false) (s : State) : unholdAtomics s l = s := by
  induction l generalizing s with
  | nil => rfl
  | cons a l ih =>
    rw [unholdAtomics_cons, unholdOne_of_not (k a List.mem_cons_self), ih fun b mem => k b (List.mem_cons_of_mem a mem)]

/-! ## Prefetches (R264) -/

theorem prefLines_kind {s : State} {sc : Nat} {rs : List (Nat × Except Nat Nat)} {mask : Lanes} {a : Access}
    (mem : a ∈ prefLines s sc rs mask) : a.kind = .pref := by
  obtain ⟨r, -, made⟩ := List.mem_filterMap.mp mem
  split at made
  · split at made
    · obtain rfl := Option.some.inj made; rfl
    · cases made
  · cases made

/-- The fetches of a PREF join the pending sets; looking their addresses up changes no memory, register, context or band. -/
theorem prefGo_leaves (s : State) (lev : Nat) (m : OpM) (lanes mask : Lanes) :
    let t := prefGo s lev m lanes mask
    t.mem = s.mem ∧ t.groups = s.groups ∧ t.ctxs = s.ctxs ∧ t.bands = s.bands ∧
      ∃ l, t.accs = s.accs ++ l ∧ ∀ a ∈ l, a.kind = .pref := by
  unfold prefGo
  generalize ((lanesOf lanes).map (fun i => (i, globalEa s lev m true i))).filter (fun p => vaOk p.2) = eas
  obtain ⟨cores, clusters, fabric, banks, fresh, upsets, vectors, pois, bad, covers, looked⟩ :=
    quiet_xlate s s.cur.u .read (eas.map (fun p => (p.1, p.2.toNat)))
  simp only [addAccs_eq, looked]
  refine ⟨trivial, trivial, trivial, trivial, _, rfl, fun a mem => ?_⟩
  obtain ⟨p, place, rfl⟩ := List.mem_map.mp mem
  have fetch := prefLines_kind (List.fst_mem_of_mem_zipIdx place)
  exact fetch

/-! ## The statements -/

/-- Settles O13: FENCE enters its fences; PREF does nothing beyond %vcount and else enters its fetches. -/
theorem fenceAndPrefetchResult : Obligations.FenceAndPrefetchResult := by
  unfold Obligations.FenceAndPrefetchResult
  intro s h ord sc m k fence soft prefs
  refine ⟨fun gk g act w lev0 => ⟨fun wide => ?_, fun narrow => ?_, fun ok => ?_⟩, fun ck c w above => ⟨?_, fun ok => ?_⟩⟩
  · show execFence h ord sc s = _
    simp only [execFence, if_pos (lv_eq_zero.mpr lev0), atLanes_of w]
    rw [if_neg wide]
    rfl
  · show execFence h ord sc s = _
    simp only [execFence, if_pos (lv_eq_zero.mpr lev0), atLanes_of w, fence]
    rw [if_pos narrow, narrow]
    rfl
  · have run : exec (.pref h m) s = execPref h m s := rfl
    simp only [prefs, run, execPref, if_pos (lv_eq_zero.mpr lev0), atLanes_of w]
    cases past : g.overOp m.a.o 2 || g.overOp m.b.o 1
    · rw [if_neg Bool.false_ne_true, if_neg (ne_true_of_eq_false ok)]
      exact ⟨_, rfl, prefGo_leaves s _ m _ _⟩
    · exact ⟨s, rfl, rfl, rfl, rfl, rfl, [], (List.append_nil _).symm, by simp⟩
  · show execFence h ord sc s = _
    simp only [execFence, if_neg (mt lv_eq_zero.mp above), atCtx_of w]
    rfl
  · have run : exec (.pref h m) s = execPref h m s := rfl
    simp only [prefs, run, execPref, if_neg (mt lv_eq_zero.mp above), atCtx_of w]
    rw [if_neg Bool.false_ne_true, if_neg (ne_true_of_eq_false ok)]
    exact ⟨_, rfl, prefGo_leaves s _ m _ _⟩

/-- Settles O14: the accesses enter, and then each home atomic unholds its bytes. -/
theorem issuingLeavesMemory : Obligations.IssuingLeavesMemory := by
  unfold Obligations.IssuingLeavesMemory
  intro s l t unheld
  have enter : t = unholdAtomics (s.addAccs l) l := rfl
  rw [addAccs_eq] at enter
  refine ⟨?_, fun n => ?_, fun k => ?_⟩
  · rw [enter]
    obtain ⟨cores, views⟩ := unholdAtomics_cores l { s with
      accs := s.accs ++ l.zipIdx.map (fun p => { p.1 with id := s.accSeq + p.2, batch := s.accSeq }), accSeq := s.accSeq + l.length }
    exact ⟨cores, views⟩
  · rw [enter, unholdAtomics_core]; rfl
  · rw [enter, unholdAtomics_of_not k]

end Sys2Proof.Machine
end

section
/-! SUPPORT. The fields of an arrival word, written into its bytes and read back; and the statement about its steps. -/

namespace Sys2Proof.Machine

/- Proofs that are elaborated beside the tests' long kernel checks would wait for those on a thread, and a stack, each. -/
set_option Elab.async false

/-! ## Bytes and fields -/

/-- The bytes of a value read back as the value, as far as they go. -/
theorem leNat_leBytes (n v : Nat) : leNat (leBytes n v) = v % 256 ^ n := by
  induction n generalizing v with
  | zero => rw [pow_zero, Nat.mod_one]; rfl
  | succ n ih =>
    have byte : leNat (leBytes (n + 1) v) = v % 256 + 256 * leNat (leBytes n (v / 256)) := rfl
    rw [byte, ih, pow_succ', Nat.mod_mul]

/-- The sixteen bytes of an arrival word hold its fields (R304). -/
theorem arrOf_arrBytes {w : ArrWord} (phase : w.phase < 16) (parr : w.parr < 2 ^ 24) (exp : w.exp < 2 ^ 24) (psec : w.psec < 2 ^ 32) :
    arrOf (arrBytes w) = w := by
  obtain ⟨ph, pois, pa, ex, ps⟩ := w
  have flag : b2n pois < 2 := by cases pois <;> decide
  simp only at phase parr exp psec
  rw [arrOf, arrBytes, leNat_leBytes]
  simp only [Nat.mod_eq_of_lt phase, Nat.mod_eq_of_lt parr, Nat.mod_eq_of_lt exp, Nat.mod_eq_of_lt psec, bitsOf, ArrWord.mk.injEq]
  refine ⟨by omega, ?_, by omega, by omega, by omega⟩
  have bit : bitOf ((ph + b2n pois * 16 + pa * 2 ^ 8 + ex * 2 ^ 32 + ps * 2 ^ 64) % 256 ^ 16) 4 = (b2n pois == 1) :=
    congrArg (· == 1) (by omega)
  rw [bit]
  cases pois <;> rfl

/-! ## The statement -/

/-- Settles O15: the fields by their places, the steps by their cases. -/
theorem arrivalWordSteps : Obligations.ArrivalWordSteps := by
  unfold Obligations.ArrivalWordSteps
  intro w poi phase parr exp psec
  refine ⟨arrOf_arrBytes phase parr exp psec, fun none_ => ?_, fun some_ zero => ?_, fun some_ more => ?_, fun some_ one last => ?_,
    fun more => ?_, fun one last => ?_⟩
  · rw [arrArrive, if_pos none_]
  · rw [arrArrive, if_neg some_, if_pos zero]
  · have waits : ¬w.parr = 0 := by omega
    have open_ : ¬(w.parr - 1 = 0 ∧ w.psec = 0) := by omega
    rw [arrArrive, if_neg some_, if_neg waits, arrSettle, if_neg open_]
  · have waits : ¬w.parr = 0 := by omega
    have ends : w.parr - 1 = 0 ∧ w.psec = 0 := by omega
    rw [arrArrive, if_neg some_, if_neg waits, arrSettle, if_pos ends]
  · have less : (w.psec + 2 ^ 32 - 1) % 2 ^ 32 = w.psec - 1 := by omega
    have open_ : ¬(w.parr = 0 ∧ w.psec - 1 = 0) := by omega
    rw [arrSector, less, arrSettle, if_neg open_]
  · have less : (w.psec + 2 ^ 32 - 1) % 2 ^ 32 = 0 := by omega
    rw [arrSector, less, arrSettle, if_pos ⟨last, rfl⟩]

end Sys2Proof.Machine
end

section
/-! SUPPORT. What the arrival-word instructions and the copy commands come to once no check of theirs fails; and the statements about
them. -/

namespace Sys2Proof.Machine

/- Proofs that are elaborated beside the tests' long kernel checks would wait for those on a thread, and a stack, each. -/
set_option Elab.async false

/-! ## Instructions of the matrix and copy chapters -/

/-- An effect other than a fault has no lanes to name. -/
theorem onceAll_next {s t : State} {h : Hdr} {m : Lanes} (w : ActsOnce s h m) {f : Lanes → Act} (eff : f m = .next t) :
    onceAll s h f = .next t := by
  rw [onceAll, onceRun_of w, eff]; rfl

theorem onceChecked_of {s : State} {h : Hdr} {m : Lanes} {n : Nat} {srcs : List (Nat × Src)} (w : OnceReady s h m n srcs [])
    (f : Lanes → Act) : onceChecked s h n srcs (fun _ => []) f m = f m := by
  rw [onceChecked, w.ready]

/-- An instruction of those chapters that reads its sources once has the effect that it has in its lanes. -/
theorem onceAll_checked {s t : State} {h : Hdr} {m : Lanes} {n : Nat} {srcs : List (Nat × Src)} (w : OnceReady s h m n srcs [])
    {f : Lanes → Act} (eff : f m = .next t) : fin s h true (onceAll s h (onceChecked s h n srcs (fun _ => []) f)) =
      .next (done s h t) :=
  congrArg (fin s h true) (onceAll_next w.acts ((onceChecked_of w f).trans eff))

/-! ## Arrival words (R322 to R324) -/

section Arrival

variable {s : State} {h : Hdr} {m : Lanes} {d : BitVec 4} {a b : Src} {imm : BitVec 27}

theorem exec_arvi_of {o16 : BitVec 14} (w : ActsOnce s h m) (ok : ArrivalOk s (16 * o16.toNat))
    (quiet : (arrGet s (bandHere s) (16 * o16.toNat)).psec = 0) (n : BitVec 13) : exec (.arvi h o16 n) s =
      .next (done s h (arrPut s (bandHere s) (16 * o16.toNat) ⟨0, false, n.toNat, n.toNat, 0⟩)) := by
  refine congrArg (fin s h true) (onceAll_next w ?_)
  rw [arrCheck_of ok, if_neg (not_not.mpr quiet)]

theorem exec_arv_of {x : ArrWord} (w : OnceReady s h m 1 [(1, a)] []) (ok : ArrivalOk s (arrOff s h m imm a.o))
    (drained : onceDrained s h 2 = true) (arrives : arrArrive (arrGet s (bandHere s) (arrOff s h m imm a.o)) = some x) :
    exec (.arv h a imm) s = .next (done s h (if (arrGet s (bandHere s) (arrOff s h m imm a.o)).exp = 0 then s
      else arrPut s (bandHere s) (arrOff s h m imm a.o) x)) := by
  refine onceAll_checked w ?_
  rw [arrCheck_of ok, unlessPoison_of w.clean]
  simp only [drained, arrives, Bool.not_true, Bool.false_eq_true, ↓reduceIte]
  exact (apply_ite Act.next _ _ _).symm

/-- A wait on a word whose phase has gone by ends at once. -/
theorem exec_arwt_now (w : OnceReady s h m 1 [(1, a), (2, b)] []) (ok : ArrivalOk s (arrOff s h m imm a.o))
    (fresh : waitOf s (Hdr.lv h) = .none)
    (past : (arrGet s (bandHere s) (arrOff s h m imm a.o)).phase ≠ (onceVal s h m (imm.signExtend 64) b.o).toNat % 16) :
    exec (.arwt h d a b imm) s =
      .next (done s h (putPred s h m d (arrGet s (bandHere s) (arrOff s h m imm a.o)).pois)) := by
  refine onceAll_checked w ?_
  rw [arrCheck_of ok, unlessPoison_of w.clean, fresh]
  exact if_pos past

/-- A wait that the phase has ended takes the POIS that it kept. -/
theorem exec_arwt_woken {o p : Nat} {poi : Bool} (w : OnceReady s h m 1 [(1, a), (2, b)] [])
    (ok : ArrivalOk s (arrOff s h m imm a.o)) (woken : waitOf s (Hdr.lv h) = .arwt o p (some poi)) :
    exec (.arwt h d a b imm) s = .next (done s h (putPred s h m d poi)) := by
  refine onceAll_checked w ?_
  rw [arrCheck_of ok, unlessPoison_of w.clean, woken]

theorem exec_artst_done (w : OnceReady s h m 1 [(1, a), (2, b)] []) (ok : ArrivalOk s (arrOff s h m imm a.o)) :
    exec (.artst h .done d a b imm) s = .next (done s h (putPred s h m d (decide
      ((arrGet s (bandHere s) (arrOff s h m imm a.o)).phase ≠ (onceVal s h m (imm.signExtend 64) b.o).toNat % 16)))) := by
  refine onceAll_checked w ?_
  rw [arrCheck_of ok]
  exact unlessPoison_of w.clean _

theorem exec_artst_pois (w : OnceReady s h m 1 [(1, a)] []) (ok : ArrivalOk s (arrOff s h m imm a.o)) :
    exec (.artst h .pois d a b imm) s =
      .next (done s h (putPred s h m d (arrGet s (bandHere s) (arrOff s h m imm a.o)).pois)) := by
  refine onceAll_checked w ?_
  rw [arrCheck_of ok]
  exact unlessPoison_of w.clean _

end Arrival

/-! ## The statements -/

/-- Settles O16: each instruction by its effect above. -/
theorem arrivalInstructionsResult : Obligations.ArrivalInstructionsResult := by
  unfold Obligations.ArrivalInstructionsResult
  exact fun s h m d a b imm => ⟨fun o16 n w ok quiet => exec_arvi_of w ok quiet n,
    fun x w ok drained arrives => exec_arv_of w ok drained arrives,
    fun w ok => ⟨fun fresh past => exec_arwt_now w ok fresh past, fun o p poi woken => exec_arwt_woken w ok woken,
      exec_artst_done w ok⟩,
    fun w ok => exec_artst_pois w ok⟩

/-- Settles O17: each command is a copy command of its kind. -/
theorem copyCommandsEnterQueue : Obligations.CopyCommandsEnterQueue := by
  unfold Obligations.CopyCommandsEnterQueue
  intro s h m a b x imm c t ps
  have enters : ∀ k msk, CopyOk s h m k a b msk imm c t ps →
      fin s h true (copyCmd s h k a b msk imm) = .next (done s h (enterCopy t h c ps)) :=
    fun k msk ok => congrArg (fin s h true) (copyCmd_of ok)
  exact ⟨enters .g2s none, enters .s2g none, enters .plane none, enters .mScr (some x), enters .mPlane (some x), enters .s2s none,
    fun op => enters (.red op) none⟩

end Sys2Proof.Machine
end

section
/-! SUPPORT. What the operand maps, the matrix queue and its instructions come to; and the statements about them. -/

namespace Sys2Proof.Machine

/- Proofs that are elaborated beside the tests' long kernel checks would wait for those on a thread, and a stack, each. -/
set_option Elab.async false

/-! ## Operand maps (R292, R297) -/

/-- Writing a map changes the band's map of that number, and the words that the band's core keeps of it. -/
theorem writeMap_band {s : State} {bk : Nat} {b : Band} (w : s.band? bk = some b) (d : BitVec 4) (x : W64) :
    ∃ b', (writeMap s bk d x).band? bk = some b' ∧ (∀ e, bandMap b' e = if e = d then x else bandMap b e) ∧
      (writeMap s bk d x).mem = s.mem ∧ (writeMap s bk d x).groups = s.groups ∧ (writeMap s bk d x).ctxs = s.ctxs ∧
      (writeMap s bk d x).accs = s.accs := by
  refine ⟨{ b with maps := tabPut 0 b.maps d.toNat x }, ?_, fun e => ?_, ?_⟩
  · simp [writeMap, w]
  · simp only [bandMap, tabGet_put, BitVec.toNat_inj]
  · simp [writeMap, w]

/-- A map is its two halves. -/
theorem mapHalf_append (x : W64) : mapHalf x 1 ++ mapHalf x 0 = x := by
  apply BitVec.eq_of_toNat_eq
  simp only [mapHalf, BitVec.toNat_append, BitVec.extractLsb'_toNat, Nat.shiftRight_eq_div_pow, Nat.shiftLeft_eq]
  have := x.isLt
  rw [Nat.mul_comm, ← Nat.two_pow_add_eq_or_of_lt (Nat.mod_lt _ (Nat.two_pow_pos _))]
  omega

/-- A map word of which no older value stands since the band's last MFENCE is read as it stands. -/
theorem mapWordNow_eq {s : State} {b : Band} {e : BitVec 4} {i : Nat}
    (w : ∀ x ∈ (s.core b.core).old, x.key = mapKey e.toNat i → x.fence ≠ (s.core b.core).fences) :
    mapWordNow s b e i = mapHalf (bandMap b e) i := by
  have none : (s.core b.core).old.filter (fun o => o.key = mapKey e.toNat i && o.fence = (s.core b.core).fences) = [] :=
    List.filter_eq_nil_iff.mpr (fun x hx => by simpa using w x hx)
  simp [mapWordNow, none, Nat.mod_one, nth?]

theorem mapNow_eq {s : State} {b : Band} {e : BitVec 4}
    (w : ∀ i < 2, ∀ x ∈ (s.core b.core).old, x.key = mapKey e.toNat i → x.fence ≠ (s.core b.core).fences) :
    mapNow s b e = bandMap b e := by
  rw [mapNow, mapWordNow_eq (w 1 (by decide)), mapWordNow_eq (w 0 (by decide)), mapHalf_append]

section Once

variable {s : State} {h : Hdr} {m : Lanes} {b : Band}

theorem exec_omap_of {role lines i4 : Bool} {t : Ty} {d : BitVec 4} {buf : BitVec 3} {p : BitVec 6} {w : BitVec 3} {kb : BitVec 5}
    (acts : ActsOnce s h m) (ok : mapOk role (omapWord lines i4 t buf p w kb) = true) :
    exec (.omap h role lines i4 t d buf p w kb) s =
      .next (done s h (writeMap s (bandHere s) d (omapWord lines i4 t buf p w kb))) :=
  congrArg (fin s h true) (onceAll_next acts (by simp only [ok, Bool.not_true, Bool.false_eq_true, ↓reduceIte]))

/-- PLST with a valid map whose tile fits, lies in the scratchpad and may be read now. -/
theorem exec_plst_of {role : Bool} {mp : BitVec 4} {off : BitVec 27} (acts : ActsOnce s h m) (band : s.band? (bandHere s) = some b)
    (valid : mapV (bandMap b mp) = true)
    (fits : 8 * (if role then 8 else mapW (bandMap b mp)) * blkBytes (mapP (bandMap b mp)) ≤ 16384)
    (aligned : off.toNat % elSize (mapFmt (bandMap b mp)) = 0)
    (inside : off.toNat + (plstShape role (bandMap b mp)).1 * elBytes (mapFmt (bandMap b mp)) (plstShape role (bandMap b mp)).2 ≤
      scrSize s)
    (free : scrFree s h (bandHere s) off.toNat
      ((plstShape role (bandMap b mp)).1 * elBytes (mapFmt (bandMap b mp)) (plstShape role (bandMap b mp)).2) false = true) :
    exec (.plst h role mp off) s = .next (done s h (plstTile (scrStruck s (whoOf s (bandHere s % 64), misc1Here s) (bandHere s)
      off.toNat ((plstShape role (bandMap b mp)).1 * elBytes (mapFmt (bandMap b mp)) (plstShape role (bandMap b mp)).2))
      (bandHere s) role (bandMap b mp) off.toNat)) := by
  refine congrArg (fin s h true) (onceAll_next acts ?_)
  simp only [band, valid, ↓reduceIte, aligned, ne_eq, not_true_eq_false, true_and, Nat.not_lt.mpr inside, Nat.not_lt.mpr fits,
    Bool.not_true, Bool.false_eq_true, or_self, free]

/-! ## Multiplications (R295, R296, R311) -/

/-- An operation whose maps pass the checks enters the queue. -/
theorem mmaPart_of_ok {bk steps : Nat} {o : OpMma}
    (ok : mmaOk o.t o.d.toNat (mapNow s b o.a) (mapNow s b o.b) steps o.ai.toNat o.bi.toNat = true) :
    mmaPart s bk b o steps = enqMat s.tick1 bk (.mma o.t o.d.toNat o.a.toNat o.b.toNat (mapNow s b o.a) (mapNow s b o.b) steps
      o.ai.toNat o.bi.toNat) (mmaAccs o.t o.d.toNat (mapNow s b o.a) (mapNow s b o.b))
      (mmaAccs o.t o.d.toNat (mapNow s b o.a) (mapNow s b o.b)) none :=
  if_pos ok

/-- One whose maps fail them has its fault deferred under the number it would have had, and the queue stays. -/
theorem mmaPart_of_bad {bk steps : Nat} {o : OpMma}
    (bad : ¬mmaOk o.t o.d.toNat (mapNow s b o.a) (mapNow s b o.b) steps o.ai.toNat o.bi.toNat = true) :
    ((mmaPart s bk b o steps).core b.core).mq = (s.core b.core).mq ∧
    tabGet? ((mmaPart s bk b o steps).core b.core).mfault (s.core b.core).mseq = some ⟨0x17,
      (mmaAccs o.t o.d.toNat (mapNow s b o.a) (mapNow s b o.b)).filter (fun a => decide (a < 8)), bk, 0⟩ := by
  rw [mmaPart, if_neg bad]
  simp only [deferFault, updCore_core, ↓reduceIte]
  exact ⟨rfl, tabGet?_set_self ..⟩

/-- In a group's lanes an operation that passes its checks takes the band's part of it where the queue has room. -/
theorem mmaAct_lanes {o : OpMma} {steps : Nat} (lev : h.lev = 0) (acts : ActsOnce s h m) (band : s.band? (bandHere s) = some b)
    (room : mqRoom s b.core = true)
    (ok : mmaOk o.t o.d.toNat (mapNow s b o.a) (mapNow s b o.b) steps o.ai.toNat o.bi.toNat = true) :
    mmaAct s h o steps = .next (mmaPart s (bandHere s) b o steps) := by
  refine (if_pos lev).trans (onceAll_next acts ?_)
  simp only [band, ok, room, Bool.not_true, Bool.false_eq_true, ↓reduceIte]

/-- Above the lanes every resident band that owns matrix state takes its part. -/
theorem mmaAct_bands {o : OpMma} {steps ck : Nat} {c : Ctx} (lev : h.lev ≠ 0) (at_ : AtContext s h ck c)
    (room : ∀ p ∈ (bandsUnder s c.gc c.lvl c.g).filter (fun p => p.2.st == .resident && (s.lrec c.gc).mat),
      mqRoom s p.2.core = true) :
    mmaAct s h o steps = .next (((bandsUnder s c.gc c.lvl c.g).filter
      (fun p => p.2.st == .resident && (s.lrec c.gc).mat)).foldl (fun s p => mmaPart s p.1 p.2 o steps) s) :=
  (if_neg lev).trans ((atCtx_of at_ _).trans (if_pos (List.all_eq_true.mpr room)))

/-! ## The queue's other instructions -/

/-- What an MWAIT of accumulator `x` does not cover: another band's entry, or one without that accumulator. -/
theorem not_covered {x : Option (BitVec 3)} {bk here : Nat} {as : List Nat} :
    (bk = here → ∃ y, x = some y ∧ as.contains y.toNat = false) →
      ¬(bk == here && (match x with | some y => as.contains y.toNat | none => true)) = true := by
  rw [Bool.and_eq_true, beq_iff_eq]
  rintro w ⟨same, covers⟩
  obtain ⟨y, rfl, out⟩ := w same
  exact absurd covers (by simpa using out)

/-- MWAIT ends where no operation in the queue is one that it covers, and no deferred fault. -/
theorem exec_mwait_of {x : Option (BitVec 3)} (acts : ActsOnce s h m)
    (queue : ∀ o ∈ (s.core (coreAt s (bandHere s))).mq, o.bk = bandHere s → ∃ y, x = some y ∧ o.wr.contains y.toNat = false)
    (faults : ∀ p ∈ (s.core (coreAt s (bandHere s))).mfault, p.2.bk = bandHere s →
      ∃ y, x = some y ∧ p.2.accs.contains y.toNat = false) :
    exec (.mwait h x) s = .next (done s h s) := by
  change execMwait h x s = _
  rw [execMwait, onceRun_of acts, if_neg, List.find?_eq_none.mpr]
  · exact fin_next s h s
  · exact fun p hp => not_covered (faults p hp)
  · rw [List.any_eq_true]
    rintro ⟨o, ho, covers⟩
    exact not_covered (queue o ho) covers

theorem queueAct_of {bk : Nat} (room : mqRoom s (coreAt s bk) = true) (k : MatKind) (rd wr : List Nat) (acc : Option Nat)
    (pre : State → State) : queueAct s bk k rd wr acc pre = .next (enqMat (pre s) bk k rd wr acc) := if_pos room

/-- A V form empties its destination in the active lanes and enters the queue. -/
theorem rowAct_of {gk : Nat} {g : Group} {t : Ty} {r : BitVec 8} {a : BitVec 3} {c : Src} {row : BitVec 6} (w : InLanes s h gk g m)
    (ready : checkAll s s.cur.u 0 m (usesOf m 1 [(2, c)]) [⟨.vec r, rowRegs t, m⟩] = none)
    (room : mqRoom s (coreAt s (bandHere s)) = true) (k : Nat → Nat → Lanes → Nat → MatKind) (f64 : Bool) :
    rowAct s h t (.vec r) a c row k f64 = .next (enqMat (s.updGrp gk (fun g => (lanesOf m).foldl (fun g i =>
      (List.range (rowRegs t)).foldl (fun g j => g.emptyV (r.toNat + j) i) g) g)) (bandHere s)
      (k gk r.toNat m (accRow s c row)) (accSpan f64 a.toNat) [] none) := by
  refine (atLanes_of w _).trans ?_
  simp only [ready, queueAct_of room]
  rfl

/-- A scratchpad form enters an access of its area and the queue. -/
theorem areaAct_of {es : Nat} {off : BitVec 27} {wr : Bool} (acts : ActsOnce s h m) (room : mqRoom s (coreAt s (bandHere s)) = true)
    (ok : off.toNat % es = 0 ∧ off.toNat + 4096 * es ≤ scrSize s) (k : MatKind) (rd ws : List Nat) :
    areaAct s h es off wr k rd ws = .next (enqMat (s.addAcc (mkAcc s s.cur.u (onceMask s h) (onceMask s h)
      (.scr (bandHere s) off.toNat) (4096 * es) (.mat (coreAt s (bandHere s)) (s.core (coreAt s (bandHere s))).mseq wr)
      .weak 2 [] false .none)) (bandHere s) k rd ws (some s.accSeq)) :=
  onceAll_next acts ((if_neg (not_not.mpr ok.1)).trans ((if_neg (Nat.not_lt.mpr ok.2)).trans (queueAct_of room ..)))

end Once

/-- An instruction of LEV 0 that acts once acts in its group's lanes. -/
theorem ActsOnce.inLanes {s : State} {h : Hdr} {m : Lanes} {gk : Nat} (w : ActsOnce s h m) (lev : h.lev = 0)
    (unit : s.cur.u = .grp gk) : ∃ g, InLanes s h gk g m := by
  obtain ⟨-, gk', g, wl⟩ | ⟨ne, -⟩ := w
  · obtain rfl : gk = gk' := by simpa [unit] using wl.unit
    exact ⟨g, wl⟩
  · exact absurd lev ne

/-! ## The statements -/

/-- Settles O18. -/
theorem operandMapResult : Obligations.OperandMapResult := by
  unfold Obligations.OperandMapResult
  refine ⟨fun s h m acts => ⟨?_, ?_, ?_⟩, fun s b e w => mapNow_eq w⟩
  · intro role lines i4 t d buf p w kb b band ok
    exact ⟨exec_omap_of acts ok, writeMap_band band d _⟩
  · intro role mp off b band x n valid fits aligned inside free
    exact exec_plst_of acts band valid fits aligned inside free
  · exact congrArg (fin s h true) (onceAll_next acts rfl)

/-- Settles O19. -/
theorem matrixMultiplyEntersQueue : Obligations.MatrixMultiplyEntersQueue := by
  unfold Obligations.MatrixMultiplyEntersQueue
  intro s h o op wr ok entered
  refine ⟨fun m b lev acts band room => ?_, ?_, fun bk b steps => ⟨mmaPart_of_ok, fun bad => ?_⟩⟩
  · have enters : ∀ steps, ok b steps → fin s h true (mmaAct s h o steps) = .next (done s h (entered (bandHere s) b steps)) :=
      fun steps pass => congrArg (fin s h true)
        ((mmaAct_lanes lev acts band room pass).trans (congrArg Act.next (mmaPart_of_ok pass)))
    exact ⟨enters 1, enters (o.ks.toNat + 1)⟩
  · intro ck c lev at_ bs room
    have enters := fun steps => congrArg (fin s h true) (mmaAct_bands (o := o) (steps := steps) lev at_ room)
    exact ⟨enters 1, enters (o.ks.toNat + 1)⟩
  · exact ⟨_, rfl, mmaPart_of_bad bad⟩

/-- Settles O20. -/
theorem matrixQueueInstructionsResult : Obligations.MatrixQueueInstructionsResult := by
  unfold Obligations.MatrixQueueInstructionsResult
  intro s h m a d b c row off t acts bk core enters
  refine ⟨fun x queue faults => exec_mwait_of acts queue faults, fun room => ⟨?_, fun f ready => ?_,
    fun r lev gk unit => ?_, ?_⟩⟩
  · exact congrArg (fin s h true) (onceAll_next acts (queueAct_of room ..))
  · refine congrArg (fin s h true) (onceAll_next acts ?_)
    simp only [ready]
    exact queueAct_of room ..
  · obtain ⟨g, w⟩ := acts.inLanes lev unit
    refine ⟨fun e he ready => ?_, fun f wrap ready => congrArg (fin s h true) (rowAct_of w ready room _ _)⟩
    subst he
    exact congrArg (fin s h true) (rowAct_of w ready room _ _)
  · refine ⟨fun ok => ⟨congrArg (fin s h true) (areaAct_of acts room ok ..), congrArg (fin s h true) (areaAct_of acts room ok ..)⟩,
      fun f wrap ok => congrArg (fin s h true) (areaAct_of acts room ok ..)⟩

end Sys2Proof.Machine
end

section
/-! SUPPORT. What conditions and the reports of children resolve to; and the statement about them. -/

namespace Sys2Proof.Machine

/- Proofs that are elaborated beside the tests' long kernel checks would wait for those on a thread, and a stack, each. -/
set_option Elab.async false

/-! ## Reports (R33) -/

/-- Reports that are all empty combine to the empty one. -/
theorem combineReps_empty {rs : List Report} (w : ∀ r ∈ rs, r.k = .empty) : (combineReps rs).k = .empty := by
  have none : rs.filter (fun r => r.k != .empty) = [] := List.filter_eq_nil_iff.mpr (fun r hr => by simp [w r hr])
  rw [combineReps, none]

/-- Reports of which every one that is not empty has one kind combine to that kind. -/
theorem combineReps_common {rs : List Report} {k : RepKind} (notMixed : k ≠ .mixed) (notEmpty : k ≠ .empty)
    (some_ : ∃ r ∈ rs, r.k = k) (all : ∀ r ∈ rs, r.k = .empty ∨ r.k = k) : (combineReps rs).k = k := by
  have same : ∀ r ∈ rs.filter (fun r => r.k != .empty), r.k = k := by
    intro r hr
    obtain ⟨mem, ne⟩ := List.mem_filter.mp hr
    exact (all r mem).resolve_left (by simpa using ne)
  obtain ⟨r, hr, rfl⟩ := some_
  have mem : r ∈ rs.filter (fun r => r.k != .empty) := List.mem_filter.mpr ⟨hr, by simpa using notEmpty⟩
  rw [combineReps]
  cases left : rs.filter (fun r => r.k != .empty) with
  | nil => simp [left] at mem
  | cons a as =>
    rw [left] at same
    have head : a.k = r.k := same a List.mem_cons_self
    have tail : ∀ x ∈ as, x.k = r.k := fun x hx => same x (List.mem_cons_of_mem a hx)
    simp only [head, beq_iff_eq, notMixed, Bool.or_eq_true, List.any_eq_true, bne_iff_ne, false_or]
    exact if_neg (fun ⟨x, hx, ne⟩ => ne (tail x hx))

/-- Two reports of different kinds, neither of them empty, combine to a mixed one. -/
theorem combineReps_mixed {rs : List Report} {a b : Report} (ha : a ∈ rs) (hb : b ∈ rs) (aSome : a.k ≠ .empty) (bSome : b.k ≠ .empty)
    (differ : a.k ≠ b.k) : (combineReps rs).k = .mixed := by
  have ma : a ∈ rs.filter (fun r => r.k != .empty) := List.mem_filter.mpr ⟨ha, by simpa using aSome⟩
  have mb : b ∈ rs.filter (fun r => r.k != .empty) := List.mem_filter.mpr ⟨hb, by simpa using bSome⟩
  rw [combineReps]
  cases left : rs.filter (fun r => r.k != .empty) with
  | nil => simp [left] at ma
  | cons r as =>
    rw [left] at ma mb
    have other : ∃ x ∈ as, x.k ≠ r.k := by
      obtain rfl | ma := List.mem_cons.mp ma
      · obtain rfl | mb := List.mem_cons.mp mb
        · exact absurd rfl differ
        · exact ⟨b, mb, fun e => differ e.symm⟩
      · by_cases e : a.k = r.k
        · obtain rfl | mb := List.mem_cons.mp mb
          · exact absurd e differ
          · exact ⟨b, mb, fun f => differ (e.trans f.symm)⟩
        · exact ⟨a, ma, e⟩
    refine if_pos (Bool.or_eq_true_iff.mpr (.inr (List.any_eq_true.mpr ?_)))
    obtain ⟨x, hx, ne⟩ := other
    exact ⟨x, hx, bne_iff_ne.mpr ne⟩

/-! ## Lane data (R35, R119) -/

/-- Lane `i` of a mask that is gathered lane by lane. -/
theorem getLsbD_gather (p : Nat → Bool) (i : Nat) : ∀ (l : List Nat) (m : Lanes), i < 32 →
    (l.foldl (fun m j => if p j then m ||| BitVec.twoPow 32 j else m) m).getLsbD i = (m.getLsbD i || (decide (i ∈ l) && p i))
  | [], m, _ => by simp
  | j :: l, m, hi => by
    rw [List.foldl_cons, getLsbD_gather p i l _ hi]
    by_cases same : i = j
    · subst same; cases hp : p i <;> simp [hi]
    · cases hp : p j <;> simp [BitVec.getLsbD_twoPow, same, Ne.symm same]

theorem getLsbD_maskOf (p : Nat → Bool) {i : Nat} (hi : i < 32) : (maskOf p).getLsbD i = p i := by
  rw [maskOf, getLsbD_gather p i _ _ hi]; simp [hi]

/-- The lanes of a condition are among those that are looked at. -/
theorem condLanes_sub (g : Group) (o : Opd) (m : Lanes) : m &&& condLanes g o m = condLanes g o m := by
  apply BitVec.eq_of_getLsbD_eq
  intro i hi
  cases o with
  | pred p => simp only [condLanes, BitVec.getLsbD_and, getLsbD_maskOf _ hi, ← Bool.and_assoc, Bool.and_self]
  | vec r => simp only [condLanes, BitVec.getLsbD_and, getLsbD_maskOf _ hi, ← Bool.and_assoc, Bool.and_self]
  | _ => simp [condLanes]

/-- Where no lane is false, every lane is true. -/
theorem condLanes_eq_of_none_false {g : Group} {o : Opd} {m : Lanes} (w : m &&& ~~~condLanes g o m = 0) : condLanes g o m = m := by
  apply BitVec.eq_of_getLsbD_eq
  intro i hi
  have sub := congrArg (fun x => x.getLsbD i) (condLanes_sub g o m)
  have none := congrArg (fun x => x.getLsbD i) w
  simp only [BitVec.getLsbD_and, BitVec.getLsbD_not, hi, decide_true, Bool.true_and] at sub none
  revert sub none
  cases m.getLsbD i <;> cases (condLanes g o m).getLsbD i <;> simp

/-- Lane data of a resident group resolves to what its live lanes show. -/
theorem resolve_lanes {s : State} {lev gk : Nat} {a : Src} {val : Bool} {g : Group} (lower : isLower lev a.o = true)
    (unit : s.cur.u = .grp gk) (grp : s.grp? gk = some g) (here : bandAway s (bandKey g.gc g.b) = false)
    (lane : ∀ l r, a.o ≠ .scal l r) (ready : condCheck s gk g a g.live = none) :
    ∃ seen, resolve s lev a val false = condOfRep s lev [(0, ⟨kindOf (condLanes g a.o g.live != 0)
      (g.live &&& ~~~condLanes g a.o g.live != 0), seen⟩)]
      ⟨kindOf (condLanes g a.o g.live != 0) (g.live &&& ~~~condLanes g a.o g.live != 0), seen⟩ := by
  obtain ⟨feb, o⟩ := a
  cases o <;> first
    | exact absurd rfl (lane _ _)
    | (simp only [resolve, lower, unit, Bool.not_false, Bool.and_self, ↓reduceIte, grpRep, grp, here, Bool.false_eq_true, ready]
       exact ⟨_, rfl⟩)

/-! ## The statement -/

/-- Settles O21: own scalars, the children's reports, a group's own lanes, and what transfers take. -/
theorem conditionsAndReports : Obligations.ConditionsAndReports := by
  unfold Obligations.ConditionsAndReports
  refine ⟨?_, fun rs w => combineReps_empty w, fun rs k m e x a => combineReps_common m e x a,
    fun rs a b ha hb x y d => combineReps_mixed ha hb x y d, ?_, ?_, fun v => ⟨rfl, ?_⟩, fun v => ⟨rfl, ?_⟩, fun cc => rfl⟩
  · intro s lev l r f own high x ready
    have uses : ownUses x 1 = [⟨1, x, 1, 1, true⟩] := rfl
    simp only [resolve, show isLower lev x.o = false from high, uses, ready, Bool.false_and, Bool.false_eq_true, ↓reduceIte]
    exact ⟨_, rfl⟩
  · intro s lev reps r
    refine ⟨?_, ?_, ?_, ?_, ?_⟩
    case refine_5 => exact fun k => ⟨_, by rw [condOfRep, k], rfl, rfl⟩
    all_goals intros; simp only [condOfRep, *]
  · intro s lev a val lower
    refine ⟨fun ck c unit ctx => ?_, fun gk g unit grp here lane ready => ?_⟩
    · simp only [resolve, lower, unit, ctx, Bool.not_false, Bool.and_self, ↓reduceIte]
    · obtain ⟨seen, eq⟩ := resolve_lanes (val := val) lower unit grp here lane ready
      rw [eq]
      generalize kind : kindOf _ _ = k
      refine ⟨fun none => ?_, fun some_ all => ?_, fun some_ no => ?_, fun true_ false_ => ?_⟩
      · have no : condLanes g a.o g.live = 0 := by have := condLanes_sub g a.o g.live; rw [none] at this ⊢; simpa using this.symm
        obtain rfl : RepKind.empty = k := by rw [← kind, no, none]; rfl
        rfl
      · obtain rfl : RepKind.allTrue = k := by
          have out : g.live &&& ~~~g.live = 0 := by simp
          rw [← kind, all, out, bne_iff_ne.mpr some_]; rfl
        rfl
      · obtain rfl : RepKind.allFalse = k := by
          have out : g.live &&& ~~~(0 : Lanes) = g.live := BitVec.and_allOnes
          rw [← kind, no, out, bne_iff_ne.mpr some_]; rfl
        rfl
      · obtain rfl : RepKind.mixed = k := by
          have out := fun w => false_ (condLanes_eq_of_none_false w)
          rw [← kind, bne_iff_ne.mpr true_, bne_iff_ne.mpr out]; rfl
        exact ⟨_, rfl, rfl, rfl⟩
  · by_cases zero : v = 0
    · subst zero; rfl
    · change kindOf (v != 0) (v == 0) = _
      rw [if_neg zero, bne_iff_ne.mpr zero, beq_false_of_ne zero]; rfl
  · exact Bool.not_not (v == 0)

end Sys2Proof.Machine
end

section
/-! SUPPORT. What branches, calls, loops and lane control come to where no check of theirs fails; and the statements about them. -/

namespace Sys2Proof.Machine

/- Proofs that are elaborated beside the tests' long kernel checks would wait for those on a thread, and a stack, each. -/
set_option Elab.async false

@[simp] theorem fin_done (s : State) (h : Hdr) (e : Bool) (t : State) : fin s h e (.done t) = .next (issued s t) := rfl

/-- The look-ups of a transfer leave the instruction in hand. -/
theorem TransferOk.cur {s t : State} {lev : Nat} {ts : List W64} (w : TransferOk s lev ts t) : t.cur = s.cur := by
  have quiet := quiet_checkTgts s (placeOf s s.cur.u) (gcOf s s.cur.u) ts
  rw [w.marked] at quiet
  exact quiet.frame.1

/-! ## Transfers of a context (R121 to R127) -/

section Context

variable {s t : State} {h : Hdr} {ck : Nat} {c : Ctx}

/-- A conditional transfer goes to its target where it takes, else to the next slot. -/
theorem branch_of {cc : Cc} {a : Src} {tgt : BitVec 24} {own : Bool} {v : Option W64} (at_ : AtContext s h ck c)
    (may : TransferOk s (Hdr.lv h) [tgtIa s tgt] t) (cond : resolve s (Hdr.lv h) a false own = .val v false) :
    fin s h true (branch s h cc a tgt own) =
      .next (if takes cc v then doneAt s h t (tgtIa s tgt) else done s h t) := by
  rw [branch, atCtx_of at_, onCond_of (ts := fun _ => [tgtIa s tgt]) cond may]
  split <;> rfl

/-- A call with room for its entry pushes it and goes to its callee. -/
theorem callTo_of {ia : W64} (may : TransferOk s (Hdr.lv h) [ia, iaNext s.cur.ia] t) (depth : c.depth < 80)
    (room : callRoom c = true) (resident : c.depth - c.spilled < 16) :
    callTo s h ck c false ia = .jump (t.updCtx ck (fun x => { x with
      calls := tabSet x.calls x.depth ⟨iaNext s.cur.ia, c.loops.length⟩, depth := x.depth + 1, spilled := c.spilled })) ia := by
  rw [callTo, transfer_of may, if_neg (Nat.not_le.mpr depth), room, pushCall, if_pos resident]
  rfl

/-- A return whose entry is resident pops it, with the loops begun since the call. -/
theorem exec_ret_of {e : CallEnt} (at_ : AtContext s h ck c) (entry : tabGet ⟨0, 0⟩ c.calls (c.depth - 1) = e) (depth : 0 < c.depth)
    (loops : e.loops ≤ c.loops.length) (may : TransferOk s (Hdr.lv h) [e.ret] t)
    (resident : ¬(c.depth - 1 = c.spilled ∧ 0 < c.spilled)) :
    exec (.ret h) s = .next (doneAt s h (t.updCtx ck (fun x => { x with
      depth := x.depth - 1, spilled := c.spilled, loops := x.loops.drop (x.loops.length - e.loops) })) e.ret) := by
  subst entry
  change execRet h s = _
  rw [execRet, atCtx_of at_, if_neg (Nat.pos_iff_ne_zero.mp depth), if_neg (Nat.not_lt.mpr loops), transfer_of may, popCall,
    if_neg resident]
  rfl

/-- A LOOP of no iterations goes to its exit. -/
theorem exec_loop_zero {a : Src} {exit : BitVec 24} (at_ : AtContext s h ck c)
    (cond : resolve s (Hdr.lv h) a true true = .val (some 0) false)
    (may : TransferOk s (Hdr.lv h) [tgtIa s exit, iaNext s.cur.ia] t) :
    exec (.loop h a exit) s = .next (doneAt s h t (tgtIa s exit)) := by
  change execLoop h a exit s = _
  simp only [execLoop, atCtx_of at_, cond, transfer_of may]
  rw [tgtIa, may.cur]
  rfl

/-- A LOOP of some iterations begins its body under a new entry. -/
theorem exec_loop_some {a : Src} {exit : BitVec 24} {v : W64} (at_ : AtContext s h ck c)
    (cond : resolve s (Hdr.lv h) a true true = .val (some v) false)
    (may : TransferOk s (Hdr.lv h) [tgtIa s exit, iaNext s.cur.ia] t) (some_ : v ≠ 0) (small : v.toNat < 2 ^ 32)
    (room : c.loops.length ≠ 8) :
    exec (.loop h a exit) s = .next (doneAt s h (t.updCtx ck (fun x => { x with
      loops := ⟨v.setWidth 32, iaNext s.cur.ia⟩ :: x.loops })) (iaNext s.cur.ia)) := by
  have n : v.toNat ≠ 0 := fun e => some_ (BitVec.eq_of_toNat_eq e)
  have fits : ¬(2 ^ 32 ≤ v.toNat ∨ (v.toNat ≠ 0 ∧ c.loops.length = 8)) := by
    rintro (big | ⟨-, full⟩)
    · exact Nat.not_le.mpr small big
    · exact room full
  change execLoop h a exit s = _
  simp only [execLoop, atCtx_of at_, cond, transfer_of may, Option.getD_some, if_neg fits, if_neg n, Bool.false_eq_true, ↓reduceIte,
    BitVec.ofNat_toNat]
  rfl

/-- The last ENDL of a loop leaves it; an earlier one begins its body again. -/
theorem exec_endl_of {n : W32} {start : W64} {rest : List LoopEnt} (at_ : AtContext s h ck c) (top : c.loops = ⟨n, start⟩ :: rest)
    (inside : loopFloor c < c.loops.length) :
    (n = 1 → exec (.endl h) s = .next (done s h (s.updCtx ck (fun x => { x with loops := rest })))) ∧
    (n ≠ 1 → TransferOk s (Hdr.lv h) [start] t →
      exec (.endl h) s = .next (doneAt s h (t.updCtx ck (fun x => { x with loops := ⟨n - 1, start⟩ :: rest })) start)) := by
  change (_ → execEndl h s = _) ∧ (_ → _ → execEndl h s = _)
  have out : ¬c.loops.length ≤ loopFloor c := Nat.not_le.mpr inside
  rw [execEndl, atCtx_of at_]
  rw [top] at out ⊢
  simp only [if_neg out]
  refine ⟨fun one => ?_, fun more may => ?_⟩
  · subst one; rfl
  · rw [if_pos (fun e => more (BitVec.sub_eq_iff_eq_add.mp e)), transfer_of may]
    rfl

/-- BRK and CONT go on at the next slot where they do not take. -/
theorem exec_brk_cont_untaken {cc : Cc} {a : Src} {off : BitVec 24} {v : Option W64} (at_ : AtContext s h ck c)
    (cond : resolve s (Hdr.lv h) a false false = .val v false) (may : TransferOk s (Hdr.lv h) [tgtIa s off] t)
    (no : takes cc v = false) :
    exec (.brk h cc a off) s = .next (done s h t) ∧ exec (.cont h cc a off) s = .next (done s h t) := by
  change execBrk h cc a off s = _ ∧ execCont h cc a off s = _
  rw [execBrk, execCont, atCtx_of at_, atCtx_of at_]
  simp only [cond, no, Bool.false_and, Bool.false_eq_true, ↓reduceIte, transfer_of may]
  exact ⟨rfl, rfl⟩

/-- BRK leaves the innermost loop of its call and CONT keeps it, where they take. -/
theorem exec_brk_cont_taken {cc : Cc} {a : Src} {off : BitVec 24} {v : Option W64} (at_ : AtContext s h ck c)
    (cond : resolve s (Hdr.lv h) a false false = .val v false) (may : TransferOk s (Hdr.lv h) [tgtIa s off] t)
    (yes : takes cc v = true) (inside : loopFloor c < c.loops.length) :
    exec (.brk h cc a off) s = .next (doneAt s h (t.updCtx ck (fun x => { x with loops := x.loops.tail })) (tgtIa s off)) ∧
    exec (.cont h cc a off) s = .next (doneAt s h t (tgtIa s off)) := by
  change execBrk h cc a off s = _ ∧ execCont h cc a off s = _
  rw [execBrk, execCont, atCtx_of at_, atCtx_of at_]
  simp only [cond, yes, decide_eq_false (Nat.not_le.mpr inside), Bool.and_false, Bool.false_eq_true, ↓reduceIte, transfer_of may]
  exact ⟨rfl, rfl⟩

/-- UNIF goes on once its operand is resolved. -/
theorem exec_unif_of {a : Src} {v : Option W64} (at_ : AtContext s h ck c)
    (cond : resolve s (Hdr.lv h) a (isScal a.o) false = .val v false) : exec (.unif h a) s = .next (done s h s) := by
  change execUnif h a s = _
  rw [execUnif, atCtx_of at_, onCond, cond]
  rfl

/-- LEVSYNC goes on once every access of its subtree is performed. -/
theorem exec_levsync_of (at_ : AtContext s h ck c) (done_ : ∀ x ∈ s.accs, ofSubtree s c.gc c.lvl c.g x = true →
      performedAt x ((s.lrec c.gc).lvl c.lvl).scope = true ∨ x.kind = .fence) :
    exec (.levsync h) s = .next (done s h (if 3 ≤ ((s.lrec c.gc).lvl c.lvl).scope then acquireView s s.cur.u else s)) := by
  have all : (s.accs.filter (ofSubtree s c.gc c.lvl c.g)).all (fun a =>
      performedAt a ((s.lrec c.gc).lvl c.lvl).scope || a.kind == .fence) = true := by
    rw [List.all_eq_true]
    intro x hx
    obtain ⟨mem, mine⟩ := List.mem_filter.mp hx
    rw [Bool.or_eq_true, beq_iff_eq]
    exact done_ x mem mine
  change execLevsync h s = _
  rw [execLevsync, atCtx_of at_]
  exact congrArg (fin s h true) (if_pos all)

end Context

/-! ## Lane control (R12, R36, R122, R128 to R131) -/

section Lanes

variable {s : State} {h : Hdr} {gk : Nat} {g : Group} {m : Lanes} {x : Split}

/-- Changing a listed split under a condition is changing it or not. -/
theorem map_ite_split {p : Prop} [Decidable p] (o : Option Split) (f : Split → Split) :
    o.map (fun x => if p then f x else x) = if p then o.map f else o := by
  by_cases hp : p
  · simp only [if_pos hp]
  · simp only [if_neg hp, Option.map_id']

/-- The active lanes are those of the split in hand whose guard is true. -/
theorem activeOf_curSplit (split : curSplit s g = some x) : activeOf s g h = guardLanes g h (x.mask &&& g.live) := by
  rw [activeOf, split]

/-- What BRL comes to once its operand is ready, its IAs may be transferred to and no poison is consumed. -/
theorem exec_brl_of {cc : Cc} {a : Src} {tgt rcv : BitVec 24} {t : State} (w : InLanes s h gk g m) (split : curSplit s g = some x)
    (ready : checkUses s (.grp gk) 0 m (vecUses a m) [] = none) (may : TransferOk s 0 [tgtIa s tgt, tgtIa s rcv] t)
    (clean : poisonLanes t (.grp gk) 0 (vecUses a m) = 0) :
    exec (.brl h cc a tgt rcv) s = fin s h true
      (if takenLanes cc (condLanes g a.o m) m = 0 then .next t
       else if takenLanes cc (condLanes g a.o m) m = x.mask &&& g.live then .jump t (tgtIa s tgt)
       else match diverge g s.cur.e x (takenLanes cc (condLanes g a.o m) m) (tgtIa s tgt) (tgtIa s rcv) (iaNext s.cur.ia) with
         | none => flt t 0x0B 0 m
         | some (sp, recs) => .done (rejoinCheck (settle (putTable t gk sp recs) gk) gk)) := by
  obtain ⟨unit, grp, lanes, some_⟩ := w
  rw [activeOf_curSplit split] at lanes
  change execBrl h cc a tgt rcv s = _
  rw [execBrl, unit]
  simp only [grp, split, brlAct, lanes, if_neg some_, ready, transfer_of may]
  exact congrArg (fin s h true) ((if_neg (not_not.mpr clean)).trans (by rw [may.cur] <;> rfl))

end Lanes

/-! ## The statements -/

/-- Settles O22. -/
theorem branchAndCallResult : Obligations.BranchAndCallResult := by
  unfold Obligations.BranchAndCallResult
  intro s h ck c at_ lev push callOk
  refine ⟨fun cc a tgt v t may => ⟨branch_of at_ may, branch_of at_ may⟩, fun a ia t cond => ⟨fun may => ?_, fun may ok => ?_⟩,
    fun a cond => ⟨?_, ?_⟩, fun tgt t may ok => ?_, fun e t entry depth loops may resident =>
      exec_ret_of at_ entry depth loops may resident⟩
  · change execJmpi h a s = _
    rw [execJmpi, atCtx_of at_, onCond_of (ts := fun v => v.toList) cond may]
    rfl
  · change execCalli h a s = _
    rw [execCalli, atCtx_of at_, cond]
    exact congrArg (fin s h true) (callTo_of may ok.1 ok.2.1 ok.2.2)
  · change execJmpi h a s = _
    rw [execJmpi, atCtx_of at_, onCond, cond]
    rfl
  · change execCalli h a s = _
    rw [execCalli, atCtx_of at_, cond]
    rfl
  · change execCall h tgt s = _
    rw [execCall, atCtx_of at_]
    exact congrArg (fin s h true) (callTo_of may ok.1 ok.2.1 ok.2.2)

/-- Settles O23. -/
theorem loopAndLevelResult : Obligations.LoopAndLevelResult := by
  unfold Obligations.LoopAndLevelResult
  intro s h lev
  refine ⟨rfl, fun ck c at_ => ⟨fun a exit v t cond may => ⟨fun zero => ?_, fun some_ small room =>
    exec_loop_some at_ cond may some_ small room⟩, fun n start rest t top inside => exec_endl_of at_ top inside,
    fun cc a off v t cond may => ⟨exec_brk_cont_untaken at_ cond may, exec_brk_cont_taken at_ cond may⟩,
    fun a v cond => exec_unif_of at_ cond, exec_levsync_of at_⟩⟩
  subst zero
  exact exec_loop_zero at_ cond may

/-- Settles O24. -/
theorem laneControlResult : Obligations.LaneControlResult := by
  unfold Obligations.LaneControlResult
  intro s h
  refine ⟨fun gk g m w => ⟨?_, ?_, fun lev => ⟨?_, ?_⟩⟩, fun ck c at_ lev => ⟨?_, fun low => ?_, fun high => ?_⟩⟩
  · intro cc a tgt rcv x t split us true_ all ready may clean
    rw [exec_brl_of w split ready may clean]
    refine ⟨fun none => ?_, fun some_ whole => ?_, fun d some_ part split => ?_⟩
    · rw [if_pos none]; rfl
    · rw [if_neg some_, if_pos whole]; rfl
    · rw [if_neg some_, if_neg part, split]; rfl
  · change execRjoin h s = _
    simp only [execRjoin, atLanes_of w, map_ite_split]
    rfl
  · change execExit h s = _
    rw [execExit, if_pos lev, atLanes_of w]
    rfl
  · change execYield h s = _
    rw [execYield, if_pos lev, w.unit]
    simp only [atLanes_of w, map_ite_split]
    rfl
  · change execExit h s = _
    rw [execExit, if_neg lev, atCtx_of at_]
    rfl
  · change execYield h s = _
    rw [execYield, if_neg lev, atCtx_of at_, if_pos low]
    rfl
  · change execYield h s = _
    rw [execYield, if_neg lev, atCtx_of at_, if_neg (Nat.not_le.mpr high)]
    rfl

end Sys2Proof.Machine
end

section
/-! SUPPORT. A grant of VGROW that moves its split to its token beside one that waits at an RJOIN; and the statement that it refutes. -/

namespace Sys2Proof.Machine

/- Proofs that are elaborated beside the tests' long kernel checks would wait for those on a thread, and a stack, each. -/
set_option Elab.async false

/-! ## The step of a grant (R41) -/

/-- A request that fits is granted, and nothing else happens in that step. -/
theorem exec_vgrowGrant_of {s : State} {gk : Nat} {g : Group} (grp : s.grp? gk = some g) (wants : g.vwant ≠ 0) (runs : g.stop = .run)
    (fits : growFits s g g.vwant = true) : exec (.vgrowGrant gk) s = .next (growNow s gk) := by
  have due : growDue s g = true := by simp [growDue, wants, runs, fits]
  change execVgrowGrant gk s = _
  simp only [execVgrowGrant, grp, if_neg wants, due, ↓reduceIte]

/-! ## The counterexample -/

/-- A group of two splits with one token, the slot at IA 1. Entry 0 stands one slot before it in a VGROW of eight registers that waits;
entry 1 waits at an RJOIN. -/
def growGroup1 : Group :=
  { nopGroup with
    splits := [some ⟨0, 1, some 1, 1, none, false, false, .none⟩, some ⟨2, 2, some 1, 1, none, true, false, .none⟩, none, none],
    recs := [], vwant := 8, vent := 0 }

/-- Entry 0 of that group has its VGROW in hand. -/
def growState : State := { nopState.updGrp 0 (fun _ => growGroup1) with cur := ⟨.grp 0, 0, 0, 0⟩ }

/-- Every hypothesis is met: entry 0 has an active lane, and the request fits. -/
theorem growState_meets_hypotheses :
    InLanes growState nopHdr 0 growGroup1 1 ∧ growGroup1.vwant ≠ 0 ∧ growGroup1.stop = .run ∧
      growFits growState growGroup1 growGroup1.vwant = true :=
  ⟨⟨rfl, by decide +kernel, by decide +kernel, by decide⟩, by decide, by decide, by decide +kernel⟩

/-- The grant moves entry 0 to its token, where it waits for entry 1, which waits at its RJOIN: the fault of R130 is taken, and as
the launch has no handler it ends every unit (R172). -/
theorem grant_ends_group : ((growNow growState 0).grp? 0).isNone = true := by
  decide +kernel

/-! ## The statement -/

/-- Refutes O25: its clause on VGROW_GRANT. The move that ends the VGROW can leave every split of the group waiting, one of them at an
RJOIN; the fault of R130 is then taken in the same step, and the group does not stay. -/
theorem not_regionAndGrantResult : ¬ Obligations.RegionAndGrantResult := by
  unfold Obligations.RegionAndGrantResult
  intro h
  obtain ⟨inHand, wants, runs, fits⟩ := growState_meets_hypotheses
  obtain ⟨-, -, -, -, grant⟩ := h growState nopHdr 0 growGroup1 1 inHand
  obtain ⟨t, g', step, stays, -⟩ := grant wants runs fits
  rw [exec_vgrowGrant_of inHand.grp wants runs fits] at step
  obtain rfl : growNow growState 0 = t := by injection step
  have gone := grant_ends_group
  rw [stays] at gone
  contradiction

end Sys2Proof.Machine
end

section
/-! SUPPORT. How members arrive at a barrier, and what its instructions come to; and the statement about them. -/

namespace Sys2Proof.Machine

/- Proofs that are elaborated beside the tests' long kernel checks would wait for those on a thread, and a stack, each. -/
set_option Elab.async false

/-! ## Results that are written once -/

/-- A value is written once where the own scalar's log record fits. -/
theorem putOnce_of_room {s : State} {h : Hdr}
    (room : h.lev ≠ 0 → ∃ c, s.ctx? (ownKey s s.cur.u (Hdr.lv h)) = some c ∧ c.logRoom = true) (m : Lanes) (d : Opd) (n : Nat) (v : W64) :
    putOnce s h m d n v = .next (wroteOnce s h m d n v) := by
  by_cases lev : h.lev = 0
  · simp only [putOnce, wroteOnce, if_pos lev]
    cases s.cur.u <;> rfl
  · obtain ⟨c, ctx, fits⟩ := room lev
    simp only [putOnce, wroteOnce, if_neg lev, ctx]
    cases d <;> simp only [putScal, fits, ↓reduceIte, withScal]

/-- An instruction above the lanes has a context, whose log has room. -/
theorem ActsOnce.room {s : State} {h : Hdr} {act : Lanes} (w : ActsOnce s h act) (fits : LogFits s h) (lev : h.lev ≠ 0) :
    ∃ c, s.ctx? (ownKey s s.cur.u (Hdr.lv h)) = some c ∧ c.logRoom = true := by
  obtain ⟨zero, -⟩ | ⟨-, -, ck, c, rfl, ctx, -⟩ := w
  · exact absurd zero lev
  · exact ⟨c, ctx, fits lev c ctx⟩

theorem putOnce_of {s : State} {h : Hdr} {act : Lanes} (w : ActsOnce s h act) (fits : LogFits s h) (m : Lanes) (d : Opd) (n : Nat)
    (v : W64) : putOnce s h m d n v = .next (wroteOnce s h m d n v) := putOnce_of_room (w.room fits) m d n v

/-- The operand checks of a word's instruction are those of one that acts once. -/
theorem onceReady_word {s : State} {h : Hdr} {m : Lanes} {srcs : List (Nat × Src)} {dst : Lanes → List DUse}
    (w : WordReady s h m srcs (dst m)) (f : Lanes → Act) : onceReady s h 1 srcs dst f = f m := by
  simp only [onceReady, onceRun_of w.acts, onceChecked, w.ready]

/-! ## Arrivals (R351) -/

/-- The fences of a completed barrier change no barrier. -/
theorem barFences_bars (s : State) (ck : Nat) (c : Ctx) : (barFences s ck c).bars = s.bars := by
  by_cases lvl : c.lvl = 1
  · simp only [barFences, if_pos lvl]
    cases s.grp? (grpKeyOf (s.lrec c.gc) c.gc c.g) <;> rfl
  · simp only [barFences, if_neg lvl]
    refine List.foldlRecOn (motive := fun (t : State) => t.bars = s.bars) _ _ rfl (fun t same p _ => ?_)
    rcases p with ⟨i, gk | k⟩
    · cases grp : t.grp? gk <;> simp only [grp] <;> exact same
    · exact same

theorem barFences_bar (s : State) (ck : Nat) (c : Ctx) (k j : Nat) : (barFences s ck c).bar k j = s.bar k j := by
  rw [State.bar, barFences_bars]; rfl

theorem lanesOf_nodup (m : Lanes) : (lanesOf m).Nodup := List.nodup_range.filter _

/-- No member is counted twice. -/
theorem barMembers_nodup (s : State) (c : Ctx) : (barMembers s c).Nodup := by
  by_cases lvl : c.lvl = 1
  · simp only [barMembers, if_pos lvl]
    cases s.grp? (grpKeyOf (s.lrec c.gc) c.gc c.g) with
    | none => exact List.nodup_nil
    | some g => exact (lanesOf_nodup _).map (fun i j e => by simpa [laneMember] using e)
  · simp only [barMembers, if_neg lvl]
    refine (List.nodup_range.filter _).map (fun i j e => ?_)
    simp only [ctxKey] at e
    omega

/-- The arrivals of a barrier after `ms` arrive, of which it keeps those of its members. -/
def barGathered (s : State) (ck j : Nat) (c : Ctx) (ms : List Nat) : List Nat :=
  ((s.bar ck j).arrived ++ ms.filter (fun m => !(s.bar ck j).arrived.contains m)).filter (barMembers s c).contains

theorem mem_barGathered {s : State} {ck j : Nat} {c : Ctx} {ms : List Nat} {x : Nat} :
    x ∈ barGathered s ck j c ms ↔ x ∈ barMembers s c ∧ (x ∈ (s.bar ck j).arrived ∨ x ∈ ms) := by
  simp only [barGathered, List.mem_filter, List.mem_append, List.contains_eq_mem, decide_eq_true_eq, Bool.not_eq_true',
    decide_eq_false_iff_not]
  tauto

theorem barGathered_nodup {s : State} {ck j : Nat} {c : Ctx} {ms : List Nat} (arrived : (s.bar ck j).arrived.Nodup)
    (new : ms.Nodup) : (barGathered s ck j c ms).Nodup := by
  refine (List.Nodup.append arrived (new.filter _) ?_).filter _
  intro x old fresh
  simp [old] at fresh

/-- Every member has arrived exactly where as many have arrived as there are. -/
theorem barGathered_length {s : State} {ck j : Nat} {c : Ctx} {ms : List Nat} (arrived : (s.bar ck j).arrived.Nodup)
    (new : ms.Nodup) : (barGathered s ck j c ms).length = (barMembers s c).length ↔
      ∀ x ∈ barMembers s c, x ∈ (s.bar ck j).arrived ∨ x ∈ ms := by
  have sub : barGathered s ck j c ms ⊆ barMembers s c := fun x hx => (mem_barGathered.mp hx).1
  have subperm := (barGathered_nodup (c := c) arrived new).subperm sub
  constructor
  · intro len x hx
    exact (mem_barGathered.mp ((subperm.perm_of_length_le len.ge).mem_iff.mpr hx)).2
  · intro all
    have back : barMembers s c ⊆ barGathered s ck j c ms := fun x hx => mem_barGathered.mpr ⟨hx, all x hx⟩
    exact le_antisymm subperm.length_le ((barMembers_nodup s c).subperm back).length_le

/-- What arrivals come to: the phase moves on where every member has arrived, else they are gathered. -/
theorem barArrive_eq {s : State} {ck j : Nat} {c : Ctx} {ms : List Nat} (ctx : s.ctx? ck = some c) : ∃ t : State,
    t.accs = s.accs ∧ (∀ k i, t.bar k i = s.bar k i ∨ barKey k i = barKey ck j) ∧
    barArrive s ck j ms =
      if !(barMembers s c).isEmpty && (barGathered s ck j c ms).length == (barMembers s c).length then
        barFences (t.setBar ck j ⟨(s.bar ck j).phase + 1, []⟩) ck c
      else t.setBar ck j { s.bar ck j with arrived := barGathered s ck j c ms } := by
  refine ⟨s.setBar ck j { s.bar ck j with
    arrived := (s.bar ck j).arrived ++ ms.filter (fun m => !(s.bar ck j).arrived.contains m) }, rfl, fun k i => ?_, ?_⟩
  · by_cases same : barKey k i = barKey ck j
    · exact .inr same
    · exact .inl (by rw [setBar_bar, if_neg same])
  · rw [barArrive, barSettle]
    simp only [show ∀ b, (s.setBar ck j b).ctx? ck = some c from fun _ => ctx, setBar_bar, ↓reduceIte]
    rfl

/-! ## The statement -/

/-- Settles O26. -/
theorem barrierResult : Obligations.BarrierResult := by
  unfold Obligations.BarrierResult
  refine ⟨fun s h m j => ?_, ?_⟩
  · intro ck n arrived
    refine ⟨fun w => ⟨fun free none moved => ?_, fun k p woken past => ?_⟩, fun d w free none room => ?_, fun a w past => ?_⟩
    · change execBar h j s = _
      rw [execBar, onceRun_of w, free]
      simp only [barWait]
      rw [if_pos ⟨moved, none⟩]
      rfl
    · change execBar h j s = _
      rw [execBar, onceRun_of w, woken]
      simp only [if_neg (show ¬barPhase s (barHere s h) j.toNat = p from past)]
      rfl
    · change execBara h d j s = _
      rw [execBara, onceReady_word w, free]
      have all : m &&& ~~~(0 : Lanes) = m := BitVec.and_allOnes
      simp only [show barBefore s h (barHere s h) j.toNat m = 0 from none, ne_eq, not_true_eq_false, and_false, ↓reduceIte, all,
        baraPut, putOnce_of w.acts room]
      rfl
    · change execBarw h a j s = _
      rw [execBarw, onceReady_of w, unlessPoison_of w.clean]
      exact congrArg (fin s h true) (if_neg past)
  · intro s ck j c ms ctx small arrived new b all t
    obtain ⟨u, accs, others, eq⟩ := barArrive_eq (ms := ms) (j := j) ctx
    have len := barGathered_length (c := c) arrived new
    refine ⟨fun some_ full => ?_, fun ⟨x, mem, notOld, notNew⟩ => ?_, fun ck' j' small' differ => ?_⟩
    · have here : barArrive s ck j ms = _ := eq.trans (if_pos ?_)
      · rw [show t = _ from here, barFences_bar, setBar_bar, if_pos rfl]
      · rw [Bool.and_eq_true, beq_iff_eq, Bool.not_eq_true', List.isEmpty_eq_false_iff]
        exact ⟨some_, len.mpr full⟩
    · have here : barArrive s ck j ms = _ := eq.trans (if_neg ?_)
      · rw [show t = _ from here, setBar_bar, if_pos rfl]
        exact ⟨rfl, accs, fun x => mem_barGathered⟩
      · rw [Bool.and_eq_true, beq_iff_eq, len]
        exact fun full => (full.2 x mem).elim notOld notNew
    · have key : barKey ck' j' ≠ barKey ck j := by
        simp only [barKey]; omega
      have kept := (others ck' j').resolve_right key
      rw [show t = _ from eq]
      split
      · rw [barFences_bar, setBar_bar, if_neg key, kept]
      · rw [setBar_bar, if_neg key, kept]

end Sys2Proof.Machine
end

section
/-! SUPPORT. Futures and lock words in their bytes, and what a write at home leaves of memory; and the statement about them. -/

namespace Sys2Proof.Machine

/- Proofs that are elaborated beside the tests' long kernel checks would wait for those on a thread, and a stack, each. -/
set_option Elab.async false

/-! ## Fields -/

/-- A number of two parts: what is below the cut, and what is above it. -/
theorem cut_at (n : Nat) {a v b : Nat} (below : a < n) (parts : v = a + n * b) : v % n = a ∧ v / n = b := by
  rw [parts, Nat.add_mul_mod_self_left, Nat.mod_eq_of_lt below, Nat.add_mul_div_left _ _ (Nat.zero_lt_of_lt below),
    Nat.div_eq_of_lt below, Nat.zero_add]
  exact ⟨rfl, rfl⟩

theorem b2n_lt (b : Bool) : b2n b < 2 := by cases b <;> decide

theorem b2n_beq (b : Bool) : (b2n b == 1) = b := by cases b <;> rfl

/-- The fields of a lock word (R361). -/
theorem lockWord_fields {nwait holder : Nat} (held : Bool) (waiting : nwait < 65536) (id : holder < 2 ^ 30) :
    lockWait (lockWord nwait held holder) = nwait ∧ lockHeld (lockWord nwait held holder) = held ∧
      lockHolder (lockWord nwait held holder) = holder ∧ lockWord nwait held holder < 2 ^ 64 := by
  have flag := b2n_lt held
  rw [lockWord, Nat.mod_eq_of_lt waiting, Nat.mod_eq_of_lt id]
  generalize word : nwait * 2 ^ 32 + b2n held * 2 ^ 30 + holder = w
  have ⟨low, high⟩ := cut_at (2 ^ 30) id (show w = holder + 2 ^ 30 * (b2n held + 2 * (2 * nwait)) by omega)
  have ⟨_, top⟩ := cut_at (2 ^ 32) (show holder + 2 ^ 30 * b2n held < 2 ^ 32 by omega)
    (show w = holder + 2 ^ 30 * b2n held + 2 ^ 32 * nwait by omega)
  refine ⟨?_, ?_, ?_, by omega⟩
  rotate_left 2
  · rw [lockHolder, bitsOf, Nat.pow_zero, Nat.div_one]
    exact low
  · rw [lockWait, bitsOf, top]
    exact Nat.mod_eq_of_lt waiting
  · rw [lockHeld, bitOf, high, (cut_at 2 flag rfl).1, b2n_beq]

/-- The sixteen bytes of a future hold its fields (R356). -/
theorem futOf_futBytes {f : Fut} (id : f.owner < 2 ^ 30) : futOf (futBytes f) = f := by
  obtain ⟨value, full, orph, wreg, ownv, owner⟩ := f
  replace id : owner < 2 ^ 30 := id
  have small : ∀ {a b c : Nat}, a < 2 → b < 2 → c < 2 → a + 2 * (b + 2 * c) < 8 := by omega
  have bits := small (b2n_lt full) (b2n_lt orph) (b2n_lt wreg)
  rw [futOf, futBytes, leNat_leBytes, Nat.mod_eq_of_lt id]
  generalize word : value.toNat + owner * 2 ^ 64 + b2n ownv * 2 ^ 94 + b2n full * 2 ^ 96 + b2n orph * 2 ^ 97 + b2n wreg * 2 ^ 98 = w
  generalize high : b2n full + 2 * (b2n orph + 2 * b2n wreg) = x at bits
  have v := value.isLt
  have flag := b2n_lt ownv
  have parts : w = value.toNat + 2 ^ 64 * (owner + 2 ^ 30 * (b2n ownv + 4 * x)) := by omega
  clear word
  rw [Nat.mod_eq_of_lt (show w < 256 ^ 16 by omega)]
  have above : ∀ (n m : Nat) {x y : Nat}, w / 2 ^ n = y → y / 2 ^ m = x → w / 2 ^ (n + m) = x := by
    intro n m x y h k
    rw [Nat.pow_add, ← Nat.div_div_eq_div_mul, h, k]
  have ⟨low, r64⟩ := cut_at (2 ^ 64) v parts
  have r94 : w / 2 ^ 94 = b2n ownv + 4 * x := above 64 30 r64 (cut_at (2 ^ 30) id rfl).2
  have r96 : w / 2 ^ 96 = x := above 94 2 r94 (cut_at 4 (Nat.lt_trans flag (by decide)) rfl).2
  have r97 : w / 2 ^ 97 = b2n orph + 2 * b2n wreg := above 96 1 r96 (cut_at 2 (b2n_lt full) high.symm).2
  have r98 : w / 2 ^ 98 = b2n wreg := above 97 1 r97 (cut_at 2 (b2n_lt orph) rfl).2
  rw [Fut.mk.injEq]
  refine ⟨BitVec.eq_of_toNat_eq ?_, ?_, ?_, ?_, ?_, ?_⟩
  · rw [BitVec.toNat_ofNat, bitsOf, Nat.pow_zero, Nat.div_one, Nat.mod_mod]
    exact low
  · rw [bitOf, r96, ← high, (cut_at 2 (b2n_lt full) rfl).1, b2n_beq]
  · rw [bitOf, r97, (cut_at 2 (b2n_lt orph) rfl).1, b2n_beq]
  · rw [bitOf, r98, Nat.mod_eq_of_lt (b2n_lt wreg), b2n_beq]
  · rw [bitOf, r94, (cut_at 2 (b := 2 * x) flag (by omega)).1, b2n_beq]
  · rw [bitsOf, r64]
    exact (cut_at (2 ^ 30) id rfl).1

/-! ## Bytes at home -/

/-- Bytes that stand one after the other are read back. -/
theorem memRead_eq {m : List Host.Cell} : ∀ (bs : List Byte) (a : Nat), (∀ i (h : i < bs.length), memByte m (a + i) = bs[i]) →
    memRead m a bs.length = bs
  | [], _, _ => rfl
  | b :: bs, a, w => by
    refine congrArg₂ List.cons (w 0 (Nat.zero_lt_succ _)) (memRead_eq bs (a + 1) (fun i h => ?_))
    rw [Nat.add_assoc, Nat.add_comm 1 i]
    exact w (i + 1) (Nat.succ_lt_succ h)

theorem memRead_memWrite (m : List Host.Cell) (a : Nat) (bs : List Byte) : memRead (memWrite m a bs) a bs.length = bs :=
  memRead_eq bs a (fun i h => memByte_write_in m a i bs h)

theorem leBytes_length (n v : Nat) : (leBytes n v).length = n := by
  induction n generalizing v with
  | zero => rfl
  | succ n ih => exact congrArg Nat.succ (ih (v / 256))

/-- A write at home changes the bytes written and no other. -/
theorem homeWrite_mem (s : State) (pa : Nat) (bs : List Byte) (poi : Bool) : (homeWrite s pa bs poi).mem = memWrite s.mem pa bs := by
  refine List.foldlRecOn (motive := fun (t : State) => t.mem = memWrite s.mem pa bs) _ _ rfl (fun t same k _ => ?_)
  have event := (quiet_sectorEvent t (32 * k)).frame.2.1.trans same
  have kept : ∀ b : Bool, (if b then t else sectorEvent t (32 * k)).mem = memWrite s.mem pa bs := by
    rintro (_ | _)
    · exact event
    · exact same
  have marked : ∀ (u : State) (b c : Bool), (if b then poisonSec u k else if c then clearSec u k else u).mem = u.mem := by
    rintro u (_ | _) (_ | _) <;> rfl
  exact (marked _ _ _).trans (kept _)

theorem homePut_mem (s : State) (pa n v : Nat) : (homePut s pa n v).mem = memWrite s.mem pa (leBytes n v) := homeWrite_mem ..

/-- Waking parked units changes no memory. -/
theorem wakeScan_mem (s : State) : (wakeScan s).mem = s.mem := by
  refine List.foldlRecOn (motive := fun (t : State) => t.mem = s.mem) _ _ rfl (fun t same p _ => ?_)
  split
  · unfold makeReady
    split
    · exact same
    · split <;> exact same
  · exact same

theorem unhold_mem (s : State) (c pa n : Nat) : (unhold s c pa n).mem = s.mem := rfl

theorem pushPut_mem (s : State) (core : Option Nat) (pa v : Nat) : (pushPut s core pa v).mem = memWrite s.mem pa (leBytes 8 v) := by
  refine (wakeScan_mem _).trans ?_
  cases core with
  | none => exact homePut_mem s pa 8 v
  | some c => exact (unhold_mem _ c pa 8).trans (homePut_mem s pa 8 v)

/-- What a step of a push that writes a word leaves. -/
theorem pushPut_word (s : State) (core : Option Nat) {pa v : Nat} (small : v < 2 ^ 64) : homeGet (pushPut s core pa v) pa 8 = v ∧
    ∀ a, (a < pa ∨ pa + 8 ≤ a) → memByte (pushPut s core pa v).mem a = memByte s.mem a := by
  rw [homeGet, pushPut_mem]
  refine ⟨?_, fun a out => memByte_write_out _ _ _ _ (by rwa [leBytes_length])⟩
  have bytes := memRead_memWrite s.mem pa (leBytes 8 v)
  rw [leBytes_length] at bytes
  rw [memNat, bytes, leNat_leBytes]
  exact Nat.mod_eq_of_lt (show v < 256 ^ 8 by omega)

/-! ## The statement -/

/-- Settles O27. -/
theorem synchronisationWordsReadBack : Obligations.SynchronisationWordsReadBack := by
  unfold Obligations.SynchronisationWordsReadBack
  refine ⟨⟨fun f id => futOf_futBytes id, fun nwait held holder waiting id => lockWord_fields held waiting id⟩,
    fun s core x pax pah hd => ⟨fun bad => ?_, fun clean => ?_, fun small => ?_, fun clean same => ?_, fun clean differ => ?_⟩⟩
  · rw [pushStep, pushStep, bad]
    exact ⟨rfl, rfl⟩
  · rw [pushStep, clean]
    exact ⟨_, rfl, (quiet_readCheck s pah 8).frame.2.1⟩
  · exact ⟨_, rfl, pushPut_word s core small⟩
  · rw [pushStep, clean, same]
    exact ⟨pushPut s core pah x.toNat, by rw [if_neg Bool.false_ne_true, if_pos rfl], pushPut_word s core x.isLt⟩
  · rw [pushStep, clean, if_neg differ]
    rfl

end Sys2Proof.Machine
end

section
/-! SUPPORT. What the instructions on tasks, futures, counters and locks come to; and the statements about them. -/

namespace Sys2Proof.Machine

/- Proofs that are elaborated beside the tests' long kernel checks would wait for those on a thread, and a stack, each. -/
set_option Elab.async false

/-- The element behind a list is the one replaced at its length. -/
theorem setNth_middle {α : Type} (l r : List α) (x y : α) : setNth (l ++ x :: r) l.length y = l ++ y :: r := by
  induction l with
  | nil => rfl
  | cons a l ih => exact congrArg (a :: ·) ih

section Words

variable {s t : State} {h : Hdr} {m : Lanes} {a b : Src} {pa : Nat}

/-- A word that meets no fault with the poison of some operands meets none without. -/
theorem WordOk.bare {width : Nat} {wr : Bool} {uses : List Use} {va : W64} (w : WordOk s h width wr uses va t pa) :
    WordOk s h width wr [] va t pa := by
  obtain ⟨⟨form, aligned, mapped, -⟩, home, clean⟩ := w
  exact ⟨⟨form, aligned, mapped, rfl⟩, home, clean⟩

/-- Operands without poison leave the step as it is. -/
theorem poisonLast_of {srcs : List (Nat × Src)} (clean : checkPoison s s.cur.u (Hdr.lv h) (scalUses h srcs) = none) (x : Act) :
    poisonLast s h srcs x = x := by
  unfold poisonLast
  rw [clean, Option.getD_none, ite_self]

/-- A wait changes the groups and the contexts alone. -/
theorem setWait_eq (s : State) (lev : Nat) (w : WaitSt) : ∃ gs cs, setWait s lev w = { s with groups := gs, ctxs := cs } := by
  unfold setWait
  split <;> exact ⟨_, _, rfl⟩

/-! ## Futures (R356 to R359) -/

/-- The step of FWAIT on a full future takes its value. -/
theorem fwaitStep_full {ck : Nat} {r : BitVec 5} (clean : badRange s pa 16 = false) (full : (futGet s pa).full = true) :
    fwaitStep s h ck pa r =
      .next (acquireHere (setCtxWait (s.updCtx ck (fun c => c.put r ⟨(futGet s pa).value, true, false⟩)) ck .none)) := by
  simp only [fwaitStep, badWord, clean, full, Bool.false_eq_true, ↓reduceIte]

theorem exec_fwrite_of (ready : WordReady s h m [(1, a), (2, b)] []) (word : WordOk s h 16 true [] (scalHere s h a) t pa)
    (drained : onceDrained t h 5 = true) (empty : (futGet t pa).full = false)
    (clean : checkPoison t t.cur.u (Hdr.lv h) (scalUses h [(1, a), (2, b)]) = none) :
    exec (.fwrite h a b) s = .next (done s h (futFill t pa (scalHere s h b) false)) := by
  change execFwrite h a b s = _
  rw [execFwrite, atWord_of ready, wordGo_of word]
  simp only [drained, badWord_of word, empty, clean, Bool.not_true, Bool.false_eq_true, ↓reduceIte]
  rfl

/-- FWAIT on a full future takes its value at once, its scalar having been emptied first. -/
theorem exec_fwait_now {l : BitVec 3} {r : BitVec 5} {c : Ctx} (fresh : waitOf s (Hdr.lv h) = .none)
    (ready : WordReady s h m [(1, a)] [⟨.scal l r, 1, 1⟩]) (word : WordOk s h 16 false (scalUses h [(1, a)]) (scalHere s h a) t pa)
    (ctx : t.ctx? (ctxHere s h) = some c) (room : c.logRoom = true)
    (room' : (c.write r ⟨(c.cell r).v, false, false⟩).logRoom = true) (full : (futGet t pa).full = true) {u : State}
    (marked : u = setWait (t.updCtx (ctxHere s h) (fun x =>
      (x.write r ⟨(c.cell r).v, false, false⟩).write r ⟨(c.cell r).v, false, false⟩)) (Hdr.lv h) (.fwait pa r (c.cell r).v (c.cell r).full)) :
    exec (.fwait h (.scal l r) a) s = .next (done s h (acquireHere
      (setCtxWait (u.updCtx (ctxHere s h) (fun c => c.put r ⟨(futGet t pa).value, true, false⟩)) (ctxHere s h) .none))) := by
  have kept : badRange u pa 16 = badRange t pa 16 ∧ futGet u pa = futGet t pa := by
    obtain ⟨gs, cs, eq⟩ := setWait_eq (t.updCtx (ctxHere s h) (fun x =>
      (x.write r ⟨(c.cell r).v, false, false⟩).write r ⟨(c.cell r).v, false, false⟩)) (Hdr.lv h)
      (.fwait pa r (c.cell r).v (c.cell r).full)
    rw [marked, eq]
    exact ⟨rfl, rfl⟩
  have step := fwaitStep_full (h := h) (ck := ctxHere s h) (r := r) (kept.1.trans word.clean) (by rw [kept.2, full])
  change execFwait h (.scal l r) a s = _
  simp only [execFwait, fresh, atWord_of ready, wordGo_of word.bare, ctx, poisonLast_of word.reach.clean, emptyScal_of room room']
  rw [kept.2] at step
  subst marked
  exact congrArg (fin s h true) step

/-- A wait that a write has ended takes the value. -/
theorem exec_fwait_woken {d : Opd} {r : BitVec 5} {old : W64} {full' : Bool} (acts : ActsOnce s h m)
    (wait : waitOf s (Hdr.lv h) = .fwait pa r old full') (woken : asleep s (ctxHere s h) pa 0x3FFFFFFF = false)
    (clean : badRange s pa 16 = false) (full : (futGet s pa).full = true) :
    exec (.fwait h d a) s = .next (done s h (acquireHere
      (setCtxWait (s.updCtx (ctxHere s h) (fun c => c.put r ⟨(futGet s pa).value, true, false⟩)) (ctxHere s h) .none))) := by
  change execFwait h d a s = _
  simp only [execFwait, wait, onceRun_of acts, woken, Bool.false_eq_true, ↓reduceIte, fwaitStep_full clean full]
  rfl

theorem exec_ftest_of {d : BitVec 4} (ready : WordReady s h m [(1, a)] [])
    (word : WordOk s h 16 false (scalUses h [(1, a)]) (scalHere s h a) t pa) :
    exec (.ftest h .full d a) s = .next (done s h (if (futGet t pa).full then acquireHere (putPred t h 0 d (futGet t pa).full)
      else putPred t h 0 d (futGet t pa).full)) ∧
    exec (.ftest h .orph d a) s = .next (done s h (putPred t h 0 d (futGet t pa).orph)) := by
  change execFtest h .full d a s = _ ∧ execFtest h .orph d a s = _
  simp only [execFtest, atWord_of ready, wordGo_of word, badWord_of word, reduceCtorEq, true_and, false_and, ↓reduceIte]
  exact ⟨rfl, rfl⟩

theorem exec_cntwt_of (fresh : waitOf s (Hdr.lv h) = .none) (ready : WordReady s h m [(1, a), (2, b)] [])
    (word : WordOk s h 8 false (scalUses h [(1, a), (2, b)]) (scalHere s h a) t pa)
    (reached : (scalHere s h b).toNat ≤ homeGet t pa 8) :
    exec (.cntwt h a b) s = .next (done s h (acquireHere (setCtxWait (dropWake t pa (ctxHere s h)) (ctxHere s h) .none))) := by
  change execCntwt h a b s = _
  simp only [execCntwt, fresh, atWord_of ready, wordGo_of word, badWord_of word, reached, ↓reduceIte]
  rfl

/-! ## Tasks (R354, R355) -/

theorem exec_tspawn_of {x : Band} (ready : WordReady s h m [(1, a)] []) (form : vaOk (scalHere s h a) = true)
    (aligned : (scalHere s h a).toNat % 128 = 0) (clean : checkPoison s s.cur.u (Hdr.lv h) (scalUses h [(1, a)]) = none)
    (drained : onceDrained s h 5 = true) (band : s.band? (bandHere s) = some x) (room : x.pend.length < 4) :
    exec (.tspawn h a) s = .next (done s h (s.updBand (bandHere s) (fun b => { b with
      pend := b.pend ++ [(scalHere s h a, false)] }))) := by
  change execTspawn h a s = _
  simp only [execTspawn, atWord_of ready, form, aligned, clean, drained, band, decide_eq_false (Nat.not_le.mpr room), ne_eq,
    not_true_eq_false, Bool.not_true, Bool.or_self, Bool.false_eq_true, ↓reduceIte]
  rfl

/-! ## Locks (R361 to R364) -/

theorem exec_lock_of {u : State} (fresh : waitOf s (Hdr.lv h) = .none) (ready : WordReady s h m [(1, a)] [])
    (word : WordOk s h 8 true (scalUses h [(1, a)]) (scalHere s h a) t pa) (taken : lockTry t pa (taskHere t) = some u) :
    exec (.lock h a) s = .next (done s h (acquireHere (setCtxWait u (ctxHere s h) .none))) := by
  change execLock h a s = _
  simp only [execLock, fresh, atWord_of ready, wordGo_of word.bare, poisonLast_of word.reach.clean, badWord_of word, taken]
  rfl

theorem exec_trylock_of {d : BitVec 4} (ready : WordReady s h m [(1, a)] [])
    (word : WordOk s h 8 true (scalUses h [(1, a)]) (scalHere s h a) t pa) :
    (∀ u, lockTry t pa (taskHere t) = some u →
      exec (.trylock h d a) s = .next (done s h (acquireHere (putPred u h 0 d true)))) ∧
    (lockTry t pa (taskHere t) = none → exec (.trylock h d a) s = .next (done s h (putPred t h 0 d false))) := by
  change (∀ u, _ → execTrylock h d a s = _) ∧ (_ → execTrylock h d a s = _)
  simp only [execTrylock, atWord_of ready, wordGo_of word, badWord_of word]
  exact ⟨fun u taken => by rw [taken]; rfl, fun held => by rw [held]; rfl⟩

/-- UNLOCK takes its step once its earlier accesses are performed. -/
theorem exec_unlock_of (ready : WordReady s h m [(1, a)] []) (word : WordOk s h 8 true (scalUses h [(1, a)]) (scalHere s h a) t pa)
    (drained : onceDrained t h 5 = true) : exec (.unlock h a) s = .next (done s h (unlockStep t pa)) := by
  change execUnlock h a s = _
  simp only [execUnlock, atWord_of ready, wordGo_of word, drained, badWord_of word, Bool.not_true, Bool.false_eq_true, ↓reduceIte]
  rfl

/-- A task that does not hold the lock, whose holder has not retired, changes nothing. -/
theorem unlockStep_other (w : lockHeld (homeGet t pa 8) = false ∨ (lockHolder (homeGet t pa 8) ≠ taskHere t ∧
    retiredId t (t.task (gcOf t t.cur.u)) (lockHolder (homeGet t pa 8)) = false)) : unlockStep t pa = t := by
  unfold unlockStep
  obtain free | ⟨other, alive⟩ := w
  · simp only [free, Bool.false_and, Bool.not_false, ↓reduceIte]
  · simp only [beq_false_of_ne other, alive, Bool.or_self, Bool.and_false, Bool.not_false, ↓reduceIte]

section Holder

variable (held : lockHeld (homeGet t pa 8) = true) (mine : lockHolder (homeGet t pa 8) = taskHere t)
include held mine

/-- The holder frees a lock on which no slot waits. -/
theorem unlockStep_free (none_ : ∀ w ∈ t.wakes, (w.slot && w.pa == pa && !w.full) = false) : unlockStep t pa = lockPut t pa 0 := by
  have search : t.wakes.find? (fun w => w.slot && w.pa == pa && !w.full) = none :=
    List.find?_eq_none.mpr (fun w hw => by rw [none_ w hw]; decide)
  have index : t.wakes.findIdx? (fun w => w.slot && w.pa == pa && !w.full) = none := List.findIdx?_eq_none_iff.mpr none_
  unfold unlockStep
  simp only [held, mine, search, index, beq_self_eq_true, Bool.true_or, Bool.and_self, Bool.not_true, Bool.false_eq_true, ↓reduceIte]

/-- The holder hands a lock over to the oldest slot that waits. -/
theorem unlockStep_hand {l r : List Wake} {w : Wake} (split : t.wakes = l ++ w :: r)
    (before : ∀ x ∈ l, (x.slot && x.pa == pa && !x.full) = false) (waits : (w.slot && w.pa == pa && !w.full) = true)
    (some_ : lockWait (homeGet t pa 8) ≠ 0) :
    unlockStep t pa = lockPut { t with wakes := l ++ { w with full := true } :: r } pa
      (lockWord (lockWait (homeGet t pa 8) - 1) true w.task) := by
  have first : l.find? (fun w => w.slot && w.pa == pa && !w.full) = none :=
    List.find?_eq_none.mpr (fun x hx => by rw [before x hx]; decide)
  have search : t.wakes.find? (fun w => w.slot && w.pa == pa && !w.full) = some w := by
    rw [split, List.find?_append, first, Option.none_or]
    exact List.find?_cons_of_pos (p := fun w : Wake => w.slot && w.pa == pa && !w.full) waits
  have index : t.wakes.findIdx? (fun w => w.slot && w.pa == pa && !w.full) = some l.length := by
    rw [split, List.findIdx?_append, List.findIdx?_eq_none_iff.mpr before, Option.none_or, List.findIdx?_cons, if_pos waits]
    simp
  unfold unlockStep
  simp only [held, mine, search, index, beq_self_eq_true, Bool.true_or, Bool.and_self, Bool.not_true, Bool.false_eq_true, ↓reduceIte,
    if_neg some_]
  rw [split, setNth_middle]

end Holder

end Words

/-! ## The statements -/

/-- Settles O28. -/
theorem taskAndFutureResult : Obligations.TaskAndFutureResult := by
  unfold Obligations.TaskAndFutureResult
  intro s h m
  refine ⟨fun a b ready form aligned clean drained band room => exec_tspawn_of ready form aligned clean drained band room,
    fun d ready room => ?_, fun a b t pa ready word drained empty clean => exec_fwrite_of ready word drained empty clean,
    fun a l r t pa c fresh ready word ctx room room' full => exec_fwait_now fresh ready word ctx room room' full rfl,
    fun a d r pa old full' acts wait woken clean full => exec_fwait_woken acts wait woken clean full,
    fun a d t pa ready word => exec_ftest_of ready word,
    fun a b t pa fresh ready word reached => exec_cntwt_of fresh ready word reached⟩
  change execTself h d s = _
  rw [execTself, atWord_of ready, putOnce_of ready.acts room]
  rfl

/-- Settles O29. -/
theorem lockResult : Obligations.LockResult := by
  unfold Obligations.LockResult
  intro s h m me ck
  refine ⟨fun pa empty => ?_, fun pa full => ?_, fun a t pa u ready word => ⟨fun fresh taken => exec_lock_of fresh ready word taken,
    fun d => ⟨(exec_trylock_of ready word).1 u, (exec_trylock_of ready word).2⟩, fun drained => ?_⟩⟩
  · cases held : lockHeld (homeGet s pa 8) <;> simp [lockTry, empty, held]
  · simp [lockTry, full]
  · simp only [exec_unlock_of ready word drained]
    refine ⟨fun other => by rw [unlockStep_other other], fun held mine => ⟨fun none_ => by rw [unlockStep_free held mine none_],
      fun l w r split before waits some_ => by rw [unlockStep_hand held mine split before waits some_]⟩⟩

end Sys2Proof.Machine
end

section
/-! SUPPORT. What the instructions on pins and on the deferred list come to, with the steps behind them; and the statements about them. -/

namespace Sys2Proof.Machine

/- Proofs that are elaborated beside the tests' long kernel checks would wait for those on a thread, and a stack, each. -/
set_option Elab.async false

/-! ## Pins (R367, R372) -/

section Pins

variable {s : State} {h : Hdr} {m : Lanes} {q : BitVec 2} {a : Src} {gk : Nat} {g : Group}

theorem pinGrp_of (unit : s.cur.u = .grp gk) (grp : s.grp? gk = some g) : pinGrp s = some (gk, g) := by
  rw [pinGrp, unit]
  simp only [grp, Option.map_some]

/-- PIN replaces the value and keeps the shadow. -/
theorem exec_pin_of (unit : s.cur.u = .grp gk) (grp : s.grp? gk = some g) (ready : OnceReady s h m 2 [(1, a)] []) :
    exec (.pin h q a) s =
      .next (done s h (s.updGrp gk (fun _ => g.setPin q.toNat ⟨onceVal s h m 0 a.o, (g.pin q.toNat).shadow⟩))) :=
  congrArg (fin s h true) (withName_of ready (pinGrp_of unit grp) _)

/-- PINX with no shadow in use moves the old value there, behind a fence unless it is empty. -/
theorem exec_pinx_of (unit : s.cur.u = .grp gk) (grp : s.grp? gk = some g) (ready : OnceReady s h m 2 [(1, a)] [])
    (free : (g.pin q.toNat).shadow = 0) {t : State}
    (put : t = s.updGrp gk (fun _ => g.setPin q.toNat ⟨onceVal s h m 0 a.o, (g.pin q.toNat).v⟩)) :
    exec (.pinx h q a) s = .next (done s h (if (g.pin q.toNat).v = 0 then t else t.addAcc (pinFence t gk q.toNat))) := by
  subst put
  change execPinx h q a s = _
  rw [execPinx, withName_of ready (pinGrp_of unit grp)]
  exact congrArg (fin s h true) (if_neg (not_not.mpr free))

/-- UNPIN of an empty pin does nothing; of another with no shadow in use it moves the value there, behind a fence. -/
theorem exec_unpin_of (unit : s.cur.u = .grp gk) (grp : s.grp? gk = some g) (acts : ActsOnce s h m) :
    ((g.pin q.toNat).v = 0 → exec (.unpin h q) s = .next (done s h s)) ∧
    ∀ t, (g.pin q.toNat).v ≠ 0 → (g.pin q.toNat).shadow = 0 → t = s.updGrp gk (fun _ => g.setPin q.toNat ⟨0, (g.pin q.toNat).v⟩) →
      exec (.unpin h q) s = .next (done s h (t.addAcc (pinFence t gk q.toNat))) := by
  change (_ → execUnpin h q s = _) ∧ ∀ t, _ → _ → _ → execUnpin h q s = _
  rw [execUnpin, onceRun_of acts, pinGrp_of unit grp]
  refine ⟨fun empty => congrArg (fin s h true) (if_pos empty), fun t some_ free put => ?_⟩
  subst put
  exact congrArg (fin s h true) ((if_neg some_).trans (if_neg (not_not.mpr free)))

/-- A withdrawal of a living group's shadow, once its fence is gone. -/
theorem exec_shadowWithdraw_living {q : Nat} (grp : s.grp? gk = some g) (alive : groupOver s g = false)
    (used : (g.pin q).shadow ≠ 0) (free : pinWaits s gk q = false) : exec (.shadowWithdraw gk q) s =
      .next (reapBand ((dropDead s gk).updGrp gk (fun g => g.setPin q ⟨(g.pin q).v, 0⟩)) g.gc g.b) := by
  have past : groupOver (dropDead s gk) g = false := alive
  have waits : pinWaits (dropDead s gk) gk q = false := free
  change execShadowWithdraw gk q s = _
  simp only [execShadowWithdraw, show (dropDead s gk).grp? gk = some g from grp, past, waits, used, Bool.false_eq_true, false_and,
    or_self, ↓reduceIte]

/-- A withdrawal of an ended group's pin, once its fence is gone and its accesses are performed. -/
theorem exec_shadowWithdraw_ended {q : Nat} (grp : s.grp? gk = some g) (ended : groupOver s g = true)
    (used : (g.pin q).shadow ≠ 0 ∨ (g.pin q).v ≠ 0) (free : pinWaits s gk q = false)
    (drained : ∀ a ∈ s.accs, a.by_ = .unit (.grp gk) → a.kind ≠ .fence → performedAt a 5 = true) :
    exec (.shadowWithdraw gk q) s = .next (reapBand ((dropDead s gk).updGrp gk (fun g => g.setPin q ⟨0, 0⟩)) g.gc g.b) := by
  have past : groupOver (dropDead s gk) g = true := ended
  have waits : pinWaits (dropDead s gk) gk q = false := free
  have own : ((dropDead s gk).accs.filter (fun a => a.by_ == .unit (.grp gk) && a.kind != .fence)).all
      (fun a => performedAt a 5) = true := by
    rw [List.all_eq_true]
    intro x hx
    obtain ⟨mem, mine⟩ := List.mem_filter.mp hx
    obtain ⟨by_, kind⟩ := Bool.and_eq_true_iff.mp mine
    exact drained x mem (eq_of_beq by_) (bne_iff_ne.mp kind)
  have idle : ¬((g.pin q).shadow = 0 ∧ (g.pin q).v = 0) := fun ⟨a, b⟩ => used.elim (· a) (· b)
  change execShadowWithdraw gk q s = _
  simp only [execShadowWithdraw, show (dropDead s gk).grp? gk = some g from grp, past, waits, own, idle, Bool.not_true,
    Bool.false_eq_true, and_false, false_or, or_self, ↓reduceIte]

/-- The names that go with a step of a killed group's withdrawal. -/
theorem dropDead_pins (s : State) (gk : Nat) : ∃ l, dropDead s gk = { s with pins := l } ∧
    ∀ y, y ∈ l ↔ y ∈ s.pins ∧ (y.gk = gk → ∀ n, y.dead = some n →
      ∃ a ∈ s.accs, a.by_ = .unit (.grp gk) ∧ a.id < n ∧ a.kind ≠ .fence ∧ performedAt a 5 = false) := by
  refine ⟨_, rfl, fun y => ?_⟩
  rw [List.mem_filter]
  refine and_congr_right (fun _ => ?_)
  cases y.dead with
  | none => simp
  | some n => simp [and_assoc, or_iff_not_imp_left]

/-! ## The search (R368, R369) -/

theorem searchPins_zero (s : State) : searchPins s 0 = false := rfl

/-- A name that is not 0 is found exactly where a core's pin or shadow or an entry of the parked-pin table holds it. -/
theorem searchPins_iff {n : W64} (some_ : n ≠ 0) : searchPins s n = true ↔
    (∃ r ∈ s.groups, pinsHere s r.2 = true ∧ ∃ y ∈ r.2.pins, y.v = n ∨ y.shadow = n) ∨ ∃ y ∈ s.pins, y.name = n := by
  simp only [searchPins, bne_iff_ne.mpr some_, Bool.true_and, Bool.or_eq_true, List.any_eq_true, Bool.and_eq_true, beq_iff_eq]

end Pins

/-! ## Reclaiming (R373 to R375) -/

section Reclaim

variable {s t : State} {h : Hdr} {m : Lanes} {d : BitVec 4} {a b : Src} {n : W64} {p : Option (Nat × Bool)}

/-- A wait keeps the own scalar's log. -/
theorem setWait_room {lev : Nat} {w : WaitSt} {k : Nat}
    (room : ∃ c, s.ctx? (ownKey s s.cur.u k) = some c ∧ c.logRoom = true) :
    ∃ c, (setWait s lev w).ctx? (ownKey (setWait s lev w) (setWait s lev w).cur.u k) = some c ∧ c.logRoom = true := by
  obtain ⟨c, ctx, fits⟩ := room
  unfold setWait
  cases unit : s.cur.u with
  | ctx ck =>
    rw [unit] at ctx
    refine ⟨{ c with w := w }, ?_, fits⟩
    simp only [updCtx_frame, unit, updCtx_ctx?]
    exact (if_pos rfl).trans (congrArg (Option.map _) ctx)
  | grp gk =>
    rw [unit] at ctx
    refine ⟨c, ?_, fits⟩
    simp only [updGrp_frame, unit, updGrp_others]
    refine Eq.trans (congrArg s.ctx? ?_) ctx
    simp only [ownKey, ancKey, updGrp_grp?, ↓reduceIte]
    cases s.grp? gk with
    | none => rfl
    | some g => simp only [Option.map_some]; split <;> rfl

/-- A name that the search found is deferred. -/
theorem reclaimEnd_found {x : W64} {hd : Option W64} (room : deferFull s (launchHere s) = false) :
    reclaimEnd s h d x hd true p =
      .next (putPred (setWait (deferAdd s (launchHere s) x hd) (Hdr.lv h) .none) h 0 d false) := by
  unfold reclaimEnd
  simp only [room, Bool.false_eq_true, ↓reduceIte]

/-- A RECLAIM with a list takes a step of its push. -/
theorem reclaimEnd_list {pax pah : Nat} {x hv : W64} (ok : GlobalOk s (Hdr.lv h) 8 .write [(0, x), (1, hv)] [] t [(0, pax), (1, pah)])
    (memX : isMem s.floor pax = true) (memH : isMem s.floor pah = true) :
    reclaimEnd s h d x (some hv) false p = (match pushStep t (viewOf t t.cur.u) x pax pah p with
      | .finished t => .next (putPred (setWait t (Hdr.lv h) .none) h 0 d true)
      | .goes q t => .stay (setWait t (Hdr.lv h) (.search x (some false) q))
      | .bad => flt (setWait (sectorEvents t pah 8) (Hdr.lv h) .none) 0x30 (Hdr.lv h) 0) := by
  rw [reclaimEnd, if_neg Bool.false_ne_true]
  refine (globalGo_of ok _ _ ?_ _).trans rfl
  intro q hq
  obtain rfl | rfl : q = (0, pax) ∨ q = (1, pah) := by simpa using hq
  · simp [memX]
  · simp [memH]

/-- A RECLAIM without a list begins its search. -/
theorem exec_reclaim_begins (bare : b.o = .none) (fresh : waitOf s (Hdr.lv h) = .none) (ready : WordReady s h m [(1, a)] [])
    (room : deferFull s (launchHere s) = false) (drained : onceDrained s h 5 = true)
    (clean : checkPoison s s.cur.u (Hdr.lv h) (scalUses h [(1, a)]) = none) :
    exec (.reclaim h d a b) s = .next (setWait s (Hdr.lv h) (.search (scalHere s h a) none none)) := by
  change execReclaim h d a b s = _
  simp only [execReclaim, fresh, bare, ↓reduceIte, atWord_of ready, clean, room, drained, Bool.not_true, Bool.or_self,
    Bool.false_eq_true]
  rfl

/-- A RECLAIM that has searched goes on with what the search found. -/
theorem exec_reclaim_searched {found : Bool} (acts : ActsOnce s h m) (wait : waitOf s (Hdr.lv h) = .search n (some found) p) :
    exec (.reclaim h d a b) s = fin s h true (reclaimEnd s h d (scalHere s h a)
      (if b.o = .none then none else some (scalHere s h b)) found p) := by
  change execReclaim h d a b s = _
  simp only [execReclaim, wait, onceRun_of acts]

/-- RCDRAIN begins with the entries that nobody has taken. -/
theorem exec_rcdrain_begins {o : Opd} {l : Launch} (fresh : waitOf s (Hdr.lv h) = .none) (ready : WordReady s h m [] [⟨o, 1, 1⟩])
    (drained : onceDrained s h 5 = true) (launch : s.launch? (launchHere s) = some l) :
    exec (.rcdrain h o) s =
      fin s h true (drainNext s h o ((l.defer.filter (fun e => !e.taken)).map (fun e => e.id)) l.dseq) := by
  change execRcdrain h o s = _
  simp only [execRcdrain, fresh, atWord_of ready, drained, launch, Bool.not_true, Bool.false_eq_true, ↓reduceIte]

/-- With no entry left to take, RCDRAIN writes the number of entries. -/
theorem drainNext_nil {o : Opd} {l : Launch} {t0 : Nat} (launch : s.launch? (launchHere s) = some l)
    (room : h.lev ≠ 0 → ∃ c, s.ctx? (ownKey s s.cur.u (Hdr.lv h)) = some c ∧ c.logRoom = true) :
    drainNext s h o [] t0 = .next (wroteOnce (setWait s (Hdr.lv h) .none) h 0 o 1 (BitVec.ofNat 64 l.defer.length)) := by
  simp only [drainNext, launch, List.dropWhile_nil]
  exact putOnce_of_room (fun lev => setWait_room (room lev)) ..

/-- The first entry that nobody has taken since is taken. -/
theorem drainNext_cons {o : Opd} {l : Launch} {t0 : Nat} {e : DeferEnt} {ids : List Nat} (launch : s.launch? (launchHere s) = some l)
    (listed : e ∈ l.defer) (free : e.taken = false) (early : e.tk ≤ t0) : drainNext s h o (e.id :: ids) t0 =
      .stay (setWait (s.updLaunch (launchHere s) (fun l => { l with
        dseq := l.dseq + 1
        defer := l.defer.map (fun y => if y.id = e.id then { y with taken := true, tk := l.dseq + 1 } else y) })) (Hdr.lv h)
          (.drain e.id ids t0 none none)) := by
  have here : l.defer.any (fun x => x.id == e.id && !x.taken && decide (x.tk ≤ t0)) = true :=
    List.any_eq_true.mpr ⟨e, listed, by simp [free, early]⟩
  simp only [drainNext, launch, List.dropWhile_cons, here, Bool.not_true, Bool.false_eq_true, ↓reduceIte]

end Reclaim

/-! ## The statements -/

/-- Settles O30. -/
theorem pinResult : Obligations.PinResult := by
  unfold Obligations.PinResult
  refine ⟨fun s h q a m gk g => ?_, fun s gk q e g grp => ?_, fun s ck e k n p ctx wait => ?_, fun s => ?_⟩
  · intro p x unit grp
    refine ⟨fun ready => ⟨exec_pin_of unit grp ready, fun free empty => ?_, fun free some_ => ?_⟩, fun acts =>
      ⟨(exec_unpin_of unit grp acts).1, fun some_ free => (exec_unpin_of unit grp acts).2 _ some_ free rfl⟩⟩
    · rw [exec_pinx_of unit grp ready free rfl, if_pos empty, empty]
    · rw [exec_pinx_of unit grp ready free rfl, if_neg some_]
  · refine ⟨exec_shadowWithdraw_living grp, exec_shadowWithdraw_ended grp, dropDead_pins s gk, fun n p wait => ?_,
      fun c l t p d wait entry => ?_⟩
    · change execPinSearch (.grp gk) e s = _
      simp only [execPinSearch, grp, wait]
    · change execPinSearch (.grp gk) e s = _
      simp only [execPinSearch, grp, wait, entry]
  · change execPinSearch (.ctx ck) e s = _
    simp only [execPinSearch, ctx, wait]
  · refine ⟨searchPins_zero s, fun n some_ held => (searchPins_iff some_).mpr (.inl held),
      fun n some_ held => (searchPins_iff some_).mpr (.inr held), fun n found => ?_⟩
    have some_ : n ≠ 0 := by rintro rfl; exact absurd found (by rw [searchPins_zero]; decide)
    exact ((searchPins_iff some_).mp found).imp_left (fun ⟨r, hr, _, held⟩ => ⟨r, hr, held⟩)

/-- Settles O31. -/
theorem reclaimResult : Obligations.ReclaimResult := by
  unfold Obligations.ReclaimResult
  intro s h m d a b n p lev x hd
  refine ⟨exec_reclaim_begins, fun acts wait room => ?_, fun acts wait => ⟨fun bare => ?_, ?_⟩, ?_⟩
  · rw [exec_reclaim_searched acts wait, reclaimEnd_found room]
    rfl
  · rw [exec_reclaim_searched acts wait, if_pos bare]
    rfl
  · intro t pax pah v list ok memX memH clean
    rw [exec_reclaim_searched acts wait, if_neg list, reclaimEnd_list ok memX memH]
    refine ⟨fun start => ?_, fun read => ?_, fun tried differ => ?_, fun tried same => ?_⟩
    · rw [start, pushStep, clean]; rfl
    · rw [read]; rfl
    · rw [tried, pushStep, clean, if_neg Bool.false_ne_true, if_neg differ]; rfl
    · rw [tried, pushStep, clean, if_neg Bool.false_ne_true, if_pos same]; rfl
  · intro o l fresh ready drained launch
    rw [exec_rcdrain_begins fresh ready drained launch]
    refine ⟨fun all fits => ?_, fun e es first early => ?_⟩
    · have none : l.defer.filter (fun e => !e.taken) = [] := List.filter_eq_nil_iff.mpr (fun e he => by simp [all e he])
      rw [none, List.map_nil, drainNext_nil launch (ready.acts.room fits)]
      rfl
    · obtain ⟨listed, free⟩ := List.mem_filter.mp (show e ∈ l.defer.filter (fun e => !e.taken) by rw [first]; exact List.mem_cons_self)
      rw [first, List.map_cons, drainNext_cons launch listed (by simpa using free) early]
      rfl

end Sys2Proof.Machine
end

section
/-! SUPPORT. What the ring instructions and the append of a message come to, and what packets leave; and the statements about them. -/

namespace Sys2Proof.Machine

/- Proofs that are elaborated beside the tests' long kernel checks would wait for those on a thread, and a stack, each. -/
set_option Elab.async false

/-! ## What packets leave (R380 to R383) -/

/-- A step that changes no band and no memory. -/
def KeepsStore (s t : State) : Prop := t.bands = s.bands ∧ t.mem = s.mem

theorem KeepsStore.refl (s : State) : KeepsStore s s := ⟨rfl, rfl⟩

theorem KeepsStore.trans {s t u : State} (a : KeepsStore s t) (b : KeepsStore t u) : KeepsStore s u :=
  ⟨b.1.trans a.1, b.2.trans a.2⟩

theorem bucketTake_keeps {s t : State} {ep cls f : Nat} (w : bucketTake s ep cls f = some t) : KeepsStore s t := by
  unfold bucketTake at w
  dsimp only at w
  split at w
  · cases w; exact .refl s
  · split at w
    · contradiction
    · cases w; exact ⟨rfl, rfl⟩

theorem bucketDebit_keeps (s : State) (ep cls f : Nat) : KeepsStore s (bucketDebit s ep cls f) := by
  unfold bucketDebit
  dsimp only
  split <;> exact ⟨rfl, rfl⟩

theorem linkDrain_keeps (s : State) (k : Option Nat) : KeepsStore s (linkDrain s k) := by
  cases k <;> exact ⟨rfl, rfl⟩

theorem linkAdd_keeps (s : State) (c id : Nat) (r : List Nat) : KeepsStore s (linkAdd s c id r) := by
  unfold linkAdd
  split <;> exact ⟨rfl, rfl⟩

theorem pickRoute_keeps {s : State} {c t : Nat} {r : List Nat × State} (w : pickRoute s c t = some r) : KeepsStore s r.2 := by
  simp only [pickRoute] at w
  split at w
  · obtain ⟨p, -, rfl⟩ := Option.map_eq_some_iff.mp w
    exact .refl s
  · obtain ⟨p, -, w⟩ := Option.bind_eq_some_iff.mp w
    obtain ⟨q, -, rfl⟩ := Option.map_eq_some_iff.mp w
    exact (linkDrain_keeps s _).trans (linkDrain_keeps _ _)

theorem inject_keeps {s : State} {ep t id : Nat} {r : List Nat × State} (w : inject s ep t id = some r) : KeepsStore s r.2 := by
  obtain ⟨p, picked, rfl⟩ := Option.map_eq_some_iff.mp w
  exact (pickRoute_keeps picked).trans (linkAdd_keeps p.2.tick1 ..)

theorem sendPacket_keeps {s : State} {ep t cls f id : Nat} {r : Nat × List Nat × State} (w : sendPacket s ep t cls f id = some r) :
    KeepsStore s r.2.2 := by
  simp only [sendPacket] at w
  split at w
  · obtain ⟨u, taken, w⟩ := Option.bind_eq_some_iff.mp w
    obtain ⟨q, put, rfl⟩ := Option.map_eq_some_iff.mp w
    exact (bucketTake_keeps taken).trans (t := u) (u := { q.2 with pairSeq := _ }) (inject_keeps put)
  · contradiction

/-! ## Answers and forwards (R385, R386) -/

theorem answerMsg_keeps (s : State) (m : Msg) (ok : Bool) : KeepsStore s (answerMsg s m ok) := by
  unfold answerMsg
  split <;> exact ⟨rfl, rfl⟩

theorem answerFrom_keeps (s : State) (ep : Nat) (m : Msg) (ok : Bool) : KeepsStore s (answerFrom s ep m ok) := by
  simp only [answerFrom]
  refine KeepsStore.trans ((bucketDebit_keeps s ep (s.task (gcOf s m.by_)).prio 1).trans ?_) (answerMsg_keeps _ m ok)
  split
  · next r picked => exact (pickRoute_keeps picked).trans (linkAdd_keeps r.2.tick1 ..)
  · exact .refl _

theorem forwardMsg_keeps {s u : State} {home : Nat} {b : Band} {m : Msg} (w : forwardMsg s home b m = some u) :
    KeepsStore s u ∧ (b.st ≠ .resident ∨ physCore s.floor b.core / 16 = home → u = s) := by
  simp only [forwardMsg] at w
  split at w
  · cases w; exact ⟨.refl s, fun _ => rfl⟩
  · next away =>
    obtain ⟨r, sent, rfl⟩ := Option.map_eq_some_iff.mp w
    exact ⟨sendPacket_keeps sent, fun near => absurd (near.imp_left bne_iff_ne.mpr) away⟩

/-! ## The append (R386, R388) -/

/-- A store into a band's scratchpad keeps the band. -/
theorem scrStore_isSome (s : State) (bk off : Nat) (bs : List Byte) (poi : Bool) (k : Nat) :
    ((scrStore s bk off bs poi).band? k).isSome = (s.band? k).isSome := by
  have notify : ∀ t : State, (arrNotify t bk).band? k = t.band? k := by
    intro t
    unfold arrNotify
    split <;> rfl
  rw [scrStore, notify, scrWrite, updBand_band?]
  split
  · exact Option.isSome_map ..
  · rfl

theorem unitStore_isSome (s : State) (bk : Nat) (m : Msg) (x : Ring) (k : Nat) :
    ((unitStore s bk m x).band? k).isSome = (s.band? k).isSome := by
  rw [unitStore, scrStore_isSome]
  refine List.foldlRecOn (motive := fun (t : State) => (t.band? k).isSome = (s.band? k).isSome) _ _ rfl (fun t same i _ => ?_)
  exact (scrStore_isSome ..).trans same

/-- After an append the ring's end stands behind it. -/
theorem ringAdvance_ring {t : State} {bk r : Nat} {x : Ring} {n : Nat} (band : (t.band? bk).isSome = true) :
    ∃ b', (ringAdvance t bk r x n).band? bk = some b' ∧
      tabGet? b'.rings r = some { x with t := x.t + BitVec.ofNat 32 (8 * n), seq := x.seq + 1 } := by
  obtain ⟨b, hb⟩ := Option.isSome_iff_exists.mp band
  refine ⟨{ b with rings := tabSet b.rings r { x with t := x.t + BitVec.ofNat 32 (8 * n), seq := x.seq + 1 } }, ?_, tabGet?_set_self ..⟩
  rw [ringAdvance, updBand_band?, if_pos rfl, hb, Option.map_some]

section Append

variable {s : State} {m : Msg} {x : Ring} {b : Band} (listed : s.msgs.find? (fun y => y.id = m.id) = some m)
include listed

/-- A message whose ring is not there is refused at its home. -/
theorem exec_ringAppend_none (none_ : ringOf s (handleBand m.hdl) (bitsOf m.hdl.toNat 1 0) = none) :
    exec (.ringAppend m.id) s = .next (answerFrom s ((homeOfBand s (handleBand m.hdl)).getD (m.pair / 128)) m false) := by
  change execRingAppend m.id s = _
  simp only [execRingAppend, listed, none_]

variable (ring : ringOf s (handleBand m.hdl) (bitsOf m.hdl.toNat 1 0) = some x) (band : s.band? (handleBand m.hdl) = some b)
include ring band

theorem exec_ringAppend_refused (refused : homeRefuses s m.hdl = true) :
    exec (.ringAppend m.id) s = .next (answerFrom s ((homeOfBand s (handleBand m.hdl)).getD (m.pair / 128)) m false) := by
  change execRingAppend m.id s = _
  simp only [execRingAppend, listed, ring, band, refused, ↓reduceIte]

variable {u : State} (taken : homeRefuses s m.hdl = false)
  (forwarded : forwardMsg s ((homeOfBand s (handleBand m.hdl)).getD (m.pair / 128)) b m = some u)
include taken forwarded

/-- A ring without room answers not ok from where it stands. -/
theorem exec_ringAppend_full (full : ringSize x.desc < x.used + 8 * (m.data.length / 8 + 1)) : exec (.ringAppend m.id) s =
    .next (answerFrom u (if b.st == .resident then physCore s.floor b.core / 16
      else (homeOfBand s (handleBand m.hdl)).getD (m.pair / 128)) m false) := by
  change execRingAppend m.id s = _
  simp only [execRingAppend, listed, ring, band, taken, Bool.false_eq_true, ↓reduceIte, forwarded, full]

/-- A resident ring with room and no arrival word takes the message. -/
theorem exec_ringAppend_room (here : b.st = .resident) (room : x.used + 8 * (m.data.length / 8 + 1) ≤ ringSize x.desc)
    (bare : ringAv x.desc = false) : exec (.ringAppend m.id) s =
    .next (answerFrom (ringAdvance (unitStore u (handleBand m.hdl) m x) (handleBand m.hdl) (bitsOf m.hdl.toNat 1 0) x
      (m.data.length / 8 + 1)) (if b.st == .resident then physCore s.floor b.core / 16
      else (homeOfBand s (handleBand m.hdl)).getD (m.pair / 128)) m true) := by
  change execRingAppend m.id s = _
  simp only [execRingAppend, listed, ring, band, taken, Bool.false_eq_true, ↓reduceIte, forwarded, Nat.not_lt.mpr room, here, beq_self_eq_true,
    appendCore, bare, false_and]

end Append

/-! ## The ring instructions (R390) -/

section Instructions

variable {s : State} {h : Hdr} {m : Lanes} {r : BitVec 2} {a b : Src} {x : Ring}

/-- An acquire keeps the own scalar's log. -/
theorem acquireView_room {u : UnitRef} {k : Nat} (room : ∃ c, s.ctx? (ownKey s s.cur.u k) = some c ∧ c.logRoom = true) :
    ∃ c, (acquireView s u).ctx? (ownKey (acquireView s u) (acquireView s u).cur.u k) = some c ∧ c.logRoom = true := by
  unfold acquireView
  split <;> exact room

/-- RWAIT on a ring with a message delivers its place. -/
theorem exec_rwait_of {d : Opd} (ready : WordReady s h m [] (onceDst h d 1 m)) (ring : ringOf s (bandHere s) r.toNat = some x)
    (used : x.used ≠ 0) (fits : LogFits s h) : exec (.rwait h d r) s = .next (done s h
      (wroteOnce (acquireView s s.cur.u) h m d 1 (BitVec.ofNat 64 (ringAt x.desc x.h.toNat)))) := by
  have checked : checkUses s s.cur.u (Hdr.lv h) m [] (onceDst h d 1 m) = none := ready.ready
  change execRwait h d r s = _
  rw [execRwait, withRing_of ready.acts ring, checked]
  exact congrArg (fin s h true) ((if_neg used).trans
    (putOnce_of_room (fun lev => acquireView_room (ready.acts.room fits lev)) ..))

/-- RACK of some bytes that are in use frees them, zeroed. -/
theorem exec_rack_of {n : Nat} {srcs : List (Nat × Src)} (operands : srcs = if a.o = .none then [] else [(1, a)])
    (ready : OnceReady s h m 2 srcs []) (ring : ringOf s (bandHere s) r.toNat = some x) (drained : onceDrained s h 2 = true)
    (bytes : n = if a.o = .none then 8 * bitsOf (leNat (payload s (bandHere s) (ringAt x.desc x.h.toNat) 8)) 5 0
      else (onceVal s h m 0 a.o).toNat)
    (some_ : a.o = .none → x.used ≠ 0) (units : n % 8 = 0) (held : n ≤ x.used) : exec (.rack h a r) s =
      .next (done s h ((ringZero s (bandHere s) x.desc x.h.toNat n).updBand (bandHere s) (fun b => { b with
        rings := tabSet b.rings r.toNat { x with h := x.h + BitVec.ofNat 32 n } }))) := by
  have clear : ¬((a.o = .none ∧ x.used = 0) ∨ n % 8 ≠ 0 ∨ x.used < n) := by
    rintro (⟨none_, empty⟩ | odd | more)
    · exact some_ none_ empty
    · exact odd units
    · exact Nat.not_lt.mpr held more
  subst operands
  change execRack h a r s = _
  rw [execRack, withRing_of ready.acts ring]
  simp only [ready.ready, ← bytes, if_neg clear, unlessPoison_of ready.clean, drained, Bool.not_true, Bool.false_eq_true, ↓reduceIte]
  rfl

/-- What RDESC comes to once its operand is ready and its earlier accesses are performed. -/
theorem exec_rdesc_of {d : BitVec 4} (ready : OnceReady s h m 2 [(1, a)] []) (drained : onceDrained s h 2 = true) :
    exec (.rdesc h d a r) s = fin s h true (if ringEn (onceVal s h m 0 a.o) then
        match ringConfigure s (bandHere s) r.toNat (onceVal s h m 0 a.o) with
        | some t => .next (putPred t h m d true)
        | none => .next (putPred s h m d false)
      else match ringOf s (bandHere s) r.toNat with
        | some x =>
          if x.used = 0 then
            .next (putPred (s.updBand (bandHere s) (fun b => { b with rings := tabDel b.rings r.toNat })) h m d true)
          else .next (putPred s h m d false)
        | none => .next (putPred s h m d false)) := by
  change execRdesc h d a r s = _
  rw [execRdesc, onceReady_of (dst := fun _ => []) ready, unlessPoison_of ready.clean]
  simp only [drained, Bool.not_true, Bool.false_eq_true, ↓reduceIte] <;> rfl

/-- A ring that may be configured begins empty and zeroed, its band with a home entry. -/
theorem ringConfigure_of {bk n : Nat} {v : W64} {c : Band} (band : s.band? bk = some c) (ok : ringOk v (1024 * (s.lrec c.gc).scrg) = true)
    (empty : ∀ x, ringOf s bk n = some x → x.used = 0) (room : ringOf s bk n = none → usedRings s c.core < 4)
    (entry : hasHome s bk = false → homeCount s (clusOfCore s.floor c.core) < 64) : ringConfigure s bk n v =
      some ((ringZero (if hasHome s bk then s
        else s.updCluster (clusOfCore s.floor c.core) (fun c => { c with homes := c.homes ++ [bk] })) bk v 0 (ringSize v)).updBand bk
          (fun b => { b with rings := tabSet b.rings n ⟨v, 0, 0, 0⟩ })) := by
  have old : ringOf s bk n = tabGet? c.rings n := by rw [ringOf, band, Option.bind_some]
  rw [old] at empty room
  have full : ¬(!hasHome s bk && decide (64 ≤ homeCount s (clusOfCore s.floor c.core))) = true := by
    rw [Bool.and_eq_true, Bool.not_eq_true', decide_eq_true_eq]
    exact fun ⟨none_, most⟩ => Nat.not_le.mpr (entry none_) most
  rw [ringConfigure, band, Option.bind_some]
  cases ring : tabGet? c.rings n with
  | none =>
    simp only [ok, Bool.not_true, Bool.or_self, Bool.false_eq_true, ↓reduceIte, Option.isNone_none, Bool.true_and,
      decide_eq_false (Nat.not_le.mpr (room ring)), if_neg full]
  | some x =>
    simp only [ok, empty x ring, ne_eq, not_true_eq_false, decide_false, Bool.not_true, Bool.or_self, Bool.false_eq_true, ↓reduceIte,
      Option.isNone_some, Bool.false_and, if_neg full]

end Instructions

/-! ## The statements -/

/-- Settles O32. -/
theorem ringResult : Obligations.RingResult := by
  unfold Obligations.RingResult
  intro s h m r a b lev bk
  refine ⟨fun d n8 tag n ok acts wait => ?_, fun x d ready ring used fits => exec_rwait_of ready ring used fits,
    fun x ring drained => ⟨fun some_ ready units held => ?_, fun none_ ready used held => ?_⟩, fun d ready drained => ?_⟩
  · change execMsend h d a b n8 tag s = _
    rw [execMsend]
    simp only [show waitOf s (Hdr.lv h) = .msend n (some ok) from wait, onceRun_of acts]
    rfl
  · exact exec_rack_of (if_neg some_).symm ready ring drained (if_neg some_).symm (fun none_ => absurd none_ some_) units held
  · exact exec_rack_of (if_pos none_).symm ready ring drained (if_pos none_).symm (fun _ => used) (Nat.mul_mod_right 8 _) held
  · rw [exec_rdesc_of ready drained]
    refine ⟨fun on => ⟨fun c band ok empty room entry => ?_, fun refused => ?_⟩, fun off => ⟨fun x ring empty => ?_, fun busy => ?_⟩⟩
    · rw [if_pos on, ringConfigure_of band ok empty room entry]; rfl
    · rw [if_pos on, refused]; rfl
    · rw [if_neg (ne_true_of_eq_false off), ring]
      exact congrArg (fin s h true) (if_pos empty)
    · rw [if_neg (ne_true_of_eq_false off)]
      cases ring : ringOf s (bandHere s) r.toNat with
      | none => rfl
      | some x => exact congrArg (fin s h true) (if_neg (busy x ring))

/-- Settles O33. -/
theorem ringAppendResult : Obligations.RingAppendResult := by
  unfold Obligations.RingAppendResult
  refine ⟨?_, answerFrom_keeps, fun s home b m u w => ⟨(forwardMsg_keeps w).1.1, (forwardMsg_keeps w).1.2, (forwardMsg_keeps w).2⟩⟩
  intro s m x b listed
  refine ⟨exec_ringAppend_none listed, fun ring band => ⟨exec_ringAppend_refused listed ring band, fun u taken forwarded =>
    ⟨exec_ringAppend_full listed ring band taken forwarded, fun here room bare =>
      ⟨exec_ringAppend_room listed ring band taken forwarded here room bare, ringAdvance_ring ?_⟩⟩⟩⟩
  rw [unitStore_isSome, State.band?, (forwardMsg_keeps forwarded).1.1]
  exact Option.isSome_iff_exists.mpr ⟨b, band⟩

end Sys2Proof.Machine
end

section
/-! SUPPORT. What writes at home, dropped faults and split tables leave of the units; and the statements about the trap instructions and
the handlers. -/

namespace Sys2Proof.Machine

/- Proofs that are elaborated beside the tests' long kernel checks would wait for those on a thread, and a stack, each. -/
set_option Elab.async false

/-! ## What a device's own writes leave (R334) -/

/-- A step that changes no group, no context and no launch. -/
def KeepsUnits (s t : State) : Prop := t.groups = s.groups ∧ t.ctxs = s.ctxs ∧ t.launches = s.launches

theorem KeepsUnits.refl (s : State) : KeepsUnits s s := ⟨rfl, rfl, rfl⟩

theorem KeepsUnits.trans {s t u : State} (a : KeepsUnits s t) (b : KeepsUnits t u) : KeepsUnits s u :=
  ⟨b.1.trans a.1, b.2.1.trans a.2.1, b.2.2.trans a.2.2⟩

theorem Quiet.keepsUnits {s t : State} (w : Quiet s t) : KeepsUnits s t := by
  obtain ⟨-, -, groups, ctxs, -, -, launches⟩ := w.frame
  exact ⟨groups, ctxs, launches⟩

theorem KeepsUnits.grp? {s t : State} (w : KeepsUnits s t) (gk : Nat) : t.grp? gk = s.grp? gk := by
  rw [State.grp?, w.1]; rfl

theorem KeepsUnits.launch? {s t : State} (w : KeepsUnits s t) (gc : Nat) : t.launch? gc = s.launch? gc := by
  rw [State.launch?, w.2.2]; rfl

theorem KeepsUnits.lrec {s t : State} (w : KeepsUnits s t) (gc : Nat) : t.lrec gc = s.lrec gc := by
  rw [State.lrec, State.lrec, w.launch?]

theorem homeWrite_keepsUnits (s : State) (pa : Nat) (bs : List Byte) (poi : Bool) : KeepsUnits s (homeWrite s pa bs poi) := by
  refine List.foldlRecOn (motive := KeepsUnits s) _ _ (.refl s) (fun t same k _ => ?_)
  have kept : ∀ b : Bool, KeepsUnits s (if b then t else sectorEvent t (32 * k)) := by
    rintro (_ | _)
    · exact same.trans (quiet_sectorEvent t _).keepsUnits
    · exact same
  have marked : ∀ (u : State) (b c : Bool), KeepsUnits u (if b then poisonSec u k else if c then clearSec u k else u) := by
    rintro u (_ | _) (_ | _) <;> exact ⟨rfl, rfl, rfl⟩
  exact (kept _).trans (marked _ _ _)

theorem devWrite_keepsUnits (s : State) (pa : Nat) (bs : List Byte) (poi : Bool) : KeepsUnits s (devWrite s pa bs poi) := by
  unfold devWrite
  split
  · exact homeWrite_keepsUnits ..
  · exact .refl s

theorem virtWrite_keepsUnits {s t : State} {gc va : Nat} {bs : List Byte} {poi : Bool} (w : virtWrite s gc va bs poi = some t) :
    KeepsUnits s t := by
  refine List.foldlRecOn (motive := fun (o : Option State) => ∀ t, o = some t → KeepsUnits s t) _ _ ?_ (fun o same p _ t step => ?_) t w
  · rintro t ⟨⟩
    exact .refl s
  · obtain ⟨u, here, step⟩ := Option.bind_eq_some_iff.mp step
    dsimp only at step
    split at step
    · obtain ⟨-, step⟩ := Option.ite_none_right_eq_some.mp step
      cases step
      exact (same u here).trans (devWrite_keepsUnits ..)
    · contradiction

theorem fatal_keepsUnits (s : State) : KeepsUnits s (fatal s) := ⟨rfl, rfl, rfl⟩

theorem virtTried_keepsUnits (s : State) (gc va : Nat) : KeepsUnits s (virtTried s gc va) := (quiet_walk s _ _ va).keepsUnits

/-! ## What a split table's change leaves (R37) -/

/-- Group `gk` is `g` but for its records. -/
def GroupBut (gk : Nat) (g : Group) (s : State) : Prop := ∃ recs, s.grp? gk = some { g with recs := recs }

section
variable {s : State} {gk : Nat} {g : Group}

theorem groupBut_recs {u : State} (w : GroupBut gk g s) (same : KeepsUnits s u) (f : Group → Tab Rec) :
    GroupBut gk g (u.updGrp gk (fun g => { g with recs := f g })) := by
  obtain ⟨recs, grp⟩ := w
  refine ⟨f { g with recs := recs }, ?_⟩
  rw [updGrp_grp?, if_pos rfl, same.grp?, grp]
  rfl

theorem spillRec_groupBut (w : GroupBut gk g s) (i : Nat) (r : Rec) : GroupBut gk g (spillRec s gk i r) := by
  obtain ⟨recs, grp⟩ := id w
  simp only [spillRec, grp]
  refine groupBut_recs w ?_ _
  cases put : virtWrite s g.gc _ _ false with
  | none => exact (virtTried_keepsUnits ..).trans (fatal_keepsUnits _)
  | some u => exact virtWrite_keepsUnits put

theorem reloadRec_groupBut (w : GroupBut gk g s) (i : Nat) (r : Rec) : GroupBut gk g (reloadRec s gk i r) := by
  obtain ⟨recs, grp⟩ := id w
  simp only [reloadRec, grp]
  refine groupBut_recs w ?_ _
  split
  · exact .refl s
  · exact (virtTried_keepsUnits ..).trans (fatal_keepsUnits _)

theorem balanceRecs_groupBut (n : Nat) (w : GroupBut gk g s) : GroupBut gk g (balanceRecs n s gk) := by
  induction n generalizing s with
  | zero => exact w
  | succ n ih =>
    obtain ⟨recs, grp⟩ := id w
    simp only [balanceRecs, grp]
    split
    · split
      · exact ih (spillRec_groupBut w ..)
      · exact w
    · split
      · split
        · exact ih (reloadRec_groupBut w ..)
        · exact w
      · exact w

/-- A group that is given a split table keeps everything else but its records. -/
theorem putTable_grp (grp : s.grp? gk = some g) (sp : List (Option Split)) (recs : Tab Rec) :
    GroupBut gk { g with splits := sp } (putTable s gk sp recs) := by
  simp only [putTable, grp]
  refine balanceRecs_groupBut _ ?_
  refine List.foldlRecOn (motive := GroupBut gk { g with splits := sp }) _ _ ⟨recs, ?_⟩ (fun t w p _ => spillRec_groupBut w ..)
  rw [updGrp_grp?, if_pos rfl, grp]
  rfl

end

/-! ## What taking a fault leaves before its record is written (R30, R170) -/

theorem dropHeld_frame (s : State) (u : UnitRef) : (dropHeld s u).groups = s.groups ∧ (dropHeld s u).bands = s.bands ∧
    (dropHeld s u).launches = s.launches := by
  refine List.foldlRecOn (motive := fun (t : State) => t.groups = s.groups ∧ t.bands = s.bands ∧ t.launches = s.launches) _ _
    ⟨rfl, rfl, rfl⟩ (fun t same k _ => ?_)
  have left : ∀ (p : Prop) [Decidable p] (f : Ctx → Ctx) (ck : Nat), (if p then t.updCtx ck f else t).groups = s.groups ∧
      (if p then t.updCtx ck f else t).bands = s.bands ∧ (if p then t.updCtx ck f else t).launches = s.launches := by
    intro p _ f ck
    split <;> exact same
  exact left _ _ _

theorem countFault_lrec (s : State) (gc k : Nat) : (countFault s gc).2.lrec k = s.lrec k := by
  simp only [countFault, State.lrec, updLaunch_launch?]
  by_cases same : k = gc
  · simp only [if_pos same]
    cases s.launch? k <;> rfl
  · simp only [if_neg same]

/-- What a fault counts and drops leaves every group and every band. -/
theorem counted_frame (s : State) (u : UnitRef) (gc k : Nat) : (countFault (dropHeld s u) gc).2.grp? k = s.grp? k ∧
    (countFault (dropHeld s u) gc).2.band? k = s.band? k ∧ (countFault (dropHeld s u) gc).2.lrec k = s.lrec k := by
  obtain ⟨groups, bands, launches⟩ := dropHeld_frame s u
  refine ⟨?_, ?_, ?_⟩
  · change tabGet? (dropHeld s u).groups k = _
    rw [groups]; rfl
  · change tabGet? (dropHeld s u).bands k = _
    rw [bands]; rfl
  · rw [countFault_lrec, State.lrec, State.launch?, launches]; rfl

theorem writeFault_keepsUnits {s t : State} {u : UnitRef} {rcd : List Byte} (w : writeFault s u rcd = some t) : KeepsUnits s t := by
  simp only [writeFault] at w
  split at w
  · cases w; exact .refl s
  · refine .trans ?_ (virtWrite_keepsUnits w)
    split <;> exact ⟨rfl, rfl, rfl⟩

/-! ## Returning from a handler (R176) -/

theorem setNth_nth {α : Type} {l : List α} {n : Nat} {x : α} (w : nth? l n = some x) (y : α) (i : Nat) :
    nth? (setNth l n y) i = if i = n then some y else nth? l i := by
  induction l generalizing n i with
  | nil => cases n <;> contradiction
  | cons a r ih =>
    cases n with
    | zero => cases i <;> rfl
    | succ n =>
      cases i with
      | zero => rfl
      | succ i => exact (ih w i).trans (if_congr Nat.add_right_cancel_iff.symm rfl rfl)

theorem foldl_updCtx_grp? {α : Type} (l : List α) (k : α → Nat) (f : α → Ctx → Ctx) (s : State) (gk : Nat) :
    (l.foldl (fun (s : State) a => s.updCtx (k a) (f a)) s).grp? gk = s.grp? gk :=
  List.foldlRecOn (motive := fun (t : State) => t.grp? gk = s.grp? gk) _ _ rfl (fun _ same _ _ => same)

/-- The group in its launch's handler, which a fault at its entry `e` has entered. -/
def inHandlerOf (u : State) (gk : Nat) (g : Group) (e : Nat) (f : FaultReq) (ia : W64) (insn : Insn) (seq : Nat) : Group :=
  { g with
    handler := some {
      code := f.code, lev := f.lev, unit := .grp gk, ia := ia, rcd := recordBytes u (.grp gk) f ia insn seq 0, resume := ia,
      start := clockAt u (.core (coreOfGrp u g)), splits := g.splits, recs := g.recs, region := g.region, entry := e, rep412 := false, held := [] }
    stop := .run,
    splits := [some ⟨(u.lrec g.gc).handler, handlerLanes g (.grp gk) e false, none, 0, none, false, false, .none⟩, none, none, none],
    recs := [], region := { g.region with valid := false }, w := .none }

/-- The group back at its own table, whose faulting entry is `x`, before the table settles. -/
def Group.back (g : Group) (hd : Handler) (recs : Tab Rec) (x : Split) : Group :=
  { g with
    splits := setNth (clearLanes hd.splits hd.recs (~~~g.live)).1 hd.entry (some { x with pc := hd.resume, rj := false, w := .none }),
    recs := recs, handler := none, region := hd.region, w := .none }

/-! ## The statements -/

/-- Settles O34. -/
theorem trapInstructionsResult : Obligations.TrapInstructionsResult := by
  unfold Obligations.TrapInstructionsResult
  intro s h m imm w f
  refine ⟨?_, fun debug => ?_, fun debug => ?_, ?_, fun gk g hd lev unit grp handler single idle ok => ?_⟩
  · change execTrap h imm s = _
    rw [execTrap, onceRun_of w]
    rfl
  · change execBkpt h imm s = _
    rw [execBkpt, onceRun_of w, if_pos debug]
    rfl
  · change execBkpt h imm s = _
    rw [execBkpt, onceRun_of w, if_neg (by simp [debug])]
    rfl
  · change execHalt h s = _
    rw [execHalt, onceRun_of w]
    rfl
  · obtain ⟨g', at_⟩ := w.inLanes lev unit
    obtain rfl : g' = g := Option.some.inj (at_.grp.symm.trans grp)
    change execRft h s = _
    rw [execRft, atLanes_of at_]
    simp only [handler, single, idle, ok, Bool.not_true, Bool.false_eq_true, ↓reduceIte, fin_done]

/-- Settles O35. -/
theorem exceptionEntry : Obligations.ExceptionEntry := by
  unfold Obligations.ExceptionEntry
  intro s gk e f ia insn src g b u t grp key band park here disp outside handler v seq wrote tgt
  have gc : gcOf s (.grp gk) = g.gc := by simp only [gcOf, grp]
  have counted := fun k => counted_frame s (.grp gk) g.gc k
  have grp1 := (counted gk).1.trans grp
  have gc1 : gcOf (countFault v g.gc).2 (.grp gk) = g.gc := by simp only [gcOf, v, grp1]
  have units := writeFault_keepsUnits wrote
  have grp2 := (units.grp? gk).trans grp1
  have lrec1 := (counted g.gc).2.2
  have lrec2 := (units.lrec g.gc).trans lrec1
  constructor
  · have outside1 : inHandler (countFault v g.gc).2 (.grp gk) = false := by
      simpa only [inHandler, grp, v, grp1] using outside
    simp only [takeFault, gc]
    simp only [v, seq] at outside1 gc1 wrote tgt
    simp only [outside1, Bool.false_eq_true, ↓reduceIte, disp, takeH, gc1, lrec1, handler, grp1, Option.bind_some, (counted _).2.1, band, park,
      here, wrote, Option.isSome_none, Bool.false_and, Bool.and_false, bne_self_eq_false, Bool.or_self, startHandler, grp2, lrec2, tgt]
  · have kept := by simpa only [tgt] using (quiet_checkTgt (enterHandler u (.grp gk) gk g e f ia insn seq false) (.core (coreOfGrp u g)) g.gc
      (s.lrec g.gc).handler).keepsUnits
    have entered : (enterHandler u (.grp gk) gk g e f ia insn seq false).grp? gk = some (inHandlerOf u gk g e f ia insn seq) := by
      rw [enterHandler, updGrp_grp?, if_pos rfl, setStopped, grp2]
      rfl
    refine ⟨_, _, (kept.grp? gk).trans entered, rfl, rfl, rfl, rfl, rfl, rfl, rfl, rfl, rfl, rfl, fun x entry => ?_, rfl, rfl, rfl, rfl, rfl,
      rfl, rfl, rfl, rfl, rfl, rfl, rfl⟩
    simp only [inHandlerOf, handlerLanes, Bool.or_self, Bool.false_eq_true, ↓reduceIte, entry, lrec2]

/-- Settles O36. -/
theorem exceptionReturn : Obligations.ExceptionReturn := by
  unfold Obligations.ExceptionReturn
  intro s gk g hd grp handler unit
  refine ⟨fun x0 first split left x again => ?_, ?_⟩
  · obtain ⟨recs, table⟩ := putTable_grp grp (clearLanes hd.splits hd.recs (~~~g.live)).1
      (gcRecs (clearLanes hd.splits hd.recs (~~~g.live)).1 (clearLanes hd.splits hd.recs (~~~g.live)).2)
    simp only [returnHandler, grp, handler, unit, first, split, left, setStopped, Bool.false_eq_true, ↓reduceIte]
    refine ⟨_, g.back hd recs x, ?_, rfl, rfl, rfl, ?_, fun i other => ?_, rfl, rfl, rfl, rfl, rfl, rfl, rfl⟩
    · rw [updGrp_grp?, if_pos rfl, foldl_updCtx_grp?, updGrp_grp?, if_pos rfl, table]
      simp only [Option.map_some, again]
      rfl
    · exact (setNth_nth again _ _).trans (if_pos rfl)
    · exact (setNth_nth again _ _).trans (if_neg other)
  · intro e f ia insn src inside v
    have inside1 : inHandler v.2 (.grp gk) = true := by
      simpa only [inHandler, grp, v, (counted_frame s (.grp gk) (gcOf s (.grp gk)) gk).1] using inside
    simp only [takeFault]
    exact if_pos inside1

end Sys2Proof.Machine
end

section
/-! SUPPORT. What the control registers, the counters and the instructions that read them come to; and the statements about them. -/

namespace Sys2Proof.Machine

/- Proofs that are elaborated beside the tests' long kernel checks would wait for those on a thread, and a stack, each. -/
set_option Elab.async false

section
variable {s : State} {h : Hdr} {m : Lanes}

/-! ## Values that an instruction reads and writes once (R209) -/

theorem ownKey_updCtx (s : State) (u : UnitRef) (lev ck : Nat) (f : Ctx → Ctx) : ownKey (s.updCtx ck f) u lev = ownKey s u lev := by
  cases u <;> rfl

/-- A read that changes its own context but for its log leaves it the room that it had. -/
theorem room_updCtx {f : Ctx → Ctx} (same : ∀ c, (f c).logRoom = c.logRoom)
    (room : ∃ c, s.ctx? (ownKey s s.cur.u (Hdr.lv h)) = some c ∧ c.logRoom = true) :
    ∃ c, (s.updCtx (ownKey s s.cur.u (Hdr.lv h)) f).ctx?
      (ownKey (s.updCtx (ownKey s s.cur.u (Hdr.lv h)) f) (s.updCtx (ownKey s s.cur.u (Hdr.lv h)) f).cur.u (Hdr.lv h)) = some c ∧
      c.logRoom = true := by
  obtain ⟨c, ctx, fits⟩ := room
  refine ⟨f c, ?_, (same c).trans fits⟩
  rw [show (s.updCtx (ownKey s s.cur.u (Hdr.lv h)) f).cur = s.cur from rfl, ownKey_updCtx, updCtx_ctx?, if_pos rfl, ctx]
  rfl

/-- What a read leaves still has room for the log record of its destination. -/
def ReadRoom (s : State) (h : Hdr) (t : State) : Prop :=
  h.lev ≠ 0 → (∃ c, s.ctx? (ownKey s s.cur.u (Hdr.lv h)) = some c ∧ c.logRoom = true) →
    ∃ c, t.ctx? (ownKey t t.cur.u (Hdr.lv h)) = some c ∧ c.logRoom = true

theorem put64_of {d : Opd} {k : State → W64 × State} (ready : OnceReady s h m 2 [] (onceDst h d 2 m)) (fits : LogFits s h)
    (room : ReadRoom s h (k s).2) : put64 s h d k = .next (wroteOnce (k s).2 h m d 2 (k s).1) := by
  rw [put64, onceReady_of ready]
  exact putOnce_of_room (fun lev => room lev (ready.acts.room fits lev)) ..

theorem setMc_room (s : State) (h : Hdr) (sel : Nat) (l : List W64) : ReadRoom s h (setMc s h sel l) := by
  intro lev room
  rw [setMc, if_neg lev]
  exact room_updCtx (fun _ => rfl) room

theorem sawCyc_room (s : State) (h : Hdr) (loc net : Nat) : ReadRoom s h (sawCyc s h loc net) := by
  intro lev room
  rw [sawCyc, if_neg lev]
  exact room_updCtx (fun _ => rfl) room

theorem crRead_room (s : State) (h : Hdr) (cr : Nat) : ReadRoom s h (crRead s h cr).2 := by
  by_cases status : cr = 0x101
  · subst status
    exact setMc_room _ _ _ _
  · have same : (crRead s h cr).2 = s := by
      simp only [crRead, if_neg status]
      split_ifs <;> rfl
    rw [same]
    exact fun _ room => room

theorem cycRead_room (s : State) (h : Hdr) (src : CycSrc) : ReadRoom s h (cycRead s h src).2 := by
  cases src
  · exact sawCyc_room _ _ _ _
  · exact sawCyc_room s.tick1 _ _ _

theorem evRead_room (s : State) (h : Hdr) (ev : Nat) : ReadRoom s h (evRead s ev).2 := by
  intro _ room
  simp only [evRead]
  split <;> exact room

/-! ## The registers (R210, R211) -/

theorem handlerHere_of {gk : Nat} {g : Group} (unit : s.cur.u = .grp gk) (grp : s.grp? gk = some g) : handlerHere s = g.handler := by
  simp only [handlerHere, unit, grp, Option.bind_some]

theorem grpHere_of {gk : Nat} {g : Group} (unit : s.cur.u = .grp gk) (grp : s.grp? gk = some g) : grpHere s = some g := by
  simp only [grpHere, unit, grp]

/-- What a reader selects and what its latch holds, set and read again (R211). -/
theorem mcOf_setMc {sel sel' : Nat} {latch latch' : List W64}
    (reader : (h.lev = 0 ∧ ∃ gk g, s.cur.u = .grp gk ∧ s.grp? gk = some g ∧ sel = g.mcsel ∧ latch = g.latch) ∨
      (h.lev ≠ 0 ∧ ∃ ck c, ownKey s s.cur.u (Hdr.lv h) = ck ∧ s.ctx? ck = some c ∧ sel = c.mcsel ∧ latch = c.latch)) :
    mcOf s h = (sel, latch) ∧ mcOf (setMc s h sel' latch') h = (sel', latch') := by
  obtain ⟨lev, gk, g, unit, grp, rfl, rfl⟩ | ⟨lev, ck, c, rfl, ctx, rfl, rfl⟩ := reader
  · simp only [mcOf, setMc, if_pos lev, grpHere, unit, grp, State.updGrp, true_and]
    rw [show State.grp? { s with groups := tabUpd s.groups gk _ } gk = _ from updGrp_grp? s gk gk _, if_pos rfl, grp]
    rfl
  · refine ⟨by simp only [mcOf, if_neg lev, ctx], ?_⟩
    simp only [mcOf, setMc, if_neg lev]
    rw [show ∀ f, (s.updCtx (ownKey s s.cur.u (Hdr.lv h)) f).cur = s.cur from fun _ => rfl, ownKey_updCtx, updCtx_ctx?, if_pos rfl, ctx]
    rfl

/-- A register of the machine-check bank's latch is read off it. -/
theorem crRead_latch {k : Nat} (small : k < 3) : (crRead s h (0x102 + k)).1 = (nth? (mcOf s h).2 (k + 1)).getD 0 := by
  simp only [crRead]
  rw [if_neg (by omega), if_neg (by omega), if_neg (by omega), if_neg (by omega), if_neg (by omega), if_neg (by omega), if_neg (by omega),
    if_neg (by omega), show 0x102 + k - 0x101 = k + 1 by omega]

end

/-! ## The statements -/

/-- Settles O37. -/
theorem controlAndTimeResult : Obligations.ControlAndTimeResult := by
  unfold Obligations.ControlAndTimeResult
  intro s h m lev
  refine ⟨fun d ready fits => ⟨fun cr => ?_, fun src => ?_, fun ev => ?_⟩, fun a cr ready allowed => ?_, fun src => ?_, fun a imm ready fresh => ?_,
    fun a imm acts wait => ?_, fun a fresh drained => ?_, fun a k n acts wait used => ?_, fun gk acts unit => ?_⟩
  · exact congrArg (fin s h true) (put64_of (k := fun s => crRead s h cr.toNat) ready fits (crRead_room s h _))
  · exact congrArg (fin s h true) (put64_of (k := fun s => cycRead s h src) ready fits (cycRead_room s h src))
  · exact congrArg (fin s h true) (put64_of (k := fun s => evRead s ev.toNat) ready fits (evRead_room s h _))
  · change execCtlwr h a cr s = _
    rw [execCtlwr, onceReady_of (dst := fun _ => []) ready]
    simp only [allowed, Bool.false_eq_true, ↓reduceIte, unlessPoison_of ready.clean, fin_next]
  · intro v
    refine ⟨fun loc seen clock => ?_, fun net seen clock => ?_⟩
    · subst loc
      have val : v.toNat = max (cycSeen s h).1 (clockHere s h) := Nat.mod_eq_of_lt (max_lt seen clock)
      exact ⟨val, val ▸ le_max_left _ _⟩
    · subst net
      have jitter : (freeNow s 64).toNat % 5 < 5 := Nat.mod_lt _ (by decide)
      have val : v.toNat = max (cycSeen s h).2 (s.nc + (freeNow s 64).toNat % 5) := Nat.mod_eq_of_lt (max_lt seen (by omega))
      omega
  · intro n
    have asks : exec (.sleepc h a imm) s =
        fin s h false (if n = 0 then .next s else .stay (setWait s lev (.sleep (clockHere s h + n)))) := by
      change execSleepc h a imm s = _
      simp only [execSleepc, show waitOf s (Hdr.lv h) = _ from fresh, onceReady_of (dst := fun _ => []) ready, unlessPoison_of ready.clean]
      rfl
    exact ⟨fun zero => asks.trans (by rw [if_pos zero, fin_pass]), fun some_ => asks.trans (by rw [if_neg some_, fin_stay])⟩
  · change execSleepc h a imm s = _
    simp only [execSleepc, show waitOf s (Hdr.lv h) = _ from wait, onceRun_of acts, ↓reduceIte]
    rfl
  · intro sp
    have fresh' : waitOf s (Hdr.lv h) = .none := fresh
    refine ⟨fun ready form => ?_, fun ready => ⟨?_, ?_⟩⟩
    · change execTlbinv h .page a s = _
      simp only [execTlbinv, fresh', onceReady_of (dst := fun _ => []) ready, form, unlessPoison_of ready.clean, drained, Bool.not_true,
        Bool.false_eq_true, and_false, ↓reduceIte]
      rfl
    · change execTlbinv h .space a s = _
      simp only [execTlbinv, fresh', onceReady_of (dst := fun _ => []) ready, unlessPoison_of ready.clean, drained, Bool.not_true,
        Bool.false_eq_true, reduceCtorEq, false_and, ↓reduceIte]
      rfl
    · change execTlbinv h .all a s = _
      simp only [execTlbinv, fresh', onceReady_of (dst := fun _ => []) ready, unlessPoison_of ready.clean, drained, Bool.not_true,
        Bool.false_eq_true, reduceCtorEq, false_and, ↓reduceIte]
      rfl
  · change execTlbinv h k a s = _
    simp only [execTlbinv, show waitOf s (Hdr.lv h) = _ from wait, onceRun_of acts, used, ↓reduceIte]
    rfl
  · have sets : ∀ k, execClone h k s = .next (done s h (s.updGrp gk (fun g =>
        { g with chk := match k with | .off => 0 | .cnt => 1 | .strict => 2 }))) := fun k => by
      simp only [execClone, onceRun_of acts, unit, fin_next] <;> rfl
    exact ⟨sets .off, sets .cnt, sets .strict⟩

/-- Settles O38. -/
theorem controlRegisterValues : Obligations.ControlRegisterValues := by
  unfold Obligations.ControlRegisterValues
  intro s h r
  refine ⟨fun hd here => ⟨?_, fun cr small => ?_⟩, fun none_ => ⟨?_, ?_, fun cr small => ?_, fun v => ?_⟩, fun gk g hd unit grp handler => ?_, rfl,
    fun gk g unit grp => ?_, fun ck unit => ?_, rfl, fun cr other => ?_, ?_, fun v => ?_, fun v => ?_, fun cr v r1 r2 r3 => ?_⟩
  · change (match handlerHere s with | some hd => hd.resume | none => 0) = _
    rw [here]
  · simp only [crRead, if_pos small, here]
  · change (match handlerHere s with | some hd => hd.resume | none => 0) = _
    rw [none_]
  · change BitVec.ofNat 64 (match grpHere s, handlerHere s with | some g, some hd => handlerLeft s g hd | _, _ => 0) = _
    rw [none_]
    cases grpHere s <;> rfl
  · simp only [crRead, if_pos small, none_]
    rfl
  · simp only [crDenied, ↓reduceIte, none_, Option.isNone_none]
  · change BitVec.ofNat 64 (match grpHere s, handlerHere s with | some g, some hd => handlerLeft s g hd | _, _ => 0) = _
    rw [grpHere_of unit grp, handlerHere_of unit grp, handler]
    rfl
  · change BitVec.ofNat 64 (chkMode s) = _
    rw [chkMode, grpHere_of unit grp]
  · change BitVec.ofNat 64 (chkMode s) = _
    simp only [chkMode, grpHere, unit, r]
  · simp only [crRead, if_neg other]
    split_ifs <;> rfl
  · intro sel latch reader b t
    obtain ⟨mc, -⟩ := mcOf_setMc (sel' := 0) (latch' := []) reader
    have read : mcOf t h = (sel, [b.status, b.addr, b.misc0, b.misc1]) := by
      change mcOf (setMc s h (mcOf s h).1 _) h = _
      rw [mc]
      exact (mcOf_setMc reader).2
    refine ⟨congrArg (fun (p : Nat × List W64) => BitVec.ofNat 64 p.1) mc, congrArg (fun (p : Nat × List W64) => (s.bankRead p.1).status) mc, fun k small => ?_,
      congrArg (fun (p : Nat × List W64) => BitVec.ofNat 64 p.1) read, congrArg (fun (p : Nat × List W64) => (nth? p.2 1).getD 0) read, congrArg (fun (p : Nat × List W64) => (nth? p.2 2).getD 0) read,
      congrArg (fun (p : Nat × List W64) => (nth? p.2 3).getD 0) read, fun v => ?_, fun v => ⟨fun same => ?_, fun changed => ?_⟩⟩
    · rw [crRead_latch small, mc]
    · change BitVec.ofNat 64 (mcOf (setMc s h v.toNat (mcOf s h).2) h).1 = v
      rw [(mcOf_setMc reader).2]
      simp
    · simp only [crWrite, mc]
      exact if_pos (beq_iff_eq.mpr same)
    · simp only [crWrite, mc]
      exact if_neg (fun same => changed (beq_iff_eq.mp same))
  · exact decide_eq_true_iff
  · simp [crDenied]
  · simp [crDenied, r1, r2, r3]

end Sys2Proof.Machine
end

section
/-! SUPPORT. The statement about the sequencers' steps. -/

namespace Sys2Proof.Machine

/- Proofs that are elaborated beside the tests' long kernel checks would wait for those on a thread, and a stack, each. -/
set_option Elab.async false

theorem updCtx_ctx?_self {s : State} {ck : Nat} {c : Ctx} (ctx : s.ctx? ck = some c) (f : Ctx → Ctx) :
    (s.updCtx ck f).ctx? ck = some (f c) := by
  rw [updCtx_ctx?, if_pos rfl, ctx, Option.map_some]

theorem updGrp_grp?_self {s : State} {gk : Nat} {g : Group} (grp : s.grp? gk = some g) (f : Group → Group) :
    (s.updGrp gk f).grp? gk = some (f g) := by
  rw [updGrp_grp?, if_pos rfl, grp, Option.map_some]

/-- A child that may report does what its report comes to (R33, R412). -/
theorem exec_conditionReport_of {s : State} {u : UnitRef} {ck j : Nat} {c : Ctx} {x : Seg} {q : ReportReq} (ctx : s.ctx? ck = some c)
    (parent : parentOf s u = some (ck, j)) (seg : curSeg s u = some x) (asks : x.rep = some q) (runs : unitRuns s u = true)
    (free : noHandlerIn s u = true) (idle : segIdle s u = true) (asked : c.asked = true) (last : x.id + 1 = c.next)
    (new : tabGet? c.reports j = none) : exec (.conditionReport u) s = .next (match evalRep s q 8 u with
      | .wait => s
      | .rep r => s.updCtx ck (fun c => { c with reports := tabSet c.reports j r })
      | .fault v f => reportFault s v f q) := by
  change execConditionReport u s = _
  simp only [execConditionReport, parent, seg, ctx, asks, runs, free, idle, asked, last, new, Bool.not_true, bne_self_eq_false,
    Option.isSome_none, Bool.or_self, Bool.false_eq_true, ↓reduceIte] <;> rfl

/-- Settles O39. -/
theorem sequencerSteps : Obligations.SequencerSteps := by
  unfold Obligations.SequencerSteps
  intro s u ck gk c g ctx grp
  refine ⟨fun t d moved here new => ?_, fun only rep room => ?_, fun runs may => ?_,
    fun j x q r parent seg asks runs free idle asked last new rep => ?_, fun j x q v f parent seg asks runs free idle asked last new rep => ?_,
    fun f ia insn held empty issues => ?_, fun hd b e x r handler band dbg dying late table => ?_, fun n p prod => ?_,
    fun va l form launch => ?_, fun core gc va l e t launch form small leaf may => ?_, fun n i => ⟨rfl, rfl⟩, fun n e wait past => ?_⟩
  · change execSegmentEmit ck s = _
    simp only [execSegmentEmit, ctx, moved, here, if_neg new]
  · simp only [emit, ctx, room, Bool.false_eq_true, ↓reduceIte]
    exact ⟨_, _, rfl, updCtx_ctx?_self ctx _, rfl, rfl, rfl, rfl⟩
  · change execSegmentFinish u s = _
    rw [execSegmentFinish, runs, may]
    rfl
  · rw [exec_conditionReport_of ctx parent seg asks runs free idle asked last new, rep]
  · rw [exec_conditionReport_of ctx parent seg asks runs free idle asked last new, rep]
  · change execFaultDelivery (.ctx ck) s = _
    simp only [execFaultDelivery, ctx, held]
    rw [if_pos (by rw [issues, empty]; rfl)]
  · change execHandlerTimeLimit gk s = _
    simp only [execHandlerTimeLimit, grp, handler, band, dbg, dying, Option.isNone_none, Bool.and_self, Bool.not_true, Bool.false_or,
      decide_eq_false (Nat.not_le.mpr late), Bool.false_eq_true, ↓reduceIte, table]
  · change execProducerCompletion n s = _
    rw [execProducerCompletion, prod]
    rfl
  · intro t
    have quiet := (quiet_fillLine s (placeOf s u) (gcOf s u) (va.toNat / 64 * 64)).frame
    obtain ⟨-, mem, groups, ctxs, -⟩ := quiet
    refine ⟨?_, mem, groups, ctxs⟩
    change execLineFill u va s = _
    rw [execLineFill, if_pos form, launch]
    rfl
  · change execPageWalk core gc va s = _
    simp only [execPageWalk, launch, Option.bind_some, form, small, decide_true, Bool.and_self, ↓reduceIte, leaf, may, Bool.true_or]
    rfl
  · refine ⟨_, rfl, ?_, rfl⟩
    rw [updCtx_ctx?_self ctx]
    simp only [Option.map_some, wait, wakeSleep, if_pos past]

end Sys2Proof.Machine
end

section
/-! SUPPORT. What a pending access's step comes to, and what the steps of views, packets and buckets leave; and the statement about them. -/

namespace Sys2Proof.Machine

/- Proofs that are elaborated beside the tests' long kernel checks would wait for those on a thread, and a stack, each. -/
set_option Elab.async false

/-! ## Reads of memory (R193, R243) -/

theorem bankEvent_cores (s : State) (b cls act code src : Nat) (x y z : W64) : (s.bankEvent b cls act code src x y z).cores = s.cores := by
  unfold State.bankEvent
  split
  · rfl
  · dsimp only
    split <;> rfl

theorem sectorEvent_cores (s : State) (pa : Nat) : (sectorEvent s pa).cores = s.cores := by
  simp only [sectorEvent]
  split
  · exact bankEvent_cores ..
  · exact bankEvent_cores ..
  · rfl

theorem cellarHit_cores (s : State) (u : Upset) : (cellarHit s u).cores = s.cores := by
  cases u
  case cellar pa dirty =>
    refine (bankEvent_cores ..).trans ?_
    cases dirty <;> rfl
  all_goals rfl

theorem softHits_cores (s : State) (b : Nat) : (softHits s b).cores = s.cores := by
  refine List.foldlRecOn (motive := fun (t : State) => t.cores = s.cores) _ _ rfl (fun t same u _ => ?_)
  split
  · exact (bankEvent_cores ..).trans same
  · exact same

/-- What a read of memory finds is recorded outside the cores. -/
theorem readCheck_cores (s : State) (pa n : Nat) : (readCheck s pa n).2.cores = s.cores := by
  simp only [readCheck, sectorEvents]
  refine List.foldlRecOn (motive := fun (t : State) => t.cores = s.cores) _ _ ?_ (fun t same k _ => (sectorEvent_cores t _).trans same)
  exact List.foldlRecOn (motive := fun (t : State) => t.cores = s.cores) _ _ (softHits_cores ..) (fun t same u _ => (cellarHit_cores t u).trans same)

theorem readCheck_mem (s : State) (pa n : Nat) : (readCheck s pa n).2.mem = s.mem := (quiet_readCheck s pa n).frame.2.1

theorem Quiet.tick {s t : State} (w : Quiet s t) : t.tick = s.tick := by
  obtain ⟨_, _, _, _, _, _, _, _, _, _, rfl⟩ := w
  rfl

theorem quiet_viewRead (s : State) (k pa n : Nat) : Quiet s (viewRead s k pa n).2 := by
  simp only [viewRead]
  exact quiet_updCore ..

theorem quiet_fillView (s : State) (k pa : Nat) : Quiet s (fillView s k pa) := (quiet_readCheck ..).trans (quiet_viewRead ..)

/-- A view that holds a range is read from alone. -/
theorem viewRead_held {s : State} {k pa n : Nat} (held : someUnheld s k pa n = false) {i : Nat} (hi : i < n) :
    (viewRead s k pa n).1[i]? = tabGet? (s.core k).view (pa + i) := by
  have here := List.any_eq_false.mp held i (List.mem_range.mpr hi)
  rw [viewRead, List.getElem?_map, List.getElem?_range hi, Option.map_some]
  cases byte : tabGet? (s.core k).view (pa + i) with
  | none => rw [byte] at here; exact absurd rfl here
  | some b => rfl

/-- Unlisting the keys that fail a test. -/
theorem tabGet?_filter {α : Type} (t : Tab α) (p : Nat → Bool) (i : Nat) :
    tabGet? (t.filter (fun q => p q.1)) i = if p i then tabGet? t i else none := by
  induction t with
  | nil => cases p i <;> rfl
  | cons q r ih =>
    obtain ⟨k, v⟩ := q
    by_cases here : i = k
    · subst here
      cases keep : p i
      · simpa only [List.filter_cons, keep, Bool.false_eq_true, ↓reduceIte] using ih
      · simp only [List.filter_cons, keep, ↓reduceIte, tabGet?]
    · cases keep : p k
      · simpa only [List.filter_cons, keep, Bool.false_eq_true, ↓reduceIte, tabGet?, if_neg here] using ih
      · simpa only [List.filter_cons, keep, ↓reduceIte, tabGet?, if_neg here] using ih

theorem unhold_view (s : State) (k pa n i : Nat) (hi : i < n) : tabGet? ((unhold s k pa n).core k).view (pa + i) = none := by
  rw [unhold, updCore_core, if_pos rfl]
  refine (tabGet?_filter _ (fun q => !(decide (pa ≤ q) && decide (q < pa + n))) _).trans (if_neg ?_)
  simp [hi]

section
variable {s : State} {a : Access} {pa k : Nat}

/-- A pending read of memory takes its turn. -/
theorem exec_readPerform_mem (pending : accOf s a.id = some a) (kind : a.kind = .read) (new : a.taken = none) (orders : ordersAllow s a = true)
    (order : readInOrder s a = true) (loc : a.loc = .mem pa) : exec (.readPerform a.id) s = ev s (readMem s a pa) := by
  change execReadPerform a.id s = _
  simp only [execReadPerform, pending, Option.bind_some, kind, reduceCtorEq, ↓reduceIte, new, Option.isNone_none, orders, order, and_self, loc]

/-- A read at home takes what memory holds. -/
theorem readHome_eq (s : State) (a : Access) (pa : Nat) :
    readHome s a pa = tookValue (readCheck s pa a.width).2 a (memRead s.mem pa a.width) (readCheck s pa a.width).1 := by
  simp only [readHome, readCheck_mem]

theorem readMem_home (core : a.core = none) (inj : a.inj = true) : readMem s a pa = some (readHome s a pa) := by
  simp only [readMem, core, inj, ↓reduceIte]

theorem readMem_wide (core : a.core = some k) (inj : a.inj = true) (plain : a.konst = false) (wide : 3 ≤ a.sc) (ahead : copyAhead s a = false) :
    readMem s a pa = some (readHome (unhold s k pa a.width) a pa) := by
  have away : readsView a = false := by simp [readsView, Nat.not_le.mpr wide]
  simp only [readMem, core, plain, away, inj, ahead, Bool.false_eq_true, ↓reduceIte, Bool.not_false, Bool.and_self]

theorem readMem_view (core : a.core = some k) (view : readsView a = true) (ahead : copyAhead s a = false) (whole : l1Struck s a k pa = none) :
    readMem s a pa = if someUnheld s k pa a.width then
      (if a.inj && mayFill s a k pa then some (tookValue (viewRead (fillView s k pa) k pa a.width).2 a
        (viewRead (fillView s k pa) k pa a.width).1 (someUnheld (fillView s k pa) k pa a.width)) else none)
      else some (tookValue (viewRead s k pa a.width).2 a (viewRead s k pa a.width).1 false) := by
  have plain : a.konst = false := by
    simp only [readsView, Bool.and_eq_true, Bool.not_eq_true'] at view
    exact view.2
  simp only [readMem, core, plain, view, readView, whole, ahead, Bool.false_eq_true, ↓reduceIte]

/-- A constant-path read of a line that the core holds. -/
theorem readMem_konst_held (core : a.core = some k) (inj : a.inj = true) (konst : a.konst = true) {line : List Byte}
    (held : (s.core k).kv.find? (fun p => p.1 == pa / 128 * 128) = some (pa / 128 * 128, line)) :
    readMem s a pa = some (tookValue s a ((line.drop (pa % 128)).take a.width) false) := by
  have any : (s.core k).kv.any (fun p => p.1 == pa / 128 * 128) = true := by
    rw [List.any_eq_true]
    exact ⟨_, List.mem_of_find?_eq_some held, beq_self_eq_true _⟩
  have off : pa - pa / 128 * 128 = pa % 128 := by omega
  simp only [readMem, core, konst, inj, any, ↓reduceIte, konstRead, held, Bool.true_or, off]

/-- A part of the bytes read. -/
theorem memRead_part (m : List Host.Cell) {d n k : Nat} (pa : Nat) (fits : d + n ≤ k) :
    ((memRead m pa k).drop d).take n = memRead m (pa + d) n := by
  induction d generalizing pa k with
  | zero =>
    induction n generalizing pa k with
    | zero => rfl
    | succ n ih =>
      obtain ⟨k, rfl⟩ : ∃ j, k = j + 1 := ⟨k - 1, by omega⟩
      exact congrArg (memByte m pa :: ·) (ih (pa + 1) (by omega))
  | succ d ih =>
    obtain ⟨k, rfl⟩ : ∃ j, k = j + 1 := ⟨k - 1, by omega⟩
    rw [show pa + (d + 1) = pa + 1 + d by omega]
    exact ih (pa + 1) (by omega)

/-- A constant-path read of a line that is filled from home. -/
theorem readMem_konst_filled (core : a.core = some k) (inj : a.inj = true) (konst : a.konst = true) (fits : pa % 128 + a.width ≤ 128)
    (not_ : (s.core k).kv.find? (fun p => p.1 == pa / 128 * 128) = none) : ∃ t, t.mem = s.mem ∧ (t.core k).view = (s.core k).view ∧
      readMem s a pa = some (tookValue t a (memRead s.mem pa a.width) (readCheck s pa a.width).1) := by
  have any : (s.core k).kv.any (fun p => p.1 == pa / 128 * 128) = false := by
    rw [List.any_eq_false]
    exact List.find?_eq_none.mp not_
  have same : (readCheck s pa a.width).2.core k = s.core k := by rw [State.core, readCheck_cores]; rfl
  have bytes : ((memRead s.mem (pa / 128 * 128) 128).drop (pa - pa / 128 * 128)).take a.width = memRead s.mem pa a.width := by
    rw [memRead_part s.mem _ (by omega), show pa / 128 * 128 + (pa - pa / 128 * 128) = pa by omega]
  refine ⟨(konstRead (readCheck s pa a.width).2 k pa a.width).2, ?_, ?_, ?_⟩
  · simp only [konstRead, same, any, Bool.false_or]
    split <;> exact readCheck_mem ..
  · simp only [konstRead, same, any, Bool.false_or]
    split
    · rw [same]
    · rw [updCore_core, if_pos rfl, same]
  · simp only [readMem, core, konst, inj, any, Bool.false_eq_true, ↓reduceIte, konstRead, same, not_, readCheck_mem, bytes]

/-! ## Writes and atomics (R243, R248, R266) -/

/-- A pending write or atomic takes its turn at its first point. -/
theorem exec_writeApply_of (pending : accOf s a.id = some a)
    (kind : a.kind = .write ∨ ∃ op ty b c ret, a.kind = .atomic op ty b c ret) (view : a.atView = false) (home : a.atHome = false)
    (orders : ordersAllow s a = true) (release : releaseAllows s a = true) (order : applyInOrder s a = true) :
    exec (.writeApply a.id) s = ev s (applyFirst s a) := by
  change execWriteApply a.id s = _
  obtain kind | ⟨op, ty, b, c, ret, kind⟩ := kind <;>
  simp only [execWriteApply, pending, Option.bind_some, kind, view, home, orders, release, order, Bool.not_false, Bool.and_self, ↓reduceIte]

theorem atomHome_eq (s : State) (a : Access) (pa : Nat) (op : Aop) (ty : Ty) (b c : W64) : atomHome s a pa op ty b c =
    tookValue (updAcc (if (readCheck s pa a.width).1 then (readCheck s pa a.width).2
      else homeWrite (readCheck s pa a.width).2 pa (atomBytes op ty (memRead s.mem pa a.width) b c) false) a.id
      (fun a => { a with atView := true, atHome := true })) a (memRead s.mem pa a.width) (readCheck s pa a.width).1 := by
  simp only [atomHome, readCheck_mem]

theorem viewWrite_tick (s : State) (k pa : Nat) (bs : List Byte) (poi : Bool) : (viewWrite s k pa bs poi).tick = s.tick := rfl

/-- The step of an atomic on a view whose line has been filled. -/
theorem atomView_eq {u : State} (filled : (if someUnheld s k pa a.width then fillView s k pa else s) = u) (op : Aop) (ty : Ty) (b c : W64) :
    atomView s a k pa op ty b c = if someUnheld u k pa a.width then
        tookValue (updAcc (viewRead u k pa a.width).2 a.id (fun a => { a with atView := true, atHome := true })) a (viewRead u k pa a.width).1 true
      else tookValue (updAcc (viewWrite (viewRead u k pa a.width).2 k pa (atomBytes op ty (viewRead u k pa a.width).1 b c) false) a.id
        (fun x => { x with atView := true, vord := s.tick, data := atomBytes op ty (viewRead u k pa a.width).1 b c })) a
        (viewRead u k pa a.width).1 false := by
  have tick : (viewRead u k pa a.width).2.tick = s.tick := by
    rw [(quiet_viewRead u k pa a.width).tick, ← filled]
    split
    · exact (quiet_fillView s k pa).tick
    · rfl
  simp only [atomView, filled, viewWrite_tick, tick]

end

/-! ## Routes and buckets (R378 to R383) -/

theorem tabGet?_range {α : Type} (f : Nat → α) {n c : Nat} (hc : c < n) : tabGet? ((List.range n).map (fun i => (i, f i))) c = some (f c) := by
  have look : ∀ l : List Nat, c ∈ l → tabGet? (l.map (fun i => (i, f i))) c = some (f c) := by
    intro l
    induction l with
    | nil => exact fun h => absurd h List.not_mem_nil
    | cons x r ih =>
      intro mem
      by_cases here : c = x
      · subst here
        exact if_pos rfl
      · exact (if_neg here).trans (ih ((List.mem_cons.mp mem).resolve_left here))
  exact look _ (List.mem_range.mpr hc)

/-- A loaded table sends a packet over its first hop. -/
theorem routeTo_loaded (s : State) {c d : Nat} (hc : c < 50) (hd : d < 50) (apart : c ≠ d) :
    routeTo (loadRoutes s) c d = some (if firstHop c d = d then [d] else [firstHop c d, d]) := by
  have entry : nth? (routeTable c) d = some (firstHop c d) := by
    rw [nth?, routeTable, List.getElem?_map, List.getElem?_range hd, Option.map_some]
  simp only [routeTo, if_neg apart, loadRoutes, tabGet?_range routeTable hc, Option.bind_some, entry, Option.map_some]

/-- The flits that a packet takes leave its target where it is. -/
theorem bucketTake_target {s t : State} {ep cls f : Nat} (w : bucketTake s ep cls f = some t) (a : Access) : targetOf t a = targetOf s a := by
  unfold bucketTake at w
  dsimp only at w
  split at w
  · cases w; rfl
  · split at w
    · contradiction
    · cases w; rfl

/-! ## The statement -/

/-- Settles O40. -/
theorem orderingAndNetworkSteps : Obligations.OrderingAndNetworkSteps := by
  unfold Obligations.OrderingAndNetworkSteps
  refine ⟨fun s a pending => ⟨fun kind new orders order => ?_, fun pa k kind new orders loc core => ?_,
    fun kind view home orders release order => ?_, fun pa loc view home inj order line => ?_, fun kind done_ acked_ => ?_, fun kind done_ => ?_⟩,
    fun s a op ty b c ret pending kind view home orders release order => ?_, fun f ty o b n int => ?_, fun s k pa => ?_, fun s => ?_⟩
  · refine ⟨fun bk off b loc => ?_, fun pa loc core inj => ?_, fun pa k loc core view ahead whole => ⟨fun held => ⟨?_, fun i hi => viewRead_held held hi⟩,
      fun missing inj may => ?_⟩, fun pa k loc core inj plain wide ahead => ?_, fun pa k loc core inj konst fits => ⟨fun line held => ?_, fun not_ => ?_⟩⟩
    · intro t band
      change execReadPerform a.id s = _
      simp only [execReadPerform, pending, Option.bind_some, kind, reduceCtorEq, ↓reduceIte, new, Option.isNone_none, orders, order, and_self, loc]
      rw [show State.band? _ bk = some b from band]
      rfl
    · rw [exec_readPerform_mem pending kind new orders order loc, readMem_home core inj, readHome_eq]
      rfl
    · rw [exec_readPerform_mem pending kind new orders order loc, readMem_view core view ahead whole, held]
      rfl
    · intro t
      refine ⟨?_, (quiet_fillView s k pa).frame.2.1⟩
      rw [exec_readPerform_mem pending kind new orders order loc, readMem_view core view ahead whole, missing, inj, may]
      rfl
    · intro u
      refine ⟨?_, fun i hi => unhold_view s k pa a.width i hi⟩
      rw [exec_readPerform_mem pending kind new orders order loc, readMem_wide core inj plain wide ahead, readHome_eq]
      rfl
    · rw [exec_readPerform_mem pending kind new orders order loc, readMem_konst_held core inj konst held]
      rfl
    · obtain ⟨t, mem, kept, eq⟩ := readMem_konst_filled core inj konst fits not_
      refine ⟨t, mem, kept, ?_⟩
      rw [exec_readPerform_mem pending kind new orders order loc, eq]
      rfl
  · have turn : exec (.readPerform a.id) s = ev s (prefLine s a k pa) := by
      change execReadPerform a.id s = _
      simp only [execReadPerform, pending, Option.bind_some, kind, ↓reduceIte, loc, core, new, orders, Option.isNone_none, Bool.and_self]
    refine ⟨fun held => ?_, fun missing inj may => ?_⟩
    · rw [turn, prefLine, held]
      rfl
    · rw [turn, prefLine, missing, inj, may]
      rfl
  · have turn := exec_writeApply_of pending (.inl kind) view home orders release order
    refine ⟨fun pa k loc core => ?_, fun pa loc core inj line => ?_, fun bk off b loc band => ?_⟩
    · rw [turn]
      simp only [applyFirst, loc, kind, core]
      rfl
    · rw [turn]
      simp only [applyFirst, loc, kind, core, inj, line, Bool.and_self, ↓reduceIte]
      rfl
    · rw [turn]
      simp only [applyFirst, loc, kind, band]
      rfl
  · change execWriteDeliver a.id s = _
    simp only [execWriteDeliver, pending, Option.bind_some, loc, view, home, inj, order, line, Bool.not_false, Bool.and_self, ↓reduceIte]
    rfl
  · change execAccessComplete a.id s = _
    simp only [execAccessComplete, pending, Option.bind_some, if_neg kind, done_, acked_, Bool.and_self, ↓reduceIte]
    rfl
  · change execAccessComplete a.id s = _
    simp only [execAccessComplete, pending, Option.bind_some, if_pos kind, done_, ↓reduceIte]
    rfl
  · intro new ends
    have turn := exec_writeApply_of pending (.inr ⟨op, ty, b, c, ret, kind⟩) view home orders release order
    refine ⟨fun pa loc homeA inj line => ?_, fun pa k loc viewA core ahead whole fill => ?_, fun bk off x => ?_⟩
    · intro old u
      rw [turn]
      simp only [applyFirst, loc, kind, homeA, inj, line, Bool.and_self, ↓reduceIte, atomHome_eq]
      split
      · next bad => rw [bad]; rfl
      · next good => rw [Bool.eq_false_iff.mpr good]; rfl
    · intro u old v
      have waits : (copyAhead s a || someUnheld s k pa a.width && !mayFill s a k pa) = false := by
        rw [ahead]
        obtain held | may := fill
        · rw [held]; rfl
        · rw [may]; simp
      have step : exec (.writeApply a.id) s = .next (atomView s a k pa op ty b c) := by
        rw [turn]
        simp only [applyFirst, loc, kind, viewA, core, whole, waits, Bool.false_eq_true, ↓reduceIte]
        rfl
      refine ⟨fun whole' => ?_, fun bad => ?_⟩
      · rw [step, atomView_eq rfl, if_neg (Bool.eq_false_iff.mp whole')]
        rfl
      · rw [step, atomView_eq rfl, if_pos bad]
    · intro u loc band old
      rw [turn]
      simp only [applyFirst, loc, kind, atomScr]
      rw [show State.band? _ bk = some x from band]
      simp only [ev, Option.map_some, Option.getD_some]
      split
      · next bad => rw [bad]
      · next good => rw [Bool.eq_false_iff.mpr good]; rfl
  · intro w x y gives
    refine ⟨rfl, rfl, rfl, rfl, rfl, congrArg (BitVec.setWidth 64) (minV_eq_ite_lt ..), congrArg (BitVec.setWidth 64) (maxV_eq_ite_lt ..), rfl,
      fun zero => ⟨congrArg (BitVec.setWidth 64) (if_pos zero), congrArg (BitVec.setWidth 64) (if_pos zero)⟩,
      fun some_ => ⟨congrArg (BitVec.setWidth 64) (if_neg some_), congrArg (BitVec.setWidth 64) (if_neg some_)⟩⟩
  · refine ⟨fun held still => ?_, ?_, ?_⟩
    · refine ⟨s.updCore k (fun c => { c with view := if badSector s pa then tabDel c.view pa else tabSet c.view pa (memByte s.mem pa) }), ?_, ?_,
        fun q other => ?_, rfl⟩
      · change execViewRefresh k pa s = _
        rw [execViewRefresh, held, still]
        rfl
      · rw [updCore_core, if_pos rfl]
        cases badSector s pa
        · exact tabGet?_set_self ..
        · exact (tabGet?_del ..).trans (if_pos rfl)
      · rw [updCore_core, if_pos rfl]
        cases badSector s pa
        · exact tabGet?_set_ne _ _ other
        · exact (tabGet?_del ..).trans (if_neg other)
    · refine ⟨_, rfl, ?_, fun q other => ?_, rfl⟩
      · rw [updCore_core, if_pos rfl]
        exact (tabGet?_del ..).trans (if_pos rfl)
      · rw [updCore_core, if_pos rfl]
        exact (tabGet?_del ..).trans (if_neg other)
    · exact ⟨_, rfl, rfl, (quiet_foldl _ _ quiet_cellarHit s).frame.2.1⟩
  · refine ⟨fun a t r pending wants first own window taken route => ?_, fun c d hc hd apart => ⟨fun link => ?_, fun n far via => ?_⟩, fun ep cls f => ?_⟩
    · intro n
      have before : s.accs.all (fun b => !(queuedBefore b a && endpointOf s b == endpointOf s a && b.cls == a.cls && wantsInject s b)) = true := by
        rw [List.all_eq_true]
        intro b mem
        have := first b mem
        cases q : queuedBefore b a
        · rfl
        · by_cases ep : endpointOf s b = endpointOf s a
          · by_cases cls : b.cls = a.cls
            · rw [this q ep cls, Bool.and_false]; rfl
            · simp [cls]
          · simp [ep]
      have clear : (sameLoc s a).all (fun b => !isWriteK b.kind || !isWriteK a.kind || b.inj || b.atHome || !needsInject b) = true := by
        rw [List.all_eq_true]
        intro b mem
        have := own b mem
        cases wb : isWriteK b.kind
        · rfl
        · cases wa : isWriteK a.kind
          · rfl
          · obtain w | w | w := this wb wa <;> rw [w] <;> simp
      change execPacketInject a.id s = _
      simp only [execPacketInject, pending, Option.bind_some, wants, before, clear, window, Bool.and_self, ↓reduceIte, taken, bucketTake_target taken, route]
      rfl
    · rw [routeTo_loaded s hc hd apart, show firstHop c d = d from if_pos (.inr link), if_pos rfl]
    · have hop : firstHop c d = n := by
        rw [firstHop, if_neg (by simp [apart, far]), via]
        rfl
      have between : n ≠ d := by
        rintro rfl
        have := List.find?_some via
        rw [far] at this
        contradiction
      rw [routeTo_loaded s hc hd apart, hop, if_neg between]
    · intro r l
      refine ⟨fun open_ => ?_, fun limited short => ?_, fun limited enough => ?_, fun limited cls4 => ?_⟩
      · rw [bucketTake]
        exact if_pos open_
      · rw [bucketTake]
        exact (if_neg limited).trans (if_pos short)
      · have takes : bucketTake s ep cls f = some { s with host := { s.host with levels := tabPut (0 : Int) s.host.levels (ep * 4 + cls) (l - 64 * f) } } := by
          rw [bucketTake]
          exact (if_neg limited).trans (if_neg (not_lt.mpr enough))
        exact ⟨_, takes, (tabGet_put ..).trans (if_pos rfl), rfl, rfl⟩
      · have refills : exec (.bucketRefill ep cls) s = .next { s with host := { s.host with
            levels := tabPut (0 : Int) s.host.levels (ep * 4 + cls) (min (bucketCap r) (l + bucketRate r)) } } := by
          change execBucketRefill ep cls s = _
          rw [execBucketRefill]
          exact congrArg (ev s) (if_pos ⟨cls4, limited⟩)
        exact ⟨_, refills, (tabGet_put ..).trans (if_pos rfl), rfl⟩

end Sys2Proof.Machine
end

section
/-! SUPPORT. What an accumulator holds after an element is written; and the statement about a K-step. -/

namespace Sys2Proof.Machine

/- Proofs that are elaborated beside the tests' long kernel checks would wait for those on a thread, and a stack, each. -/
set_option Elab.async false

theorem accGet_accPut (c : Core) (k j : Nat) (w : W32) : accGet (accPut c k w) j = if j = k then w else accGet c j := by
  simp only [accGet, accPut, tabGet?_set]
  by_cases here : j = k
  · simp only [if_pos here]
  · simp only [if_neg here]

theorem accErr_accPut (c : Core) (k j : Nat) (w : W32) :
    tabGet false (accPut c k w).accErr j = if j = k then false else tabGet false c.accErr j :=
  tabGet_put false c.accErr k j false

theorem accKey_next (a i j : Nat) : accKey (a + 1) i j = accKey a i j + 4096 := by unfold accKey; omega

/-- Inside a tile a word's place tells its accumulator, row and column. -/
theorem accKey_inj {a b i j k l : Nat} (hi : i < 64) (hj : j < 64) (hk : k < 64) (hl : l < 64) (same : accKey b k l = accKey a i j) :
    b = a ∧ k = i ∧ l = j := by
  unfold accKey at same
  omega

/-- What an element reads as after it is written. -/
theorem accBits_accSetBits (c : Core) (wide : Bool) (a i j v : Nat) :
    accBits (accSetBits c wide a i j v) wide a i j = v % 2 ^ (if wide then 64 else 32) := by
  cases wide
  · simp [accBits, accSetBits, accGet_accPut]
  · have apart : accKey a i j ≠ accKey a i j + 4096 := by omega
    simp only [accBits, accSetBits, ↓reduceIte, accGet_accPut, accKey_next, if_neg apart, BitVec.toNat_ofNat]
    omega

theorem accBad_accSetBits (c : Core) (wide : Bool) (a i j v : Nat) : accBad (accSetBits c wide a i j v) wide a i j = false := by
  cases wide
  · simp [accBad, accSetBits, accErr_accPut]
  · simp [accBad, accSetBits, accErr_accPut]

/-- A word outside a written element is as before. -/
theorem accBits_other (c : Core) {wide : Bool} {a i j : Nat} (v : Nat) {b k l : Nat} (hi : i < 64) (hj : j < 64) (hk : k < 64) (hl : l < 64)
    (other : ¬(k = i ∧ l = j ∧ (b = a ∨ (wide = true ∧ b = a + 1)))) :
    accBits (accSetBits c wide a i j v) false b k l = accBits c false b k l := by
  have first : accKey b k l ≠ accKey a i j := fun same => by
    obtain ⟨hb, rfl, rfl⟩ := accKey_inj hi hj hk hl same
    exact other ⟨rfl, rfl, .inl hb⟩
  cases wide
  · simp [accBits, accSetBits, accGet_accPut, first]
  · have second : accKey b k l ≠ accKey (a + 1) i j := fun same => by
      obtain ⟨hb, rfl, rfl⟩ := accKey_inj hi hj hk hl same
      exact other ⟨rfl, rfl, .inr ⟨rfl, hb⟩⟩
    simp [accBits, accSetBits, accGet_accPut, first, second]

theorem accSetBits_rest (c : Core) (wide : Bool) (a i j v : Nat) : (accSetBits c wide a i j v).pb = c.pb ∧
    (accSetBits c wide a i j v).mq = c.mq ∧ (accSetBits c wide a i j v).drover = c.drover := by
  cases wide <;> exact ⟨rfl, rfl, rfl⟩

/-- Settles O41. -/
theorem matrixStepValue : Obligations.MatrixStepValue := by
  unfold Obligations.MatrixStepValue
  intro c f d ma mb ca cb i j wide a sum t
  have step : t = accSetBits c wide a (i % 64) (j % 64) (accRound f sum) := by
    cases f <;> rfl
  rw [step]
  refine ⟨accBits_accSetBits .., accBad_accSetBits .., fun b k l hk hl other => ?_, accSetBits_rest ..⟩
  exact accBits_other c _ (Nat.mod_lt _ (by decide)) (Nat.mod_lt _ (by decide)) hk hl other

end Sys2Proof.Machine
end

section
/-! SUPPORT. What the drover's and the matrix unit's steps come to; and the statement about them. -/

namespace Sys2Proof.Machine

/- Proofs that are elaborated beside the tests' long kernel checks would wait for those on a thread, and a stack, each. -/
set_option Elab.async false

/-! ## A step that takes one of several moves (R252) -/

theorem nth?_mod {α : Type} {l : List α} (some_ : l ≠ []) (n : Nat) : ∃ x ∈ l, nth? l (n % l.length) = some x := by
  have lt : n % l.length < l.length := Nat.mod_lt _ (List.length_pos_iff.mpr some_)
  exact ⟨_, List.getElem_mem lt, List.getElem?_eq_getElem lt⟩

section
variable {s : State} {k n i : Nat} {c : Copy} {x : Sector} {l : List Piece}

/-- A sector under way takes one of the moves that its elements may make. -/
theorem exec_sectorComplete_of (copy : (s.core k).drover.find? (fun d => d.id = n && d.started) = some c) (sector : nth? c.sectors i = some x)
    (sent : x.todo = some l) : exec (.sectorComplete k n i) s =
      ev s (nth? (l.zipIdx.filterMap (fun p => movePiece s.tick1 k c i x l p.2 p.1))
        ((freeNow s 32).toNat % (l.zipIdx.filterMap (fun p => movePiece s.tick1 k c i x l p.2 p.1)).length)) := by
  change execSectorComplete k n i s = _
  simp only [execSectorComplete, copy, Option.bind_some, sector, sent]

/-- An element that may move lets some element move. -/
theorem exec_sectorComplete_moves (copy : (s.core k).drover.find? (fun d => d.id = n && d.started) = some c) (sector : nth? c.sectors i = some x)
    (sent : x.todo = some l) {j : Nat} {p : Piece} (at_ : nth? l j = some p) (may : (movePiece s.tick1 k c i x l j p).isSome = true) :
    ∃ j p t, nth? l j = some p ∧ movePiece s.tick1 k c i x l j p = some t ∧ exec (.sectorComplete k n i) s = .next t := by
  obtain ⟨u, moves⟩ := Option.isSome_iff_exists.mp may
  have mem : u ∈ l.zipIdx.filterMap (fun p => movePiece s.tick1 k c i x l p.2 p.1) :=
    List.mem_filterMap.mpr ⟨(p, j), List.mk_mem_zipIdx_iff_getElem?.mpr at_, moves⟩
  obtain ⟨t, free, pick⟩ := nth?_mod (List.ne_nil_of_mem mem) (freeNow s 32).toNat
  obtain ⟨⟨q, i'⟩, at', moves'⟩ := List.mem_filterMap.mp free
  refine ⟨i', q, t, List.mk_mem_zipIdx_iff_getElem?.mp at', moves', ?_⟩
  rw [exec_sectorComplete_of copy sector sent, pick]
  rfl

theorem exec_sectorComplete_stays (copy : (s.core k).drover.find? (fun d => d.id = n && d.started) = some c) (sector : nth? c.sectors i = some x)
    (sent : x.todo = some l) (none_ : ∀ j p, nth? l j = some p → movePiece s.tick1 k c i x l j p = none) :
    exec (.sectorComplete k n i) s = .next s := by
  have empty : l.zipIdx.filterMap (fun p => movePiece s.tick1 k c i x l p.2 p.1) = [] :=
    List.filterMap_eq_nil_iff.mpr (fun ⟨p, j⟩ mem => none_ j p (List.mk_mem_zipIdx_iff_getElem?.mp mem))
  rw [exec_sectorComplete_of copy sector sent, empty]
  rfl

/-- A running operation that may complete takes its next step (R295). -/
theorem exec_matrixOpComplete_of {o : MatOp} (op : (s.core k).mq.find? (fun o => o.id = n && o.run) = some o)
    (may : mayComplete s (s.core k).mq o = true) (mismatch : Bool) : exec (.matrixOpComplete k n mismatch) s =
      ev s (if o.moves then
        match o.todo with
        | none => some ((strikeMat s k).updCore k (fun c =>
            { c with mq := c.mq.map (fun p => if p.id = n then { p with todo := some (List.range 4096) } else p) }))
        | some [] => some (endMat (strikeMat s k) k o)
        | some l => some ((matElement (strikeMat s k).tick1 k o ((nth? l ((freeNow (strikeMat s k) 32).toNat % l.length)).getD 0)).updCore k (fun c =>
            { c with mq := c.mq.map (fun p => if p.id = n then
              { p with todo := some (l.eraseIdx ((freeNow (strikeMat s k) 32).toNat % l.length)) } else p) }))
      else some (endMat (if mismatch && (match o.k with | .mma .. => true | _ => false) then
        deferMat (if mismatch && (match o.k with | .mma .. => true | _ => false) || o.taint then accUndef (strikeMat s k) k o.wr
          else matEffect (strikeMat s k) k o) k o 0x32 0x09
        else if mismatch && (match o.k with | .mma .. => true | _ => false) || o.taint then accUndef (strikeMat s k) k o.wr
          else matEffect (strikeMat s k) k o) k o)) := by
  change execMatrixOpComplete k n mismatch s = _
  simp only [execMatrixOpComplete, op, Option.bind_some, may, ↓reduceIte] <;> rfl

end

/-! ## The statement -/

/-- Settles O42. -/
theorem droverAndMatrixSteps : Obligations.DroverAndMatrixSteps := by
  unfold Obligations.DroverAndMatrixSteps
  intro s k
  refine ⟨fun d first may => ?_, fun n i c x copy sector => ⟨?_, fun u new sent => ?_, fun l sent => ⟨fun ⟨j, p, at_, may⟩ => ?_, fun none_ => ?_⟩⟩,
    fun c i x l j p => ⟨fun in_ plane home clear => ?_, fun r u new read => ?_, fun bs q u got written => ⟨fun more => ?_, fun last => ?_⟩,
      fun bs q may plane in_ => ?_, ?_⟩, fun o first may => ?_, fun n o op may => ?_⟩
  · change execDroverStart k s = _
    rw [execDroverStart, first]
    simp only [may, ↓reduceIte]
    rfl
  · intro ep cls ahead
    refine ⟨fun scr => ?_, fun net waits => ?_, fun net free out => ?_, fun net free in_ => ?_⟩
    · rw [sectorPacket]
      exact if_pos scr
    · rw [sectorPacket]
      exact (if_neg net).trans (if_pos waits)
    · rw [sectorPacket]
      exact (if_neg net).trans ((if_neg (Bool.eq_false_iff.mp free)).trans (if_pos out))
    · rw [sectorPacket]
      exact (if_neg net).trans ((if_neg (Bool.eq_false_iff.mp free)).trans (if_neg (Bool.eq_false_iff.mp in_)))
  · change execSectorComplete k n i s = _
    simp only [execSectorComplete, copy, Option.bind_some, sector, new, sent, Option.map_some]
    rfl
  · exact exec_sectorComplete_moves copy sector sent at_ may
  · exact exec_sectorComplete_stays copy sector sent none_
  · simp only [readPiece, in_, plane, home, clear, Bool.false_eq_true, ↓reduceIte, Bool.not_true, readCheck_mem]
  · simp only [movePiece, new, read, Option.map_some]
  · simp only [movePiece, got, written, Option.map_some, List.isEmpty_eq_false_iff.mpr more, Bool.false_eq_true, ↓reduceIte]
  · simp only [movePiece, got, written, Option.map_some, last, List.isEmpty_nil, ↓reduceIte]
  · simp only [writePiece, may, plane, in_, Bool.not_true, Bool.false_eq_true, ↓reduceIte]
  · intro t
    refine ⟨fun more => ?_, fun last => ?_⟩
    · simp only [endSector, List.isEmpty_eq_false_iff.mpr more, Bool.false_eq_true, ↓reduceIte]
      rfl
    · simp only [endSector, last, List.isEmpty_nil, ↓reduceIte]
      rfl
  · change execMatrixOpStart k s = _
    simp only [execMatrixOpStart, first, Option.bind_some, may, ↓reduceIte]
    rfl
  · intro t put
    have step := exec_matrixOpComplete_of op may
    refine ⟨fun whole => ⟨fun clean => ?_, fun taint => ?_, fun ty d ra rb ma mb steps ai bi mma => ?_⟩,
      fun moves => ⟨fun new => ?_, fun e r more => ?_, fun last => ?_⟩⟩
    · rw [step, whole, clean]
      rfl
    · rw [step, whole, taint]
      rfl
    · rw [step, whole, mma]
      rfl
    · rw [step, moves, new]
      rfl
    · obtain ⟨e', -, pick⟩ := nth?_mod (List.cons_ne_nil e r) (freeNow (strikeMat s k) 32).toNat
      refine ⟨_, e', pick, ?_⟩
      rw [step, moves, more]
      simp only [pick, ↓reduceIte]
      rfl
    · rw [step, moves, last]
      rfl

end Sys2Proof.Machine
end

section
/-! SUPPORT. What parks and resumes leave of their bands; and the statement about them. -/

namespace Sys2Proof.Machine

/- Proofs that are elaborated beside the tests' long kernel checks would wait for those on a thread, and a stack, each. -/
set_option Elab.async false

theorem updBand_band?_self {s : State} {bk : Nat} {x : Band} (band : s.band? bk = some x) (f : Band → Band) :
    (s.updBand bk f).band? bk = some (f x) := by
  rw [updBand_band?, if_pos rfl, band, Option.map_some]

/-! ## Parked bands (R177) -/

/-- A band that has been parked for a cause: it holds no park and neither scratchpad nor maps. -/
structure ParkedFor (cause : Nat) (w : Band) : Prop where
  st    : w.st = .parked
  park  : w.park = none
  cause : w.cause = cause
  scr   : w.scr = []
  maps  : w.maps = []

/-- Every band of a list that is there is parked for a cause. -/
def AllParked (s : State) (gc cause : Nat) (bs : List Nat) : Prop :=
  ∀ y ∈ bs, ∀ z, s.band? (bandKey gc y) = some z → ParkedFor cause z

theorem band?_isSome_updBand (s : State) (bk k : Nat) (f : Band → Band) : ((s.updBand bk f).band? k).isSome = (s.band? k).isSome := by
  rw [updBand_band?]
  split
  · exact Option.isSome_map
  · rfl

/-- Parking bands one after the other parks them all, and drops none. -/
theorem foldl_parks {gc cause : Nat} (f : State → Nat → Band → Band) (parks : ∀ s b z, ParkedFor cause (f s b z)) (done bs : List Nat) (s : State)
    (before : AllParked s gc cause done) :
    AllParked (bs.foldl (fun s b => s.updBand (bandKey gc b) (f s b)) s) gc cause (done ++ bs) ∧
    ∀ k, ((bs.foldl (fun s b => s.updBand (bandKey gc b) (f s b)) s).band? k).isSome = (s.band? k).isSome := by
  induction bs generalizing s done with
  | nil => exact ⟨by rwa [List.append_nil], fun _ => rfl⟩
  | cons b bs ih =>
    have next : AllParked (s.updBand (bandKey gc b) (f s b)) gc cause (done ++ [b]) := by
      intro y mem z band
      rw [updBand_band?] at band
      split at band
      · obtain ⟨z', -, rfl⟩ := Option.map_eq_some_iff.mp band
        exact parks ..
      · next other =>
        obtain old | new := List.mem_append.mp mem
        · exact before y old z band
        · exact absurd (congrArg (bandKey gc) (List.mem_singleton.mp new)) other
    obtain ⟨all, kept⟩ := ih (done ++ [b]) _ next
    rw [List.append_assoc] at all
    exact ⟨all, fun k => (kept k).trans (band?_isSome_updBand ..)⟩

/-- A band as its park leaves it. -/
def parkedBand (cause : Nat) (s : State) (x : Band) : Band :=
  { x with
    st := .parked, park := none, cause := cause, scr := [], scrP := [], maps := [],
    olds := (s.core x.core).old, fen := (s.core x.core).fences }

theorem freeUnits_band? (u : State) (gc cause : Nat) (bs gks cks : List Nat) (k : Nat) : (freeUnits u gc cause bs gks cks).band? k =
    (bs.foldl (fun (s : State) b => s.updBand (bandKey gc b) (parkedBand cause s)) u).band? k := by
  refine List.foldlRecOn (motive := fun (t : State) => t.band? k = _) _ _ ?_ (fun _ same _ _ => same)
  exact List.foldlRecOn (motive := fun (t : State) => t.band? k = _) _ _ rfl (fun _ same _ _ => same)

/-- What the units held is freed, and their bands stand parked. -/
theorem freeUnits_parked (u : State) (gc cause : Nat) (bs gks cks : List Nat) {y : Nat} (mem : y ∈ bs) {z : Band}
    (band : u.band? (bandKey gc y) = some z) : ∃ w, (freeUnits u gc cause bs gks cks).band? (bandKey gc y) = some w ∧ ParkedFor cause w := by
  obtain ⟨all, kept⟩ := foldl_parks (gc := gc) (cause := cause) (fun s _ => parkedBand cause s) (fun _ _ _ => ⟨rfl, rfl, rfl, rfl, rfl⟩) [] bs u
    (fun _ mem => absurd mem List.not_mem_nil)
  obtain ⟨w, at_⟩ := Option.isSome_iff_exists.mp ((kept (bandKey gc y)).trans (by rw [band]; rfl))
  exact ⟨w, (freeUnits_band? ..).trans at_, all y mem w at_⟩

/-! ## The statement -/

/-- Settles O43. -/
theorem parkingSteps : Obligations.ParkingSteps := by
  unfold Obligations.ParkingSteps
  intro s gc b gk g x band grp
  refine ⟨fun here later free awake => ?_, fun p here later park cause => ?_, fun p here later park cause => ⟨fun quiet => ?_, fun ⟨q, mem, loud⟩ => ?_⟩,
    fun p key park cause idle runs late => ?_, fun ready => ?_, fun st others => ?_, fun y at_ => ?_⟩
  · change execPreemptionRequest gc b s = _
    simp only [execPreemptionRequest, band, here, free, awake, bne_self_eq_false, decide_eq_false (Nat.not_lt.mpr later), Option.isSome_none,
      Bool.or_self, Bool.false_eq_true, ↓reduceIte]
  · change execPreemptionRequest gc b s = _
    simp only [execPreemptionRequest, band, here, park, bne_self_eq_false, decide_eq_false (Nat.not_lt.mpr later), Option.isSome_some,
      beq_eq_false_iff_ne.mpr cause, Bool.true_or, Bool.or_self, Bool.and_false, Bool.false_and, Bool.false_eq_true, ↓reduceIte]
  · change execPreemptionRequest gc b s = _
    simp only [execPreemptionRequest, band, here, park, cause, bne_self_eq_false, decide_eq_false (Nat.not_lt.mpr later), Option.isSome_some,
      List.all_eq_true.mpr quiet, Bool.true_or, Bool.or_self, Bool.not_true, Bool.and_false, Bool.false_eq_true, ↓reduceIte]
  · have some_ : (grpsOf s gc b).all (fun p => grpQuiet s p 1) = false := List.all_eq_false.mpr ⟨q, mem, Bool.eq_false_iff.mp loud⟩
    change execPreemptionRequest gc b s = _
    simp only [execPreemptionRequest, band, here, park, cause, bne_self_eq_false, decide_eq_false (Nat.not_lt.mpr later), Option.isSome_some,
      some_, beq_self_eq_true, Bool.true_or, Bool.or_self, Bool.not_false, Bool.and_self, Bool.false_eq_true, ↓reduceIte]
  · change execPreemptionTimeout gk s = _
    simp only [execPreemptionTimeout, grp, key, band, Option.bind_some, park, Option.map_some, cause, idle, runs, decide_eq_true late,
      beq_self_eq_true, Bool.not_false, Bool.and_self, ↓reduceIte]
  · intro bs gks cks names bars room out
    have parks : exec (.park gc b) s = .next (if !room then abandonPark s gc b x.cause bs else
        match writeImages out gc x.cause bs with
        | none => fatal (imagesFailed out gc x.cause bs)
        | some s => afterPark (leaveReserve (launchState (freeUnits s gc x.cause bs gks cks) gc 4) gc x.cause bs) gc x.cause bs) := by
      change execPark gc b s = _
      simp only [execPark, ready, band, Bool.not_true, Bool.false_eq_true, ↓reduceIte] <;> rfl
    refine ⟨fun full => ?_, fun free lost => ?_, fun u free written => ?_⟩
    · rw [parks, full]
      rfl
    · rw [parks, free, lost]
      rfl
    · intro freed
      refine ⟨?_, fun y mem z band' => ?_⟩
      · rw [parks, free, written]
        rfl
      · obtain ⟨w, at_, st, park, cause, scr, maps⟩ := freeUnits_parked u gc x.cause bs gks cks mem band'
        exact ⟨w, at_, st, park, cause, scr, maps⟩
  · intro bs
    have resumes : exec (.unitResume gc b) s = .next (if !resumeReadable s gc bs then fatal (imagesLost s gc bs)
        else resumeNow s gc bs ((parkGrps s gc bs).map (·.1)) ((parkCtxs s gc bs).map (·.1)) (resumeAreas s gc bs)) := by
      change execUnitResume gc b s = _
      simp only [execUnitResume, band, st, bne_self_eq_false, Bool.false_or]
      refine congrArg Host.Outcome.next (if_neg ?_)
      rw [Bool.not_eq_true, List.any_eq_false]
      intro y mem
      cases at_ : s.band? (bandKey gc y) with
      | none => exact Bool.false_ne_true
      | some z => simpa using others y mem z at_
    exact ⟨fun lost => by rw [resumes, lost]; rfl, fun whole => by rw [resumes, whole]; rfl⟩
  · simp only [bandBack, at_]
    refine ⟨_, updBand_band?_self at_ _, rfl, rfl, ?_, ?_⟩
    · rw [(updBand_others ..).2.2.2.1, updCore_core, if_pos rfl, clearView, updCore_core, if_pos rfl]
    · rw [(updBand_others ..).2.2.2.1, updCore_core, if_pos rfl]

end Sys2Proof.Machine
end

section
/-! SUPPORT. What a restarted region and a test of walkround leave; and the statement about containment. -/

namespace Sys2Proof.Machine

/- Proofs that are elaborated beside the tests' long kernel checks would wait for those on a thread, and a stack, each. -/
set_option Elab.async false

/-! ## The test of a cluster (R204) -/

/-- An event changes its bank and the interrupts, and nothing else. -/
theorem bankEvent_eq (s : State) (b cls act code src : Nat) (x y z : W64) :
    ∃ banks host, s.bankEvent b cls act code src x y z = { s with banks := banks, host := host } := by
  unfold State.bankEvent
  split
  · exact ⟨_, _, rfl⟩
  · dsimp only
    split <;> exact ⟨_, _, rfl⟩

/-- What the test of one core leaves: it has failed once more, with its event, or it has passed. -/
def testedCore (failed : List (Nat × Nat)) (s : State) (core : Nat) : State :=
  match failed.find? (fun p => p.1 == core) with
  | none => s.updCore core (fun c => { c with wfail := 0 })
  | some (_, n) =>
    (s.bankEvent (bankOfCore s core) 1 0 0 0x20 (BitVec.ofNat 64 n) 0 0).updCore core
      (fun c => { c with wfail := c.wfail + 1, gone := c.gone || decide (2 ≤ c.wfail + 1) })

/-- A cluster whose test is over, before its cores are recorded. -/
def testedClus (s : State) (clu : Nat) (failed : List (Nat × Nat)) : State :=
  let t := s.updCluster clu (fun c => { c with walk := false })
  let good := (coresOfClus t clu).all (fun core => !failed.any (fun p => p.1 == core))
  if startTests t then { t with boot := { t.boot with tested := t.boot.tested ++ [(clu, good)] } } else t

theorem coresOfClus_testedClus (s : State) (clu : Nat) (failed : List (Nat × Nat)) :
    coresOfClus (testedClus s clu failed) clu = coresOfClus s clu := by
  simp only [testedClus]
  split <;> rfl

theorem testedClus_start {s : State} (start : startTests s = true) (clu : Nat) (failed : List (Nat × Nat)) :
    (testedClus s clu failed).boot.tested =
      s.boot.tested ++ [(clu, (coresOfClus s clu).all (fun core => !failed.any (fun p => p.1 == core)))] :=
  congrArg (fun t : State => t.boot.tested) (if_pos start)

theorem testedClus_later {s : State} (later : startTests s = false) (clu : Nat) (failed : List (Nat × Nat)) :
    testedClus s clu failed = s.updCluster clu (fun c => { c with walk := false }) := if_neg (Bool.eq_false_iff.mp later)

theorem exec_walkroundComplete_of {s : State} {clu : Nat} (walk : (s.cluster clu).walk = true) (failed : List (Nat × Nat)) :
    exec (.walkroundComplete clu failed) s = .next ((coresOfClus s clu).foldl (testedCore failed) (testedClus s clu failed)) := by
  change execWalkroundComplete clu failed s = _
  simp only [execWalkroundComplete, walk, Bool.not_true, Bool.false_eq_true, ↓reduceIte]
  exact congrArg (fun l => Host.Outcome.next (List.foldl (testedCore failed) (testedClus s clu failed) l)) (coresOfClus_testedClus s clu failed)

theorem testedCore_none {failed : List (Nat × Nat)} {core : Nat} (passed : ∀ p ∈ failed, p.1 ≠ core) (s : State) :
    testedCore failed s core = s.updCore core (fun c => { c with wfail := 0 }) := by
  have none_ : failed.find? (fun p => p.1 == core) = none := List.find?_eq_none.mpr (fun p mem => by simpa using passed p mem)
  simp only [testedCore, none_]

theorem testedCore_one (s : State) (k i : Nat) : testedCore [(k, i)] s k =
    (s.bankEvent (bankOfCore s k) 1 0 0 0x20 (BitVec.ofNat 64 i) 0 0).updCore k
      (fun c => { c with wfail := c.wfail + 1, gone := c.gone || decide (2 ≤ c.wfail + 1) }) := by
  have found : [(k, i)].find? (fun p => p.1 == k) = some (k, i) := List.find?_cons_of_pos (beq_self_eq_true k)
  simp only [testedCore, found]

theorem testedCore_eq (failed : List (Nat × Nat)) (s : State) (core : Nat) :
    ∃ banks host cores, testedCore failed s core = { s with banks := banks, host := host, cores := cores } := by
  unfold testedCore
  split
  · exact ⟨_, _, _, rfl⟩
  · obtain ⟨banks, host, eq⟩ := bankEvent_eq s (bankOfCore s core) 1 0 0 0x20 (BitVec.ofNat 64 ‹Nat›) 0 0
    rw [eq]
    exact ⟨_, _, _, rfl⟩

/-- The record of a test changes no memory, no cluster and no stage. -/
theorem foldl_testedCore_frame (failed : List (Nat × Nat)) (l : List Nat) (s : State) : (l.foldl (testedCore failed) s).mem = s.mem ∧
    (l.foldl (testedCore failed) s).clusters = s.clusters ∧ (l.foldl (testedCore failed) s).boot = s.boot := by
  refine List.foldlRecOn (motive := fun (t : State) => t.mem = s.mem ∧ t.clusters = s.clusters ∧ t.boot = s.boot) _ _ ⟨rfl, rfl, rfl⟩
    (fun t same core _ => ?_)
  obtain ⟨banks, host, cores, eq⟩ := testedCore_eq failed t core
  rw [eq]
  exact same

theorem testedCore_other (failed : List (Nat × Nat)) (s : State) {core k : Nat} (other : k ≠ core) :
    (testedCore failed s core).core k = s.core k := by
  unfold testedCore
  split
  · rw [updCore_core, if_neg other]
  · rw [updCore_core, if_neg other, State.core, bankEvent_cores]
    rfl

/-- A core as its own test leaves it. -/
def testedAs (failed : List (Nat × Nat)) (k : Nat) (c : Core) : Core :=
  if failed.any (fun p => p.1 == k) then { c with wfail := c.wfail + 1, gone := c.gone || decide (2 ≤ c.wfail + 1) } else { c with wfail := 0 }

theorem testedCore_self (failed : List (Nat × Nat)) (s : State) (k : Nat) : (testedCore failed s k).core k = testedAs failed k (s.core k) := by
  unfold testedCore testedAs
  split
  · next none_ =>
    have no : failed.any (fun p => p.1 == k) = false := List.any_eq_false.mpr (List.find?_eq_none.mp none_)
    rw [updCore_core, if_pos rfl, if_neg (Bool.eq_false_iff.mp no)]
  · next some_ =>
    have yes : failed.any (fun p => p.1 == k) = true := List.any_eq_true.mpr ⟨_, List.mem_of_find?_eq_some some_, by simpa using List.find?_some some_⟩
    rw [updCore_core, if_pos rfl, if_pos yes, State.core, bankEvent_cores]
    rfl

theorem foldl_testedCore_other (failed : List (Nat × Nat)) {l : List Nat} {k : Nat} (not_ : k ∉ l) (s : State) :
    (l.foldl (testedCore failed) s).core k = s.core k :=
  List.foldlRecOn (motive := fun (t : State) => t.core k = s.core k) _ _ rfl
    (fun t same _ mem => (testedCore_other failed t (ne_of_mem_of_not_mem mem not_).symm).trans same)

/-- Each core of a list without repetition is tested once. -/
theorem foldl_testedCore_self (failed : List (Nat × Nat)) {l : List Nat} {k : Nat} (once : l.Nodup) (mem : k ∈ l) (s : State) :
    (l.foldl (testedCore failed) s).core k = testedAs failed k (s.core k) := by
  induction l generalizing s with
  | nil => contradiction
  | cons j l ih =>
    obtain ⟨new, rest⟩ := List.nodup_cons.mp once
    obtain rfl | mem := List.mem_cons.mp mem
    · exact (foldl_testedCore_other failed new _).trans (testedCore_self ..)
    · rw [List.foldl_cons, ih rest mem, testedCore_other failed s (ne_of_mem_of_not_mem mem new)]

theorem coresOfClus_nodup (s : State) (n : Nat) : (coresOfClus s n).Nodup := List.nodup_range.filter _

theorem testedClus_eq (s : State) (clu : Nat) (failed : List (Nat × Nat)) :
    ∃ boot, testedClus s clu failed = { s.updCluster clu (fun c => { c with walk := false }) with boot := boot } := by
  cases start : startTests s
  · exact ⟨_, testedClus_later start clu failed⟩
  · exact ⟨_, if_pos start⟩

theorem testedClus_frame (s : State) (clu : Nat) (failed : List (Nat × Nat)) : (testedClus s clu failed).mem = s.mem ∧
    ((testedClus s clu failed).cluster clu).walk = false ∧ ∀ k, (testedClus s clu failed).core k = s.core k := by
  obtain ⟨boot, eq⟩ := testedClus_eq s clu failed
  rw [eq]
  exact ⟨rfl, congrArg Cluster.walk ((updCluster_cluster s clu clu (fun c => { c with walk := false })).trans (if_pos rfl)), fun _ => rfl⟩

/-- What the end of a test leaves of its cluster and of memory. -/
theorem walkroundEnd_frame (s : State) (n : Nat) (l : List (Nat × Nat)) :
    ((coresOfClus s n).foldl (testedCore l) (testedClus s n l)).mem = s.mem ∧
    (((coresOfClus s n).foldl (testedCore l) (testedClus s n l)).cluster n).walk = false := by
  obtain ⟨mem, clusters, -⟩ := foldl_testedCore_frame l (coresOfClus s n) (testedClus s n l)
  obtain ⟨mem', walk, -⟩ := testedClus_frame s n l
  refine ⟨mem.trans mem', ?_⟩
  rw [State.cluster, clusters]
  exact walk

/-! ## The statement -/

/-- Settles O44. -/
theorem containmentSteps : Obligations.ContainmentSteps := by
  unfold Obligations.ContainmentSteps
  intro s
  refine ⟨fun k q e rest diff g queue grp free => ?_, fun gk g m ia insn grp pend => ?_, fun gk g grp stop idle kind => ⟨?_, ?_⟩,
    fun gc b x k band dying done_ => ?_, fun runs => ?_, fun n small walk free on runs => ⟨fun start new => ?_, fun up some_ past => ?_⟩,
    fun n walk ⟨e, mem, away, may⟩ => ?_, fun n walk later => ?_, fun n walk start => ?_, fun n l walk => ?_,
    fun n k i pre post walk later cores => ?_, fun n l k walk mem => ?_, fun n l off => ?_⟩
  · have step : exec (.replayCompare k q diff) s = .next (if diff &&& e.lanes = 0 then
          s.updCore k (fun c => { c with replay := setNth c.replay q rest })
        else (s.updCore k (fun c => { c with replay := setNth c.replay q rest })).updGrp e.gk
          (fun g => { g with clonePend := some (diff &&& e.lanes, e.ia, e.insn) })) := by
      change execReplayCompare k q diff s = _
      simp only [execReplayCompare, queue, grp, free, Option.isSome_none, Bool.false_eq_true, ↓reduceIte]
    exact ⟨fun same => by rw [step, if_pos same], fun differ => by rw [step, if_neg differ]⟩
  · change execReplayMismatch gk s = _
    simp only [execReplayMismatch, grp, Option.bind_some, pend]
  · change execRegionRestart gk s = _
    simp only [execRegionRestart, grp, stop, idle, kind, kindNo, bne_self_eq_false, decide_eq_false (Nat.not_succ_le_zero 0), Bool.false_and,
      Bool.or_self, Bool.false_eq_true, ↓reduceIte]
  · simp only [restartGroup, grp]
    refine ⟨_, updGrp_grp?_self grp _, rfl, rfl, rfl, rfl, rfl, fun left => ?_, rfl, rfl, rfl, rfl, rfl⟩
    exact congrArg (fun x => [x, none, none, none]) (if_neg left)
  · have still : (unitBands s gc b).any (fun x => bandBusy s gc x || copying s (bandKey gc x)) = false := by
      rw [List.any_eq_false]
      intro y mem
      obtain ⟨busy, copies⟩ := done_ y mem
      rw [busy, copies]
      exact Bool.false_ne_true
    change execBandKill gc b s = _
    simp only [execBandKill, band, Option.bind_some, dying, still, Bool.false_eq_true, ↓reduceIte]
  · have kept : ∀ bank src, (fatal (s.tick1.bankEvent bank 2 3 0 src 0 0 0)).mem = s.mem := fun bank src =>
      (quiet_bankEvent s.tick1 bank 2 3 0 src 0 0 0).frame.2.1
    have step : exec .fatalError s = .next (let (bank, src) := (match (freeNow s 64).toNat % 4 with
      | 0 => (bankOfSlice ((freeNow s 64).toNat / 4 % 32), 0x11)
      | 1 => (0x472 + (freeNow s 64).toNat / 4 % 50, 0x18)
      | 2 => (bankHost, 0x19)
      | _ => (bankPeer ((freeNow s 64).toNat / 4 % 12), 0x1A))
      fatal (s.tick1.bankEvent bank 2 3 0 src 0 0 0)) := by
      change execFatalError s = _
      simp only [execFatalError, runs, Bool.false_eq_true, ↓reduceIte] <;> rfl
    rw [step]
    split
    · next bank src pick =>
      refine ⟨bank, src, rfl, ?_, rfl, kept bank src⟩
      split at pick <;> cases pick <;> simp
  · have untested : s.boot.tested.any (fun p => p.1 == n) = false := List.any_eq_false.mpr (fun p mem => by simpa using new p mem)
    change execWalkroundStart n s = _
    simp only [execWalkroundStart, small, walk, free, on, runs, start, untested, decide_true, Bool.not_false, beq_self_eq_true, Bool.and_self,
      ↓reduceIte]
  · have other : startTests s = false := by
      obtain st | st := up <;> simp [startTests, st]
    have here : (s.boot.st == 1 || s.boot.st == 2) = true := by simpa using up
    change execWalkroundStart n s = _
    simp only [execWalkroundStart, small, walk, free, on, runs, other, here, past, bne_iff_ne.mpr some_, decide_true, Bool.not_false,
      beq_self_eq_true, Bool.and_self, Bool.false_eq_true, ↓reduceIte]
  · have wanted : s.ready.any (fun e => (tryItem s e.what 0).isNone &&
        (tryItem (s.updCluster n (fun x => { x with walk := false })) e.what 0).isSome) = true :=
      List.any_eq_true.mpr ⟨e, mem, by rw [away, may]; rfl⟩
    change execWalkroundAbandon n s = _
    simp only [execWalkroundAbandon, walk, wanted, Bool.and_self, ↓reduceIte]
  · rw [exec_walkroundComplete_of walk, testedClus_later later]
    exact congrArg Host.Outcome.next (List.foldl_ext _ _ _ (fun t k _ => testedCore_none (by simp) t))
  · obtain ⟨mem, off⟩ := walkroundEnd_frame s n []
    refine ⟨_, exec_walkroundComplete_of walk [], ?_, off, mem⟩
    rw [(foldl_testedCore_frame [] _ _).2.2, testedClus_start start]
    simp
  · obtain ⟨mem, off⟩ := walkroundEnd_frame s n l
    exact ⟨_, exec_walkroundComplete_of walk l, mem, off⟩
  · intro pass t
    have once := coresOfClus_nodup s n
    rw [cores] at once
    obtain ⟨-, after, apart⟩ := List.nodup_append.mp once
    have notPost : k ∉ post := (List.nodup_cons.mp after).1
    have passes : ∀ (u : State) (l : List Nat), k ∉ l → l.foldl (testedCore [(k, i)]) u = pass u l := fun u l not_ =>
      List.foldl_ext _ _ _ (fun v j mem => testedCore_none (by simpa using fun here : k = j => not_ (here ▸ mem)) v)
    rw [exec_walkroundComplete_of walk, cores, testedClus_later later, List.foldl_append, List.foldl_cons,
      passes _ pre (fun mem => apart k mem k List.mem_cons_self rfl), passes _ post notPost]
    have bank : ∀ u : State, bankOfCore (pass u pre) k = bankOfCore u k := fun u =>
      List.foldlRecOn (motive := fun (t : State) => bankOfCore t k = bankOfCore u k) _ _ rfl (fun _ same _ _ => same)
    rw [testedCore_one, bank]
    rfl
  · refine ⟨_, exec_walkroundComplete_of walk l, ?_⟩
    rw [foldl_testedCore_self l (coresOfClus_nodup s n) mem, (testedClus_frame s n l).2.2]
    refine ⟨fun passed => ?_, fun ⟨p, at_, here⟩ => ?_⟩
    · have no : l.any (fun p => p.1 == k) = false := List.any_eq_false.mpr (fun p mem => by simpa using passed p mem)
      rw [testedAs, if_neg (Bool.eq_false_iff.mp no)]
      exact ⟨rfl, rfl⟩
    · have yes : l.any (fun p => p.1 == k) = true := List.any_eq_true.mpr ⟨p, at_, by simpa using here⟩
      rw [testedAs, if_pos yes]
      exact ⟨rfl, by simp⟩
  · constructor
    · change execWalkroundAbandon n s = _
      simp only [execWalkroundAbandon, off, Bool.false_and, Bool.false_eq_true, ↓reduceIte]
    · change execWalkroundComplete n l s = _
      simp only [execWalkroundComplete, off, Bool.not_false, ↓reduceIte]

end Sys2Proof.Machine
end

section
/-! SUPPORT. What the front end's steps come to; and the statement about tasks. -/

namespace Sys2Proof.Machine

/- Proofs that are elaborated beside the tests' long kernel checks would wait for those on a thread, and a stack, each. -/
set_option Elab.async false

section
variable {s : State} {gc b : Nat}

/-! ## Spawn (R326, R339) -/

/-- The oldest pending entry that the front end has not taken is the first that is not marked. -/
theorem pend_first {va : W64} {rest pre : List (W64 × Bool)} (taken : ∀ p ∈ pre, p.2 = true) :
    (pre ++ (va, false) :: rest).find? (fun p => !p.2) = some (va, false) ∧
    (pre ++ (va, false) :: rest).findIdx (fun p => !p.2) = pre.length := by
  induction pre with
  | nil => exact ⟨rfl, rfl⟩
  | cons p pre ih =>
    obtain ⟨find, idx⟩ := ih (fun q mem => taken q (List.mem_cons_of_mem _ mem))
    have here : (!p.2) = false := by rw [taken p List.mem_cons_self]; rfl
    refine ⟨?_, ?_⟩
    · rw [List.cons_append, List.find?_cons_of_neg (p := fun p : W64 × Bool => !p.2) (Bool.eq_false_iff.mp here), find]
    · rw [List.cons_append, List.findIdx_cons, here, cond_false, idx]
      rfl

theorem exec_spawnStep_of {x : Band} {va : W64} {rest pre : List (W64 × Bool)} (band : s.band? (bandKey gc b) = some x)
    (pend : x.pend = pre ++ (va, false) :: rest) (taken : ∀ p ∈ pre, p.2 = true) : exec (.spawnStep gc b) s = .next
      (match spawn (s.updBand (bandKey gc b) (fun x => { x with pend := setNth x.pend pre.length (va, true) })) va.toNat (s.task gc).space
          (s.task gc).top (s.task gc).tdir (s.task gc).tdlim (s.lrec gc).priv (some (bandKey gc b)) with
        | .wait => s
        | .done code u => if code = 0x10 then freePend u (some (bandKey gc b)) va else u) := by
  obtain ⟨find, idx⟩ := pend_first (va := va) (rest := rest) taken
  change execSpawnStep gc b s = _
  simp only [execSpawnStep, band, pend, find, idx]
  cases spawn _ _ _ _ _ _ _ _ with
  | wait => rfl
  | done code u =>
    by_cases bad : code = 0x10
    · subst bad
      rfl
    · simp only [if_neg bad]

/-! ## Dispatch (R330, R341, R342) -/

theorem exec_dispatch_of (takes : takesWork s = true) (pick : Nat) {v : State} (after : dueScan (wakeScan (sweepTakes s)) = v) :
    exec (.dispatch pick) s = .next (match (readyOrder v).findSome? (fun p => (tryItem v p.2.what pick).map (fun t => (p.1, p.2, t))) with
      | some (i, e, t) => leaveReady v t i e
      | none => match v.bands.findSome? (fun p => if bandIdle v p.2 then (idleWant v p.2).map (fun w => (p.2, w)) else none) with
        | some (x, w) => (requestPark v x.gc x.b 7 false).updBand (bandKey x.gc x.b) (fun y => { y with wanted := some w })
        | none => v) := by
  subst after
  change execDispatch pick s = _
  simp only [execDispatch, takes, Bool.not_true, Bool.false_eq_true, ↓reduceIte] <;> rfl

/-- A band that is not idle, or whose resources no entry fits, is passed. -/
theorem idle_none {x : Band} (w : bandIdle s x = false ∨ idleWant s x = none) :
    (if bandIdle s x then (idleWant s x).map (fun w => (x, w)) else none) = none := by
  obtain busy | none_ := w
  · rw [busy]; rfl
  · rw [none_]; exact ite_self _

end

/-! ## The statement -/

/-- Settles O45. -/
theorem taskSteps : Obligations.TaskSteps := by
  unfold Obligations.TaskSteps
  intro s gc b
  refine ⟨fun x va rest pre band pend taken => ?_, ?_, fun l launch over_ => ?_, fun eff e => ?_⟩
  · intro t s1
    refine (exec_spawnStep_of band pend taken).trans (congrArg Host.Outcome.next ?_)
    cases spawn s1 va.toNat t.space t.top t.tdir t.tdlim (s.lrec gc).priv (some (bandKey gc b)) <;> rfl
  · intro takes pick v
    have step := exec_dispatch_of takes pick (v := v) rfl
    refine ⟨fun i e t fits => ?_, fun nothing => ?_⟩
    · rw [step, fits]
    · have none_ : (readyOrder v).findSome? (fun p => (tryItem v p.2.what pick).map (fun t => (p.1, p.2, t))) = none :=
        List.findSome?_eq_none_iff.mpr (fun p mem => by rw [nothing p mem]; rfl)
      refine ⟨fun pre k x w post bands before idle want => ?_, fun before => ?_⟩
      · have found : v.bands.findSome? (fun p => if bandIdle v p.2 then (idleWant v p.2).map (fun w => (p.2, w)) else none) = some (x, w) := by
          rw [bands, List.findSome?_append, List.findSome?_eq_none_iff.mpr (fun p mem => idle_none (before p mem)), Option.none_or,
            List.findSome?_cons, idle, want]
          rfl
        rw [step, none_, found]
      · have found : v.bands.findSome? (fun p => if bandIdle v p.2 then (idleWant v p.2).map (fun w => (p.2, w)) else none) = none :=
          List.findSome?_eq_none_iff.mpr (fun p mem => idle_none (before p mem))
        rw [step, none_, found]
  · have step : exec (.taskRetire gc) s = execTaskRetire gc s := rfl
    refine ⟨fun stage => ?_, fun id rest stage ids => ?_, fun stage ids => ?_, fun pa bs stage may rec_ => ?_, fun pa bs stage rec_ => ?_,
      fun pa bs ids stage rec_ list => ?_, fun pa bs ids stage rec_ list => ?_, fun pa id rest stage ids at_ fits => ?_,
      fun stage ids => ?_, (tabGet?_del ..).trans (if_pos rfl)⟩
    all_goals simp only [execTaskRetire, Bool.not_true, Bool.false_eq_true, ↓reduceIte, *]
  · refine ⟨fun stays => ?_, fun there lower young => ?_, fun there lower old => ?_⟩
    · rw [ageEnt]
      obtain taken | above := stays
      · simp [taken]
      · simp [Nat.not_lt.mpr above]
    · simp [ageEnt, there, lower, young]
    · simp [ageEnt, there, lower, Nat.not_lt.mpr old]

end Sys2Proof.Machine
end

section
/-! SUPPORT. What a host queue's steps come to; and the statement about queues. -/

namespace Sys2Proof.Machine

/- Proofs that are elaborated beside the tests' long kernel checks would wait for those on a thread, and a stack, each. -/
set_option Elab.async false

section
variable {s : State} {q : Nat}

/-- The queue that a change names is the changed one. -/
theorem updQueue_queue_self (s : State) (q : Nat) (f : QDesc → QDesc) : (s.updQueue q f).queue q = f (s.queue q) :=
  (tabGet_put ..).trans (if_pos rfl)

/-- An interrupt changes no queue. -/
theorem raise_queue (s : State) (v q : Nat) : (raise s v).queue q = s.queue q := rfl

/-! ## The check of a queue's indices (R345) -/

theorem queueCheck_stays (stays : (s.queue q).on = false ∨ (s.queue q).waiting ≤ (s.queue q).count) : queueCheck s q = s := by
  refine if_neg (fun over_ => ?_)
  obtain ⟨on, more⟩ := Bool.and_eq_true_iff.mp over_
  obtain off | fits := stays
  · exact Bool.false_ne_true (off.symm.trans on)
  · exact Nat.not_lt.mpr fits (of_decide_eq_true more)

theorem queueCheck_stops (on : (s.queue q).on = true) (more : (s.queue q).count < (s.queue q).waiting) : queueCheck s q =
    raise (s.updQueue q (fun d => { d with cfg := (d.cfg &&& ~~~(BitVec.twoPow 64 9)) ||| BitVec.twoPow 64 10, fence := false })) q :=
  if_pos (Bool.and_eq_true_iff.mpr ⟨on, decide_eq_true more⟩)

/-- CFG with its enable cleared and ERR set. -/
theorem stopped_bits (cfg : W64) : ((cfg &&& ~~~(BitVec.twoPow 64 9)) ||| BitVec.twoPow 64 10).getLsbD 9 = false ∧
    ((cfg &&& ~~~(BitVec.twoPow 64 9)) ||| BitVec.twoPow 64 10).getLsbD 10 = true := by
  simp

/-! ## Packets (R344) -/

theorem parses_iff (low : q < 64) :
    parses s q = true ↔ takesWork s = true ∧ (s.queue q).cfg.getLsbD 9 = true ∧ (s.queue q).rd ≠ (s.queue q).wr := by
  simp only [parses, QDesc.on, decide_eq_true low, Bool.and_true, Bool.and_eq_true, bne_iff_ne, and_assoc]

theorem onPacket_bad (ready : parses s q = true) (free : (s.queue q).fence = false) (bad : packetBad (packetBytes s q (s.queue q)) = true)
    (type : Nat) (f : QDesc → List Byte → State) :
    onPacket s q type f = .next (consume s q (packetBytes s q (s.queue q)) 0x1E) := by
  simp only [onPacket, ready, free, bad, Bool.not_true, Bool.false_eq_true, ↓reduceIte]

theorem onPacket_of (ready : parses s q = true) (free : (s.queue q).fence = false) (good : packetBad (packetBytes s q (s.queue q)) = false)
    {type : Nat} (is : bitsOf (bfld (packetBytes s q (s.queue q)) 0 8) 7 0 = type) (f : QDesc → List Byte → State) :
    onPacket s q type f = .next (f (s.queue q) (packetBytes s q (s.queue q))) := by
  simp only [onPacket, ready, free, good, is, Bool.not_true, Bool.false_eq_true, ↓reduceIte]

section
variable (ready : parses s q = true) (free : (s.queue q).fence = false)
include ready free

theorem exec_nopPacket_bad (bad : packetBad (packetBytes s q (s.queue q)) = true) :
    exec (.nopPacket q) s = .next (consume s q (packetBytes s q (s.queue q)) 0x1E) := by
  change execNopPacket q s = _
  rw [execNopPacket, onPacket_bad ready free bad]

variable (good : packetBad (packetBytes s q (s.queue q)) = false)
include good

theorem exec_nopPacket_of (is : bitsOf (bfld (packetBytes s q (s.queue q)) 0 8) 7 0 = 0) :
    exec (.nopPacket q) s = .next (consume s q (packetBytes s q (s.queue q)) 0) := by
  change execNopPacket q s = _
  rw [execNopPacket, onPacket_of ready free good is]

theorem exec_launchPacket_of (is : bitsOf (bfld (packetBytes s q (s.queue q)) 0 8) 7 0 = 1) {code : Nat} {t : State}
    (step : spawn s (bfld (packetBytes s q (s.queue q)) 0x10 8) (s.queue q).space.toNat (s.queue q).toptab.toNat (s.queue q).tdir
      (s.queue q).tdlim.toNat ((s.queue q).cfg.getLsbD 8) none = .done code t) :
    exec (.launchPacket q) s = .next (consume t q (packetBytes s q (s.queue q)) code) := by
  change execLaunchPacket q s = _
  simp only [execLaunchPacket, onPacket_of ready free good is, step]

theorem exec_fencePacket_of (is : bitsOf (bfld (packetBytes s q (s.queue q)) 0 8) 7 0 = 2)
    (words : ∀ p ∈ fenceCounters (packetBytes s q (s.queue q)), (packetWord s (s.queue q) p.1 .read).isSome = true) :
    exec (.fencePacket q) s = .next (s.updQueue q (fun d => { d with fence := true })) := by
  change execFencePacket q s = _
  simp only [execFencePacket, onPacket_of ready free good is, List.all_eq_true.mpr words, ↓reduceIte]

theorem exec_signalPacket_of (is : bitsOf (bfld (packetBytes s q (s.queue q)) 0 8) 7 0 = 3) {pa : Nat}
    (word : packetWord s (s.queue q) (bfld (packetBytes s q (s.queue q)) 0x10 8) .write = some pa) (home : isMem s.floor pa = true) :
    exec (.signalPacket q) s = .next (consume (wakeScan (homePut s pa 8 (bfld (packetBytes s q (s.queue q)) 0x18 8))) q
      (packetBytes s q (s.queue q)) 0) := by
  change execSignalPacket q s = _
  simp only [execSignalPacket, onPacket_of ready free good is, word, home, ↓reduceIte]

end

/-- A FENCE passes once every counter has reached its target. -/
theorem exec_fencePacketPass_met (ready : parses s q = true) (holds : (s.queue q).fence = true)
    (met : ∀ p ∈ fenceCounters (packetBytes s q (s.queue q)), ∃ pa,
      packetWord s (s.queue q) p.1 .read = some pa ∧ isMem s.floor pa = true ∧ p.2 ≤ homeGet s pa 8) :
    exec (.fencePacketPass q) s = .next (consume s.tick1 q (packetBytes s q (s.queue q)) 0) := by
  have found : (fenceCounters (packetBytes s q (s.queue q))).any (fun p => (packetWord s (s.queue q) p.1 .read).isNone) = false := by
    refine List.any_eq_false.mpr (fun p mem => ?_)
    obtain ⟨pa, word, -, -⟩ := met p mem
    rw [word]
    exact Bool.false_ne_true
  have all_ : (fenceCounters (packetBytes s q (s.queue q))).all (counterMet s (s.queue q)) = true := by
    refine List.all_eq_true.mpr (fun p mem => ?_)
    obtain ⟨pa, word, home, reached⟩ := met p mem
    simp only [counterMet, word, home, ↓reduceIte]
    exact decide_eq_true reached
  change execFencePacketPass q s = _
  simp only [execFencePacketPass, ready, holds, found, all_, Bool.not_true, Bool.false_eq_true, ↓reduceIte]

/-- A FENCE ends where a counter can no longer be translated. -/
theorem exec_fencePacketPass_lost (ready : parses s q = true) (holds : (s.queue q).fence = true)
    (lost : ∃ p ∈ fenceCounters (packetBytes s q (s.queue q)), packetWord s (s.queue q) p.1 .read = none) :
    exec (.fencePacketPass q) s = .next (consume ((fenceCounters (packetBytes s q (s.queue q))).foldl
      (fun t p => walked t (s.queue q).space.toNat (s.queue q).toptab.toNat p.1) s.tick1) q (packetBytes s q (s.queue q)) 0x11) := by
  obtain ⟨p, mem, word⟩ := lost
  have found : (fenceCounters (packetBytes s q (s.queue q))).any (fun p => (packetWord s (s.queue q) p.1 .read).isNone) = true :=
    List.any_eq_true.mpr ⟨p, mem, by rw [word]; rfl⟩
  change execFencePacketPass q s = _
  simp only [execFencePacketPass, ready, holds, found, Bool.not_true, Bool.false_eq_true, ↓reduceIte]

end

/-! ## The statement -/

/-- Settles O46. -/
theorem queueSteps : Obligations.QueueSteps := by
  unfold Obligations.QueueSteps
  intro s q low
  refine ⟨fun v => congrArg Host.Outcome.next (if_neg (Nat.not_le.mpr low)), fun off v => congrArg Host.Outcome.next (if_neg (Nat.not_le.mpr low)),
    ⟨fun _ fits => queueCheck_stays (Or.inr fits), fun off => queueCheck_stays (Or.inl off), fun on more => ?_⟩, fun d off v on cfg wr => ?_,
    parses_iff low, fun ready => ?_⟩
  · refine ⟨_, queueCheck_stops on more, ?_, ?_, rfl⟩
    · rw [raise_queue, updQueue_queue_self]
      exact (stopped_bits _).1
    · rw [raise_queue, updQueue_queue_self]
      exact (stopped_bits _).2
  · unfold descWrite
    split
    · exact absurd rfl cfg
    · exact absurd rfl wr
    all_goals simp only [on, ↓reduceIte]
  · intro d bs type
    exact ⟨fun free bad => exec_nopPacket_bad ready free bad, fun free good => ⟨fun is => exec_nopPacket_of ready free good is,
      fun is _ _ step => exec_launchPacket_of ready free good is step, fun is words => exec_fencePacket_of ready free good is words,
      fun is _ word home => exec_signalPacket_of ready free good is word home⟩, exec_fencePacketPass_met ready, exec_fencePacketPass_lost ready⟩

end Sys2Proof.Machine
end

section
/-! SUPPORT. A record of the fault buffer that is merged into a sector with an uncorrectable error; and the statement about the host's
commands. -/

namespace Sys2Proof.Machine

/- Proofs that are elaborated beside the tests' long kernel checks would wait for those on a thread, and a stack, each. -/
set_option Elab.async false

/-! ## The counterexample -/

/-- A fault buffer of one entry at address 0, enabled and empty, for which a record of one byte waits; the sector at address 0 holds
two wrong bits. -/
def badBuffer : State :=
  { State.reset with
    badSec := [(0, .double)]
    host := { State.reset.host with fbWait := [([1], .dead)], fbCfg := 0x100 } }

/-- Every hypothesis is met: the record may be written, and the entry is free. -/
theorem badBuffer_meets_hypotheses : badBuffer.host.fbWait = [] ++ ([1], .dead) :: [] ∧ fbMay badBuffer .dead = true ∧
    badBuffer.host.fbCfg.getLsbD 8 = true ∧ (badBuffer.host.fbTail - badBuffer.host.fbHead).toNat < fbCount badBuffer ∧
    badBuffer.host.fbTail = badBuffer.host.fbHead ∧ badBuffer.host.vectors = [] :=
  ⟨rfl, rfl, by decide, by decide, rfl, rfl⟩

/-- The vectors that the write of the record raises. -/
def vectorsOf (o : Host.Outcome State Fault Refusal) : List Nat := match o with | .next t => t.host.vectors | _ => []

/-- The merge into that sector records its event, which raises vector 65 before the buffer's own 64 (R194, R203). -/
theorem faultBufferWrite_raises_event : vectorsOf (execFaultBufferWrite badBuffer) = [65, 64] := by
  decide +kernel

/-! ## The statement -/

/-- Refutes O47: its clause on FAULT_BUFFER_WRITE. A record that covers its sector only in part is merged into it, and where the sector
reads as uncorrectable the event of R194 raises vector 65 too: the vector of the buffer is not the only one. -/
theorem not_hostCommandSteps : ¬ Obligations.HostCommandSteps := by
  unfold Obligations.HostCommandSteps
  intro h
  obtain ⟨written, _⟩ := h badBuffer
  obtain ⟨waits, may, on, room, empty, none_⟩ := badBuffer_meets_hypotheses
  obtain ⟨t, step, _, _, _, vectors⟩ := written [] [1] .dead [] waits (List.forall_mem_nil _) may on room
  have raised := faultBufferWrite_raises_event
  rw [show execFaultBufferWrite badBuffer = .next t from step, vectorsOf, vectors, if_pos empty, none_] at raised
  exact absurd raised (by decide)

end Sys2Proof.Machine
end

section
/-! SUPPORT. What the control space, the islands and a power window come to; and the statement about them. -/

namespace Sys2Proof.Machine

/- Proofs that are elaborated beside the tests' long kernel checks would wait for those on a thread, and a stack, each. -/
set_option Elab.async false

section
variable {s : State}

/-! ## Registers (R382, R393) -/

/-- Bits 10 to 0 of a value below 2^11 are the value. -/
theorem pcap_takes_iff (v : W64) : (300 ≤ bitsOf v.toNat 10 0 ∧ bitsOf v.toNat 10 0 ≤ 1600 ∧ v.toNat = bitsOf v.toNat 10 0) ↔
    300 ≤ v.toNat ∧ v.toNat ≤ 1600 := by
  rw [show bitsOf v.toNat 10 0 = v.toNat % 2048 from by simp [bitsOf]]
  omega

theorem exec_pcapWrite (s : State) (v : W64) : exec (.controlSpaceWrite 0x100 v) s =
    .next (if 300 ≤ v.toNat ∧ v.toNat ≤ 1600 then { s with host := { s.host with pcap := v } } else s) := by
  simp only [← pcap_takes_iff]
  rfl

theorem exec_controlSpaceWrite_bucket {off : Nat} (v : W64) (listed : off ∉ [0x100, 0x200, 0x3000, 0x3010, 0x3100, 0x3108, 0x3300])
    (bucket : 0x10000 ≤ off ∧ off < 0x10000 + 32 * 63 ∧ off % 8 = 0) :
    exec (.controlSpaceWrite off v) s = .next (bucketWrite s ((off - 0x10000) / 8) v) := by
  simp only [List.mem_cons, List.not_mem_nil, or_false, not_or] at listed
  obtain ⟨h1, h2, h3, h4, h5, h6, h7⟩ := listed
  change execControlSpaceWrite off v s = _
  simp only [execControlSpaceWrite, h1, h2, h3, h4, h5, h6, h7, ↓reduceIte]
  rw [if_pos bucket]

theorem exec_bucketRegWrite {k : Nat} (low : k < 252) (v : W64) :
    exec (.controlSpaceWrite (0x10000 + 8 * k) v) s = .next (bucketWrite s k v) := by
  rw [exec_controlSpaceWrite_bucket v (by simp only [List.mem_cons, List.not_mem_nil, or_false]; omega) (by omega), Nat.add_sub_cancel_left,
    Nat.mul_div_cancel_left k (by decide)]

/-- An offset without a register takes nothing. -/
theorem exec_controlSpaceWrite_other {off : Nat} (v : W64) (listed : off ∉ [0x100, 0x200, 0x3000, 0x3010, 0x3100, 0x3108, 0x3300])
    (bucket : ¬(0x10000 ≤ off ∧ off < 0x10000 + 8 * 252 ∧ off % 8 = 0)) (mail : ¬(0x31000 ≤ off ∧ off + 8 ≤ 0x32000)) :
    exec (.controlSpaceWrite off v) s = .next s := by
  simp only [List.mem_cons, List.not_mem_nil, or_false, not_or] at listed
  obtain ⟨h1, h2, h3, h4, h5, h6, h7⟩ := listed
  change execControlSpaceWrite off v s = _
  simp only [execControlSpaceWrite, h1, h2, h3, h4, h5, h6, h7, ↓reduceIte]
  rw [if_neg bucket, if_neg (fun is => mail (by omega)), if_neg mail]

/-! ## Islands (R403, R405) -/

/-- A write of an island's register is kept, and memory stays. -/
theorem islWrite_of {i mode fmax : Nat} (low : i < 72) (most : fmax ≤ 40) :
    tabGet (0 : W64) (islWrite s i mode fmax).host.islCtl i = BitVec.ofNat 64 (mode + fmax * 2 ^ 8) ∧ (islWrite s i mode fmax).mem = s.mem := by
  have kept : tabGet (0 : W64) (tabPut (0 : W64) s.host.islCtl i (BitVec.ofNat 64 (mode + fmax * 2 ^ 8))) i =
    BitVec.ofNat 64 (mode + fmax * 2 ^ 8) := (tabGet_put ..).trans (if_pos rfl)
  unfold islWrite
  rw [if_neg (by omega)]
  dsimp only
  split
  · exact ⟨kept, rfl⟩
  · exact ⟨kept, rfl⟩

theorem islWrite_high (i mode : Nat) {fmax : Nat} (high : 40 < fmax) : islWrite s i mode fmax = s := if_pos (Or.inr high)

theorem exec_islandGated_of {i n : Nat} (low : i < 50) (is : clusNo s.floor i = some n) (gate : bitsOf (s.cluster n).ctl.toNat 1 0 = 2)
    (on : (s.cluster n).isl ≠ 2) (walk : (s.cluster n).walk = false) (free : clusterFree s n = true) (none_ : residentOn s n = false)
    (homes : ∀ k ∈ (s.cluster n).homes, bandLives s k = false) :
    exec (.islandGated i) s = .next (s.updCluster n (fun c => { c with cyc := c.now s.nc, nc0 := s.nc, isl := 2 })) := by
  have gone : ((s.cluster n).homes.filter (bandLives s)).isEmpty = true :=
    List.isEmpty_iff.mpr (List.filter_eq_nil_iff.mpr (fun k mem => Bool.eq_false_iff.mp (homes k mem)))
  change execIslandGated i s = _
  simp only [execIslandGated, if_pos low, is]
  rw [if_pos ⟨gate, on, by rw [walk]; rfl, free, none_, gone⟩]

/-! ## Power windows (R404) -/

/-- The signing of a report changes neither memory nor a cluster, nor what a window depends on. -/
theorem attestStep_frame (s : State) : (attestStep s).mem = s.mem ∧ (attestStep s).nc = s.nc ∧ (attestStep s).floor = s.floor ∧
    (attestStep s).clusters = s.clusters ∧ (attestStep s).host.window = s.host.window := by
  unfold attestStep
  split
  · exact ⟨rfl, rfl, rfl, rfl, rfl⟩
  · rename_i mail nonce _
    split
    · exact ⟨rfl, rfl, rfl, rfl, rfl⟩
    · cases mail <;> exact ⟨rfl, rfl, rfl, rfl, rfl⟩

/-- A window moves a cluster down, where the power is above the cap, or up. -/
def windowMhz (high : Bool) (c : Cluster) : Nat := if high then max 400 (c.mhz - 25) else min (fmaxOf c.ctl) (c.mhz + 25)

/-- A window moves each cluster once. -/
def windowMoves (high : Bool) (s : State) (count : Nat) : State :=
  (List.range count).foldl (fun (s : State) n => s.updCluster n (fun c => c.setMhz s.nc (windowMhz high c))) s

theorem windowMoves_succ (high : Bool) (s : State) (count : Nat) : windowMoves high s (count + 1) =
    (windowMoves high s count).updCluster count (fun c => c.setMhz (windowMoves high s count).nc (windowMhz high c)) := by
  rw [windowMoves, List.range_succ, List.foldl_append]
  rfl

theorem windowMoves_frame (high : Bool) (s : State) (count : Nat) :
    (windowMoves high s count).mem = s.mem ∧ (windowMoves high s count).host = s.host := by
  induction count with
  | zero => exact ⟨rfl, rfl⟩
  | succ count ih => rw [windowMoves_succ]; exact ih

theorem windowMoves_cluster (high : Bool) (s : State) (count n : Nat) :
    ((windowMoves high s count).cluster n).mhz = (if n < count then windowMhz high (s.cluster n) else (s.cluster n).mhz) ∧
    ((windowMoves high s count).cluster n).ctl = (s.cluster n).ctl := by
  induction count with
  | zero => exact ⟨rfl, rfl⟩
  | succ count ih =>
    obtain ⟨mhz, ctl⟩ := ih
    rw [windowMoves_succ, updCluster_cluster]
    by_cases here : n = count
    · subst here
      rw [if_neg (Nat.lt_irrefl n)] at mhz
      rw [if_pos rfl, if_pos (Nat.lt_succ_self n)]
      refine ⟨?_, ctl⟩
      change windowMhz high _ = _
      rw [windowMhz, windowMhz, mhz, ctl]
    · rw [if_neg here]
      refine ⟨mhz.trans (if_congr ?_ rfl rfl), ctl⟩
      omega

theorem exec_powerWindow_of (due : s.host.window < s.nc / 2 ^ 21) : exec .powerWindow s = .next (windowMoves
    (decide ((attestStep s).host.pcap.toNat < Config.analog (attestStep s).tick))
    { attestStep s with host := { (attestStep s).host with window := (attestStep s).nc / 2 ^ 21 } } (attestStep s).floor.allClus.length) := by
  obtain ⟨-, nc, -, -, window⟩ := attestStep_frame s
  refine congrArg Host.Outcome.next (if_neg ?_)
  rw [nc, window]
  exact Nat.not_le.mpr due

end

/-! ## The statement -/

/-- Settles O48. -/
theorem controlSpaceSteps : Obligations.ControlSpaceSteps := by
  unfold Obligations.ControlSpaceSteps
  intro s
  refine ⟨fun v low high => ?_, fun v out => ?_, fun _ => rfl, fun _ => rfl, fun _ => rfl, fun _ => rfl, fun _ => rfl, fun k v low type => ?_,
    fun k v low type => ?_, fun _ => rfl, fun off v listed bucket mail => exec_controlSpaceWrite_other v listed bucket mail, fun b low => ?_,
    fun i f low most => ⟨⟨_, rfl, ?_⟩, ⟨_, rfl, islWrite_of low most⟩, fun may => ⟨_, congrArg Host.Outcome.next (if_pos may), islWrite_of low most⟩⟩,
    fun i f high => congrArg Host.Outcome.next (islWrite_high i 0 high),
    fun i f may => congrArg Host.Outcome.next (if_neg (Bool.eq_false_iff.mp may)), fun i n low is => ?_,
    fun before => ?_, fun none_ => ?_, fun due => ?_⟩
  · exact (exec_pcapWrite s v).trans (congrArg Host.Outcome.next (if_pos ⟨low, high⟩))
  · exact (exec_pcapWrite s v).trans (congrArg Host.Outcome.next (if_neg (by omega)))
  · refine ⟨_, (exec_bucketRegWrite low v).trans (congrArg Host.Outcome.next (if_neg (Nat.not_le.mpr type))), ?_, rfl⟩
    exact (tabGet_put ..).trans (if_pos rfl)
  · exact (exec_bucketRegWrite low v).trans (congrArg Host.Outcome.next (if_pos type))
  · exact ⟨_, congrArg Host.Outcome.next (if_pos low), (tabGet_put Bank.zero s.banks b b Bank.zero).trans (if_pos rfl),
      fun k other => (tabGet_put Bank.zero s.banks b k Bank.zero).trans (if_neg other)⟩
  · have written := islWrite_of (s := s) (mode := 0) low most
    rwa [Nat.zero_add] at written
  · intro c gate on walk free none_ homes
    refine ⟨_, exec_islandGated_of low is gate on walk free none_ homes, ?_, rfl⟩
    rw [updCluster_cluster, if_pos rfl]
  · obtain ⟨-, nc, -, -, window⟩ := attestStep_frame s
    refine congrArg Host.Outcome.next (if_pos ?_)
    rw [nc, window]
    exact before
  · unfold attestStep
    rw [none_]
  · obtain ⟨mem, nc, floor, clusters, -⟩ := attestStep_frame s
    refine ⟨_, exec_powerWindow_of due, ?_, ?_, fun n low => ?_⟩
    · rw [(windowMoves_frame ..).2, nc]
    · rw [(windowMoves_frame ..).1, mem]
    · rw [(windowMoves_cluster ..).1, floor, if_pos low]
      have same : (attestStep s).cluster n = s.cluster n := congrArg (fun t => tabGet Cluster.fresh t n) clusters
      rw [windowMhz, show State.cluster { attestStep s with host := { (attestStep s).host with window := (attestStep s).nc / 2 ^ 21 } } n =
        s.cluster n from same]
      exact (ite_eq_or_eq ..)

end Sys2Proof.Machine
end

section
/-! SUPPORT. What the steps of a peer link and the host's accesses come to; and the statement about them. -/

namespace Sys2Proof.Machine

/- Proofs that are elaborated beside the tests' long kernel checks would wait for those on a thread, and a stack, each. -/
set_option Elab.async false

/-! ## Headers (R399) -/

section
variable (h : Wayfare)

theorem wayBits_seq : (wayBits h).extractLsb' 112 16 = h.seq := by
  unfold wayBits
  iterate 8 rw [BitVec.extractLsb'_append_eq_of_le]
  all_goals simp

theorem wayBits_typ : (wayBits h).extractLsb' 108 4 = h.typ := by
  unfold wayBits
  iterate 7 rw [BitVec.extractLsb'_append_eq_of_le]
  all_goals simp
  rw [BitVec.extractLsb'_append_eq_of_add_le]
  all_goals simp

theorem wayBits_aop : (wayBits h).extractLsb' 104 4 = h.aop := by
  unfold wayBits
  iterate 6 rw [BitVec.extractLsb'_append_eq_of_le]
  all_goals simp
  rw [BitVec.extractLsb'_append_eq_of_add_le]
  all_goals simp

theorem wayBits_ty : (wayBits h).extractLsb' 100 4 = h.ty := by
  unfold wayBits
  iterate 5 rw [BitVec.extractLsb'_append_eq_of_le]
  all_goals simp
  rw [BitVec.extractLsb'_append_eq_of_add_le]
  all_goals simp

theorem wayBits_cls : (wayBits h).extractLsb' 98 2 = h.cls := by
  unfold wayBits
  iterate 4 rw [BitVec.extractLsb'_append_eq_of_le]
  all_goals simp
  rw [BitVec.extractLsb'_append_eq_of_add_le]
  all_goals simp

theorem wayBits_len : (wayBits h).extractLsb' 88 8 = h.len := by
  unfold wayBits
  iterate 2 rw [BitVec.extractLsb'_append_eq_of_le]
  all_goals simp
  rw [BitVec.extractLsb'_append_eq_of_add_le]
  all_goals simp

theorem wayBits_addr : (wayBits h).extractLsb' 0 46 = h.addr := by
  unfold wayBits
  rw [BitVec.extractLsb'_append_eq_of_add_le]
  all_goals simp

/-- The fields read back from the 16 bytes that hold them. -/
theorem wayfare?_wayBits (typ : h.typ.toNat < 7) (len : h.len.toNat < 128) (aop : h.typ = 2 ∨ h.aop = 0) : wayfare? (wayBits h) = some h := by
  unfold wayfare?
  simp only [wayBits_seq, wayBits_typ, wayBits_aop, wayBits_ty, wayBits_cls, wayBits_len, wayBits_addr]
  exact if_pos ⟨trivial, typ, len, aop⟩

end

theorem wayfare?_eq_none_iff (x : BitVec 128) :
    wayfare? x = none ↔ ¬∃ h : Wayfare, wayBits h = x ∧ h.typ.toNat < 7 ∧ h.len.toNat < 128 ∧ (h.typ = 2 ∨ h.aop = 0) := by
  refine ⟨?_, fun none_ => if_neg (fun fits => none_ ⟨_, fits⟩)⟩
  rintro none_ ⟨h, rfl, typ, len, aop⟩
  rw [wayfare?_wayBits h typ len aop] at none_
  contradiction

/-! ## Requests (R399) -/

section
variable {s : State} {w : Nat} {cls : BitVec 2} {addr : BitVec 46}

/-- A request whose fields are well formed is taken. -/
theorem peerTakes_of (up : peerUp s w = true) {typ aop ty : BitVec 4} {len : Nat} (low : typ.toNat < 7) (most : len ≤ 128)
    (form : typ = 2 ∨ aop = 0) (k : State → Wayfare → State) : peerTakes s w (wayHead s w typ aop ty cls len addr) k =
      k (peerHeard s w) ⟨BitVec.ofNat 16 (s.peer w).inSeq, typ, aop, ty, cls, BitVec.ofNat 8 (len - 1), addr⟩ := by
  have short : (BitVec.ofNat 8 (len - 1)).toNat < 128 := by
    rw [BitVec.toNat_ofNat]
    omega
  have taken := wayfare?_wayBits ⟨BitVec.ofNat 16 (s.peer w).inSeq, typ, aop, ty, cls, BitVec.ofNat 8 (len - 1), addr⟩ low short form
  simp only [peerTakes, up, wayHead, taken, Bool.not_true, Bool.false_eq_true, ↓reduceIte]

/-- A request that may be performed has at most 128 bytes. -/
theorem peerReqOk_len {addr len : Nat} (ok : peerReqOk s addr len = true) : len ≤ 128 := by
  simp only [peerReqOk, Bool.and_eq_true, decide_eq_true_eq] at ok
  exact ok.1.1.1.2

theorem exec_wayfareRead_of (up : peerUp s w = true) {len : Nat} (most : len ≤ 128) (tag : Nat) :
    exec (.wayfareRead w cls addr len tag) s = .next (if peerReqOk (peerHeard s w) addr.toNat len then
      (peerHeard s w).addAcc (outAcc (peerHeard s w) (.peer w) cls.toNat addr.toNat len .read .weak [] (.peer w tag)) else peerHeard s w) :=
  congrArg Host.Outcome.next (peerTakes_of up (by decide) most (Or.inr rfl) _)

theorem exec_wayfareWrite_of (up : peerUp s w = true) {data : List (BitVec 8)} (ok : peerReqOk (peerHeard s w) addr.toNat data.length = true) :
    exec (.wayfareWrite w cls addr data) s = .next ((peerHeard s w).addAcc
      (outAcc (peerHeard s w) (.peer w) cls.toNat addr.toNat data.length .write .weak data .none)) :=
  congrArg Host.Outcome.next ((peerTakes_of up (by decide) (peerReqOk_len ok) (Or.inr rfl) _).trans (if_pos ok))

theorem exec_wayfareAtomic_of (up : peerUp s w = true) {op : Aop} {ty : Ty} (may : aopTy op ty = true) (whole : addr.toNat % tyBytes ty = 0)
    (ok : peerReqOk (peerHeard s w) addr.toNat (tyBytes ty) = true) (b c : W64) (tag : Nat) :
    exec (.wayfareAtomic w cls addr op ty b c tag) s = .next ((peerHeard s w).addAcc
      (outAcc (peerHeard s w) (.peer w) cls.toNat addr.toNat (tyBytes ty) (.atomic op ty b c true) .weak [] (.peer w tag))) := by
  refine congrArg Host.Outcome.next ((peerTakes_of up (by decide) (peerReqOk_len ok) (Or.inl rfl) _).trans (if_pos ?_))
  rw [may, decide_eq_true whole, ok]
  rfl

/-! ## Answers (R242, R400) -/

/-- The flits of an answer come out of a bucket, and nothing else changes. -/
theorem replyDebit_eq (s : State) (a : Access) : ∃ host, replyDebit s a = { s with host := host } := by
  have debit : ∀ ep cls f, ∃ host, bucketDebit s ep cls f = { s with host := host } := by
    intro ep cls f
    unfold bucketDebit
    dsimp only
    split <;> exact ⟨_, rfl⟩
  unfold replyDebit
  dsimp only
  split
  · exact debit ..
  · exact debit ..
  · exact ⟨_, rfl⟩

/-- An answer to a read at a window is its value, once the read may take it. -/
theorem winAnswer_read {a : Access} (kind : a.kind = .read) (inj : a.inj = true) (new : a.taken = none) (orders : ordersAllow s a = true)
    (order : readInOrder s a = true) (bs : List Byte) (poi : Bool) :
    winAnswer (replyDebit s a) a bs poi = some (tookValue (replyDebit s a) a ((bs ++ List.replicate a.width 0).take a.width) poi) := by
  have may : ordersAllow (replyDebit s a) a = true ∧ readInOrder (replyDebit s a) a = true := by
    obtain ⟨host, eq⟩ := replyDebit_eq s a
    rw [eq]
    exact ⟨orders, order⟩
  obtain ⟨orders, order⟩ := may
  simp only [winAnswer, kind, inj, new, Option.isNone_none, orders, order, Bool.and_self, ↓reduceIte]

/-- A value of an access's width is taken whole. -/
theorem take_whole {data : List Byte} {n : Nat} (whole : data.length = n) : (data ++ List.replicate n 0).take n = data := by
  rw [← whole, List.take_left']
  rfl

variable {a : Access} {off : Nat}

theorem peerAcc_of (up : peerUp s w = true) (pending : accOf s a.id = some a) (loc : a.loc = .peerWin w off) : peerAcc s w a.id = some a := by
  simp only [peerAcc, up, pending, loc, Bool.not_true, Bool.false_eq_true, Option.bind_some, ↓reduceIte]

theorem peerCopy_none (pending : accOf s a.id = some a) (kind : a.kind = .read ∨ a.kind = .write) : peerCopy s w a.id = none := by
  rw [peerCopy, pending, Option.bind_some]
  obtain is | is := kind <;> rw [is]

theorem exec_wayfareAck_write (up : peerUp s w = true) (pending : accOf s a.id = some a) (loc : a.loc = .peerWin w off)
    (kind : a.kind = .write) (home : a.atHome = true) : exec (.wayfareAck w a.id) s =
      .next (updAcc (replyDebit (peerHeard s w) a) a.id (fun a => { a with rept := true })) := by
  change execWayfareAck w a.id s = _
  simp only [execWayfareAck, peerCopy_none pending (Or.inr kind), peerAcc_of up pending loc, Option.bind_some, kind, winAnswer, home,
    ↓reduceIte] <;> rfl

theorem exec_wayfareAck_copy (up : peerUp s w = true) (pending : accOf s a.id = some a) {b g f} (kind : a.kind = .copy b g f)
    (owed : tabGet 0 a.owes (33 + w) ≠ 0) : exec (.wayfareAck w a.id) s =
      .next (updAcc (bucketDebit (peerHeard s w) (51 + w) a.cls 1) a.id
        (fun a => { a with owes := tabPut 0 a.owes (33 + w) (tabGet 0 a.owes (33 + w) - 1) })) := by
  have copy : peerCopy s w a.id = some a := by
    rw [peerCopy, pending, Option.bind_some, kind]
    exact if_pos owed
  change execWayfareAck w a.id s = _
  simp only [execWayfareAck, copy, up, copyReport, if_neg owed, ↓reduceIte] <;> rfl

theorem exec_wayfareReadReply_of (up : peerUp s w = true) (pending : accOf s a.id = some a) (loc : a.loc = .peerWin w off)
    (kind : a.kind = .read) (inj : a.inj = true) (new : a.taken = none) (orders : ordersAllow (peerHeard s w) a = true)
    (order : readInOrder (peerHeard s w) a = true) {data : List Byte} (whole : data.length = a.width) :
    exec (.wayfareReadReply w a.id data) s = .next (tookValue (replyDebit (peerHeard s w) a) a data false) := by
  have answer := winAnswer_read kind inj new orders order data false
  rw [take_whole whole] at answer
  change execWayfareReadReply w a.id data s = _
  simp only [execWayfareReadReply, peerAcc_of up pending loc, Option.bind_some, kind, answer] <;> rfl

theorem exec_wayfareRefusal_of (up : peerUp s w = true) (pending : accOf s a.id = some a) (loc : a.loc = .peerWin w off)
    (kind : a.kind = .read) (inj : a.inj = true) (new : a.taken = none) (orders : ordersAllow (peerHeard s w) a = true)
    (order : readInOrder (peerHeard s w) a = true) : exec (.wayfareRefusal w a.id) s =
      .next (tookValue (replyDebit (peerHeard s w) a) a (List.replicate a.width 0) true) := by
  have answer := winAnswer_read kind inj new orders order [] true
  rw [List.nil_append, List.take_of_length_le (le_of_eq List.length_replicate)] at answer
  change execWayfareRefusal w a.id s = _
  simp only [execWayfareRefusal, peerCopy_none pending (Or.inl kind), pending, loc, up, refuseAcc, answer, Option.getD_some, ↓reduceIte]

theorem exec_hostCompletion_of (pending : accOf s a.id = some a) (loc : a.loc = .hostWin off)
    (kind : a.kind = .read) (inj : a.inj = true) (new : a.taken = none) (orders : ordersAllow s a = true) (order : readInOrder s a = true)
    {data : List Byte} (whole : data.length = a.width) :
    exec (.hostCompletion a.id data) s = .next (tookValue (replyDebit s a) a data false) := by
  have answer := winAnswer_read kind inj new orders order data false
  rw [take_whole whole] at answer
  change execHostCompletion a.id data s = _
  simp only [execHostCompletion, pending, Option.bind_some, kind, loc, answer] <;> rfl

/-! ## A link that goes down (R400) -/

theorem bankEvent_peers (s : State) (b cls act code src : Nat) (x y z : W64) : (s.bankEvent b cls act code src x y z).peers = s.peers := by
  obtain ⟨banks, host, eq⟩ := bankEvent_eq s b cls act code src x y z
  rw [eq]

theorem tookValue_peers (s : State) (a : Access) (bs : List Byte) (poi : Bool) : (tookValue s a bs poi).peers = s.peers := by
  have acquired : ∀ t : State, (acquireOf t a).peers = t.peers := by
    intro t
    unfold acquireOf
    split
    · split <;> rfl
    · rfl
  have prod : ∀ (t : State) (d : Dest), (t.addProd d bs poi).peers = t.peers := by
    rintro t (_ | _) <;> rfl
  exact (prod ..).trans (acquired _)

theorem refuseAcc_peers (s : State) (a : Access) : (refuseAcc s a).peers = s.peers := by
  have debit : (replyDebit s a).peers = s.peers := by
    obtain ⟨host, eq⟩ := replyDebit_eq s a
    rw [eq]
  have answered : ∀ u, winAnswer (replyDebit s a) a [] true = some u → u.peers = s.peers := by
    intro u answer
    unfold winAnswer at answer
    split at answer
    · obtain ⟨-, ⟨⟩⟩ := Option.ite_none_right_eq_some.mp answer
      exact (tookValue_peers ..).trans debit
    · obtain ⟨-, ⟨⟩⟩ := Option.ite_none_right_eq_some.mp answer
      exact (tookValue_peers ..).trans debit
    · obtain ⟨-, ⟨⟩⟩ := Option.ite_none_right_eq_some.mp answer
      exact debit
    · contradiction
  rw [refuseAcc]
  cases answer : winAnswer (replyDebit s a) a [] true with
  | none => rfl
  | some u => exact answered u answer

theorem copyLost_peers (s : State) (w : Nat) (a : Access) : (copyLost s w a).peers = s.peers :=
  List.foldlRecOn (motive := fun (t : State) => t.peers = s.peers) _ _ rfl (fun _ same _ _ => (bankEvent_peers ..).trans same)

theorem linkDown_peers (s : State) (w : Nat) : (linkDown s w).peers = (s.updPeer w (fun p => { p with up := false })).peers := by
  refine List.foldlRecOn (motive := fun (t : State) => t.peers = (s.updPeer w (fun p => { p with up := false })).peers) _ _ ?_
    (fun t same a _ => ?_)
  · exact List.foldlRecOn (motive := fun (t : State) => t.peers = (s.updPeer w (fun p => { p with up := false })).peers) _ _
      (bankEvent_peers ..) (fun t same a _ => (copyLost_peers ..).trans same)
  · have counted : ∀ lost : Bool, (if lost then t.bankEvent (bankPeer w) 0 0 0 0x1A 0 0 0 else t).peers =
        (s.updPeer w (fun p => { p with up := false })).peers := by
      rintro (_ | _)
      · exact same
      · exact (bankEvent_peers ..).trans same
    exact (refuseAcc_peers ..).trans (counted _)

theorem updPeer_peer_self (s : State) (w : Nat) (f : PeerPort → PeerPort) : (s.updPeer w f).peer w = f (s.peer w) := by
  change tabGet _ (tabSet _ _ _) _ = _
  rw [tabGet, tabGet?_set_self]
  rfl

theorem linkDown_up (s : State) (w : Nat) : ((linkDown s w).peer w).up = false := by
  rw [State.peer, linkDown_peers]
  exact congrArg PeerPort.up (updPeer_peer_self s w (fun p => { p with up := false }))

theorem exec_flitCrcFailure_of (up : peerUp s w = true) : exec (.flitCrcFailure w) s =
    .next (if 16 < (s.peer w).crc + 1 then linkDown (s.updPeer w (fun p => { p with crc := p.crc + 1 })) w
      else s.updPeer w (fun p => { p with crc := p.crc + 1 })) := by
  change execFlitCrcFailure w s = _
  simp only [execFlitCrcFailure, up, updPeer_peer_self, Bool.not_true, Bool.false_eq_true, ↓reduceIte]

/-! ## The aperture (R392) -/

/-- A range within one line is one piece. -/
theorem linePieces_one {pa n : Nat} (some_ : 0 < n) (line : pa % 128 + n ≤ 128) : linePieces pa n = [(0, n)] := by
  have low : max pa ((pa / 128 + 0) * 128) = pa := by omega
  have high : min (pa + n) ((pa / 128 + 0 + 1) * 128) = pa + n := by omega
  have rest : ∀ i, ¬max pa ((pa / 128 + (i + 1)) * 128) < min (pa + n) ((pa / 128 + (i + 1) + 1) * 128) := by
    intro i
    omega
  rw [linePieces, List.range_succ_eq_map, List.filterMap_cons]
  simp only [low, high, if_pos (Nat.lt_add_of_pos_right (n := pa) some_), Nat.sub_self, Nat.add_sub_cancel_left]
  refine congrArg _ (List.filterMap_eq_nil_iff.mpr (fun i mem => ?_))
  obtain ⟨j, -, rfl⟩ := List.mem_map.mp mem
  exact if_neg (rest j)

theorem exec_hostAccess_write {off : BitVec 36} {data : List Byte} (takes : takesWork s = true)
    (home : isMem s.floor (aperPa s off.toNat) = true) (some_ : data ≠ []) (line : aperPa s off.toNat % 128 + data.length ≤ 128) :
    exec (.hostAccess .write off data) s =
      .next (s.addAcc (outAcc s .host 3 (aperPa s off.toNat) data.length .write .rel data .none)) := by
  change execHostAccess .write off data s = _
  simp only [execHostAccess, takes, Bool.not_true, Bool.false_eq_true, ↓reduceIte, linePieces_one (List.length_pos_iff.mpr some_) line,
    List.foldl_cons, List.foldl_nil, hostWrites, Nat.add_zero, List.drop_zero, List.take_length, home]

theorem exec_hostAccess_read {off : BitVec 36} {data : List Byte} (takes : takesWork s = true)
    (home : isMem s.floor (aperPa s off.toNat) = true) (some_ : data ≠ []) (line : aperPa s off.toNat % 128 + data.length ≤ 128) :
    exec (.hostAccess .read off data) s =
      .next (s.addAcc (outAcc s .host 3 (aperPa s off.toNat) data.length .read .weak [] .host)) := by
  change execHostAccess .read off data s = _
  simp only [execHostAccess, takes, Bool.not_true, Bool.false_eq_true, ↓reduceIte, linePieces_one (List.length_pos_iff.mpr some_) line,
    List.foldl_cons, List.foldl_nil, hostReads, Nat.add_zero, home]

theorem exec_hostAccess_atom {op : HostOp} {off : BitVec 36} {data : List Byte} {o : Aop} {ty : Ty} {b c : W64} (takes : takesWork s = true)
    (read : op ≠ .read) (write : op ≠ .write) (atom : hostAtom op data = some (o, ty, b, c)) :
    exec (.hostAccess op off data) s = .next (hostAtomics s (aperPa s off.toNat) o ty b c) := by
  change execHostAccess op off data s = _
  simp only [execHostAccess, takes, Bool.not_true, Bool.false_eq_true, ↓reduceIte]
  cases op with
  | read => exact absurd rfl read
  | write => exact absurd rfl write
  | _ => rw [atom]

/-! ## Training (R401) -/

theorem exec_peerLinkTrain_of {v : Nat} (low : v < 12) (boot : s.boot.st = 1) (port : s.floor.peers.getLsbD v = true)
    (new : tabGet? s.peers v = none) (halted : s.host.halted = false) (ok : Bool) : exec (.peerLinkTrain v ok) s =
    .next (if ok then s.updPeer v (fun _ => ⟨ok, 0, 0⟩) else (s.updPeer v (fun _ => ⟨ok, 0, 0⟩)).bankEvent (bankPeer v) 1 0 0 0x1A 0 0 0) := by
  refine congrArg Host.Outcome.next (if_neg ?_)
  rw [boot, port, new, halted]
  simp [low]

end

/-! ## The statement -/

/-- Settles O49. -/
theorem peerAndHostSteps : Obligations.PeerAndHostSteps := by
  unfold Obligations.PeerAndHostSteps
  intro s w up t
  refine ⟨fun cls addr len tag _ most => ⟨fun ok => ?_, fun bad => ?_⟩, fun cls addr data ok => exec_wayfareWrite_of up ok,
    fun cls addr op ty b c tag may whole ok => exec_wayfareAtomic_of up may whole ok b c tag, fun done_ => ?_, fun a off pending loc => ⟨fun kind home =>
    exec_wayfareAck_write up pending loc kind home, fun kind inj new orders order => ⟨fun data whole =>
    exec_wayfareReadReply_of up pending loc kind inj new orders order whole, exec_wayfareRefusal_of up pending loc kind inj new orders order⟩⟩,
    fun a b g f pending kind owed => exec_wayfareAck_copy up pending kind owed, wayfare?_eq_none_iff, fun few => ?_, fun many => ?_,
    fun a off data pending loc kind inj new orders order whole => exec_hostCompletion_of pending loc kind inj new orders order whole,
    fun off data takes => ?_, fun op off data o ty b c takes read write atom => ?_, fun v low boot port new halted => ?_⟩
  · exact (exec_wayfareRead_of up most tag).trans (congrArg Host.Outcome.next (if_pos ok))
  · exact (exec_wayfareRead_of up most tag).trans (congrArg Host.Outcome.next (if_neg (Bool.eq_false_iff.mp bad)))
  · have all_ : s.accs.all (fun a => a.by_ != .peer w || performedAt a 6) = true := by
      refine List.all_eq_true.mpr (fun a mem => Bool.or_eq_true_iff.mpr ?_)
      by_cases mine : a.by_ = .peer w
      · exact Or.inr (done_ a mem mine)
      · exact Or.inl (bne_iff_ne.mpr mine)
    refine congrArg Host.Outcome.next (if_pos ?_)
    rw [up, all_, decide_eq_true rfl]
    rfl
  · exact (exec_flitCrcFailure_of up).trans (congrArg Host.Outcome.next (if_neg (Nat.not_lt.mpr few)))
  · exact ⟨_, (exec_flitCrcFailure_of up).trans (congrArg Host.Outcome.next (if_pos many)), linkDown_up ..⟩
  · exact fun home some_ line => ⟨exec_hostAccess_write takes home some_ line, exec_hostAccess_read takes home some_ line⟩
  · exact fun home whole => (exec_hostAccess_atom takes read write atom).trans
      (congrArg Host.Outcome.next ((if_neg (not_not.mpr whole)).trans (if_pos home)))
  · have train := exec_peerLinkTrain_of low boot port new halted
    refine ⟨train true, _, train false, ?_⟩
    change (tabGet _ (State.bankEvent ..).peers v).up = false
    rw [bankEvent_peers]
    exact congrArg PeerPort.up (updPeer_peer_self s v _)

end Sys2Proof.Machine
end

section
/-! SUPPORT. What a reset, a stage of start-up and a message come to; and the statement about them. -/

namespace Sys2Proof.Machine

/- Proofs that are elaborated beside the tests' long kernel checks would wait for those on a thread, and a stack, each. -/
set_option Elab.async false

section
variable {s : State}

/-! ## Resets (R401, R402) -/

/-- The interrupt of a change of BOOTSTAT is all that a change adds (R397). -/
theorem bootChanged_eq (s t : State) : ∃ vectors, bootChanged s t = { t with host := { t.host with vectors := vectors } } := by
  rw [bootChanged]
  split <;> exact ⟨_, rfl⟩

theorem bootChanged_frame (s t : State) : (bootChanged s t).flash = t.flash ∧ (bootChanged s t).floor = t.floor ∧
    (bootChanged s t).boot = t.boot ∧ (bootChanged s t).launches = t.launches ∧ (bootChanged s t).accs = t.accs := by
  obtain ⟨vectors, eq⟩ := bootChanged_eq s t
  rw [eq]
  exact ⟨rfl, rfl, rfl, rfl, rfl⟩

theorem resetState_frame (s : State) : (resetState s).flash = s.flash ∧ (resetState s).floor = s.floor ∧
    (resetState s).launches = [] ∧ (resetState s).accs = [] := by
  rw [resetState]
  split <;> exact ⟨rfl, rfl, rfl, rfl⟩

/-- A reset starts stage 1, or floor mode again. -/
theorem resetState_boot (s : State) : (resetState s).boot = if s.flash.fails = 3 then ⟨2, s.boot.reason, 0, 0, []⟩ else State.reset.boot := by
  rw [resetState]
  split <;> rfl

/-- The third failed start in a row brings floor mode up. -/
theorem startFails_third (code : BitVec 8) (two : 2 ≤ s.flash.fails) : (startFails s code).boot.st = 2 ∧ (startFails s code).boot.reason = code ∧
    (startFails s code).flash.fails = 3 ∧ (startFails s code).launches = [] ∧ (startFails s code).accs = [] := by
  have third : min 3 (s.flash.fails + 1) = 3 := Nat.min_eq_left (Nat.succ_le_succ two)
  rw [startFails]
  simp only [third, ↓reduceIte]
  obtain ⟨flash, -, boot, launches, accs⟩ := bootChanged_frame s (resetState
    { s with flash := { s.flash with fails := 3 }, boot := { s.boot with reason := code },
             floor := floorMode s.floor (freeNow s 50) (freeNow s.tick1 256) }.tick1.tick1)
  obtain ⟨flash', -, launches', accs'⟩ := resetState_frame
    { s with flash := { s.flash with fails := 3 }, boot := { s.boot with reason := code },
             floor := floorMode s.floor (freeNow s 50) (freeNow s.tick1 256) }.tick1.tick1
  rw [boot, flash, launches, accs, resetState_boot, flash', launches', accs']
  exact ⟨rfl, rfl, rfl, rfl, rfl⟩

theorem startFails_again (code : BitVec 8) (few : s.flash.fails < 2) : startFails s code = bootChanged s (resetState
    { s with flash := { s.flash with fails := s.flash.fails + 1 }, boot := { s.boot with reason := code } }) := by
  have count : min 3 (s.flash.fails + 1) = s.flash.fails + 1 := Nat.min_eq_right (by omega)
  rw [startFails]
  simp only [count, if_neg (show s.flash.fails + 1 ≠ 3 by omega)]

/-! ## The stages of start-up (R401) -/

/-- Every enabled cluster has been tested. -/
def AllTested (s : State) : Prop := ∀ c < s.floor.allClus.length, ∃ p ∈ s.boot.tested, p.1 = c

theorem allTested_iff : (List.range s.floor.allClus.length).all (fun c => s.boot.tested.any (fun p => p.1 == c)) = true ↔ AllTested s := by
  simp only [List.all_eq_true, List.mem_range, List.any_eq_true, beq_iff_eq, AllTested]

/-- Stage 4 is not over while a cluster is not tested. -/
theorem untested_iff : (s.boot.stage = 4 ∧ (!(List.range s.floor.allClus.length).all (fun c => s.boot.tested.any (fun p => p.1 == c))) = true) ↔
    s.boot.stage = 4 ∧ ¬AllTested s := by
  rw [Bool.not_eq_true', ← Bool.not_eq_true, allTested_iff]

/-- Stage 4 fails where no cluster has passed. -/
theorem nonePasses_iff : (s.boot.stage = 4 ∧ (!s.boot.tested.any (fun p => p.2)) = true) ↔
    s.boot.stage = 4 ∧ ∀ p ∈ s.boot.tested, p.2 = false := by
  rw [Bool.not_eq_true', List.any_eq_false]
  simp only [Bool.not_eq_true]

section
variable (starts : s.boot.st = 0)
include starts

theorem exec_startupStageComplete_lost {c : BitVec 8} (lost : stageCode s s.boot.stage = some c) (ok : Bool) (code : BitVec 8) :
    exec (.startupStageComplete ok code) s = .next (startFails s c) := by
  change execStartupStageComplete ok code s = _
  simp only [execStartupStageComplete, starts, ne_eq, not_true_eq_false, ↓reduceIte, lost]

/-- The outcome of a stage that the flash does not fail. -/
theorem exec_startupStageComplete_of (sound : stageCode s s.boot.stage = none) (ok : Bool) (code : BitVec 8) :
    exec (.startupStageComplete ok code) s = .next (
      if stageLimit s.boot.stage < s.nc - s.boot.since then startFails s ((stageCodes s.boot.stage).head?.getD 0)
      else if s.boot.stage = 4 ∧ !(List.range s.floor.allClus.length).all (fun c => s.boot.tested.any (fun p => p.1 == c)) then s
      else if s.boot.stage = 4 ∧ !s.boot.tested.any (fun p => p.2) then startFails s 0x30
      else if !ok ∧ s.boot.stage ≠ 4 then
        startFails s (if (stageCodes s.boot.stage).contains code then code else (stageCodes s.boot.stage).head?.getD 0)
      else if s.boot.stage < 6 then
        { stageWork s s.boot.stage with boot := { (stageWork s s.boot.stage).boot with stage := s.boot.stage + 1, since := (stageWork s s.boot.stage).nc } }
      else raise { stageWork s s.boot.stage with
        boot := ⟨1, 0, 0, (stageWork s s.boot.stage).nc, []⟩
        flash := { (stageWork s s.boot.stage).flash with fails := 0 } } 67) := by
  change execStartupStageComplete ok code s = _
  simp only [execStartupStageComplete, starts, ne_eq, not_true_eq_false, ↓reduceIte, sound]

theorem exec_startupStageTimeout_of (late : stageLimit s.boot.stage < s.nc - s.boot.since) :
    exec .startupStageTimeout s = .next (startFails s ((stageCodes s.boot.stage).head?.getD 0)) :=
  congrArg Host.Outcome.next (if_pos ⟨starts, late⟩)

end

/-! ## Messages (R409, R410) -/

/-- What is written at the start of the mailbox is read there. -/
theorem mailWrite_take (s : State) (bs : List Byte) : (mailWrite s 0 bs).host.mailReq.take bs.length = bs := by
  change (List.take 0 _ ++ bs ++ _).take bs.length = bs
  rw [List.take_zero, List.nil_append, List.take_left']
  rfl

theorem exec_mailboxRequest_status {req : List (BitVec 8)} (short : req.length ≤ 4088) (status : bfld req 0 1 = 0x01) :
    ∃ t, exec (.mailboxRequest req) s = .next t ∧
      t.host.mailReq = leBytes 1 0 ++ (leBytes 8 (identReg s).toNat ++ leBytes 8 (bootStat s).toNat) ∧ t.host.mailRsp = s.host.mailRsp := by
  refine ⟨_, congrArg Host.Outcome.next (if_pos short), ?_⟩
  simp only [serveMail, mailWrite_take, status]
  exact ⟨rfl, rfl⟩

/-- A report that is being signed goes on, or ends in its answer. -/
theorem attestStep_ends {mail : Bool} {nonce : List Byte} (signs : s.host.attest = some (mail, nonce)) (ends : (freeNow s 1).getLsbD 0 = false) :
    (attestStep s).host.attest = none ∧ (mail = false → (attestStep s).host.mailRsp = leBytes 1 0 ++ report s nonce) ∧
      (mail = true → (attestStep s).host.mailReq = leBytes 1 0 ++ report s nonce) := by
  simp only [attestStep, signs, ends, Bool.false_eq_true, ↓reduceIte]
  cases mail
  · exact ⟨rfl, fun _ => rfl, fun off => absurd off Bool.false_ne_true⟩
  · exact ⟨rfl, fun on => absurd on.symm Bool.false_ne_true, fun _ => rfl⟩

end

/-! ## The statement -/

/-- Settles O50. -/
theorem startupAndMessages : Obligations.StartupAndMessages := by
  unfold Obligations.StartupAndMessages
  intro s
  refine ⟨rfl, rfl, rfl, rfl, rfl, fun t => ⟨fun same => if_pos same, fun other => if_neg other⟩, ⟨?_, ?_, ?_, ?_, fun few => ?_, fun three => ?_⟩,
    fun starts => ?_, fun code => ⟨startFails_third code, startFails_again code⟩, rfl, fun b low => ⟨congrArg Host.Outcome.next (if_neg (Nat.not_le.mpr low)),
    congrArg Host.Outcome.next (if_neg (Nat.not_le.mpr low))⟩, fun b high => ⟨congrArg Host.Outcome.next (if_pos high),
    congrArg Host.Outcome.next (if_pos high)⟩, fun v low high => congrArg Host.Outcome.next (if_pos ⟨low, high⟩), fun v out =>
    congrArg Host.Outcome.next (if_neg ?_), fun off data => ⟨fun a => ?_, fun b => ?_⟩, rfl, fun data => rfl, fun k data => ⟨fun low high =>
    congrArg Host.Outcome.next (if_pos ⟨low, high⟩), fun out => congrArg Host.Outcome.next (if_neg ?_)⟩, fun nonce => ⟨fun long =>
    congrArg Host.Outcome.next (if_pos long), fun fits => ⟨fun none_ => ?_, fun p signs => ?_⟩⟩, fun mail nonce signs => ⟨fun goes => ?_,
    attestStep_ends signs⟩, fun req short status => exec_mailboxRequest_status short status, fun v => rfl⟩
  · exact (bootChanged_frame ..).1.trans (resetState_frame s).1
  · exact (bootChanged_frame ..).2.1.trans (resetState_frame s).2.1
  · exact (bootChanged_frame ..).2.2.2.1.trans (resetState_frame s).2.2.1
  · exact (bootChanged_frame ..).2.2.2.2.trans (resetState_frame s).2.2.2
  · exact (bootChanged_frame ..).2.2.1.trans ((resetState_boot s).trans (if_neg few))
  · exact congrArg Boot.st ((bootChanged_frame ..).2.2.1.trans ((resetState_boot s).trans (if_pos three)))
  · intro n all
    refine ⟨fun ok code c lost => exec_startupStageComplete_lost starts lost ok code, fun ok code sound late =>
      (exec_startupStageComplete_of starts sound ok code).trans (congrArg Host.Outcome.next (if_pos late)), fun sound early => ?_,
      exec_startupStageTimeout_of starts⟩
    have step := fun ok code => (exec_startupStageComplete_of starts sound ok code).trans (congrArg Host.Outcome.next (if_neg (Nat.not_lt.mpr early)))
    have tested : n ≠ 4 ∨ all → ¬_ := fun w => mt untested_iff.mp (fun ⟨four, open_⟩ => w.elim (fun other => other four) open_)
    have passed : n ≠ 4 ∨ (∃ p ∈ s.boot.tested, p.2 = true) → ¬_ := fun w => mt nonePasses_iff.mp (fun ⟨four, none_⟩ =>
      w.elim (fun other => other four) (fun ⟨p, mem, pass⟩ => Bool.false_ne_true ((none_ p mem).symm.trans pass)))
    have good : ¬((!true) = true ∧ s.boot.stage ≠ 4) := fun bad => Bool.false_ne_true bad.1
    refine ⟨fun code low other => (step true code).trans (congrArg Host.Outcome.next ?_), fun ok code four tests pass =>
      (step ok code).trans (congrArg Host.Outcome.next ?_), fun ok code four tests none_ => (step ok code).trans (congrArg Host.Outcome.next ?_),
      fun ok code four open_ => (step ok code).trans (congrArg Host.Outcome.next (if_pos (untested_iff.mpr ⟨four, open_⟩))),
      fun code other listed => (step false code).trans (congrArg Host.Outcome.next ?_), fun code six =>
      (step true code).trans (congrArg Host.Outcome.next ?_)⟩
    · rw [if_neg (tested (Or.inl other)), if_neg (passed (Or.inl other)), if_neg good, if_pos low]
    · rw [if_neg (tested (Or.inr tests)), if_neg (passed (Or.inr pass)), if_neg (fun bad => bad.2 four), if_pos (by omega), show s.boot.stage + 1 = 5 from congrArg Nat.succ four]
    · rw [if_neg (tested (Or.inr tests)), if_pos (nonePasses_iff.mpr ⟨four, none_⟩)]
    · rw [if_neg (tested (Or.inl other)), if_neg (passed (Or.inl other)), if_pos ⟨rfl, other⟩, if_pos listed]
    · have other : n ≠ 4 := by omega
      rw [if_neg (tested (Or.inl other)), if_neg (passed (Or.inl other)), if_neg good, if_neg (by omega)]
  · omega
  · exact congrArg (fun f => Host.Outcome.next (respond { s with flash := f } 0 [])) (if_neg (Bool.eq_false_iff.mp a))
  · exact congrArg (fun f => Host.Outcome.next (respond { s with flash := f } 0 [])) (if_pos b)
  · omega
  · refine congrArg Host.Outcome.next ((if_neg (not_not.mpr fits)).trans ?_)
    rw [none_]
  · refine congrArg Host.Outcome.next ((if_neg (not_not.mpr fits)).trans ?_)
    rw [signs]
  · simp only [attestStep, signs, goes, ↓reduceIte]

end Sys2Proof.Machine
end

section
/-! SUPPORT. What a control space after a reset reads; and the statements about the chapters' words and the reset. -/

namespace Sys2Proof.Machine

/- Proofs that are elaborated beside the tests' long kernel checks would wait for those on a thread, and a stack, each. -/
set_option Elab.async false

/-! ## The control space after a reset (R393) -/

/-- A reset leaves nothing placed and every register of the control space at its reset value, but for the interrupt that it raises. -/
theorem moduleReset_eq (s : State) : ∃ vectors, (moduleReset s).host = { HostRegs.reset with vectors := vectors } := by
  obtain ⟨vectors, eq⟩ := bootChanged_eq s (resetState s)
  refine ⟨vectors, ?_⟩
  rw [moduleReset, eq, resetState]
  split <;> rfl

theorem moduleReset_empty (s : State) : (moduleReset s).launches = [] ∧ (moduleReset s).bands = [] ∧ (moduleReset s).groups = [] ∧
    (moduleReset s).ctxs = [] ∧ (moduleReset s).ready = [] ∧ (moduleReset s).banks = [] := by
  obtain ⟨vectors, eq⟩ := bootChanged_eq s (resetState s)
  rw [moduleReset, eq, resetState]
  split <;> exact ⟨rfl, rfl, rfl, rfl, rfl, rfl⟩

section
variable {t : State} {off : Nat}

/-- A word of a queue's descriptor. -/
theorem controlRead_queue (low : 0x1000 ≤ off) (high : off < 0x2000) : controlRead t off =
    (nth? [(t.queue ((off - 0x1000) / 64)).base, (t.queue ((off - 0x1000) / 64)).cfg, (t.queue ((off - 0x1000) / 64)).rd,
      (t.queue ((off - 0x1000) / 64)).wr, (t.queue ((off - 0x1000) / 64)).space, (t.queue ((off - 0x1000) / 64)).toptab,
      (t.queue ((off - 0x1000) / 64)).tdir, (t.queue ((off - 0x1000) / 64)).tdlim] (off % 64 / 8)).getD 0 := by
  have readable : writeOnlyOff off = false := decide_eq_false (by omega)
  unfold controlRead
  rw [readable]
  iterate 3 rw [if_neg (fun is : off = _ => by omega)]
  rw [if_neg Bool.false_ne_true]
  iterate 2 rw [if_neg (fun is : off = _ => by omega)]
  rw [if_pos ⟨low, high⟩]

/-- What stands above the registers that have an offset each. -/
theorem controlRead_high (high : 0x4000 ≤ off) : controlRead t off =
    if 0x4000 ≤ off ∧ off < 0x4000 + 576 then tabGet (0 : W64) t.host.islCtl ((off - 0x4000) / 8)
    else if 0x4400 ≤ off ∧ off < 0x4400 + 576 then islStat t ((off - 0x4400) / 8)
    else if 0x10000 ≤ off ∧ off < 0x10000 + 32 * 63 then tabGet (0 : W64) t.host.buckets ((off - 0x10000) / 8)
    else if 0x20000 ≤ off ∧ off < 0x20000 + 32 * 0x4B1 then
      (nth? [(t.bankRead ((off - 0x20000) / 32)).status, (t.bankRead ((off - 0x20000) / 32)).addr, (t.bankRead ((off - 0x20000) / 32)).misc0,
        (t.bankRead ((off - 0x20000) / 32)).misc1] (off % 32 / 8)).getD 0
    else if 0x30000 ≤ off ∧ off < 0x30100 then
      BitVec.ofNat 64 (bitsOf (tabGet (0 : BitVec 256) t.host.meas ((off - 0x30000) / 32)).toNat (64 * (off % 32 / 8) + 63) (64 * (off % 32 / 8)))
    else if 0x31000 ≤ off ∧ off < 0x32000 then BitVec.ofNat 64 (leNat ((t.host.mailReq.drop (off - 0x31000)).take 8))
    else 0 := by
  have readable : writeOnlyOff off = false := decide_eq_false (by omega)
  unfold controlRead
  rw [readable]
  iterate 3 rw [if_neg (fun is : off = _ => by omega)]
  rw [if_neg Bool.false_ne_true]
  iterate 2 rw [if_neg (fun is : off = _ => by omega)]
  rw [if_neg (fun is : 0x1000 ≤ off ∧ off < 0x2000 => by omega)]
  iterate 7 rw [if_neg (fun is : off = _ => by omega)]

end

/-- A word of a list of zeros is zero. -/
theorem nth?_zeros {l : List W64} (zeros : ∀ x ∈ l, x = 0) (k : Nat) : (nth? l k).getD 0 = 0 := by
  rw [nth?]
  cases at_ : l[k]? with
  | none => rfl
  | some x => exact zeros x (List.mem_of_getElem? at_)

/-! ## The statements -/

/-- Settles O55. -/
theorem decodingIsRight : Obligations.DecodingIsRight := by
  unfold Obligations.DecodingIsRight
  exact ⟨rfl, rfl, rfl, rfl, rfl, rfl, rfl, rfl, rfl, rfl, rfl, rfl, rfl⟩

/-- Settles O60. -/
theorem resetStateHolds : Obligations.ResetState := by
  unfold Obligations.ResetState
  refine ⟨fun s => ?_, rfl, fun gc b r slot nlive vcount chk ia => ?_, fun gc lvl g dom place ia => ?_⟩
  · intro t
    obtain ⟨vectors, host⟩ := moduleReset_eq s
    obtain ⟨launches, bands, groups, ctxs, ready, banks⟩ := moduleReset_empty s
    refine ⟨fun few => ?_, ⟨launches, bands, groups, ctxs, ready⟩, ?_, ?_, ?_, ?_, ?_, ?_, ?_, ?_, ?_, fun q k hq hk => ?_, fun i hi => ?_,
      fun e c he hc => ?_, fun b j hb hj => ?_, fun k j hk hj => ?_, fun i hi => ?_⟩
    · have boot : t.boot = State.reset.boot := (bootChanged_frame ..).2.2.1.trans ((resetState_boot s).trans (if_neg few))
      rw [boot]
      exact ⟨rfl, rfl⟩
    · exact congrArg HostRegs.pcap host
    · exact congrArg HostRegs.aper host
    · exact congrArg HostRegs.fbBase host
    · exact congrArg HostRegs.fbCfg host
    · exact congrArg HostRegs.fbHead host
    · exact congrArg HostRegs.fbTail host
    · exact congrArg HostRegs.tlbCmd host
    · exact congrArg HostRegs.tlbVa host
    · exact congrArg HostRegs.walkInt host
    · rw [controlRead_queue (by omega) (by omega)]
      refine nth?_zeros ?_ _
      have queue : ∀ q, t.queue q = QDesc.zero := fun q => congrArg (fun h : HostRegs => tabGet QDesc.zero h.qs q) host
      simp [queue, QDesc.zero]
    · rw [controlRead_high (by omega), if_pos (by omega), host]
      rfl
    · rw [controlRead_high (by omega), if_neg (by omega), if_neg (by omega), if_pos (by omega), host]
      rfl
    · rw [controlRead_high (by omega), if_neg (by omega), if_neg (by omega), if_neg (by omega), if_pos (by omega)]
      refine nth?_zeros ?_ _
      have bank : ∀ b, t.bankRead b = Bank.zero := by
        intro b
        rw [State.bankRead, State.bank, banks]
        exact ite_self _
      simp [bank, Bank.zero]
    · rw [controlRead_high (by omega), if_neg (by omega), if_neg (by omega), if_neg (by omega), if_neg (by omega), if_pos (by omega), host]
      simp [HostRegs.reset, tabGet, tabGet?, bitsOf]
    · rw [controlRead_high (by omega), if_neg (by omega), if_neg (by omega), if_neg (by omega), if_neg (by omega), if_neg (by omega),
        if_pos (by omega), host]
      change BitVec.ofNat 64 (leNat ((List.drop _ []).take 8)) = 0
      rw [List.drop_nil, List.take_nil]
      rfl
  · refine ⟨fun k i => ⟨rfl, rfl, rfl⟩, fun p i other => ?_, rfl⟩
    rw [Group.pred, beq_false_of_ne other]
    exact BitVec.getLsbD_zero
  · refine ⟨fun r => rfl, fun p other => ?_⟩
    rw [Ctx.pred, beq_false_of_ne other]
    exact BitVec.getLsbD_zero

end Sys2Proof.Machine
end

section
/-! SUPPORT. When a turn of a unit runs the instruction that its slot holds; and the statement about a step. -/

namespace Sys2Proof.Machine

/- Proofs that are elaborated beside the tests' long kernel checks would wait for those on a thread, and a stack, each. -/
set_option Elab.async false

section
variable {s : State} {gk e : Nat} {g : Group} {ia : W64} {m : Lanes}

/-! ## A group's turn (R14, R38) -/

/-- An entry of the split table is among its entries. -/
theorem mem_entries {sp : List (Option Split)} {x : Split} (at_ : nth? sp e = some (some x)) : (e, x) ∈ entries sp := by
  refine List.mem_filterMap.mpr ⟨(some x, e), ?_, rfl⟩
  exact List.mk_mem_zipIdx_iff_getElem?.mpr at_

/-- A table without an entry gives no turn. -/
theorem turns_nil (none_ : entries g.splits = []) : turns s g = [] := by
  refine List.filter_eq_nil_iff.mpr (fun k _ => ?_)
  split
  · next x at_ =>
    have mem := mem_entries at_
    rw [none_] at mem
    exact absurd mem List.not_mem_nil
  · exact Bool.false_ne_true

/-- The first of a part of a list, or its own first, is in it. -/
theorem headD_mem {a : Nat} {l rest : List Nat} (part : ∀ x ∈ l, x ∈ rest) : l.headD a ∈ a :: rest := by
  cases l with
  | nil => exact List.mem_cons_self
  | cons x l => exact List.mem_cons_of_mem _ (part x List.mem_cons_self)

/-- An entry whose turn it is takes turns. -/
theorem turnOf_mem (turn : turnOf s g = some e) : e ∈ turns s g := by
  unfold turnOf at turn
  cases list : turns s g with
  | nil =>
    rw [list] at turn
    contradiction
  | cons a rest =>
    rw [list] at turn
    dsimp only at turn
    split at turn
    · next waits =>
      obtain ⟨q, pair, rfl⟩ := Option.map_eq_some_iff.mp turn
      rw [pair] at waits
      exact List.contains_iff_mem.mp (Bool.and_eq_true_iff.mp waits).2
    · split at turn
      · cases turn
        exact List.mem_cons_self
      · have first : rest.headD a ∈ a :: rest := headD_mem (fun _ mem => mem)
        split at turn
        · next b f _ =>
          have next_ : (rest.dropWhile (· != f)).tail.headD a ∈ a :: rest :=
            headD_mem (fun _ mem => (List.dropWhile_sublist _).subset (List.mem_of_mem_tail mem))
          split at turn <;> cases turn
          · exact next_
          · exact first
        · cases turn
          exact first

theorem GroupIssues.may (w : GroupIssues s gk e g ia m) : grpMay s g = true := by
  obtain ⟨stop, clone, pend, halted, ended⟩ := w.runs
  simp only [grpMay, stop, clone, pend, halted, ended, w.band, w.above, beq_self_eq_true, Option.isNone_none, Bool.not_false, Bool.and_self]

/-- A group that issues runs at its slot. -/
theorem GroupIssues.slot (w : GroupIssues s gk e g ia m) : entrySlot s gk e g = grpSlot s gk e g ia m := by
  have started : ¬(g.handler.isNone = true ∧ (!grpTop (s.lrec g.gc)) = true ∧ segIdle s (.grp gk) = true) := by
    rintro ⟨free, below, idle⟩
    obtain top | busy := (w.segment (Option.isNone_iff_eq_none.mp free)).1
    · rw [top] at below
      contradiction
    · exact Bool.false_ne_true (busy.symm.trans idle)
  have inside : ¬(g.handler.isNone = true ∧ pastStop s (.grp gk) = true) := by
    rintro ⟨free, past⟩
    exact Bool.false_ne_true ((w.segment (Option.isNone_iff_eq_none.mp free)).2.symm.trans past)
  unfold entrySlot
  rw [w.may, if_neg (by decide), if_neg started, if_neg inside]
  obtain ⟨x, at_, turn, rfl, rfl⟩ | ⟨none_, free, rfl, rfl⟩ := w.place
  · have takes : (turns s g).contains e = true := List.contains_iff_mem.mpr (turnOf_mem turn)
    split
    · next none_ =>
      have mem := mem_entries at_
      rw [none_] at mem
      exact absurd mem List.not_mem_nil
    · rw [at_]
      exact if_pos takes
  · rw [none_, free, Option.isSome_none, if_neg Bool.false_ne_true]

/-- Its turn is not passed on where the slot does something. -/
theorem GroupIssues.prep (w : GroupIssues s gk e g ia m) {p : Prep} (slot : grpSlot s gk e g ia m = p) (acts : p ≠ .idle) :
    prepGrp s gk e = p := by
  have mine : ¬(turns s g ≠ [] ∧ turnOf s g ≠ some e) := by
    rintro ⟨some_, other⟩
    obtain ⟨x, at_, turn, rfl, rfl⟩ | ⟨none_, free, rfl, rfl⟩ := w.place
    · exact other turn
    · exact some_ (turns_nil none_)
  cases p with
  | idle => exact absurd rfl acts
  | moved t => simp only [prepGrp, w.grp, if_neg mine, w.slot, slot]
  | run i t => simp only [prepGrp, w.grp, if_neg mine, w.slot, slot]

variable {l : BitVec 512} {t : State} (fetched : fetchLine s (placeOf s (.grp gk)) g.gc ia = (.ok l, t))
include fetched

/-- A slot of level 0 whose instruction R69 admits runs in its lanes. -/
theorem grpSlot_lanes {i : Instr} (lev : levOf (slotOf l (iaSlot ia)) = 0) (some_ : m ≠ 0)
    (decoded : decodeFor (s.lrec g.gc) (slotOf l (iaSlot ia)) = .ok i)
    (sound : strikes t (.grp gk) i (guardLanes g (Decode.wHdr (slotOf l (iaSlot ia))) m) = none)
    (free : (awaitsReplay g.chk (slotOf l (iaSlot ia)) && hasReplay t gk) = false) :
    grpSlot s gk e g ia m = .run i (withCur (tookTurn t gk e) (.grp gk) e ia (slotOf l (iaSlot ia))) := by
  simp only [grpSlot, fetched, lev, Nat.not_lt_zero, ↓reduceIte, decide_true, Bool.true_or, Bool.not_true, Bool.false_eq_true, some_, and_false,
    ne_eq, not_true_eq_false, false_and, decoded, sound, free]

/-- A slot of level 0 that R69 rejects raises its code. -/
theorem grpSlot_error {code : Nat} (lev : levOf (slotOf l (iaSlot ia)) = 0) (some_ : m ≠ 0)
    (decoded : decodeFor (s.lrec g.gc) (slotOf l (iaSlot ia)) = .error code) :
    grpSlot s gk e g ia m = .moved (takeFault t (.grp gk) e
      { FaultReq.mk0 code 0 with lanes := guardLanes g (Decode.wHdr (slotOf l (iaSlot ia))) m } ia (slotOf l (iaSlot ia)) 0) := by
  simp only [grpSlot, fetched, lev, Nat.not_lt_zero, ↓reduceIte, decide_true, Bool.true_or, Bool.not_true, Bool.false_eq_true, some_, and_false,
    ne_eq, not_true_eq_false, false_and, decoded, grpFault]

/-- A slot of the group-domain level runs at the group's context. -/
theorem grpSlot_ctx {i : Instr} (lev : levOf (slotOf l (iaSlot ia)) ≠ 0) (own : (s.lrec g.gc).grpLev = some (levOf (slotOf l (iaSlot ia))))
    (top : levOf (slotOf l (iaSlot ia)) ≤ (s.lrec g.gc).top) (single : g.single = true)
    (decoded : decodeFor (s.lrec g.gc) (slotOf l (iaSlot ia)) = .ok i)
    (sound : strikes t (.ctx (grpAnc t g 1)) i (guardLanes g (Decode.wHdr (slotOf l (iaSlot ia))) m) = none)
    (free : (awaitsReplay g.chk (slotOf l (iaSlot ia)) && hasReplay t gk) = false) :
    grpSlot s gk e g ia m = .run i (withCur (tookTurn t gk e) (.grp gk) e ia (slotOf l (iaSlot ia))) := by
  simp only [grpSlot, fetched, if_neg (Nat.not_lt.mpr top), own, beq_self_eq_true, Bool.or_true, Bool.not_true, Bool.false_eq_true, ↓reduceIte,
    lev, false_and, single, and_false, decoded, sound, free]

end

/-! ## A context's turn (R22, R23, R30) -/

/-- A context that issues is at its slot where the slot is of its own level. -/
theorem ContextIssues.prep {s : State} {ck : Nat} {c : Ctx} (w : ContextIssues s ck c) {l : BitVec 512} {t : State}
    (fetched : fetchLine s (placeOf s (.ctx ck)) c.gc c.ia = (.ok l, t)) (lev : levOf (slotOf l (iaSlot c.ia)) = c.lvl) :
    prepCtx s ck = ctxSlot t ck c (slotOf l (iaSlot c.ia)) := by
  have started : ¬(c.lvl ≠ (s.lrec c.gc).top ∧ segIdle s (.ctx ck) = true) := fun ⟨below, idle⟩ =>
    w.segment.elim below (fun busy => Bool.false_ne_true (busy.1.symm.trans idle))
  have inside : ¬(c.lvl ≠ (s.lrec c.gc).top ∧ pastStop s (.ctx ck) = true) := fun ⟨below, past⟩ =>
    w.segment.elim below (fun busy => Bool.false_ne_true (busy.2.symm.trans past))
  simp only [prepCtx, w.ctx, w.runs, Bool.not_true, Bool.false_eq_true, ↓reduceIte, if_neg started, if_neg inside, fetched, lev]

/-- A context's slot runs once what is below it has run. -/
theorem ctxSlot_of {t : State} {ck : Nat} {c : Ctx} {w : Insn} {i : Instr} (decoded : decodeFor (t.lrec c.gc) w = .ok i)
    (sound : strikes t (.ctx ck) i 0 = none) (emitted : (endsSegment i && c.lower) = false)
    (retired : guardCtx c (Decode.wHdr w) = true → sideEffect i = true → c.trail = [])
    (reported : (if guardCtx c (Decode.wHdr w) then repOf i c.lvl c.ia w else none) ≠ none →
      c.asked = true ∧ allReported t c = true ∧ c.trail = []) :
    ctxSlot t ck c w = .run i (withCur t (.ctx ck) 0 c.ia w) := by
  simp only [ctxSlot, decoded, sound, emitted, Bool.false_eq_true, ↓reduceIte]
  split
  · next q is =>
    obtain ⟨asked, all, trail⟩ := reported (by rw [is]; exact Option.some_ne_none q)
    simp only [asked, all, trail, Bool.not_true, Bool.false_eq_true, List.isEmpty_nil, ↓reduceIte]
  · refine if_neg (fun waits => ?_)
    obtain ⟨acts, open_⟩ := Bool.and_eq_true_iff.mp waits
    obtain ⟨on, side⟩ := Bool.and_eq_true_iff.mp acts
    rw [retired on side] at open_
    contradiction

/-! ## The statement -/

section
variable {s0 : State}

theorem step_grp_run {gk e : Nat} (turn : pickTurn s0 = .issue (.grp gk) e) {i : Instr} {t : State}
    (prep_ : prepGrp (softHits (begin1 s0) (bankOfPlace (begin1 s0) (placeOf (begin1 s0) (.grp gk)))) gk e = .run i t) :
    step s0 = thenPair t (exec i t) := by
  rw [step, turn]
  simp only [runTurn, prep, prep_]

theorem step_grp_moved {gk e : Nat} (turn : pickTurn s0 = .issue (.grp gk) e) {t : State}
    (prep_ : prepGrp (softHits (begin1 s0) (bankOfPlace (begin1 s0) (placeOf (begin1 s0) (.grp gk)))) gk e = .moved t) :
    step s0 = .next t := by
  rw [step, turn]
  simp only [runTurn, prep, prep_]

theorem step_ctx {ck e : Nat} (turn : pickTurn s0 = .issue (.ctx ck) e) {s : State}
    (seen : softHits (begin1 s0) (bankOfPlace (begin1 s0) (placeOf (begin1 s0) (.ctx ck))) = s) {c : Ctx} (ctx : s.ctx? ck = some c)
    (dom : c.dom ≠ domGroup) {i : Instr} {ia : W64} {w : Insn} {t : State} (prep_ : prepCtx s ck = .run i (withCur t (.ctx ck) 0 ia w)) :
    step s0 = exec i (withCur t (.ctx ck) 0 ia w) := by
  have turn_ : prep (begin1 s0) (.ctx ck) e = .run i (withCur t (.ctx ck) 0 ia w) := by
    simp only [prep, seen, ctx, if_neg dom, prep_]
  rw [step, turn]
  simp only [runTurn, turn_]
  rfl

end

/-- Settles O57. -/
theorem stepRunsDecodedInstruction : Obligations.StepRunsDecodedInstruction := by
  unfold Obligations.StepRunsDecodedInstruction
  intro s0 seen
  refine ⟨fun gk e g ia m l t i => ?_, fun ck e c l t i => ?_, fun i turn event => ?_⟩
  · intro s turn issues fetched w r act u runs
    refine ⟨fun lev some_ decoded sound free => ?_, fun lev own top single decoded sound free => ?_, fun code lev some_ decoded => ?_⟩
    · exact step_grp_run turn (issues.prep (grpSlot_lanes fetched lev some_ decoded sound free) Prep.noConfusion)
    · exact step_grp_run turn (issues.prep (grpSlot_ctx fetched lev own top single decoded sound free) Prep.noConfusion)
    · exact step_grp_moved turn (issues.prep (grpSlot_error fetched lev some_ decoded) Prep.noConfusion)
  · intro s turn issues fetched w on q lev decoded sound emitted retired reported
    exact step_ctx turn rfl issues.ctx issues.dom ((issues.prep fetched lev).trans (ctxSlot_of decoded sound emitted retired reported))
  · rw [step, turn]
    exact if_pos (Option.isNone_iff_eq_none.mpr event)

end Sys2Proof.Machine
end
